-- ==== Sys2Proof/Word.lean ====
section
/-! DEFINITION. The word types of the machine and the sparse tables its state is made of. -/

namespace Sys2Proof

/-- A 64-bit register or address value (02_words R70). -/
abbrev Word := BitVec 64

/-- One byte of memory (00_scope R4). -/
abbrev Byte := BitVec 8

/-- A sparse table: entries by key, keys strictly rising.  A key that is not listed reads as the
default the reader names. -/
abbrev Table (α : Type) := List (Nat × α)

end Sys2Proof
end

