-- ==== Sys2Proof/Config.lean ====
section
/-! DEFINITION. What one package fixes and what the spec leaves open: opaque constants, so that no
proof can see their values, and the few figures the model names. -/

namespace Sys2Proof.Config

/-- The free values: whatever the spec leaves open, drawn one at a time by the counter
`State.freeCtr` (log 8). -/
opaque freeValue : Nat → BitVec 64

/-- The 128-bit device identifier in the fuses (17_service R430). -/
opaque deviceId : BitVec 128

/-- The fused security version, 0 to 64 (R430). -/
opaque securityVersion : BitVec 64

/-- The 32 bytes of the SHAKE256 digest of the boot ROM's contents (R432 code 16), as one value. -/
opaque romDigest : BitVec 256

/-- The 32 bytes of the SHAKE256 digest of the firmware image (R432 code 17): of the image in the flash as delivered
with the bytes staged since over it, each by its offset. -/
opaque imageDigest : List (Nat × Byte) → BitVec 256

/-- Whether that image passes step 2 of R420: a version high enough and a signature that verifies.  SLH-DSA itself
(FIPS 205) is not given by the spec (log 20). -/
opaque imageAccepted : List (Nat × Byte) → Bool

/-- One byte of the SLH-DSA-SHAKE-256s signature of a quote's first 640 bytes (R433; log 20). -/
opaque quoteSignature : List Byte → Nat → Byte

/-- Whether a debug-unlock token's signature verifies under the fused key (R436; log 20). -/
opaque tokenSignatureValid : List Byte → Bool

/-- Which set of its class's open channels, m of R343, the packets from one unit to another take, read modulo 2; and how many packets
a channel's buffer holds beyond one (13_fabric R343 gives every channel buffers and credits, and no count; log 87). -/
opaque channelSet : Nat → Nat → Nat
opaque channelDepth : Nat

/-- How many 16-byte blocks, 1 to 4, a line's compressed form needs (12_sagger R324: the
compression itself is not given; log 19).  Read modulo 4 and raised by 1. -/
opaque compressedBlocks : List Byte → Nat

end Sys2Proof.Config
end

