-- ==== Sys2Proof/Syntax.lean ====
section
/-! DEFINITION. The syntax of the machine: one constructor for every row of the opcode table.  The
289 encoded rows are instruction words (02_words R53, R48); their arguments are the fields the table names,
each at its own width, in ascending bit order.  The other 96 rows are steps of the engines (95_what_each_step_holds):
their arguments say which unit acts. -/

namespace Sys2Proof

/-- The instructions and engine steps of the opcode table. -/
inductive Instr where
  /-- ADD (R122): Writes the 64-bit wrapped sum of two g registers to rd. -/
  | add (rd : BitVec 6) (rs1 : BitVec 6) (rs2 : BitVec 6)
  /-- SUB (R122): Writes the 64-bit wrapped difference of two g registers to rd. -/
  | sub (rd : BitVec 6) (rs1 : BitVec 6) (rs2 : BitVec 6)
  /-- MUL (R122): Writes the low 64 bits of the product of two g registers to rd. -/
  | mul (rd : BitVec 6) (rs1 : BitVec 6) (rs2 : BitVec 6)
  /-- MULH (R122): Writes the high 64 bits of the signed product to rd. -/
  | mulh (rd : BitVec 6) (rs1 : BitVec 6) (rs2 : BitVec 6)
  /-- MULHU (R122): Writes the high 64 bits of the unsigned product to rd. -/
  | mulhu (rd : BitVec 6) (rs1 : BitVec 6) (rs2 : BitVec 6)
  /-- DIV (R122): Writes the signed quotient, truncated toward zero, with fixed results for division by zero and overflow. -/
  | div (rd : BitVec 6) (rs1 : BitVec 6) (rs2 : BitVec 6)
  /-- DIVU (R122): Writes the unsigned quotient, or all ones for division by zero. -/
  | divu (rd : BitVec 6) (rs1 : BitVec 6) (rs2 : BitVec 6)
  /-- REM (R122): Writes the signed remainder, with fixed results for division by zero and overflow. -/
  | rem (rd : BitVec 6) (rs1 : BitVec 6) (rs2 : BitVec 6)
  /-- REMU (R122): Writes the unsigned remainder, or a when b is zero. -/
  | remu (rd : BitVec 6) (rs1 : BitVec 6) (rs2 : BitVec 6)
  /-- AND (R122): Writes the bitwise AND of two g registers. -/
  | and (rd : BitVec 6) (rs1 : BitVec 6) (rs2 : BitVec 6)
  /-- OR (R122): Writes the bitwise OR of two g registers. -/
  | or (rd : BitVec 6) (rs1 : BitVec 6) (rs2 : BitVec 6)
  /-- XOR (R122): Writes the bitwise XOR of two g registers. -/
  | xor (rd : BitVec 6) (rs1 : BitVec 6) (rs2 : BitVec 6)
  /-- ANDN (R122): Writes a AND NOT b. -/
  | andn (rd : BitVec 6) (rs1 : BitVec 6) (rs2 : BitVec 6)
  /-- SHL (R122): Shifts a left by b[5:0]. -/
  | shl (rd : BitVec 6) (rs1 : BitVec 6) (rs2 : BitVec 6)
  /-- SHR (R122): Shifts a right logically by b[5:0]. -/
  | shr (rd : BitVec 6) (rs1 : BitVec 6) (rs2 : BitVec 6)
  /-- SHA (R122): Shifts a right arithmetically by b[5:0]. -/
  | sha (rd : BitVec 6) (rs1 : BitVec 6) (rs2 : BitVec 6)
  /-- ROT (R122): Rotates a right by b[5:0]. -/
  | rot (rd : BitVec 6) (rs1 : BitVec 6) (rs2 : BitVec 6)
  /-- SLT (R122): Writes 1 when a is less than b as signed values, otherwise 0. -/
  | slt (rd : BitVec 6) (rs1 : BitVec 6) (rs2 : BitVec 6)
  /-- SLTU (R122): Writes 1 when a is less than b as unsigned values, otherwise 0. -/
  | sltu (rd : BitVec 6) (rs1 : BitVec 6) (rs2 : BitVec 6)
  /-- MIN (R122): Writes the signed minimum. -/
  | min (rd : BitVec 6) (rs1 : BitVec 6) (rs2 : BitVec 6)
  /-- MAX (R122): Writes the signed maximum. -/
  | max (rd : BitVec 6) (rs1 : BitVec 6) (rs2 : BitVec 6)
  /-- MINU (R122): Writes the unsigned minimum. -/
  | minu (rd : BitVec 6) (rs1 : BitVec 6) (rs2 : BitVec 6)
  /-- MAXU (R122): Writes the unsigned maximum. -/
  | maxu (rd : BitVec 6) (rs1 : BitVec 6) (rs2 : BitVec 6)
  /-- CLZ (R122): Writes the count of leading zero bits of a. -/
  | clz (rd : BitVec 6) (rs1 : BitVec 6)
  /-- CTZ (R122): Writes the count of trailing zero bits of a. -/
  | ctz (rd : BitVec 6) (rs1 : BitVec 6)
  /-- POPC (R122): Writes the number of 1 bits of a. -/
  | popc (rd : BitVec 6) (rs1 : BitVec 6)
  /-- SEXT (R122): Replaces every bit of a above bit b[5:0] with that bit. -/
  | sext (rd : BitVec 6) (rs1 : BitVec 6) (rs2 : BitVec 6)
  /-- ZEXT (R122): Clears every bit of a above bit b[5:0]. -/
  | zext (rd : BitVec 6) (rs1 : BitVec 6) (rs2 : BitVec 6)
  /-- ADDI (R123): Adds a sign-extended 12-bit immediate to a g register. -/
  | addi (rd : BitVec 6) (rs1 : BitVec 6) (imm : BitVec 12)
  /-- ANDI (R123): ANDs a g register with a zero-extended immediate. -/
  | andi (rd : BitVec 6) (rs1 : BitVec 6) (imm : BitVec 12)
  /-- ORI (R123): ORs a g register with a zero-extended immediate. -/
  | ori (rd : BitVec 6) (rs1 : BitVec 6) (imm : BitVec 12)
  /-- XORI (R123): XORs a g register with a zero-extended immediate. -/
  | xori (rd : BitVec 6) (rs1 : BitVec 6) (imm : BitVec 12)
  /-- SHLI (R123): Shifts a g register left by an immediate amount. -/
  | shli (rd : BitVec 6) (rs1 : BitVec 6) (amt : BitVec 6)
  /-- SHRI (R123): Shifts a g register right logically by an immediate amount. -/
  | shri (rd : BitVec 6) (rs1 : BitVec 6) (amt : BitVec 6)
  /-- SHAI (R123): Shifts a g register right arithmetically by an immediate amount. -/
  | shai (rd : BitVec 6) (rs1 : BitVec 6) (amt : BitVec 6)
  /-- SLTI (R123): Compares a g register with a signed immediate as signed values. -/
  | slti (rd : BitVec 6) (rs1 : BitVec 6) (imm : BitVec 12)
  /-- SLTIU (R123): Compares a g register with a sign-extended immediate as unsigned values. -/
  | sltiu (rd : BitVec 6) (rs1 : BitVec 6) (imm : BitVec 12)
  /-- LIH (R46): Writes the sign-extended 18-bit immediate shifted left by 14 to rd. -/
  | lih (rd : BitVec 6) (imm : BitVec 18)
  /-- LOXI (R50): Loads an ox register with a sign-extended 18-bit immediate. -/
  | loxi (num : BitVec 3) (imm : BitVec 18)
  /-- LOXI_SH (R50): Shifts an ox register left by 18 and appends an 18-bit immediate. -/
  | loxiSh (num : BitVec 3) (imm : BitVec 18)
  /-- LOX (R50): Copies a g register into an ox register. -/
  | lox (num : BitVec 3) (rs1 : BitVec 6)
  /-- MOVOX (R50): Copies one ox register into another. -/
  | movox (num : BitVec 3) (src : BitVec 3)
  /-- FADD (R124): Adds two scalar floating values in g registers, rounding by ctl.frm. -/
  | fadd (rd : BitVec 6) (rs1 : BitVec 6) (rs2 : BitVec 6) (ty : BitVec 2)
  /-- FSUB (R124): Subtracts two scalar floating values. -/
  | fsub (rd : BitVec 6) (rs1 : BitVec 6) (rs2 : BitVec 6) (ty : BitVec 2)
  /-- FMUL (R124): Multiplies two scalar floating values. -/
  | fmul (rd : BitVec 6) (rs1 : BitVec 6) (rs2 : BitVec 6) (ty : BitVec 2)
  /-- FDIV (R124): Divides two scalar floating values. -/
  | fdiv (rd : BitVec 6) (rs1 : BitVec 6) (rs2 : BitVec 6) (ty : BitVec 2)
  /-- FSQRT (R124): Takes the square root of a scalar floating value. -/
  | fsqrt (rd : BitVec 6) (rs1 : BitVec 6) (ty : BitVec 2)
  /-- FMIN (R124): Writes minimumNumber of two scalar floating values. -/
  | fmin (rd : BitVec 6) (rs1 : BitVec 6) (rs2 : BitVec 6) (ty : BitVec 2)
  /-- FMAX (R124): Writes maximumNumber of two scalar floating values. -/
  | fmax (rd : BitVec 6) (rs1 : BitVec 6) (rs2 : BitVec 6) (ty : BitVec 2)
  /-- FCMP (R124): Writes a one-hot comparison code of two scalar floating values. -/
  | fcmp (rd : BitVec 6) (rs1 : BitVec 6) (rs2 : BitVec 6) (ty : BitVec 2)
  /-- FCLASS (R124): Writes a one-hot classification of a scalar floating value. -/
  | fclass (rd : BitVec 6) (rs1 : BitVec 6) (ty : BitVec 2)
  /-- FFMA (R124): Computes x times y plus z with one rounding. -/
  | ffma (rd : BitVec 6) (rs1 : BitVec 6) (rs2 : BitVec 6) (rs3 : BitVec 4) (ty : BitVec 2)
  /-- FCVT (R124): Converts a scalar between floating and integer types under a rounding code. -/
  | fcvt (rd : BitVec 6) (rs1 : BitVec 6) (rm : BitVec 6) (src : BitVec 3) (dst : BitVec 3)
  /-- LDB (R125): Loads a byte and sign-extends it. -/
  | ldb (rd : BitVec 6) (rs1 : BitVec 6) (imm : BitVec 12)
  /-- LDBU (R125): Loads a byte and zero-extends it. -/
  | ldbu (rd : BitVec 6) (rs1 : BitVec 6) (imm : BitVec 12)
  /-- LDH (R125): Loads a halfword and sign-extends it. -/
  | ldh (rd : BitVec 6) (rs1 : BitVec 6) (imm : BitVec 12)
  /-- LDHU (R125): Loads a halfword and zero-extends it. -/
  | ldhu (rd : BitVec 6) (rs1 : BitVec 6) (imm : BitVec 12)
  /-- LDW (R125): Loads a word and sign-extends it. -/
  | ldw (rd : BitVec 6) (rs1 : BitVec 6) (imm : BitVec 12)
  /-- LDWU (R125): Loads a word and zero-extends it. -/
  | ldwu (rd : BitVec 6) (rs1 : BitVec 6) (imm : BitVec 12)
  /-- LDD (R125): Loads a doubleword. -/
  | ldd (rd : BitVec 6) (rs1 : BitVec 6) (imm : BitVec 12)
  /-- STB (R125): Stores the low byte of a g register. -/
  | stb (immLo : BitVec 6) (rs1 : BitVec 6) (rs2 : BitVec 6) (immHi : BitVec 6)
  /-- STH (R125): Stores the low halfword of a g register. -/
  | sth (immLo : BitVec 6) (rs1 : BitVec 6) (rs2 : BitVec 6) (immHi : BitVec 6)
  /-- STW (R125): Stores the low word of a g register. -/
  | stw (immLo : BitVec 6) (rs1 : BitVec 6) (rs2 : BitVec 6) (immHi : BitVec 6)
  /-- STD (R125): Stores a g register as a doubleword. -/
  | std (immLo : BitVec 6) (rs1 : BitVec 6) (rs2 : BitVec 6) (immHi : BitVec 6)
  /-- LDFE (R274): Waits at the owner until the word is full, reads it and sets it empty. -/
  | ldfe (rd : BitVec 6) (rs1 : BitVec 6)
  /-- LDFF (R274): Waits at the owner until the word is full and reads it, leaving it full. -/
  | ldff (rd : BitVec 6) (rs1 : BitVec 6)
  /-- STFE (R274): Waits at the owner until the word is empty, writes it and sets it full. -/
  | stfe (rs1 : BitVec 6) (rs2 : BitVec 6)
  /-- STFF (R274): Writes the word and sets it full without waiting. -/
  | stff (rs1 : BitVec 6) (rs2 : BitVec 6)
  /-- RSV (R281): Requests a reservation on a translated word, waits for its grant, returns the held value and acquires a region. -/
  | rsv (rd : BitVec 6) (rs1 : BitVec 6) (rs2 : BitVec 6) (scope : BitVec 2)
  /-- RLS (R283): Releases a region and hands the held word to its home slice and the next queued core. -/
  | rls (rs1 : BitVec 6) (rs2 : BitVec 6) (scope : BitVec 2)
  /-- AADD (R286): Atomically adds to a 32- or 64-bit word and returns the old value. -/
  | aadd (rd : BitVec 6) (rs1 : BitVec 6) (rs2 : BitVec 6) (wide : BitVec 1) (scope : BitVec 2)
  /-- ASWP (R286): Atomically swaps a word and returns the old value. -/
  | aswp (rd : BitVec 6) (rs1 : BitVec 6) (rs2 : BitVec 6) (wide : BitVec 1) (scope : BitVec 2)
  /-- ACAS (R286): Atomically compares a word with rd and swaps in the operand on equality. -/
  | acas (rd : BitVec 6) (rs1 : BitVec 6) (rs2 : BitVec 6) (wide : BitVec 1) (scope : BitVec 2)
  /-- AMIN_SIGNED (R286): Atomically stores the signed minimum and returns the old value. -/
  | aminSigned (rd : BitVec 6) (rs1 : BitVec 6) (rs2 : BitVec 6) (wide : BitVec 1) (scope : BitVec 2)
  /-- AMAX_SIGNED (R286): Atomically stores the signed maximum and returns the old value. -/
  | amaxSigned (rd : BitVec 6) (rs1 : BitVec 6) (rs2 : BitVec 6) (wide : BitVec 1) (scope : BitVec 2)
  /-- AMIN_UNSIGNED (R286): Atomically stores the unsigned minimum and returns the old value. -/
  | aminUnsigned (rd : BitVec 6) (rs1 : BitVec 6) (rs2 : BitVec 6) (wide : BitVec 1) (scope : BitVec 2)
  /-- AMAX_UNSIGNED (R286): Atomically stores the unsigned maximum and returns the old value. -/
  | amaxUnsigned (rd : BitVec 6) (rs1 : BitVec 6) (rs2 : BitVec 6) (wide : BitVec 1) (scope : BitVec 2)
  /-- BEQ (R126): Branches when a equals b. -/
  | beq (immLo : BitVec 6) (rs1 : BitVec 6) (rs2 : BitVec 6) (immHi : BitVec 6)
  /-- BNE (R126): Branches when a differs from b. -/
  | bne (immLo : BitVec 6) (rs1 : BitVec 6) (rs2 : BitVec 6) (immHi : BitVec 6)
  /-- BLT (R126): Branches when a is less than b as signed values. -/
  | blt (immLo : BitVec 6) (rs1 : BitVec 6) (rs2 : BitVec 6) (immHi : BitVec 6)
  /-- BGE (R126): Branches when a is at least b as signed values. -/
  | bge (immLo : BitVec 6) (rs1 : BitVec 6) (rs2 : BitVec 6) (immHi : BitVec 6)
  /-- BLTU (R126): Branches when a is less than b as unsigned values. -/
  | bltu (immLo : BitVec 6) (rs1 : BitVec 6) (rs2 : BitVec 6) (immHi : BitVec 6)
  /-- BGEU (R126): Branches when a is at least b as unsigned values. -/
  | bgeu (immLo : BitVec 6) (rs1 : BitVec 6) (rs2 : BitVec 6) (immHi : BitVec 6)
  /-- JAL (R126): Jumps by an 18-bit halfword displacement and links pc + 4. -/
  | jal (rd : BitVec 6) (imm : BitVec 18)
  /-- JALR (R126): Jumps to a register plus immediate with bit 0 cleared and links pc + 4. -/
  | jalr (rd : BitVec 6) (rs1 : BitVec 6) (imm : BitVec 12)
  /-- SVC (R127): Traps SVCALL with the operand as tval, resuming after it. -/
  | svc (rs1 : BitVec 6)
  /-- BRK (R127): Traps BREAK, or stops the strand when break capture is armed. -/
  | brk (rs1 : BitVec 6)
  /-- RETT (R128): Returns from a trap handler, restoring mode and interrupt enable and returning the hold buffer. -/
  | rett
  /-- WAITI (R127): Waits for an enabled pending interrupt, returning the strand's lanes for the wait. -/
  | waiti
  /-- HALT (R127): Waits for the vector queue and enters HALTED. -/
  | halt
  /-- IPI (R129): Sets an IPI pending bit at a strand of the issuer's tenant. -/
  | ipi (rs1 : BitVec 6) (rs2 : BitVec 6)
  /-- CTLR (R130): Reads a control register into rd. -/
  | ctlr (rd : BitVec 6) (reg : BitVec 10)
  /-- CTLW (R130): Writes a control register and returns its old value. -/
  | ctlw (rd : BitVec 6) (rs1 : BitVec 6) (reg : BitVec 10)
  /-- CTLSET (R130): Sets bits of a control register and returns its old value. -/
  | ctlset (rd : BitVec 6) (rs1 : BitVec 6) (reg : BitVec 10)
  /-- CTLCLR (R130): Clears bits of a control register and returns its old value. -/
  | ctlclr (rd : BitVec 6) (rs1 : BitVec 6) (reg : BitVec 10)
  /-- CTXSAVE (R132): Holds a sibling strand, writes its context to a save area and leaves it FREE, or stops on a save fault. -/
  | ctxsave (rd : BitVec 6) (rs1 : BitVec 6) (rs2 : BitVec 6)
  /-- CTXLOAD (R132): Loads a saved context into a FREE sibling slot and starts it in RUN. -/
  | ctxload (rd : BitVec 6) (rs1 : BitVec 6) (rs2 : BitVec 6)
  /-- AMSEND (R137): Sends a 64-byte active message to a core's message strand. -/
  | amsend (c : BitVec 5) (b : BitVec 5) (oxb : BitVec 3)
  /-- AMRET (R137): Ends the running message handler and counts it as handled. -/
  | amret
  /-- FENCE_I (R131): Waits for the strand's stores to be accepted and discards its replay buffer and the L1 instruction cache. -/
  | fenceI
  /-- FENCE_SV (R188): Orders earlier scalar stores before later vector memory entries. -/
  | fenceSv
  /-- FENCE_VS (R188): Orders earlier vector memory accesses before later scalar instructions. -/
  | fenceVs
  /-- FENCE_VV (R188): Orders earlier vector memory accesses before later vector memory entries. -/
  | fenceVv
  /-- FENCE_A (R312): Writes dirty L1 bytes to the cluster cache and invalidates multiply-tagged lines, ordering accesses across aliases. -/
  | fenceA
  /-- ACQ (R311): Drains the revocation queue and self-invalidates the region's stale copies at a scope. -/
  | acq (scope : BitVec 2) (region : BitVec 12)
  /-- REL (R311): Registers the core's dirty words of a region at the scope's point. -/
  | rel (scope : BitVec 2) (region : BitVec 12)
  /-- SCLD (R313): Performs a sequentially consistent load at the home slice. -/
  | scld (rd : BitVec 6) (rs1 : BitVec 6)
  /-- SCST (R313): Performs a sequentially consistent store at the home slice. -/
  | scst (rs1 : BitVec 6) (rs2 : BitVec 6)
  /-- SCSWP (R313): Performs a sequentially consistent swap at the home slice. -/
  | scswp (rd : BitVec 6) (rs1 : BitVec 6) (rs2 : BitVec 6)
  /-- FLUSHR (R311): Releases a region and also registers the cluster's dirty cluster-cache words of it at their homes. -/
  | flushr (scope : BitVec 2) (region : BitVec 12)
  /-- SETVL (R148): Sets the element format, requests lane clusters and sets ctl.vl, stepping the strip. -/
  | setvl (rd : BitVec 6) (rs1 : BitVec 6) (efmt : BitVec 8)
  /-- SETMVL (R148): Takes whole lane clusters for the matrix unit and sets ctl.mvl. -/
  | setmvl (rd : BitVec 6) (rs1 : BitVec 6) (efmt : BitVec 8)
  /-- VADD_IVV (R157): Adds two integer vectors element-wise. -/
  | vaddIvv (vd : BitVec 5) (vs1 : BitVec 5) (vs2 : BitVec 5) (km : BitVec 4) (uns : BitVec 1)
  /-- VSUB_IVV (R157): Subtracts two integer vectors element-wise. -/
  | vsubIvv (vd : BitVec 5) (vs1 : BitVec 5) (vs2 : BitVec 5) (km : BitVec 4) (uns : BitVec 1)
  /-- VMUL_IVV (R157): Multiplies two integer vectors, keeping the low bits. -/
  | vmulIvv (vd : BitVec 5) (vs1 : BitVec 5) (vs2 : BitVec 5) (km : BitVec 4) (uns : BitVec 1)
  /-- VMULH (R157): Multiplies two integer vectors, keeping the high bits. -/
  | vmulh (vd : BitVec 5) (vs1 : BitVec 5) (vs2 : BitVec 5) (km : BitVec 4) (uns : BitVec 1)
  /-- VDIV_IVV (R157): Divides two integer vectors element-wise. -/
  | vdivIvv (vd : BitVec 5) (vs1 : BitVec 5) (vs2 : BitVec 5) (km : BitVec 4) (uns : BitVec 1)
  /-- VMIN_IVV (R157): Takes the element-wise integer minimum. -/
  | vminIvv (vd : BitVec 5) (vs1 : BitVec 5) (vs2 : BitVec 5) (km : BitVec 4) (uns : BitVec 1)
  /-- VMAX_IVV (R157): Takes the element-wise integer maximum. -/
  | vmaxIvv (vd : BitVec 5) (vs1 : BitVec 5) (vs2 : BitVec 5) (km : BitVec 4) (uns : BitVec 1)
  /-- VAND_IVV (R157): ANDs two integer vectors. -/
  | vandIvv (vd : BitVec 5) (vs1 : BitVec 5) (vs2 : BitVec 5) (km : BitVec 4) (uns : BitVec 1)
  /-- VOR (R157): ORs two integer vectors. -/
  | vor (vd : BitVec 5) (vs1 : BitVec 5) (vs2 : BitVec 5) (km : BitVec 4) (uns : BitVec 1)
  /-- VXOR (R157): XORs two integer vectors. -/
  | vxor (vd : BitVec 5) (vs1 : BitVec 5) (vs2 : BitVec 5) (km : BitVec 4) (uns : BitVec 1)
  /-- VSHL_IVV (R157): Shifts integer elements left by element amounts. -/
  | vshlIvv (vd : BitVec 5) (vs1 : BitVec 5) (vs2 : BitVec 5) (km : BitVec 4) (uns : BitVec 1)
  /-- VSHR_IVV (R157): Shifts integer elements right by element amounts. -/
  | vshrIvv (vd : BitVec 5) (vs1 : BitVec 5) (vs2 : BitVec 5) (km : BitVec 4) (uns : BitVec 1)
  /-- VADDS (R157): Adds two integer vectors with saturation. -/
  | vadds (vd : BitVec 5) (vs1 : BitVec 5) (vs2 : BitVec 5) (km : BitVec 4) (uns : BitVec 1)
  /-- VSUBS (R157): Subtracts two integer vectors with saturation. -/
  | vsubs (vd : BitVec 5) (vs1 : BitVec 5) (vs2 : BitVec 5) (km : BitVec 4) (uns : BitVec 1)
  /-- VADD_IVX (R157): Adds a scalar to an integer vector. -/
  | vaddIvx (vd : BitVec 5) (vs1 : BitVec 5) (km : BitVec 4) (uns : BitVec 1) (gs : BitVec 6)
  /-- VSUB_IVX (R157): Subtracts a scalar from an integer vector. -/
  | vsubIvx (vd : BitVec 5) (vs1 : BitVec 5) (km : BitVec 4) (uns : BitVec 1) (gs : BitVec 6)
  /-- VMUL_IVX (R157): Multiplies an integer vector by a scalar. -/
  | vmulIvx (vd : BitVec 5) (vs1 : BitVec 5) (km : BitVec 4) (uns : BitVec 1) (gs : BitVec 6)
  /-- VMIN_IVX (R157): Takes the minimum of integer elements and a scalar. -/
  | vminIvx (vd : BitVec 5) (vs1 : BitVec 5) (km : BitVec 4) (uns : BitVec 1) (gs : BitVec 6)
  /-- VMAX_IVX (R157): Takes the maximum of integer elements and a scalar. -/
  | vmaxIvx (vd : BitVec 5) (vs1 : BitVec 5) (km : BitVec 4) (uns : BitVec 1) (gs : BitVec 6)
  /-- VAND_IVX (R157): ANDs integer elements with a scalar. -/
  | vandIvx (vd : BitVec 5) (vs1 : BitVec 5) (km : BitVec 4) (uns : BitVec 1) (gs : BitVec 6)
  /-- VSHL_IVX (R157): Shifts integer elements left by a scalar amount. -/
  | vshlIvx (vd : BitVec 5) (vs1 : BitVec 5) (km : BitVec 4) (uns : BitVec 1) (gs : BitVec 6)
  /-- VSHR_IVX (R157): Shifts integer elements right by a scalar amount. -/
  | vshrIvx (vd : BitVec 5) (vs1 : BitVec 5) (km : BitVec 4) (uns : BitVec 1) (gs : BitVec 6)
  /-- VADD_FVV (R158): Adds two floating vectors. -/
  | vaddFvv (vd : BitVec 5) (vs1 : BitVec 5) (vs2 : BitVec 5) (km : BitVec 5)
  /-- VSUB_FVV (R158): Subtracts two floating vectors. -/
  | vsubFvv (vd : BitVec 5) (vs1 : BitVec 5) (vs2 : BitVec 5) (km : BitVec 5)
  /-- VMUL_FVV (R158): Multiplies two floating vectors. -/
  | vmulFvv (vd : BitVec 5) (vs1 : BitVec 5) (vs2 : BitVec 5) (km : BitVec 5)
  /-- VDIV_FVV (R158): Divides two floating vectors. -/
  | vdivFvv (vd : BitVec 5) (vs1 : BitVec 5) (vs2 : BitVec 5) (km : BitVec 5)
  /-- VMIN_FVV (R158): Takes minimumNumber of two floating vectors. -/
  | vminFvv (vd : BitVec 5) (vs1 : BitVec 5) (vs2 : BitVec 5) (km : BitVec 5)
  /-- VMAX_FVV (R158): Takes maximumNumber of two floating vectors. -/
  | vmaxFvv (vd : BitVec 5) (vs1 : BitVec 5) (vs2 : BitVec 5) (km : BitVec 5)
  /-- VADD_FVX (R158): Adds a floating scalar to a vector. -/
  | vaddFvx (vd : BitVec 5) (vs1 : BitVec 5) (km : BitVec 5) (gs : BitVec 6)
  /-- VSUB_FVX (R158): Subtracts a floating scalar from a vector. -/
  | vsubFvx (vd : BitVec 5) (vs1 : BitVec 5) (km : BitVec 5) (gs : BitVec 6)
  /-- VMUL_FVX (R158): Multiplies a floating vector by a scalar. -/
  | vmulFvx (vd : BitVec 5) (vs1 : BitVec 5) (km : BitVec 5) (gs : BitVec 6)
  /-- VDIV_FVX (R158): Divides a floating vector by a scalar. -/
  | vdivFvx (vd : BitVec 5) (vs1 : BitVec 5) (km : BitVec 5) (gs : BitVec 6)
  /-- VMIN_FVX (R158): Takes minimumNumber of floating elements and a scalar. -/
  | vminFvx (vd : BitVec 5) (vs1 : BitVec 5) (km : BitVec 5) (gs : BitVec 6)
  /-- VMAX_FVX (R158): Takes maximumNumber of floating elements and a scalar. -/
  | vmaxFvx (vd : BitVec 5) (vs1 : BitVec 5) (km : BitVec 5) (gs : BitVec 6)
  /-- VFMA (R159): Computes vs1 times vs2 plus vd with one rounding. -/
  | vfma (vd : BitVec 5) (vs1 : BitVec 5) (vs2 : BitVec 5) (km : BitVec 5)
  /-- VFMS (R159): Computes vs1 times vs2 minus vd with one rounding. -/
  | vfms (vd : BitVec 5) (vs1 : BitVec 5) (vs2 : BitVec 5) (km : BitVec 5)
  /-- VFNMA (R159): Computes vd minus vs1 times vs2 with one rounding. -/
  | vfnma (vd : BitVec 5) (vs1 : BitVec 5) (vs2 : BitVec 5) (km : BitVec 5)
  /-- VCMP (R161): Compares two vectors element-wise under a condition into a predicate register. -/
  | vcmp (vd : BitVec 5) (vs1 : BitVec 5) (vs2 : BitVec 5) (km : BitVec 4) (uns : BitVec 1) (cond : BitVec 4)
  /-- VSEL (R162): Selects each element from a vector or a scalar by a predicate. -/
  | vsel (vd : BitVec 5) (vs1 : BitVec 5) (km : BitVec 5) (gs : BitVec 6)
  /-- VBCAST (R162): Broadcasts one element of a vector to the active elements. -/
  | vbcast (vd : BitVec 5) (vs1 : BitVec 5) (km : BitVec 5) (gs : BitVec 6)
  /-- VEXT (R162): Extracts one element into a g register. -/
  | vext (vd : BitVec 5) (vs1 : BitVec 5) (uns : BitVec 1) (gs : BitVec 6)
  /-- VINS (R162): Inserts a scalar into one element of a vector. -/
  | vins (vd : BitVec 5) (idx : BitVec 5) (gs : BitVec 6)
  /-- VSLIDEUP (R163): Slides elements up by a count. -/
  | vslideup (vd : BitVec 5) (vs1 : BitVec 5) (km : BitVec 5) (gs : BitVec 6)
  /-- VSLIDEDN (R163): Slides elements down by a count. -/
  | vslidedn (vd : BitVec 5) (vs1 : BitVec 5) (km : BitVec 5) (gs : BitVec 6)
  /-- VPERM (R163): Permutes elements by an index register. -/
  | vperm (vd : BitVec 5) (vs1 : BitVec 5) (idx : BitVec 5)
  /-- VCOMPRESS (R163): Packs the active elements to the bottom of the destination. -/
  | vcompress (vd : BitVec 5) (vs1 : BitVec 5) (km : BitVec 5)
  /-- VEXPAND (R163): Spreads packed elements to the active positions. -/
  | vexpand (vd : BitVec 5) (vs1 : BitVec 5) (km : BitVec 5)
  /-- VIOTA (R163): Writes to each active element the count of active elements below it. -/
  | viota (vd : BitVec 5) (km : BitVec 5)
  /-- VRED (R164): Reduces a vector by a pairwise tree into element 0. -/
  | vred (vd : BitVec 5) (vs1 : BitVec 5) (km : BitVec 4) (uns : BitVec 1) (op : BitVec 3)
  /-- VSCAN (R164): Computes a sequential inclusive scan of a vector. -/
  | vscan (vd : BitVec 5) (vs1 : BitVec 5) (km : BitVec 4) (uns : BitVec 1) (op : BitVec 3)
  /-- VDOT (R165): Accumulates grouped exact dot products into element 0 of vd. -/
  | vdot (vd : BitVec 5) (vs1 : BitVec 5) (vs2 : BitVec 5) (km : BitVec 4) (uns : BitVec 1)
  /-- VSQRT (R160): Takes element-wise square roots. -/
  | vsqrt (vd : BitVec 5) (vs1 : BitVec 5) (km : BitVec 5)
  /-- VRCP (R160): Takes element-wise reciprocals. -/
  | vrcp (vd : BitVec 5) (vs1 : BitVec 5) (km : BitVec 5)
  /-- VRSQ (R160): Takes element-wise reciprocal square roots. -/
  | vrsq (vd : BitVec 5) (vs1 : BitVec 5) (km : BitVec 5)
  /-- VEXP2 (R160): Computes 2 to the power of each element. -/
  | vexp2 (vd : BitVec 5) (vs1 : BitVec 5) (km : BitVec 5)
  /-- VLOG2 (R160): Computes the base-2 logarithm of each element. -/
  | vlog2 (vd : BitVec 5) (vs1 : BitVec 5) (km : BitVec 5)
  /-- VCVT (R166): Converts elements to a target format under a rounding mode, with error-feedback carry for .ef. -/
  | vcvt (vd : BitVec 5) (vs1 : BitVec 5) (km : BitVec 3) (efc : BitVec 2) (reset : BitVec 1) (rm : BitVec 2) (target : BitVec 6)
  /-- EFGET (R167): Reads an error-feedback carry into a g register. -/
  | efget (rd : BitVec 6) (num : BitVec 2)
  /-- EFSET (R167): Writes an error-feedback carry from a g register. -/
  | efset (rs1 : BitVec 6) (num : BitVec 2)
  /-- KAND (R168): ANDs two predicate registers. -/
  | kand (vd : BitVec 5) (vs1 : BitVec 5) (vs2 : BitVec 5)
  /-- KOR (R168): ORs two predicate registers. -/
  | kor (vd : BitVec 5) (vs1 : BitVec 5) (vs2 : BitVec 5)
  /-- KXOR (R168): XORs two predicate registers. -/
  | kxor (vd : BitVec 5) (vs1 : BitVec 5) (vs2 : BitVec 5)
  /-- KANDN (R168): ANDs a predicate register with the complement of another. -/
  | kandn (vd : BitVec 5) (vs1 : BitVec 5) (vs2 : BitVec 5)
  /-- KNOT (R168): Complements a predicate register. -/
  | knot (vd : BitVec 5) (vs1 : BitVec 5)
  /-- KMOV (R168): Copies a predicate register. -/
  | kmov (vd : BitVec 5) (vs1 : BitVec 5)
  /-- KPOP (R168): Counts the set bits of a predicate register into a g register. -/
  | kpop (vd : BitVec 5) (vs1 : BitVec 5)
  /-- KFIRST (R168): Writes the index of the lowest set bit of a predicate register. -/
  | kfirst (vd : BitVec 5) (vs1 : BitVec 5)
  /-- KSET (R168): Writes one 64-bit word of a predicate register from a g register. -/
  | kset (vd : BitVec 5) (vs1 : BitVec 5) (word : BitVec 2)
  /-- KGET (R168): Reads one 64-bit word of a predicate register into a g register. -/
  | kget (vd : BitVec 5) (vs1 : BitVec 5) (word : BitVec 2)
  /-- VLD (R176): Loads unit-stride elements into a vector register. -/
  | vld (vd : BitVec 5) (km : BitVec 5) (gs : BitVec 6)
  /-- VLDS (R176): Loads strided elements into a vector register. -/
  | vlds (vd : BitVec 5) (stride : BitVec 5) (km : BitVec 5) (gs : BitVec 6)
  /-- VLDX (R176): Gathers elements by byte offsets from an index register. -/
  | vldx (vd : BitVec 5) (idx : BitVec 5) (km : BitVec 5) (gs : BitVec 6)
  /-- VLD_SL (R174): Loads elements from the lane-private slices of the strand's grant. -/
  | vldSl (vd : BitVec 5) (km : BitVec 5) (gs : BitVec 6)
  /-- VST (R176): Stores vector elements at unit stride. -/
  | vst (vd : BitVec 5) (km : BitVec 5) (gs : BitVec 6)
  /-- VSTS (R176): Stores vector elements at a stride. -/
  | vsts (vd : BitVec 5) (stride : BitVec 5) (km : BitVec 5) (gs : BitVec 6)
  /-- VSTX (R176): Scatters vector elements by byte offsets from an index register. -/
  | vstx (vd : BitVec 5) (idx : BitVec 5) (km : BitVec 5) (gs : BitVec 6)
  /-- VST_SL (R174): Stores vector elements into the lane-private slices. -/
  | vstSl (vd : BitVec 5) (km : BitVec 5) (gs : BitVec 6)
  /-- VLDT (R177): Checks a tile header and loads one line of the tile, with sparse indices into a predicate register. -/
  | vldt (vd : BitVec 5) (line : BitVec 5) (km : BitVec 5) (gs : BitVec 6)
  /-- VSTT (R178): Writes a new tile header and one line of the tile. -/
  | vstt (vd : BitVec 5) (shape : BitVec 5) (gs : BitVec 6)
  /-- VLDC (R179): Loads elements of chunks whose bits are set, acquiring those chunks. -/
  | vldc (vd : BitVec 5) (offs : BitVec 5) (km : BitVec 5) (gs : BitVec 6)
  /-- VPF (R180): Prefetches lines into the L1 or cluster cache without faulting. -/
  | vpf (level : BitVec 5) (len : BitVec 5) (gs : BitVec 6)
  /-- VAMO (R181): Performs element-wise atomic read-modify-writes and returns old values. -/
  | vamo (vd : BitVec 5) (idx : BitVec 5) (km : BitVec 4) (uns : BitVec 1) (op : BitVec 3) (gs : BitVec 6)
  /-- VRDM (R182): Performs element-wise reductions at memory without returning values. -/
  | vrdm (vd : BitVec 5) (idx : BitVec 5) (km : BitVec 4) (uns : BitVec 1) (op : BitVec 3) (gs : BitVec 6)
  /-- MZERO (R231): Queues a command that zeroes an accumulator and clears its format and scale pair. -/
  | mzero (c : BitVec 5)
  /-- MWAIT (R233): Waits until commands on an accumulator accepted before it have finished, acquiring their results. -/
  | mwait (c : BitVec 5)
  /-- MPRG (R234): Writes a snapshot of an accumulator's progress and lock state. -/
  | mprg (c : BitVec 5) (d : BitVec 5)
  /-- MHDR (R232): Queues a replacement of an accumulator header from a 32-byte image. -/
  | mhdr (c : BitVec 5) (a : BitVec 5)
  /-- MOP (R219): Queues a register outer product into an accumulator. -/
  | mop (c : BitVec 5) (b : BitVec 5) (a : BitVec 5) (sat : BitVec 1)
  /-- MOPD (R219): Queues a k-pair outer product of binary8 or INT8 registers. -/
  | mopd (c : BitVec 5) (b : BitVec 5) (a : BitVec 5) (sat : BitVec 1)
  /-- MOPS (R219): Queues a 2:4 sparse outer product of registers. -/
  | mops (c : BitVec 5) (b : BitVec 5) (a : BitVec 5) (sat : BitVec 1)
  /-- MMAS (R222): Queues a streamed multiply-accumulate of two tile windows into an accumulator. -/
  | mmas (c : BitVec 5) (b : BitVec 5) (a : BitVec 5) (oxb : BitVec 3) (sat : BitVec 1)
  /-- MRD (R227): Reads one accumulator row, scaled by the pending pair, into a vector register. -/
  | mrd (c : BitVec 5) (b : BitVec 5) (a : BitVec 5)
  /-- MWR (R228): Queues a write of one accumulator row from a vector register. -/
  | mwr (c : BitVec 5) (b : BitVec 5) (a : BitVec 5)
  /-- MLD (R229): Queues a load of a tile window into an accumulator. -/
  | mld (c : BitVec 5) (a : BitVec 5) (oxb : BitVec 3)
  /-- MST (R230): Stores an accumulator window as a new tile, scaling and narrowing it. -/
  | mst (c : BitVec 5) (b : BitVec 5) (a : BitVec 5) (oxb : BitVec 3)
  /-- CPY (R248): Starts a raw or tile copy that lands chunk by chunk under a chunk register. -/
  | cpy (c : BitVec 5) (b : BitVec 5) (a : BitVec 5) (oxb : BitVec 3)
  /-- CPYF (R253): Starts a tile copy that issues a follow-on matrix command once landed. -/
  | cpyf (c : BitVec 5) (b : BitVec 5) (a : BitVec 5) (oxb : BitVec 3)
  /-- CPYM (R255): Starts a masked multicast read into the core's own scratchpad. -/
  | cpym (c : BitVec 5) (b : BitVec 5) (a : BitVec 5) (oxb : BitVec 3)
  /-- CPYS (R257): Starts a bulk-stream copy between a row-mode page and scratchpad on a row stream. -/
  | cpys (c : BitVec 5) (b : BitVec 5) (a : BitVec 5) (oxb : BitVec 3)
  /-- ROWCLS (R258): Waits for a row stream's copies and releases its DRAM bank. -/
  | rowcls (c : BitVec 5)
  /-- CPWAIT (R263): Waits until the strand's copy commands have finished and their faults are taken. -/
  | cpwait (c : BitVec 5)
  /-- CPQRY (R264): Writes a snapshot of the strand's copy commands. -/
  | cpqry (c : BitVec 5) (d : BitVec 5)
  /-- CBINIT (R260): Sets up or invalidates a circular-buffer descriptor, releasing waiters. -/
  | cbinit (c : BitVec 5) (b : BitVec 5) (a : BitVec 5)
  /-- CBACQ (R261): Obtains a circular-buffer slot as producer or consumer, waiting when none is ready. -/
  | cbacq (c : BitVec 5) (role : BitVec 5) (d : BitVec 5)
  /-- CBREL (R262): Gives back the strand's oldest slot in a role, releasing a produced slot. -/
  | cbrel (c : BitVec 5) (role : BitVec 5)
  /-- LFMT (R250): Reads and optionally writes a bank's landing-format register. -/
  | lfmt (c : BitVec 5) (d : BitVec 5) (a : BitVec 5)
  /-- BINIT (R289): Validates a barrier with an expected count, releasing any waiters with status 1. -/
  | binit (c : BitVec 5) (a : BitVec 5)
  /-- BARV (R290): Counts one arrival at a barrier after the strand's stores are performed, completing a phase at the count. -/
  | barv (c : BitVec 5) (a : BitVec 5)
  /-- BWAIT (R291): Waits for the barrier phase after a token. -/
  | bwait (c : BitVec 5) (b : BitVec 5) (a : BitVec 5)
  /-- BFREE (R289): Invalidates a barrier, releasing any waiters. -/
  | bfree (c : BitVec 5)
  /-- MBSEND (R295): Sends a 64-byte message to a core's mailbox. -/
  | mbsend (c : BitVec 5) (b : BitVec 5) (a : BitVec 5)
  /-- MBRECV (R296): Takes the head message of a mailbox, waiting when empty. -/
  | mbrecv (c : BitVec 5) (b : BitVec 5) (a : BitVec 5)
  /-- MBPEEK (R296): Reports mailbox occupancy and the next sender without taking anything. -/
  | mbpeek (c : BitVec 5) (b : BitVec 5)
  /-- GSUB (R381): Releases and submits a node record to the dispatcher. -/
  | gsub (c : BitVec 5) (a : BitVec 5)
  /-- GDEP (R381): Adjusts the predecessor count of a waiting node. -/
  | gdep (c : BitVec 5) (b : BitVec 5) (a : BitVec 5)
  /-- GDONE (R381): Ends the strand's part in its node, completing the node and decrementing successors when last. -/
  | gdone
  /-- GWAIT (R381): Waits until a node of the tenant completes and acquires. -/
  | gwait (c : BitVec 5) (a : BitVec 5)
  /-- SFDECL (R382): Declares a strip farm and adds its participants to the pool. -/
  | sfdecl (c : BitVec 5) (a : BitVec 5) (oxb : BitVec 3)
  /-- SFNEXT (R382): Hands out the next strip ordinal of a farm. -/
  | sfnext (c : BitVec 5) (b : BitVec 5) (a : BitVec 5)
  /-- SFEND (R382): Waits until every participant has ended the farm. -/
  | sfend (c : BitVec 5) (a : BitVec 5)
  /-- FTSET (R383): Sets, clears or queries a firing-table entry. -/
  | ftset (c : BitVec 5) (b : BitVec 5) (a : BitVec 5) (oxb : BitVec 3)
  /-- MIGR (R384): Migrates, parks, unparks or retires forwarding for a core of the tenant. -/
  | migr (c : BitVec 5) (b : BitVec 5) (a : BitVec 5)
  /-- SAMPLE (R394): Selects a token from a logits tile and appends it to a sequence slot. -/
  | sample (c : BitVec 5) (b : BitVec 5) (a : BitVec 5) (oxb : BitVec 3)
  /-- SAMPLE_DRAFT (R394): Selects a token from a logits tile and adds it to the slot's draft. -/
  | sampleDraft (c : BitVec 5) (b : BitVec 5) (a : BitVec 5) (oxb : BitVec 3)
  /-- TKAPP (R397): Appends one confirmed token to a sequence slot. -/
  | tkapp (c : BitVec 5) (b : BitVec 5) (a : BitVec 5)
  /-- TKDRAFT (R397): Adds a token to a slot's draft. -/
  | tkdraft (c : BitVec 5) (b : BitVec 5) (a : BitVec 5)
  /-- TKCONF (R397): Confirms the first n draft tokens as a unit and discards the rest. -/
  | tkconf (c : BitVec 5) (b : BitVec 5) (a : BitVec 5)
  /-- WSET (R398): Writes a watch-table entry from a 128-byte image. -/
  | wset (c : BitVec 5) (b : BitVec 5) (a : BitVec 5)
  /-- WGET (R398): Writes a watch-table entry's image to memory. -/
  | wget (c : BitVec 5) (b : BitVec 5) (a : BitVec 5)
  /-- SQFORK (R401): Creates a sequence slot from a descriptor or as a copy of another slot. -/
  | sqfork (c : BitVec 5) (b : BitVec 5) (a : BitVec 5)
  /-- SQSTAT (R402): Writes a 256-byte status block of a sequence slot. -/
  | sqstat (c : BitVec 5) (b : BitVec 5) (a : BitVec 5)
  /-- SQITER (R403): Iterates, closes, acknowledges or resumes a sequence slot, trapping on a stopped iterate. -/
  | sqiter (c : BitVec 5) (b : BitVec 5) (a : BitVec 5)
  /-- DCAPD (R406): Creates or delegates a debug capability entry. -/
  | dcapd (c : BitVec 5) (b : BitVec 5) (a : BitVec 5)
  /-- DCAPR (R407): Revokes a capability entry and its descendants, resuming what they halted. -/
  | dcapr (c : BitVec 5) (a : BitVec 5)
  /-- DCAPQ (R408): Returns the rights a holder has over a subject. -/
  | dcapq (c : BitVec 5) (a : BitVec 5)
  /-- TRMARK (R418): Emits a trace mark record with a value. -/
  | trmark (a : BitVec 5)
  /-- SLIPRD (R418): Reads a slip counter of a strand of the core. -/
  | sliprd (c : BitVec 5) (a : BitVec 5)
  /-- ATTEST (R435): Signs a quote of the measurement registers and report data. -/
  | attest (c : BitVec 5) (b : BitVec 5) (a : BitVec 5)
  /-- KEYNEW (R435): Makes a key slot live for an owner tenant with a fresh key and generation. -/
  | keynew (c : BitVec 5) (a : BitVec 5)
  /-- KEYDEL (R431): Destroys a memory key, discarding its cached lines without writeback. -/
  | keydel (c : BitVec 5) (a : BitVec 5)
  /-- FUSERD (R435): Reads fuse values or draws a pending unlock nonce. -/
  | fuserd (c : BitVec 5) (a : BitVec 5)
  /-- LCSTAT (R435): Reads the lifecycle state or retires the package. -/
  | lcstat (c : BitVec 5) (a : BitVec 5)
  /-- DBGUNLK (R436): Checks a signed unlock token and opens the debug port after wiping keys. -/
  | dbgunlk (c : BitVec 5) (a : BitVec 5)
  /-- MEASX (R435): Extends or reads a measurement register. -/
  | measx (c : BitVec 5) (b : BitVec 5) (a : BitVec 5)
  /-- PLBINV (R198): Discards PLB entries of a domain at every core of the partition. -/
  | plbinv (a : BitVec 5)
  /-- TLBINV (R198): Discards translations of a range at every core of the partition, writing dirty L1 words home. -/
  | tlbinv (b : BitVec 5) (a : BitVec 5)
  /-- PGWAKE (R206): Returns a dropped strand to RUN so it reissues its faulting access. -/
  | pgwake (c : BitVec 5) (a : BitVec 5)
  /-- PGQRY (R206): Walks the page table for a VA and returns the leaf or fault type. -/
  | pgqry (c : BitVec 5) (a : BitVec 5)
  /-- PGPIN (R206): Sets or clears the pinned bit over a range of pages. -/
  | pgpin (c : BitVec 5) (b : BitVec 5) (a : BitVec 5)
  /-- MSCFL (R337): Writes back or invalidates home-slice and Sagger lines of a range, or queries a counter. -/
  | mscfl (c : BitVec 5) (b : BitVec 5) (a : BitVec 5)
  /-- HBMSLOT (R338): Reads or writes a tenant's HBM4 channel slot map. -/
  | hbmslot (c : BitVec 5) (b : BitVec 5) (a : BitVec 5)
  /-- TENSET (R361): Sets, clears or queries a tenant's router membership bits. -/
  | tenset (c : BitVec 5) (b : BitVec 5) (a : BitVec 5)
  /-- VCRES (R362): Reserves, frees or queries virtual-channel pairs and link cycles, or sets the escape wait. -/
  | vcres (c : BitVec 5) (b : BitVec 5) (a : BitVec 5)
  /-- C_MV (R48): Copies gb to ga. -/
  | cMv (ga : BitVec 5) (gb : BitVec 5)
  /-- C_ADD (R48): Adds gb to ga. -/
  | cAdd (ga : BitVec 5) (gb : BitVec 5)
  /-- C_SUB (R48): Subtracts gb from ga. -/
  | cSub (ga : BitVec 5) (gb : BitVec 5)
  /-- C_AND (R48): ANDs gb into ga. -/
  | cAnd (ga : BitVec 5) (gb : BitVec 5)
  /-- C_OR (R48): ORs gb into ga. -/
  | cOr (ga : BitVec 5) (gb : BitVec 5)
  /-- C_XOR (R48): XORs gb into ga. -/
  | cXor (ga : BitVec 5) (gb : BitVec 5)
  /-- C_SLT (R48): Sets ga to ga less than gb, signed. -/
  | cSlt (ga : BitVec 5) (gb : BitVec 5)
  /-- C_LI (R48): Loads a 5-bit signed immediate into ga. -/
  | cLi (ga : BitVec 5) (imm : BitVec 5)
  /-- C_ADDI (R48): Adds a 5-bit signed immediate to ga. -/
  | cAddi (ga : BitVec 5) (imm : BitVec 5)
  /-- C_SHLI (R48): Shifts ga left by n. -/
  | cShli (ga : BitVec 5) (num : BitVec 5)
  /-- C_SHRI (R48): Shifts ga right logically by n. -/
  | cShri (ga : BitVec 5) (num : BitVec 5)
  /-- C_SHAI (R48): Shifts ga right arithmetically by n. -/
  | cShai (ga : BitVec 5) (num : BitVec 5)
  /-- C_LDW (R48): Loads a sign-extended word at gb into ga. -/
  | cLdw (ga : BitVec 5) (gb : BitVec 5)
  /-- C_LDD (R48): Loads a doubleword at gb into ga. -/
  | cLdd (ga : BitVec 5) (gb : BitVec 5)
  /-- C_STW (R48): Stores the low word of ga at gb. -/
  | cStw (ga : BitVec 5) (gb : BitVec 5)
  /-- C_STD (R48): Stores ga as a doubleword at gb. -/
  | cStd (ga : BitVec 5) (gb : BitVec 5)
  /-- C_LDSP (R48): Loads a doubleword at g2 plus 8n into ga. -/
  | cLdsp (ga : BitVec 5) (num : BitVec 5)
  /-- C_STSP (R48): Stores ga as a doubleword at g2 plus 8n. -/
  | cStsp (ga : BitVec 5) (num : BitVec 5)
  /-- C_BEQZ (R48): Branches when ga is zero. -/
  | cBeqz (ga : BitVec 5) (imm : BitVec 5)
  /-- C_BNEZ (R48): Branches when ga is not zero. -/
  | cBnez (ga : BitVec 5) (imm : BitVec 5)
  /-- C_JR (R48): Jumps to the address in ga. -/
  | cJr (ga : BitVec 5)
  /-- C_JAL (R48): Jumps by a 10-bit halfword displacement, linking pc + 2 in g1. -/
  | cJal (imm : BitVec 10)
  /-- C_ADDSP (R48): Adds four times a 10-bit signed immediate to g2. -/
  | cAddsp (imm : BitVec 10)
  /-- C_NEG (R48): Writes the negation of gb to ga. -/
  | cNeg (ga : BitVec 5) (gb : BitVec 5)
  /-- INTERRUPT_ENTRY (R121): At an issue point the strand takes the lowest enabled pending interrupt after draining its vector queue. -/
  | interruptEntry (core : Nat) (slot : Nat)
  /-- TIMER_INTERRUPT (R120): Source 0 becomes pending when ctl.time reaches ctl.tcmp. -/
  | timerInterrupt (core : Nat) (slot : Nat)
  /-- VECTOR_ENTRY_COMPLETE (R143): A queued vector entry completes, writing its results, flags and faults in queue order. -/
  | vectorEntryComplete (core : Nat) (slot : Nat)
  /-- EPTIMEOUT (R152): The element-progress timer reaches ctl.eplimit and the oldest entry faults. -/
  | eptimeout (core : Nat) (slot : Nat)
  /-- LANE_GRANT (R147): The lane allocator satisfies the request at the head of its order once lanes are free. -/
  | laneGrant (cluster : Nat)
  /-- ASYNC_FAULT_TRAP (R236): A recorded matrix or copy fault is taken as an exact trap at the strand's next issue point. -/
  | asyncFaultTrap (core : Nat) (slot : Nat)
  /-- ASYNC_PAGE_FAULT_DROP (R226): A page fault of a matrix or copy command drops the charged strand at its next issue point. -/
  | asyncPageFaultDrop (core : Nat) (slot : Nat)
  /-- WALK_COMPLETE (R197): A page walk ends, installing a leaf in joined TLBs or dropping each joined strand. -/
  | walkComplete (cluster : Nat)
  /-- PLB_FILL (R196): After a PLB miss the walker reads the domain descriptor and segment list and fills the PLB. -/
  | plbFill (core : Nat) (pd : Nat)
  /-- FAULT_RECORD_WRITE (R202): The holding core writes a waiting fault record to its ring and advances fqhead. -/
  | faultRecordWrite (core : Nat)
  /-- MATRIX_CMD_ACCEPT (R212): The matrix unit accepts a held command when a queue entry frees, updating the accumulator header. -/
  | matrixCmdAccept (core : Nat) (slot : Nat)
  /-- MATRIX_CMD_PERFORM (R214): The matrix unit starts performing the next accepted command. -/
  | matrixCmdPerform (core : Nat)
  /-- MMAS_KROW_APPLY (R222): Operand k-rows arrive from the load pipes and are applied, advancing progress. -/
  | mmasKrowApply (core : Nat)
  /-- MATRIX_CMD_FINISH (R209): A command finishes and the accumulator's lock clears when no accepted command remains. -/
  | matrixCmdFinish (core : Nat)
  /-- COPY_CMD_ACCEPT (R239): The copy engine accepts a held command when a table entry frees. -/
  | copyCmdAccept (core : Nat) (slot : Nat)
  /-- COPY_CHUNK_REGISTER (R248): A destination chunk has been written and registered, and its chunk bit is set. -/
  | copyChunkRegister (core : Nat) (ent : Nat)
  /-- COPY_FOLLOWON_ISSUE (R254): After the last chunk the copy engine issues its follow-on matrix command. -/
  | copyFollowonIssue (core : Nat) (ent : Nat)
  /-- COPY_SLOT_TAKE (R262): A buffer-producing copy takes its slot when one is free. -/
  | copySlotTake (core : Nat) (ent : Nat)
  /-- MERGE_ENTRY_CLOSE (R256): A CPYM merge entry closes 64 cycles after opening and the slice reads the line once. -/
  | mergeEntryClose (idx : Nat)
  /-- MERGE_REQUEST (R256): A CPYM or plain read reaches a home slice and joins or opens a merge entry. -/
  | mergeRequest (core : Nat) (ent : Nat)
  /-- FE_ACCESS_ARRIVE (R276): A full/empty access reaches its owner, is performed, parked or refused, and parked entries are served. -/
  | feAccessArrive (pkt : Nat)
  /-- FETIMEOUT (R277): A strand's full/empty timer reaches ctl.fewait, trapping or sending a cancel. -/
  | fetimeout (core : Nat) (slot : Nat)
  /-- FE_CANCEL (R277): A cancel reaches the owner, which removes the entry or answers with the performed result. -/
  | feCancel (pkt : Nat)
  /-- RSV_REQUEST (R281): A reservation request reaches the home slice and is granted or queued. -/
  | rsvRequest (core : Nat) (slot : Nat)
  /-- RSV_GRANT (R281): A reservation grant reaches the waiting core with the word's value. -/
  | rsvGrant (core : Nat) (slot : Nat)
  /-- MAILBOX_ARRIVAL (R293): A mailbox message is accepted, raising source 1 or 2 and serving a waiting MBRECV. -/
  | mailboxArrival (pkt : Nat)
  /-- AM_ARRIVAL (R134): An active message enters a core's request or reply queue. -/
  | amArrival (pkt : Nat)
  /-- AM_HANDLER_START (R135): The idle message strand reads the handler table and starts or discards the next message. -/
  | amHandlerStart (core : Nat)
  /-- REGISTRATION (R303): A registration of a word at its point makes the core owner and sends revocation notices. -/
  | registration (idx : Nat)
  /-- REVOCATION_NOTICE (R304): A revocation notice enters a core's queue or is discarded on overflow. -/
  | revocationNotice (idx : Nat)
  /-- HOME_READ_RESPONSE (R301): A home slice's value returns and fills the cluster cache and L1. -/
  | homeReadResponse (core : Nat) (victim : Nat)
  /-- SC_WINDOW_DELIVER (R314): 48 cycles after a 16-cycle window the announced SC operations are performed in total order. -/
  | scWindowDeliver
  /-- HOST_POSTED_WRITE (R315): A host posted write arrives stamped and is held until the arrival horizon passes it. -/
  | hostPostedWrite (port : Nat) (target : Nat) (addr : Nat) (data : List Byte)
  /-- HOST_WRITE_PERFORM (R315): A held posted write is performed once the port's arrival horizon reaches its stamp. -/
  | hostWritePerform (port : Nat) (stamp : Nat)
  /-- HOST_READ (R315): A host read is performed once the visible horizon reaches the port's earlier writes. -/
  | hostRead (port : Nat) (addr : Nat) (len : Nat)
  /-- SPILL_WRITEBACK_DONE (R327): The spill way's occupant reaches DRAM and the waiting write places its line. -/
  | spillWritebackDone (die : Nat)
  /-- CHANNEL_SLOT_BOUNDARY (R330): At each 32-cycle slot boundary the controller precharges banks not held by row streams. -/
  | channelSlotBoundary (chan : Nat)
  /-- PACKET_ROUTE (R344): A router forwards a packet on a productive port after the membership check, replicating multicast responses. -/
  | packetRoute (pkt : Nat)
  /-- ESCAPE_CHANNEL_MOVE (R345): After esc_wait cycles without an adaptive channel a packet moves to escape. -/
  | escapeChannelMove (pkt : Nat)
  /-- FLIT_RECEIVE (R341): A flit arrives and its link check passes or it is replayed. -/
  | flitReceive (link : Nat) (ok : Bool)
  /-- MSG_SWITCH_ARRIVAL (R353): A message reaches an I/O die's message switch and is routed, buffered or discarded. -/
  | msgSwitchArrival (pkt : Nat)
  /-- UALINK_MESSAGE_RECEIVE (R354): A 64-byte message write arrives from another package over UALink. -/
  | ualinkMessageReceive (port : Nat) (data : List Byte)
  /-- PTP_MESSAGE_RECEIVE (R359): An IEEE 1588 message on the management port adjusts device time. -/
  | ptpMessageReceive (seconds : Nat) (nanos : Nat)
  /-- PPS_EDGE (R359): The 1PPS rising edge sets the phase of the second. -/
  | ppsEdge
  /-- TIME_SYNC_LOSS (R359): Loss of synchronisation puts ctl.time into holdover and raises an event. -/
  | timeSyncLoss
  /-- SUBMIT_RECORD (R365): A 64-byte posted write to the submit aperture is checked and entered as a node record. -/
  | submitRecord (port : Nat)
  /-- PLACEMENT_DECISION (R368): Every 16 cycles the dispatcher places one node or farm participant. -/
  | placementDecision
  /-- FIRING_SLOT_BOUNDARY (R373): At a 10 us slot boundary due firing-table entries launch, skip, defer or evict. -/
  | firingSlotBoundary
  /-- MIGRATION_TRANSFER (R376): Once the source core drains, its state streams to the target and a forwarding entry is installed. -/
  | migrationTransfer (idx : Nat)
  /-- DEBUG_HOLD_NOTICE (R412): A package receiving the hold notice suspends the tenant's timers and acknowledges. -/
  | debugHoldNotice (tenant : Nat)
  /-- BREAKPOINT_STOP (R414): An armed breakpoint stops the strand at its next stop point and raises source 5. -/
  | breakpointStop (core : Nat) (slot : Nat)
  /-- DEBUG_PORT_COMMAND (R16): A command arriving on the opened external debug port is carried out by the debug controller. -/
  | debugPortCommand (code : Nat) (arg0 : Word) (arg1 : Word) (arg2 : Word)
  /-- DBG_HALT (R411): Halts the tenant's strands in the package and sends the debug-hold notice. -/
  | dbgHalt (core : Nat) (slot : Nat)
  /-- DBG_RESUME (R412): Returns held strands to RUN and withdraws the hold notice. -/
  | dbgResume (core : Nat) (slot : Nat)
  /-- RDREG (R409): Reads a register of a halted strand. -/
  | rdreg (core : Nat) (slot : Nat)
  /-- WRREG (R413): Writes a register of a halted strand, or returns BUSY. -/
  | wrreg (core : Nat) (slot : Nat)
  /-- DBG_CANCEL (R413): Cancels a halted strand's parked full/empty load. -/
  | dbgCancel (core : Nat) (slot : Nat)
  /-- SETBP (R414): Sets a strip, address or data breakpoint. -/
  | setbp (core : Nat) (slot : Nat)
  /-- CLRBP (R409): Clears a breakpoint entry. -/
  | clrbp (core : Nat) (slot : Nat)
  /-- BRKCAP (R409): Arms or disarms break capture for a strand. -/
  | brkcap (core : Nat) (slot : Nat)
  /-- TRSET (R409): Sets a strand's trace controls. -/
  | trset (core : Nat) (slot : Nat)
  /-- PCREATE (R375): Creates a partition from a die mask with a row boundary. -/
  | pcreate
  /-- PDISSOLVE (R375): Dissolves a partition and withdraws its host windows. -/
  | pdissolve
  /-- TPLACE (R375): Places a tenant on a cluster rectangle. -/
  | tplace
  /-- TREMOVE (R375): Removes a tenant with its firing entries, forwarding entries, reservation and sequence slots. -/
  | tremove
  /-- RESERVE (R375): Grants a deterministic reservation of slice slots, channel slots and channels. -/
  | reserve
  /-- RELEASE (R375): Releases a tenant's deterministic reservation. -/
  | release
  /-- HWGRANT (R375): Sets a partition's granted host windows, writing back withdrawn ones. -/
  | hwgrant
  /-- MBOX_STATUS (R423): Writes ctl.svstat and the die-present mask to the mailbox argument area. -/
  | mboxStatus (port : Nat)
  /-- LOGREAD (R423): Copies the next 64 diagnostic-log entries to the argument area. -/
  | logread (port : Nat)
  /-- STAGE (R423): Writes the argument area into the boot flash image area. -/
  | stage (port : Nat)
  /-- MBOX_BOOT (R423): Resets the package and restarts boot. -/
  | mboxBoot (port : Nat)
  /-- DCMD (R423): Issues a dispatcher command on behalf of an allowed host port. -/
  | dcmd (port : Nat)
  /-- ROUTE (R353): Writes one entry of a UALink route table from an allowed host port. -/
  | route (port : Nat)
  /-- MBOX_BAD_COMMAND (R423): A command word with an unknown code sets result 0xFF. -/
  | mboxBadCommand (port : Nat)
  /-- PCIE_CONFIG_ACCESS (R356): A host accesses a port's PCI Express configuration space. -/
  | pcieConfigAccess (port : Nat) (offset : Nat) (write : Bool) (data : Nat)
  /-- POWER_ON (R420): Power-on runs the boot, self-test and release sequence and resets key generations. -/
  | powerOn
  /-- PACKAGE_RESET (R420): A package reset runs the boot sequence keeping key generations. -/
  | packageReset
  /-- CALIBRATION_COMPLETE (R424): A calibrated die's islands move to full speed and reduced service ends. -/
  | calibrationComplete (die : Nat)
  /-- CORRECTED_ERROR_EVENT (R425): A corrected error is charged to a unit and may make it lasting. -/
  | correctedErrorEvent (kind : Nat) (unit : Nat) (uncorrectable : Bool)
  /-- POWER_CAP_LOWER (R429): Input power above 2,400 W over 1 ms lowers unlocked core islands one point. -/
  | powerCapLower (island : Nat)
  /-- POWER_CAP_RAISE (R429): After 10 ms below 2,300 W the cap raises islands again. -/
  | powerCapRaise
  /-- LOCK_BROKEN (R429): Power still over the limit for 10 ms with unlocked islands at point 8 lowers locked islands. -/
  | lockBroken (island : Nat)
  /-- IPEND_CLEAR (R121): Writing 1 to ctl.ipend clears pending interrupt bits. -/
  | ipendClear (core : Nat) (slot : Nat) (value : Word)
  /-- VQPOP (R203): Writing the oldest VA to ctl.vqpop removes it from the victim queue. -/
  | vqpop (core : Nat) (slot : Nat) (value : Word)
  /-- FQTAIL_WRITE (R204): Writing ctl.fqtail consumes fault records. -/
  | fqtailWrite (core : Nat) (slot : Nat) (value : Word)
  /-- TRTAIL_WRITE (R419): Writing ctl.trtail consumes trace records. -/
  | trtailWrite (core : Nat) (slot : Nat) (value : Word)
  /-- SHRENT2_WRITE (R318): Writing ctl.shrent2 installs a shared-region entry from the staged values. -/
  | shrent2Write (core : Nat) (slot : Nat) (value : Word)
  /-- SVPOP (R438): Any write to ctl.svpop removes the oldest service event. -/
  | svpop (core : Nat) (slot : Nat) (value : Word)
  /-- IPOINT_WRITE (R438): Writing ctl.ipoint sets the selected island's operating point. -/
  | ipointWrite (core : Nat) (slot : Nat) (value : Word)
  /-- REGISTER_WRITE (R130): A write to a control register with no behaviour of its own sets its writable fields. -/
  | registerWrite (core : Nat) (slot : Nat) (num : Nat) (value : Word)
  /-- VAMO_VRDM_ELEMENT_AT_HOME (R182): A VAMO or VRDM element reaches the word's home slice or SRAM and is performed there, returning the old value for VAMO. -/
  | vamoVrdmElementAtHome (idx : Nat)
  /-- DEBUG_HOLD_WITHDRAWAL (R412): A package receiving the withdrawal of the debug-hold notice resumes the suspended timers of the tenant's strands from their kept values. -/
  | debugHoldWithdrawal (tenant : Nat)
  /-- LINK_FRAME_BOUNDARY (R362): At the package-wide 16-cycle link frame boundary a reservation installed by VCRES takes effect. -/
  | linkFrameBoundary
  /-- UALINK_REMOTE_REQUEST (R354): A remote read, remote atomic or other device-memory access request arriving on a UALink port receives an error response. -/
  | ualinkRemoteRequest (port : Nat)
  /-- SPARE_TAKEOVER (R426): When the copy of a retiring home slice or pseudo-channel to its spare ends, the spare takes the unit's place and serves the waiting requests in order. -/
  | spareTakeover (kind : Nat) (unit : Nat)
deriving DecidableEq, Repr

end Sys2Proof
end

