-- ==== Sys2Proof/WellFormed.lean ====
section
/-! DEFINITION. Which words of the assigned forms are instructions: the fields that name something absent
(02_words R59), checked at decode before anything else (R43). -/

namespace Sys2Proof

/-- Why a word of an assigned form is not an instruction (02_words R59). -/
inductive IllFormed where
  /-- an accumulator number of 4 or more (08_matrix R216) -/
  | noAccumulator
  /-- a barrier register number of 16 or more (10_sync R288) -/
  | noBarrier
  /-- a circular-buffer number of 8 or more (09_copy R242) -/
  | noBuffer
  /-- a landing bank of 16 or more (R242) -/
  | noBank
  /-- a row stream of 4 or more (R242) -/
  | noRowStream
  /-- a buffer role of 2 or more (R242) -/
  | noRole
  /-- a mailbox priority the form does not take (10_sync R294) -/
  | noPriority
  /-- a VPF level of 2 or more (06_vmem R180) -/
  | noLevel
  /-- k0 named as a written predicate register (05_vector R168, 02 R59) -/
  | k0Destination
  /-- FCVT between two integer types (R56) -/
  | twoIntegerTypes
  /-- a FCVT rounding code of 6 or more (R56) -/
  | noRounding
  /-- an element-format or target code that is not assigned (R57, 05 R148) -/
  | noFormat
  /-- a condition or operation code that is not assigned (R53) -/
  | noOperation
  /-- a field the form does not use, not 0 (05 R166) -/
  | unusedField
  /-- a control register number that no chapter assigns (04 R112) -/
  | noControlRegister
deriving DecidableEq, Repr

/-- `none` when the field is below `n`, else the given reason. -/
def lim {w : Nat} (f : BitVec w) (n : Nat) (e : IllFormed) : Option IllFormed :=
  if f.toNat < n then none else some e

/-- k0 cannot be written (R59). -/
def k0Dest (k : BitVec 5) : Option IllFormed := if k = 0 then some .k0Destination else none

/-- The binary8 element-format codes 0xGP, G from 1 to 4 and P from 1 to 7 (R57). -/
def binary8Code (e : Nat) : Bool := decide (1 ≤ e / 16 ∧ e / 16 ≤ 4 ∧ 1 ≤ e % 16 ∧ e % 16 ≤ 7)

/-- The element-format codes SETVL accepts (05_vector R148). -/
def setvlFormat (e : Nat) : Bool := decide (e ≤ 7) || binary8Code e

/-- The element-format codes SETMVL accepts (R148). -/
def setmvlFormat (e : Nat) : Bool := decide (1 ≤ e ∧ e ≤ 6) || binary8Code e

/-- The target codes of VCVT (R57): a group 0 to 4 with a low field from 1 to 7, or .q. -/
def vcvtTarget (t : Nat) : Bool := decide (t / 8 ≤ 4 ∧ 1 ≤ t % 8) || decide (t = 63)

/-- The assigned control register numbers (04 R112, 05 R141, 07 R204, 08 R211, 09 R266, 10 R298, 11 R320,
14 R385, 15 R404, 16 R419, 17 R438).  Whether a core of the other kind has them is checked when the word runs. -/
def ctlAssigned (n : Nat) : Bool :=
  decide (n ≤ 0x00C ∨ (0x010 ≤ n ∧ n ≤ 0x014) ∨ n = 0x020 ∨ n = 0x021 ∨ (0x030 ≤ n ∧ n ≤ 0x038)
    ∨ (0x040 ≤ n ∧ n ≤ 0x045) ∨ (0x050 ≤ n ∧ n ≤ 0x052) ∨ (0x100 ≤ n ∧ n ≤ 0x102) ∨ (0x108 ≤ n ∧ n ≤ 0x10E)
    ∨ (0x140 ≤ n ∧ n ≤ 0x142) ∨ (0x180 ≤ n ∧ n ≤ 0x182) ∨ (0x1C0 ≤ n ∧ n ≤ 0x1C2) ∨ (0x1C4 ≤ n ∧ n ≤ 0x1C8)
    ∨ (0x200 ≤ n ∧ n ≤ 0x204) ∨ (0x240 ≤ n ∧ n ≤ 0x245) ∨ (0x248 ≤ n ∧ n ≤ 0x24D) ∨ (0x280 ≤ n ∧ n ≤ 0x285)
    ∨ (0x2C0 ≤ n ∧ n ≤ 0x2C4) ∨ (0x2C8 ≤ n ∧ n ≤ 0x2CB) ∨ (0x300 ≤ n ∧ n ≤ 0x302))

/-- The first check a term fails, if any.  An engine step is no word and has no check. -/
def Instr.check (i : Instr) : Option IllFormed :=
  match i with
  | .add _ _ _ => none
  | .sub _ _ _ => none
  | .mul _ _ _ => none
  | .mulh _ _ _ => none
  | .mulhu _ _ _ => none
  | .div _ _ _ => none
  | .divu _ _ _ => none
  | .rem _ _ _ => none
  | .remu _ _ _ => none
  | .and _ _ _ => none
  | .or _ _ _ => none
  | .xor _ _ _ => none
  | .andn _ _ _ => none
  | .shl _ _ _ => none
  | .shr _ _ _ => none
  | .sha _ _ _ => none
  | .rot _ _ _ => none
  | .slt _ _ _ => none
  | .sltu _ _ _ => none
  | .min _ _ _ => none
  | .max _ _ _ => none
  | .minu _ _ _ => none
  | .maxu _ _ _ => none
  | .clz _ _ => none
  | .ctz _ _ => none
  | .popc _ _ => none
  | .sext _ _ _ => none
  | .zext _ _ _ => none
  | .addi _ _ _ => none
  | .andi _ _ _ => none
  | .ori _ _ _ => none
  | .xori _ _ _ => none
  | .shli _ _ _ => none
  | .shri _ _ _ => none
  | .shai _ _ _ => none
  | .slti _ _ _ => none
  | .sltiu _ _ _ => none
  | .lih _ _ => none
  | .loxi _ _ => none
  | .loxiSh _ _ => none
  | .lox _ _ => none
  | .movox _ _ => none
  | .fadd _ _ _ _ => none
  | .fsub _ _ _ _ => none
  | .fmul _ _ _ _ => none
  | .fdiv _ _ _ _ => none
  | .fsqrt _ _ _ => none
  | .fmin _ _ _ _ => none
  | .fmax _ _ _ _ => none
  | .fcmp _ _ _ _ => none
  | .fclass _ _ _ => none
  | .ffma _ _ _ _ _ => none
  | .fcvt _ _ rm src dst => (lim rm 6 .noRounding).or (if 4 ≤ src.toNat ∧ 4 ≤ dst.toNat then some .twoIntegerTypes else none)
  | .ldb _ _ _ => none
  | .ldbu _ _ _ => none
  | .ldh _ _ _ => none
  | .ldhu _ _ _ => none
  | .ldw _ _ _ => none
  | .ldwu _ _ _ => none
  | .ldd _ _ _ => none
  | .stb _ _ _ _ => none
  | .sth _ _ _ _ => none
  | .stw _ _ _ _ => none
  | .std _ _ _ _ => none
  | .ldfe _ _ => none
  | .ldff _ _ => none
  | .stfe _ _ => none
  | .stff _ _ => none
  | .rsv _ _ _ _ => none
  | .rls _ _ _ => none
  | .aadd _ _ _ _ _ => none
  | .aswp _ _ _ _ _ => none
  | .acas _ _ _ _ _ => none
  | .aminSigned _ _ _ _ _ => none
  | .amaxSigned _ _ _ _ _ => none
  | .aminUnsigned _ _ _ _ _ => none
  | .amaxUnsigned _ _ _ _ _ => none
  | .beq _ _ _ _ => none
  | .bne _ _ _ _ => none
  | .blt _ _ _ _ => none
  | .bge _ _ _ _ => none
  | .bltu _ _ _ _ => none
  | .bgeu _ _ _ _ => none
  | .jal _ _ => none
  | .jalr _ _ _ => none
  | .svc _ => none
  | .brk _ => none
  | .rett => none
  | .waiti => none
  | .halt => none
  | .ipi _ _ => none
  | .ctlr _ reg => if ctlAssigned reg.toNat then none else some .noControlRegister
  | .ctlw _ _ reg => if ctlAssigned reg.toNat then none else some .noControlRegister
  | .ctlset _ _ reg => if ctlAssigned reg.toNat then none else some .noControlRegister
  | .ctlclr _ _ reg => if ctlAssigned reg.toNat then none else some .noControlRegister
  | .ctxsave _ _ _ => none
  | .ctxload _ _ _ => none
  | .amsend _ _ _ => none
  | .amret => none
  | .fenceI => none
  | .fenceSv => none
  | .fenceVs => none
  | .fenceVv => none
  | .fenceA => none
  | .acq _ _ => none
  | .rel _ _ => none
  | .scld _ _ => none
  | .scst _ _ => none
  | .scswp _ _ _ => none
  | .flushr _ _ => none
  | .setvl _ _ efmt => if setvlFormat efmt.toNat then none else some .noFormat
  | .setmvl _ _ efmt => if setmvlFormat efmt.toNat then none else some .noFormat
  | .vaddIvv _ _ _ _ _ => none
  | .vsubIvv _ _ _ _ _ => none
  | .vmulIvv _ _ _ _ _ => none
  | .vmulh _ _ _ _ _ => none
  | .vdivIvv _ _ _ _ _ => none
  | .vminIvv _ _ _ _ _ => none
  | .vmaxIvv _ _ _ _ _ => none
  | .vandIvv _ _ _ _ _ => none
  | .vor _ _ _ _ _ => none
  | .vxor _ _ _ _ _ => none
  | .vshlIvv _ _ _ _ _ => none
  | .vshrIvv _ _ _ _ _ => none
  | .vadds _ _ _ _ _ => none
  | .vsubs _ _ _ _ _ => none
  | .vaddIvx _ _ _ _ _ => none
  | .vsubIvx _ _ _ _ _ => none
  | .vmulIvx _ _ _ _ _ => none
  | .vminIvx _ _ _ _ _ => none
  | .vmaxIvx _ _ _ _ _ => none
  | .vandIvx _ _ _ _ _ => none
  | .vshlIvx _ _ _ _ _ => none
  | .vshrIvx _ _ _ _ _ => none
  | .vaddFvv _ _ _ _ => none
  | .vsubFvv _ _ _ _ => none
  | .vmulFvv _ _ _ _ => none
  | .vdivFvv _ _ _ _ => none
  | .vminFvv _ _ _ _ => none
  | .vmaxFvv _ _ _ _ => none
  | .vaddFvx _ _ _ _ => none
  | .vsubFvx _ _ _ _ => none
  | .vmulFvx _ _ _ _ => none
  | .vdivFvx _ _ _ _ => none
  | .vminFvx _ _ _ _ => none
  | .vmaxFvx _ _ _ _ => none
  | .vfma _ _ _ _ => none
  | .vfms _ _ _ _ => none
  | .vfnma _ _ _ _ => none
  | .vcmp vd _ _ _ _ cond => (lim cond 7 .noOperation).or (k0Dest vd)
  | .vsel _ _ _ _ => none
  | .vbcast _ _ _ _ => none
  | .vext _ _ _ _ => none
  | .vins _ _ _ => none
  | .vslideup _ _ _ _ => none
  | .vslidedn _ _ _ _ => none
  | .vperm _ _ _ => none
  | .vcompress _ _ _ => none
  | .vexpand _ _ _ => none
  | .viota _ _ => none
  | .vred _ _ _ _ op => lim op 6 .noOperation
  | .vscan _ _ _ _ op => lim op 6 .noOperation
  | .vdot _ _ _ _ _ => none
  | .vsqrt _ _ _ => none
  | .vrcp _ _ _ => none
  | .vrsq _ _ _ => none
  | .vexp2 _ _ _ => none
  | .vlog2 _ _ _ => none
  | .vcvt _ _ _ efc reset rm target => (if vcvtTarget target.toNat then none else some .noFormat).or (if rm = 3 ∨ (efc = 0 ∧ reset = 0) then none else some .unusedField)
  | .efget _ _ => none
  | .efset _ _ => none
  | .kand vd _ _ => k0Dest vd
  | .kor vd _ _ => k0Dest vd
  | .kxor vd _ _ => k0Dest vd
  | .kandn vd _ _ => k0Dest vd
  | .knot vd _ => k0Dest vd
  | .kmov vd _ => k0Dest vd
  | .kpop _ _ => none
  | .kfirst _ _ => none
  | .kset vd _ _ => k0Dest vd
  | .kget _ _ _ => none
  | .vld _ _ _ => none
  | .vlds _ _ _ _ => none
  | .vldx _ _ _ _ => none
  | .vldSl _ _ _ => none
  | .vst _ _ _ => none
  | .vsts _ _ _ _ => none
  | .vstx _ _ _ _ => none
  | .vstSl _ _ _ => none
  | .vldt _ _ _ _ => none
  | .vstt _ _ _ => none
  | .vldc _ _ _ _ => none
  | .vpf level _ _ => lim level 2 .noLevel
  | .vamo _ _ _ _ op _ => lim op 7 .noOperation
  | .vrdm _ _ _ _ op _ => lim op 6 .noOperation
  | .mzero c => lim c 4 .noAccumulator
  | .mwait c => lim c 4 .noAccumulator
  | .mprg c _ => lim c 4 .noAccumulator
  | .mhdr c _ => lim c 4 .noAccumulator
  | .mop c _ _ _ => lim c 4 .noAccumulator
  | .mopd c _ _ _ => lim c 4 .noAccumulator
  | .mops c _ _ _ => lim c 4 .noAccumulator
  | .mmas c _ _ _ _ => lim c 4 .noAccumulator
  | .mrd _ b _ => lim b 4 .noAccumulator
  | .mwr _ b _ => lim b 4 .noAccumulator
  | .mld c _ _ => lim c 4 .noAccumulator
  | .mst c _ _ _ => lim c 4 .noAccumulator
  | .cpy _ _ _ _ => none
  | .cpyf _ _ _ _ => none
  | .cpym _ _ _ _ => none
  | .cpys _ _ _ _ => none
  | .rowcls c => lim c 4 .noRowStream
  | .cpwait _ => none
  | .cpqry _ _ => none
  | .cbinit c _ _ => lim c 8 .noBuffer
  | .cbacq c role _ => (lim c 8 .noBuffer).or (lim role 2 .noRole)
  | .cbrel c role => (lim c 8 .noBuffer).or (lim role 2 .noRole)
  | .lfmt c _ _ => lim c 16 .noBank
  | .binit c _ => lim c 16 .noBarrier
  | .barv c _ => lim c 16 .noBarrier
  | .bwait c _ _ => lim c 16 .noBarrier
  | .bfree c => lim c 16 .noBarrier
  | .mbsend c _ _ => lim c 2 .noPriority
  | .mbrecv c _ _ => lim c 3 .noPriority
  | .mbpeek c _ => lim c 3 .noPriority
  | .gsub _ _ => none
  | .gdep _ _ _ => none
  | .gdone => none
  | .gwait _ _ => none
  | .sfdecl _ _ _ => none
  | .sfnext _ _ _ => none
  | .sfend _ _ => none
  | .ftset _ _ _ _ => none
  | .migr _ _ _ => none
  | .sample _ _ _ _ => none
  | .sampleDraft _ _ _ _ => none
  | .tkapp _ _ _ => none
  | .tkdraft _ _ _ => none
  | .tkconf _ _ _ => none
  | .wset _ _ _ => none
  | .wget _ _ _ => none
  | .sqfork _ _ _ => none
  | .sqstat _ _ _ => none
  | .sqiter _ _ _ => none
  | .dcapd _ _ _ => none
  | .dcapr _ _ => none
  | .dcapq _ _ => none
  | .trmark _ => none
  | .sliprd _ _ => none
  | .attest _ _ _ => none
  | .keynew _ _ => none
  | .keydel _ _ => none
  | .fuserd _ _ => none
  | .lcstat _ _ => none
  | .dbgunlk _ _ => none
  | .measx _ _ _ => none
  | .plbinv _ => none
  | .tlbinv _ _ => none
  | .pgwake _ _ => none
  | .pgqry _ _ => none
  | .pgpin _ _ _ => none
  | .mscfl _ _ _ => none
  | .hbmslot _ _ _ => none
  | .tenset _ _ _ => none
  | .vcres _ _ _ => none
  | .cMv _ _ => none
  | .cAdd _ _ => none
  | .cSub _ _ => none
  | .cAnd _ _ => none
  | .cOr _ _ => none
  | .cXor _ _ => none
  | .cSlt _ _ => none
  | .cLi _ _ => none
  | .cAddi _ _ => none
  | .cShli _ _ => none
  | .cShri _ _ => none
  | .cShai _ _ => none
  | .cLdw _ _ => none
  | .cLdd _ _ => none
  | .cStw _ _ => none
  | .cStd _ _ => none
  | .cLdsp _ _ => none
  | .cStsp _ _ => none
  | .cBeqz _ _ => none
  | .cBnez _ _ => none
  | .cJr _ => none
  | .cJal _ => none
  | .cAddsp _ => none
  | .cNeg _ _ => none
  | .interruptEntry _ _ => none
  | .timerInterrupt _ _ => none
  | .vectorEntryComplete _ _ => none
  | .eptimeout _ _ => none
  | .laneGrant _ => none
  | .asyncFaultTrap _ _ => none
  | .asyncPageFaultDrop _ _ => none
  | .walkComplete _ => none
  | .plbFill _ _ => none
  | .faultRecordWrite _ => none
  | .matrixCmdAccept _ _ => none
  | .matrixCmdPerform _ => none
  | .mmasKrowApply _ => none
  | .matrixCmdFinish _ => none
  | .copyCmdAccept _ _ => none
  | .copyChunkRegister _ _ => none
  | .copyFollowonIssue _ _ => none
  | .copySlotTake _ _ => none
  | .mergeEntryClose _ => none
  | .mergeRequest _ _ => none
  | .feAccessArrive _ => none
  | .fetimeout _ _ => none
  | .feCancel _ => none
  | .rsvRequest _ _ => none
  | .rsvGrant _ _ => none
  | .mailboxArrival _ => none
  | .amArrival _ => none
  | .amHandlerStart _ => none
  | .registration _ => none
  | .revocationNotice _ => none
  | .homeReadResponse _ _ => none
  | .scWindowDeliver => none
  | .hostPostedWrite _ _ _ _ => none
  | .hostWritePerform _ _ => none
  | .hostRead _ _ _ => none
  | .spillWritebackDone _ => none
  | .channelSlotBoundary _ => none
  | .packetRoute _ => none
  | .escapeChannelMove _ => none
  | .flitReceive _ _ => none
  | .msgSwitchArrival _ => none
  | .ualinkMessageReceive _ _ => none
  | .ptpMessageReceive _ _ => none
  | .ppsEdge => none
  | .timeSyncLoss => none
  | .submitRecord _ => none
  | .placementDecision => none
  | .firingSlotBoundary => none
  | .migrationTransfer _ => none
  | .debugHoldNotice _ => none
  | .breakpointStop _ _ => none
  | .debugPortCommand _ _ _ _ => none
  | .dbgHalt _ _ => none
  | .dbgResume _ _ => none
  | .rdreg _ _ => none
  | .wrreg _ _ => none
  | .dbgCancel _ _ => none
  | .setbp _ _ => none
  | .clrbp _ _ => none
  | .brkcap _ _ => none
  | .trset _ _ => none
  | .pcreate => none
  | .pdissolve => none
  | .tplace => none
  | .tremove => none
  | .reserve => none
  | .release => none
  | .hwgrant => none
  | .mboxStatus _ => none
  | .logread _ => none
  | .stage _ => none
  | .mboxBoot _ => none
  | .dcmd _ => none
  | .route _ => none
  | .mboxBadCommand _ => none
  | .pcieConfigAccess _ _ _ _ => none
  | .powerOn => none
  | .packageReset => none
  | .calibrationComplete _ => none
  | .correctedErrorEvent _ _ _ => none
  | .powerCapLower _ => none
  | .powerCapRaise => none
  | .lockBroken _ => none
  | .ipendClear _ _ _ => none
  | .vqpop _ _ _ => none
  | .fqtailWrite _ _ _ => none
  | .trtailWrite _ _ _ => none
  | .shrent2Write _ _ _ => none
  | .svpop _ _ _ => none
  | .ipointWrite _ _ _ => none
  | .registerWrite _ _ _ _ => none
  | .vamoVrdmElementAtHome _ => none
  | .debugHoldWithdrawal _ => none
  | .linkFrameBoundary => none
  | .ualinkRemoteRequest _ => none
  | .spareTakeover _ _ => none

/-- A term that is an instruction, or an engine step. -/
def Instr.wellFormed (i : Instr) : Bool := i.check = none

end Sys2Proof
end

