-- ==== Sys2Proof/Decode.lean ====
section
/-! DEFINITION. Decoding of instruction words (02_words R40-R60): total, with every word that is no instruction
refused by name; and the encoder, written from the same formats. -/

namespace Sys2Proof

/-- Why bytes are not an instruction.  Each of these is an ILLEGAL trap (02_words R59). -/
inductive DecodeError where
  /-- a major opcode R52 marks reserved -/
  | reservedMajor
  /-- a selector value that is not assigned, or a field the form marks 0 that is not 0 -/
  | unassigned
  /-- a 16-bit word whose op5 is 0 or 25 to 31, or c.jr with b not 0 -/
  | unassigned16
  /-- a field names something absent -/
  | illFormed (e : IllFormed)
  /-- there are not enough bytes -/
  | short
deriving DecidableEq, Repr

/-- The field of `n` bits at bit `lo` of a word. -/
def fld (w lo n : Nat) : Nat := w / 2 ^ lo % 2 ^ n

/-- The field of `n` bits at bit `lo`, as a bit vector. -/
def bvf (w lo n : Nat) : BitVec n := BitVec.ofNat n (fld w lo n)

/-- The words of major opcode 0x01 (R53): ADD, SUB, MUL, MULH, MULHU, DIV, DIVU, REM, REMU, AND, OR, XOR, ANDN, SHL, SHR, SHA, ROT, SLT, SLTU, MIN, MAX, MINU, MAXU, CLZ, CTZ, POPC, SEXT, ZEXT. -/
def decodeMajor01 (w : Nat) : Except DecodeError Instr :=
  if fld w 26 6 = 0 then .ok (.add (bvf w 8 6) (bvf w 14 6) (bvf w 20 6)) else
  if fld w 26 6 = 1 then .ok (.sub (bvf w 8 6) (bvf w 14 6) (bvf w 20 6)) else
  if fld w 26 6 = 2 then .ok (.mul (bvf w 8 6) (bvf w 14 6) (bvf w 20 6)) else
  if fld w 26 6 = 3 then .ok (.mulh (bvf w 8 6) (bvf w 14 6) (bvf w 20 6)) else
  if fld w 26 6 = 4 then .ok (.mulhu (bvf w 8 6) (bvf w 14 6) (bvf w 20 6)) else
  if fld w 26 6 = 5 then .ok (.div (bvf w 8 6) (bvf w 14 6) (bvf w 20 6)) else
  if fld w 26 6 = 6 then .ok (.divu (bvf w 8 6) (bvf w 14 6) (bvf w 20 6)) else
  if fld w 26 6 = 7 then .ok (.rem (bvf w 8 6) (bvf w 14 6) (bvf w 20 6)) else
  if fld w 26 6 = 8 then .ok (.remu (bvf w 8 6) (bvf w 14 6) (bvf w 20 6)) else
  if fld w 26 6 = 9 then .ok (.and (bvf w 8 6) (bvf w 14 6) (bvf w 20 6)) else
  if fld w 26 6 = 10 then .ok (.or (bvf w 8 6) (bvf w 14 6) (bvf w 20 6)) else
  if fld w 26 6 = 11 then .ok (.xor (bvf w 8 6) (bvf w 14 6) (bvf w 20 6)) else
  if fld w 26 6 = 12 then .ok (.andn (bvf w 8 6) (bvf w 14 6) (bvf w 20 6)) else
  if fld w 26 6 = 13 then .ok (.shl (bvf w 8 6) (bvf w 14 6) (bvf w 20 6)) else
  if fld w 26 6 = 14 then .ok (.shr (bvf w 8 6) (bvf w 14 6) (bvf w 20 6)) else
  if fld w 26 6 = 15 then .ok (.sha (bvf w 8 6) (bvf w 14 6) (bvf w 20 6)) else
  if fld w 26 6 = 16 then .ok (.rot (bvf w 8 6) (bvf w 14 6) (bvf w 20 6)) else
  if fld w 26 6 = 17 then .ok (.slt (bvf w 8 6) (bvf w 14 6) (bvf w 20 6)) else
  if fld w 26 6 = 18 then .ok (.sltu (bvf w 8 6) (bvf w 14 6) (bvf w 20 6)) else
  if fld w 26 6 = 19 then .ok (.min (bvf w 8 6) (bvf w 14 6) (bvf w 20 6)) else
  if fld w 26 6 = 20 then .ok (.max (bvf w 8 6) (bvf w 14 6) (bvf w 20 6)) else
  if fld w 26 6 = 21 then .ok (.minu (bvf w 8 6) (bvf w 14 6) (bvf w 20 6)) else
  if fld w 26 6 = 22 then .ok (.maxu (bvf w 8 6) (bvf w 14 6) (bvf w 20 6)) else
  if fld w 20 12 = 1472 then .ok (.clz (bvf w 8 6) (bvf w 14 6)) else
  if fld w 20 12 = 1536 then .ok (.ctz (bvf w 8 6) (bvf w 14 6)) else
  if fld w 20 12 = 1600 then .ok (.popc (bvf w 8 6) (bvf w 14 6)) else
  if fld w 26 6 = 26 then .ok (.sext (bvf w 8 6) (bvf w 14 6) (bvf w 20 6)) else
  if fld w 26 6 = 27 then .ok (.zext (bvf w 8 6) (bvf w 14 6) (bvf w 20 6)) else
  .error .unassigned

/-- The words of major opcode 0x02 (R53): ADDI. -/
def decodeMajor02 (w : Nat) : Except DecodeError Instr :=
  .ok (.addi (bvf w 8 6) (bvf w 14 6) (bvf w 20 12))

/-- The words of major opcode 0x03 (R53): ANDI. -/
def decodeMajor03 (w : Nat) : Except DecodeError Instr :=
  .ok (.andi (bvf w 8 6) (bvf w 14 6) (bvf w 20 12))

/-- The words of major opcode 0x04 (R53): ORI. -/
def decodeMajor04 (w : Nat) : Except DecodeError Instr :=
  .ok (.ori (bvf w 8 6) (bvf w 14 6) (bvf w 20 12))

/-- The words of major opcode 0x05 (R53): XORI. -/
def decodeMajor05 (w : Nat) : Except DecodeError Instr :=
  .ok (.xori (bvf w 8 6) (bvf w 14 6) (bvf w 20 12))

/-- The words of major opcode 0x06 (R53): SHLI, SHRI, SHAI. -/
def decodeMajor06 (w : Nat) : Except DecodeError Instr :=
  if fld w 26 6 = 0 then .ok (.shli (bvf w 8 6) (bvf w 14 6) (bvf w 20 6)) else
  if fld w 26 6 = 1 then .ok (.shri (bvf w 8 6) (bvf w 14 6) (bvf w 20 6)) else
  if fld w 26 6 = 2 then .ok (.shai (bvf w 8 6) (bvf w 14 6) (bvf w 20 6)) else
  .error .unassigned

/-- The words of major opcode 0x07 (R53): SLTI. -/
def decodeMajor07 (w : Nat) : Except DecodeError Instr :=
  .ok (.slti (bvf w 8 6) (bvf w 14 6) (bvf w 20 12))

/-- The words of major opcode 0x08 (R53): SLTIU. -/
def decodeMajor08 (w : Nat) : Except DecodeError Instr :=
  .ok (.sltiu (bvf w 8 6) (bvf w 14 6) (bvf w 20 12))

/-- The words of major opcode 0x09 (R53): LIH. -/
def decodeMajor09 (w : Nat) : Except DecodeError Instr :=
  .ok (.lih (bvf w 8 6) (bvf w 14 18))

/-- The words of major opcode 0x0A (R53): LOXI, LOXI_SH. -/
def decodeMajor0A (w : Nat) : Except DecodeError Instr :=
  if fld w 8 3 = 0 then .ok (.loxi (bvf w 11 3) (bvf w 14 18)) else
  if fld w 8 3 = 1 then .ok (.loxiSh (bvf w 11 3) (bvf w 14 18)) else
  .error .unassigned

/-- The words of major opcode 0x0B (R53): LOX, MOVOX. -/
def decodeMajor0B (w : Nat) : Except DecodeError Instr :=
  if fld w 11 3 = 0 ∧ fld w 20 12 = 0 then .ok (.lox (bvf w 8 3) (bvf w 14 6)) else
  if fld w 11 3 = 0 ∧ fld w 17 15 = 512 then .ok (.movox (bvf w 8 3) (bvf w 14 3)) else
  .error .unassigned

/-- The words of major opcode 0x10 (R53): FADD, FSUB, FMUL, FDIV, FSQRT, FMIN, FMAX, FCMP, FCLASS. -/
def decodeMajor10 (w : Nat) : Except DecodeError Instr :=
  if fld w 26 4 = 0 then .ok (.fadd (bvf w 8 6) (bvf w 14 6) (bvf w 20 6) (bvf w 30 2)) else
  if fld w 26 4 = 1 then .ok (.fsub (bvf w 8 6) (bvf w 14 6) (bvf w 20 6) (bvf w 30 2)) else
  if fld w 26 4 = 2 then .ok (.fmul (bvf w 8 6) (bvf w 14 6) (bvf w 20 6) (bvf w 30 2)) else
  if fld w 26 4 = 3 then .ok (.fdiv (bvf w 8 6) (bvf w 14 6) (bvf w 20 6) (bvf w 30 2)) else
  if fld w 20 10 = 256 then .ok (.fsqrt (bvf w 8 6) (bvf w 14 6) (bvf w 30 2)) else
  if fld w 26 4 = 5 then .ok (.fmin (bvf w 8 6) (bvf w 14 6) (bvf w 20 6) (bvf w 30 2)) else
  if fld w 26 4 = 6 then .ok (.fmax (bvf w 8 6) (bvf w 14 6) (bvf w 20 6) (bvf w 30 2)) else
  if fld w 26 4 = 7 then .ok (.fcmp (bvf w 8 6) (bvf w 14 6) (bvf w 20 6) (bvf w 30 2)) else
  if fld w 20 10 = 512 then .ok (.fclass (bvf w 8 6) (bvf w 14 6) (bvf w 30 2)) else
  .error .unassigned

/-- The words of major opcode 0x11 (R53): FFMA. -/
def decodeMajor11 (w : Nat) : Except DecodeError Instr :=
  .ok (.ffma (bvf w 8 6) (bvf w 14 6) (bvf w 20 6) (bvf w 26 4) (bvf w 30 2))

/-- The words of major opcode 0x12 (R53): FCVT. -/
def decodeMajor12 (w : Nat) : Except DecodeError Instr :=
  .ok (.fcvt (bvf w 8 6) (bvf w 14 6) (bvf w 20 6) (bvf w 26 3) (bvf w 29 3))

/-- The words of major opcode 0x18 (R53): LDB. -/
def decodeMajor18 (w : Nat) : Except DecodeError Instr :=
  .ok (.ldb (bvf w 8 6) (bvf w 14 6) (bvf w 20 12))

/-- The words of major opcode 0x19 (R53): LDBU. -/
def decodeMajor19 (w : Nat) : Except DecodeError Instr :=
  .ok (.ldbu (bvf w 8 6) (bvf w 14 6) (bvf w 20 12))

/-- The words of major opcode 0x1A (R53): LDH. -/
def decodeMajor1A (w : Nat) : Except DecodeError Instr :=
  .ok (.ldh (bvf w 8 6) (bvf w 14 6) (bvf w 20 12))

/-- The words of major opcode 0x1B (R53): LDHU. -/
def decodeMajor1B (w : Nat) : Except DecodeError Instr :=
  .ok (.ldhu (bvf w 8 6) (bvf w 14 6) (bvf w 20 12))

/-- The words of major opcode 0x1C (R53): LDW. -/
def decodeMajor1C (w : Nat) : Except DecodeError Instr :=
  .ok (.ldw (bvf w 8 6) (bvf w 14 6) (bvf w 20 12))

/-- The words of major opcode 0x1D (R53): LDWU. -/
def decodeMajor1D (w : Nat) : Except DecodeError Instr :=
  .ok (.ldwu (bvf w 8 6) (bvf w 14 6) (bvf w 20 12))

/-- The words of major opcode 0x1E (R53): LDD. -/
def decodeMajor1E (w : Nat) : Except DecodeError Instr :=
  .ok (.ldd (bvf w 8 6) (bvf w 14 6) (bvf w 20 12))

/-- The words of major opcode 0x1F (R53): STB. -/
def decodeMajor1F (w : Nat) : Except DecodeError Instr :=
  .ok (.stb (bvf w 8 6) (bvf w 14 6) (bvf w 20 6) (bvf w 26 6))

/-- The words of major opcode 0x20 (R53): STH. -/
def decodeMajor20 (w : Nat) : Except DecodeError Instr :=
  .ok (.sth (bvf w 8 6) (bvf w 14 6) (bvf w 20 6) (bvf w 26 6))

/-- The words of major opcode 0x21 (R53): STW. -/
def decodeMajor21 (w : Nat) : Except DecodeError Instr :=
  .ok (.stw (bvf w 8 6) (bvf w 14 6) (bvf w 20 6) (bvf w 26 6))

/-- The words of major opcode 0x22 (R53): STD. -/
def decodeMajor22 (w : Nat) : Except DecodeError Instr :=
  .ok (.std (bvf w 8 6) (bvf w 14 6) (bvf w 20 6) (bvf w 26 6))

/-- The words of major opcode 0x23 (R53): LDFE, LDFF. -/
def decodeMajor23 (w : Nat) : Except DecodeError Instr :=
  if fld w 20 12 = 0 then .ok (.ldfe (bvf w 8 6) (bvf w 14 6)) else
  if fld w 20 12 = 64 then .ok (.ldff (bvf w 8 6) (bvf w 14 6)) else
  .error .unassigned

/-- The words of major opcode 0x24 (R53): STFE, STFF. -/
def decodeMajor24 (w : Nat) : Except DecodeError Instr :=
  if fld w 8 6 = 0 ∧ fld w 26 6 = 0 then .ok (.stfe (bvf w 14 6) (bvf w 20 6)) else
  if fld w 8 6 = 0 ∧ fld w 26 6 = 1 then .ok (.stff (bvf w 14 6) (bvf w 20 6)) else
  .error .unassigned

/-- The words of major opcode 0x25 (R53): RSV. -/
def decodeMajor25 (w : Nat) : Except DecodeError Instr :=
  if fld w 28 4 = 0 then .ok (.rsv (bvf w 8 6) (bvf w 14 6) (bvf w 20 6) (bvf w 26 2)) else
  .error .unassigned

/-- The words of major opcode 0x26 (R53): RLS. -/
def decodeMajor26 (w : Nat) : Except DecodeError Instr :=
  if fld w 8 6 = 0 ∧ fld w 28 4 = 0 then .ok (.rls (bvf w 14 6) (bvf w 20 6) (bvf w 26 2)) else
  .error .unassigned

/-- The words of major opcode 0x27 (R53): AADD, ASWP, ACAS, AMIN_SIGNED, AMAX_SIGNED, AMIN_UNSIGNED, AMAX_UNSIGNED. -/
def decodeMajor27 (w : Nat) : Except DecodeError Instr :=
  if fld w 29 3 = 0 then .ok (.aadd (bvf w 8 6) (bvf w 14 6) (bvf w 20 6) (bvf w 26 1) (bvf w 27 2)) else
  if fld w 29 3 = 1 then .ok (.aswp (bvf w 8 6) (bvf w 14 6) (bvf w 20 6) (bvf w 26 1) (bvf w 27 2)) else
  if fld w 29 3 = 2 then .ok (.acas (bvf w 8 6) (bvf w 14 6) (bvf w 20 6) (bvf w 26 1) (bvf w 27 2)) else
  if fld w 29 3 = 3 then .ok (.aminSigned (bvf w 8 6) (bvf w 14 6) (bvf w 20 6) (bvf w 26 1) (bvf w 27 2)) else
  if fld w 29 3 = 4 then .ok (.amaxSigned (bvf w 8 6) (bvf w 14 6) (bvf w 20 6) (bvf w 26 1) (bvf w 27 2)) else
  if fld w 29 3 = 5 then .ok (.aminUnsigned (bvf w 8 6) (bvf w 14 6) (bvf w 20 6) (bvf w 26 1) (bvf w 27 2)) else
  if fld w 29 3 = 6 then .ok (.amaxUnsigned (bvf w 8 6) (bvf w 14 6) (bvf w 20 6) (bvf w 26 1) (bvf w 27 2)) else
  .error .unassigned

/-- The words of major opcode 0x28 (R53): BEQ. -/
def decodeMajor28 (w : Nat) : Except DecodeError Instr :=
  .ok (.beq (bvf w 8 6) (bvf w 14 6) (bvf w 20 6) (bvf w 26 6))

/-- The words of major opcode 0x29 (R53): BNE. -/
def decodeMajor29 (w : Nat) : Except DecodeError Instr :=
  .ok (.bne (bvf w 8 6) (bvf w 14 6) (bvf w 20 6) (bvf w 26 6))

/-- The words of major opcode 0x2A (R53): BLT. -/
def decodeMajor2A (w : Nat) : Except DecodeError Instr :=
  .ok (.blt (bvf w 8 6) (bvf w 14 6) (bvf w 20 6) (bvf w 26 6))

/-- The words of major opcode 0x2B (R53): BGE. -/
def decodeMajor2B (w : Nat) : Except DecodeError Instr :=
  .ok (.bge (bvf w 8 6) (bvf w 14 6) (bvf w 20 6) (bvf w 26 6))

/-- The words of major opcode 0x2C (R53): BLTU. -/
def decodeMajor2C (w : Nat) : Except DecodeError Instr :=
  .ok (.bltu (bvf w 8 6) (bvf w 14 6) (bvf w 20 6) (bvf w 26 6))

/-- The words of major opcode 0x2D (R53): BGEU. -/
def decodeMajor2D (w : Nat) : Except DecodeError Instr :=
  .ok (.bgeu (bvf w 8 6) (bvf w 14 6) (bvf w 20 6) (bvf w 26 6))

/-- The words of major opcode 0x2E (R53): JAL. -/
def decodeMajor2E (w : Nat) : Except DecodeError Instr :=
  .ok (.jal (bvf w 8 6) (bvf w 14 18))

/-- The words of major opcode 0x2F (R53): JALR. -/
def decodeMajor2F (w : Nat) : Except DecodeError Instr :=
  .ok (.jalr (bvf w 8 6) (bvf w 14 6) (bvf w 20 12))

/-- The words of major opcode 0x30 (R53): SVC, BRK, RETT, WAITI, HALT, IPI. -/
def decodeMajor30 (w : Nat) : Except DecodeError Instr :=
  if fld w 8 6 = 0 ∧ fld w 20 12 = 0 then .ok (.svc (bvf w 14 6)) else
  if fld w 8 6 = 0 ∧ fld w 20 12 = 64 then .ok (.brk (bvf w 14 6)) else
  if fld w 8 24 = 524288 then .ok (.rett) else
  if fld w 8 24 = 786432 then .ok (.waiti) else
  if fld w 8 24 = 1048576 then .ok (.halt) else
  if fld w 8 6 = 0 ∧ fld w 26 6 = 5 then .ok (.ipi (bvf w 14 6) (bvf w 20 6)) else
  .error .unassigned

/-- The words of major opcode 0x31 (R53): CTLR, CTLW, CTLSET, CTLCLR. -/
def decodeMajor31 (w : Nat) : Except DecodeError Instr :=
  if fld w 14 6 = 0 ∧ fld w 30 2 = 0 then .ok (.ctlr (bvf w 8 6) (bvf w 20 10)) else
  if fld w 30 2 = 1 then .ok (.ctlw (bvf w 8 6) (bvf w 14 6) (bvf w 20 10)) else
  if fld w 30 2 = 2 then .ok (.ctlset (bvf w 8 6) (bvf w 14 6) (bvf w 20 10)) else
  if fld w 30 2 = 3 then .ok (.ctlclr (bvf w 8 6) (bvf w 14 6) (bvf w 20 10)) else
  .error .unassigned

/-- The words of major opcode 0x32 (R53): CTXSAVE, CTXLOAD. -/
def decodeMajor32 (w : Nat) : Except DecodeError Instr :=
  if fld w 26 6 = 0 then .ok (.ctxsave (bvf w 8 6) (bvf w 14 6) (bvf w 20 6)) else
  if fld w 26 6 = 1 then .ok (.ctxload (bvf w 8 6) (bvf w 14 6) (bvf w 20 6)) else
  .error .unassigned

/-- The words of major opcode 0x33 (R53): AMSEND, AMRET. -/
def decodeMajor33 (w : Nat) : Except DecodeError Instr :=
  if fld w 18 5 = 0 ∧ fld w 26 6 = 0 then .ok (.amsend (bvf w 8 5) (bvf w 13 5) (bvf w 23 3)) else
  if fld w 8 24 = 262144 then .ok (.amret) else
  .error .unassigned

/-- The words of major opcode 0x34 (R53): FENCE_I, FENCE_SV, FENCE_VS, FENCE_VV, FENCE_A. -/
def decodeMajor34 (w : Nat) : Except DecodeError Instr :=
  if fld w 8 24 = 0 then .ok (.fenceI) else
  if fld w 8 24 = 262144 then .ok (.fenceSv) else
  if fld w 8 24 = 524288 then .ok (.fenceVs) else
  if fld w 8 24 = 786432 then .ok (.fenceVv) else
  if fld w 8 24 = 1048576 then .ok (.fenceA) else
  .error .unassigned

/-- The words of major opcode 0x35 (R53): ACQ, REL. -/
def decodeMajor35 (w : Nat) : Except DecodeError Instr :=
  if fld w 10 10 = 0 then .ok (.acq (bvf w 8 2) (bvf w 20 12)) else
  if fld w 10 10 = 2 then .ok (.rel (bvf w 8 2) (bvf w 20 12)) else
  .error .unassigned

/-- The words of major opcode 0x36 (R53): SCLD, SCST, SCSWP. -/
def decodeMajor36 (w : Nat) : Except DecodeError Instr :=
  if fld w 20 12 = 0 then .ok (.scld (bvf w 8 6) (bvf w 14 6)) else
  if fld w 8 6 = 0 ∧ fld w 26 6 = 1 then .ok (.scst (bvf w 14 6) (bvf w 20 6)) else
  if fld w 26 6 = 2 then .ok (.scswp (bvf w 8 6) (bvf w 14 6) (bvf w 20 6)) else
  .error .unassigned

/-- The words of major opcode 0x37 (R53): FLUSHR. -/
def decodeMajor37 (w : Nat) : Except DecodeError Instr :=
  if fld w 10 10 = 0 then .ok (.flushr (bvf w 8 2) (bvf w 20 12)) else
  .error .unassigned

/-- The words of major opcode 0x40 (R53): SETVL, SETMVL. -/
def decodeMajor40 (w : Nat) : Except DecodeError Instr :=
  if fld w 28 4 = 0 then .ok (.setvl (bvf w 8 6) (bvf w 14 6) (bvf w 20 8)) else
  if fld w 28 4 = 8 then .ok (.setmvl (bvf w 8 6) (bvf w 14 6) (bvf w 20 8)) else
  .error .unassigned

/-- The words of major opcode 0x41 (R53): VADD_IVV, VSUB_IVV, VMUL_IVV, VMULH, VDIV_IVV, VMIN_IVV, VMAX_IVV, VAND_IVV, VOR, VXOR, VSHL_IVV, VSHR_IVV, VADDS, VSUBS. -/
def decodeMajor41 (w : Nat) : Except DecodeError Instr :=
  if fld w 28 4 = 0 then .ok (.vaddIvv (bvf w 8 5) (bvf w 13 5) (bvf w 18 5) (bvf w 23 4) (bvf w 27 1)) else
  if fld w 28 4 = 1 then .ok (.vsubIvv (bvf w 8 5) (bvf w 13 5) (bvf w 18 5) (bvf w 23 4) (bvf w 27 1)) else
  if fld w 28 4 = 2 then .ok (.vmulIvv (bvf w 8 5) (bvf w 13 5) (bvf w 18 5) (bvf w 23 4) (bvf w 27 1)) else
  if fld w 28 4 = 3 then .ok (.vmulh (bvf w 8 5) (bvf w 13 5) (bvf w 18 5) (bvf w 23 4) (bvf w 27 1)) else
  if fld w 28 4 = 4 then .ok (.vdivIvv (bvf w 8 5) (bvf w 13 5) (bvf w 18 5) (bvf w 23 4) (bvf w 27 1)) else
  if fld w 28 4 = 5 then .ok (.vminIvv (bvf w 8 5) (bvf w 13 5) (bvf w 18 5) (bvf w 23 4) (bvf w 27 1)) else
  if fld w 28 4 = 6 then .ok (.vmaxIvv (bvf w 8 5) (bvf w 13 5) (bvf w 18 5) (bvf w 23 4) (bvf w 27 1)) else
  if fld w 28 4 = 7 then .ok (.vandIvv (bvf w 8 5) (bvf w 13 5) (bvf w 18 5) (bvf w 23 4) (bvf w 27 1)) else
  if fld w 28 4 = 8 then .ok (.vor (bvf w 8 5) (bvf w 13 5) (bvf w 18 5) (bvf w 23 4) (bvf w 27 1)) else
  if fld w 28 4 = 9 then .ok (.vxor (bvf w 8 5) (bvf w 13 5) (bvf w 18 5) (bvf w 23 4) (bvf w 27 1)) else
  if fld w 28 4 = 10 then .ok (.vshlIvv (bvf w 8 5) (bvf w 13 5) (bvf w 18 5) (bvf w 23 4) (bvf w 27 1)) else
  if fld w 28 4 = 11 then .ok (.vshrIvv (bvf w 8 5) (bvf w 13 5) (bvf w 18 5) (bvf w 23 4) (bvf w 27 1)) else
  if fld w 28 4 = 12 then .ok (.vadds (bvf w 8 5) (bvf w 13 5) (bvf w 18 5) (bvf w 23 4) (bvf w 27 1)) else
  if fld w 28 4 = 13 then .ok (.vsubs (bvf w 8 5) (bvf w 13 5) (bvf w 18 5) (bvf w 23 4) (bvf w 27 1)) else
  .error .unassigned

/-- The words of major opcode 0x42 (R53): VADD_IVX, VSUB_IVX, VMUL_IVX, VMIN_IVX, VMAX_IVX, VAND_IVX, VSHL_IVX, VSHR_IVX. -/
def decodeMajor42 (w : Nat) : Except DecodeError Instr :=
  if fld w 23 3 = 0 then .ok (.vaddIvx (bvf w 8 5) (bvf w 13 5) (bvf w 18 4) (bvf w 22 1) (bvf w 26 6)) else
  if fld w 23 3 = 1 then .ok (.vsubIvx (bvf w 8 5) (bvf w 13 5) (bvf w 18 4) (bvf w 22 1) (bvf w 26 6)) else
  if fld w 23 3 = 2 then .ok (.vmulIvx (bvf w 8 5) (bvf w 13 5) (bvf w 18 4) (bvf w 22 1) (bvf w 26 6)) else
  if fld w 23 3 = 3 then .ok (.vminIvx (bvf w 8 5) (bvf w 13 5) (bvf w 18 4) (bvf w 22 1) (bvf w 26 6)) else
  if fld w 23 3 = 4 then .ok (.vmaxIvx (bvf w 8 5) (bvf w 13 5) (bvf w 18 4) (bvf w 22 1) (bvf w 26 6)) else
  if fld w 23 3 = 5 then .ok (.vandIvx (bvf w 8 5) (bvf w 13 5) (bvf w 18 4) (bvf w 22 1) (bvf w 26 6)) else
  if fld w 23 3 = 6 then .ok (.vshlIvx (bvf w 8 5) (bvf w 13 5) (bvf w 18 4) (bvf w 22 1) (bvf w 26 6)) else
  if fld w 23 3 = 7 then .ok (.vshrIvx (bvf w 8 5) (bvf w 13 5) (bvf w 18 4) (bvf w 22 1) (bvf w 26 6)) else
  .error .unassigned

/-- The words of major opcode 0x43 (R53): VADD_FVV, VSUB_FVV, VMUL_FVV, VDIV_FVV, VMIN_FVV, VMAX_FVV. -/
def decodeMajor43 (w : Nat) : Except DecodeError Instr :=
  if fld w 28 4 = 0 then .ok (.vaddFvv (bvf w 8 5) (bvf w 13 5) (bvf w 18 5) (bvf w 23 5)) else
  if fld w 28 4 = 1 then .ok (.vsubFvv (bvf w 8 5) (bvf w 13 5) (bvf w 18 5) (bvf w 23 5)) else
  if fld w 28 4 = 2 then .ok (.vmulFvv (bvf w 8 5) (bvf w 13 5) (bvf w 18 5) (bvf w 23 5)) else
  if fld w 28 4 = 3 then .ok (.vdivFvv (bvf w 8 5) (bvf w 13 5) (bvf w 18 5) (bvf w 23 5)) else
  if fld w 28 4 = 4 then .ok (.vminFvv (bvf w 8 5) (bvf w 13 5) (bvf w 18 5) (bvf w 23 5)) else
  if fld w 28 4 = 5 then .ok (.vmaxFvv (bvf w 8 5) (bvf w 13 5) (bvf w 18 5) (bvf w 23 5)) else
  .error .unassigned

/-- The words of major opcode 0x44 (R53): VADD_FVX, VSUB_FVX, VMUL_FVX, VDIV_FVX, VMIN_FVX, VMAX_FVX. -/
def decodeMajor44 (w : Nat) : Except DecodeError Instr :=
  if fld w 23 3 = 0 then .ok (.vaddFvx (bvf w 8 5) (bvf w 13 5) (bvf w 18 5) (bvf w 26 6)) else
  if fld w 23 3 = 1 then .ok (.vsubFvx (bvf w 8 5) (bvf w 13 5) (bvf w 18 5) (bvf w 26 6)) else
  if fld w 23 3 = 2 then .ok (.vmulFvx (bvf w 8 5) (bvf w 13 5) (bvf w 18 5) (bvf w 26 6)) else
  if fld w 23 3 = 3 then .ok (.vdivFvx (bvf w 8 5) (bvf w 13 5) (bvf w 18 5) (bvf w 26 6)) else
  if fld w 23 3 = 4 then .ok (.vminFvx (bvf w 8 5) (bvf w 13 5) (bvf w 18 5) (bvf w 26 6)) else
  if fld w 23 3 = 5 then .ok (.vmaxFvx (bvf w 8 5) (bvf w 13 5) (bvf w 18 5) (bvf w 26 6)) else
  .error .unassigned

/-- The words of major opcode 0x45 (R53): VFMA, VFMS, VFNMA. -/
def decodeMajor45 (w : Nat) : Except DecodeError Instr :=
  if fld w 28 4 = 0 then .ok (.vfma (bvf w 8 5) (bvf w 13 5) (bvf w 18 5) (bvf w 23 5)) else
  if fld w 28 4 = 1 then .ok (.vfms (bvf w 8 5) (bvf w 13 5) (bvf w 18 5) (bvf w 23 5)) else
  if fld w 28 4 = 2 then .ok (.vfnma (bvf w 8 5) (bvf w 13 5) (bvf w 18 5) (bvf w 23 5)) else
  .error .unassigned

/-- The words of major opcode 0x46 (R53): VCMP. -/
def decodeMajor46 (w : Nat) : Except DecodeError Instr :=
  .ok (.vcmp (bvf w 8 5) (bvf w 13 5) (bvf w 18 5) (bvf w 23 4) (bvf w 27 1) (bvf w 28 4))

/-- The words of major opcode 0x47 (R53): VSEL, VBCAST, VEXT, VINS. -/
def decodeMajor47 (w : Nat) : Except DecodeError Instr :=
  if fld w 23 3 = 0 then .ok (.vsel (bvf w 8 5) (bvf w 13 5) (bvf w 18 5) (bvf w 26 6)) else
  if fld w 23 3 = 1 then .ok (.vbcast (bvf w 8 5) (bvf w 13 5) (bvf w 18 5) (bvf w 26 6)) else
  if fld w 18 4 = 0 ∧ fld w 23 3 = 2 then .ok (.vext (bvf w 8 5) (bvf w 13 5) (bvf w 22 1) (bvf w 26 6)) else
  if fld w 18 8 = 96 then .ok (.vins (bvf w 8 5) (bvf w 13 5) (bvf w 26 6)) else
  .error .unassigned

/-- The words of major opcode 0x48 (R53): VSLIDEUP, VSLIDEDN, VPERM, VCOMPRESS, VEXPAND, VIOTA. -/
def decodeMajor48 (w : Nat) : Except DecodeError Instr :=
  if fld w 23 3 = 0 then .ok (.vslideup (bvf w 8 5) (bvf w 13 5) (bvf w 18 5) (bvf w 26 6)) else
  if fld w 23 3 = 1 then .ok (.vslidedn (bvf w 8 5) (bvf w 13 5) (bvf w 18 5) (bvf w 26 6)) else
  if fld w 23 9 = 2 then .ok (.vperm (bvf w 8 5) (bvf w 13 5) (bvf w 18 5)) else
  if fld w 23 9 = 3 then .ok (.vcompress (bvf w 8 5) (bvf w 13 5) (bvf w 18 5)) else
  if fld w 23 9 = 4 then .ok (.vexpand (bvf w 8 5) (bvf w 13 5) (bvf w 18 5)) else
  if fld w 13 5 = 0 ∧ fld w 23 9 = 5 then .ok (.viota (bvf w 8 5) (bvf w 18 5)) else
  .error .unassigned

/-- The words of major opcode 0x49 (R53): VRED, VSCAN. -/
def decodeMajor49 (w : Nat) : Except DecodeError Instr :=
  if fld w 18 5 = 0 ∧ fld w 31 1 = 0 then .ok (.vred (bvf w 8 5) (bvf w 13 5) (bvf w 23 4) (bvf w 27 1) (bvf w 28 3)) else
  if fld w 18 5 = 0 ∧ fld w 31 1 = 1 then .ok (.vscan (bvf w 8 5) (bvf w 13 5) (bvf w 23 4) (bvf w 27 1) (bvf w 28 3)) else
  .error .unassigned

/-- The words of major opcode 0x4A (R53): VDOT. -/
def decodeMajor4A (w : Nat) : Except DecodeError Instr :=
  if fld w 28 4 = 0 then .ok (.vdot (bvf w 8 5) (bvf w 13 5) (bvf w 18 5) (bvf w 23 4) (bvf w 27 1)) else
  .error .unassigned

/-- The words of major opcode 0x4B (R53): VSQRT, VRCP, VRSQ, VEXP2, VLOG2. -/
def decodeMajor4B (w : Nat) : Except DecodeError Instr :=
  if fld w 18 5 = 0 ∧ fld w 28 4 = 0 then .ok (.vsqrt (bvf w 8 5) (bvf w 13 5) (bvf w 23 5)) else
  if fld w 18 5 = 0 ∧ fld w 28 4 = 1 then .ok (.vrcp (bvf w 8 5) (bvf w 13 5) (bvf w 23 5)) else
  if fld w 18 5 = 0 ∧ fld w 28 4 = 2 then .ok (.vrsq (bvf w 8 5) (bvf w 13 5) (bvf w 23 5)) else
  if fld w 18 5 = 0 ∧ fld w 28 4 = 3 then .ok (.vexp2 (bvf w 8 5) (bvf w 13 5) (bvf w 23 5)) else
  if fld w 18 5 = 0 ∧ fld w 28 4 = 4 then .ok (.vlog2 (bvf w 8 5) (bvf w 13 5) (bvf w 23 5)) else
  .error .unassigned

/-- The words of major opcode 0x4C (R53): VCVT. -/
def decodeMajor4C (w : Nat) : Except DecodeError Instr :=
  .ok (.vcvt (bvf w 8 5) (bvf w 13 5) (bvf w 18 3) (bvf w 21 2) (bvf w 23 1) (bvf w 24 2) (bvf w 26 6))

/-- The words of major opcode 0x4D (R53): EFGET, EFSET. -/
def decodeMajor4D (w : Nat) : Except DecodeError Instr :=
  if fld w 14 6 = 0 ∧ fld w 22 10 = 0 then .ok (.efget (bvf w 8 6) (bvf w 20 2)) else
  if fld w 8 6 = 0 ∧ fld w 22 10 = 16 then .ok (.efset (bvf w 14 6) (bvf w 20 2)) else
  .error .unassigned

/-- The words of major opcode 0x4E (R53): KAND, KOR, KXOR, KANDN, KNOT, KMOV, KPOP, KFIRST, KSET, KGET. -/
def decodeMajor4E (w : Nat) : Except DecodeError Instr :=
  if fld w 23 9 = 0 then .ok (.kand (bvf w 8 5) (bvf w 13 5) (bvf w 18 5)) else
  if fld w 23 9 = 32 then .ok (.kor (bvf w 8 5) (bvf w 13 5) (bvf w 18 5)) else
  if fld w 23 9 = 64 then .ok (.kxor (bvf w 8 5) (bvf w 13 5) (bvf w 18 5)) else
  if fld w 23 9 = 96 then .ok (.kandn (bvf w 8 5) (bvf w 13 5) (bvf w 18 5)) else
  if fld w 18 14 = 4096 then .ok (.knot (bvf w 8 5) (bvf w 13 5)) else
  if fld w 18 14 = 5120 then .ok (.kmov (bvf w 8 5) (bvf w 13 5)) else
  if fld w 18 14 = 6144 then .ok (.kpop (bvf w 8 5) (bvf w 13 5)) else
  if fld w 18 14 = 7168 then .ok (.kfirst (bvf w 8 5) (bvf w 13 5)) else
  if fld w 20 12 = 2048 then .ok (.kset (bvf w 8 5) (bvf w 13 5) (bvf w 18 2)) else
  if fld w 20 12 = 2304 then .ok (.kget (bvf w 8 5) (bvf w 13 5) (bvf w 18 2)) else
  .error .unassigned

/-- The words of major opcode 0x50 (R53): VLD, VLDS, VLDX, VLD_SL. -/
def decodeMajor50 (w : Nat) : Except DecodeError Instr :=
  if fld w 13 5 = 0 ∧ fld w 23 3 = 0 then .ok (.vld (bvf w 8 5) (bvf w 18 5) (bvf w 26 6)) else
  if fld w 23 3 = 1 then .ok (.vlds (bvf w 8 5) (bvf w 13 5) (bvf w 18 5) (bvf w 26 6)) else
  if fld w 23 3 = 2 then .ok (.vldx (bvf w 8 5) (bvf w 13 5) (bvf w 18 5) (bvf w 26 6)) else
  if fld w 13 5 = 0 ∧ fld w 23 3 = 3 then .ok (.vldSl (bvf w 8 5) (bvf w 18 5) (bvf w 26 6)) else
  .error .unassigned

/-- The words of major opcode 0x51 (R53): VST, VSTS, VSTX, VST_SL. -/
def decodeMajor51 (w : Nat) : Except DecodeError Instr :=
  if fld w 13 5 = 0 ∧ fld w 23 3 = 0 then .ok (.vst (bvf w 8 5) (bvf w 18 5) (bvf w 26 6)) else
  if fld w 23 3 = 1 then .ok (.vsts (bvf w 8 5) (bvf w 13 5) (bvf w 18 5) (bvf w 26 6)) else
  if fld w 23 3 = 2 then .ok (.vstx (bvf w 8 5) (bvf w 13 5) (bvf w 18 5) (bvf w 26 6)) else
  if fld w 13 5 = 0 ∧ fld w 23 3 = 3 then .ok (.vstSl (bvf w 8 5) (bvf w 18 5) (bvf w 26 6)) else
  .error .unassigned

/-- The words of major opcode 0x52 (R53): VLDT, VSTT. -/
def decodeMajor52 (w : Nat) : Except DecodeError Instr :=
  if fld w 23 3 = 0 then .ok (.vldt (bvf w 8 5) (bvf w 13 5) (bvf w 18 5) (bvf w 26 6)) else
  if fld w 18 8 = 32 then .ok (.vstt (bvf w 8 5) (bvf w 13 5) (bvf w 26 6)) else
  .error .unassigned

/-- The words of major opcode 0x53 (R53): VLDC. -/
def decodeMajor53 (w : Nat) : Except DecodeError Instr :=
  if fld w 23 3 = 0 then .ok (.vldc (bvf w 8 5) (bvf w 13 5) (bvf w 18 5) (bvf w 26 6)) else
  .error .unassigned

/-- The words of major opcode 0x54 (R53): VPF. -/
def decodeMajor54 (w : Nat) : Except DecodeError Instr :=
  if fld w 18 8 = 0 then .ok (.vpf (bvf w 8 5) (bvf w 13 5) (bvf w 26 6)) else
  .error .unassigned

/-- The words of major opcode 0x55 (R53): VAMO. -/
def decodeMajor55 (w : Nat) : Except DecodeError Instr :=
  .ok (.vamo (bvf w 8 5) (bvf w 13 5) (bvf w 18 4) (bvf w 22 1) (bvf w 23 3) (bvf w 26 6))

/-- The words of major opcode 0x56 (R53): VRDM. -/
def decodeMajor56 (w : Nat) : Except DecodeError Instr :=
  .ok (.vrdm (bvf w 8 5) (bvf w 13 5) (bvf w 18 4) (bvf w 22 1) (bvf w 23 3) (bvf w 26 6))

/-- The words of major opcode 0x58 (R53): MZERO, MWAIT, MPRG, MHDR. -/
def decodeMajor58 (w : Nat) : Except DecodeError Instr :=
  if fld w 13 19 = 0 then .ok (.mzero (bvf w 8 5)) else
  if fld w 13 19 = 8192 then .ok (.mwait (bvf w 8 5)) else
  if fld w 13 5 = 0 ∧ fld w 23 9 = 16 then .ok (.mprg (bvf w 8 5) (bvf w 18 5)) else
  if fld w 13 5 = 0 ∧ fld w 23 9 = 24 then .ok (.mhdr (bvf w 8 5) (bvf w 18 5)) else
  .error .unassigned

/-- The words of major opcode 0x59 (R53): MOP, MOPD, MOPS. -/
def decodeMajor59 (w : Nat) : Except DecodeError Instr :=
  if fld w 23 5 = 0 ∧ fld w 29 3 = 0 then .ok (.mop (bvf w 8 5) (bvf w 13 5) (bvf w 18 5) (bvf w 28 1)) else
  if fld w 23 5 = 8 ∧ fld w 29 3 = 0 then .ok (.mopd (bvf w 8 5) (bvf w 13 5) (bvf w 18 5) (bvf w 28 1)) else
  if fld w 23 5 = 16 ∧ fld w 29 3 = 0 then .ok (.mops (bvf w 8 5) (bvf w 13 5) (bvf w 18 5) (bvf w 28 1)) else
  .error .unassigned

/-- The words of major opcode 0x5A (R53): MMAS. -/
def decodeMajor5A (w : Nat) : Except DecodeError Instr :=
  if fld w 26 2 = 0 ∧ fld w 29 3 = 0 then .ok (.mmas (bvf w 8 5) (bvf w 13 5) (bvf w 18 5) (bvf w 23 3) (bvf w 28 1)) else
  .error .unassigned

/-- The words of major opcode 0x5B (R53): MRD, MWR. -/
def decodeMajor5B (w : Nat) : Except DecodeError Instr :=
  if fld w 23 9 = 0 then .ok (.mrd (bvf w 8 5) (bvf w 13 5) (bvf w 18 5)) else
  if fld w 23 9 = 8 then .ok (.mwr (bvf w 8 5) (bvf w 13 5) (bvf w 18 5)) else
  .error .unassigned

/-- The words of major opcode 0x5C (R53): MLD, MST. -/
def decodeMajor5C (w : Nat) : Except DecodeError Instr :=
  if fld w 13 5 = 0 ∧ fld w 26 6 = 0 then .ok (.mld (bvf w 8 5) (bvf w 18 5) (bvf w 23 3)) else
  if fld w 26 6 = 1 then .ok (.mst (bvf w 8 5) (bvf w 13 5) (bvf w 18 5) (bvf w 23 3)) else
  .error .unassigned

/-- The words of major opcode 0x60 (R53): CPY, CPYF, CPYM, CPYS. -/
def decodeMajor60 (w : Nat) : Except DecodeError Instr :=
  if fld w 26 6 = 0 then .ok (.cpy (bvf w 8 5) (bvf w 13 5) (bvf w 18 5) (bvf w 23 3)) else
  if fld w 26 6 = 1 then .ok (.cpyf (bvf w 8 5) (bvf w 13 5) (bvf w 18 5) (bvf w 23 3)) else
  if fld w 26 6 = 2 then .ok (.cpym (bvf w 8 5) (bvf w 13 5) (bvf w 18 5) (bvf w 23 3)) else
  if fld w 26 6 = 3 then .ok (.cpys (bvf w 8 5) (bvf w 13 5) (bvf w 18 5) (bvf w 23 3)) else
  .error .unassigned

/-- The words of major opcode 0x61 (R53): ROWCLS, CPWAIT, CPQRY. -/
def decodeMajor61 (w : Nat) : Except DecodeError Instr :=
  if fld w 13 19 = 0 then .ok (.rowcls (bvf w 8 5)) else
  if fld w 13 19 = 8192 then .ok (.cpwait (bvf w 8 5)) else
  if fld w 13 5 = 0 ∧ fld w 23 9 = 16 then .ok (.cpqry (bvf w 8 5) (bvf w 18 5)) else
  .error .unassigned

/-- The words of major opcode 0x62 (R53): CBINIT, CBACQ, CBREL. -/
def decodeMajor62 (w : Nat) : Except DecodeError Instr :=
  if fld w 23 9 = 0 then .ok (.cbinit (bvf w 8 5) (bvf w 13 5) (bvf w 18 5)) else
  if fld w 23 9 = 8 then .ok (.cbacq (bvf w 8 5) (bvf w 13 5) (bvf w 18 5)) else
  if fld w 18 14 = 512 then .ok (.cbrel (bvf w 8 5) (bvf w 13 5)) else
  .error .unassigned

/-- The words of major opcode 0x63 (R53): LFMT. -/
def decodeMajor63 (w : Nat) : Except DecodeError Instr :=
  if fld w 23 9 = 0 then .ok (.lfmt (bvf w 8 5) (bvf w 13 5) (bvf w 18 5)) else
  .error .unassigned

/-- The words of major opcode 0x64 (R53): BINIT, BARV, BWAIT, BFREE. -/
def decodeMajor64 (w : Nat) : Except DecodeError Instr :=
  if fld w 13 5 = 0 ∧ fld w 23 9 = 0 then .ok (.binit (bvf w 8 5) (bvf w 18 5)) else
  if fld w 13 5 = 0 ∧ fld w 23 9 = 8 then .ok (.barv (bvf w 8 5) (bvf w 18 5)) else
  if fld w 23 9 = 16 then .ok (.bwait (bvf w 8 5) (bvf w 13 5) (bvf w 18 5)) else
  if fld w 13 19 = 24576 then .ok (.bfree (bvf w 8 5)) else
  .error .unassigned

/-- The words of major opcode 0x65 (R53): MBSEND, MBRECV, MBPEEK. -/
def decodeMajor65 (w : Nat) : Except DecodeError Instr :=
  if fld w 23 9 = 0 then .ok (.mbsend (bvf w 8 5) (bvf w 13 5) (bvf w 18 5)) else
  if fld w 23 9 = 8 then .ok (.mbrecv (bvf w 8 5) (bvf w 13 5) (bvf w 18 5)) else
  if fld w 18 14 = 512 then .ok (.mbpeek (bvf w 8 5) (bvf w 13 5)) else
  .error .unassigned

/-- The words of major opcode 0x68 (R53): GSUB, GDEP, GDONE, GWAIT. -/
def decodeMajor68 (w : Nat) : Except DecodeError Instr :=
  if fld w 13 5 = 0 ∧ fld w 23 9 = 0 then .ok (.gsub (bvf w 8 5) (bvf w 18 5)) else
  if fld w 23 9 = 8 then .ok (.gdep (bvf w 8 5) (bvf w 13 5) (bvf w 18 5)) else
  if fld w 8 24 = 524288 then .ok (.gdone) else
  if fld w 13 5 = 0 ∧ fld w 23 9 = 24 then .ok (.gwait (bvf w 8 5) (bvf w 18 5)) else
  .error .unassigned

/-- The words of major opcode 0x69 (R53): SFDECL, SFNEXT, SFEND. -/
def decodeMajor69 (w : Nat) : Except DecodeError Instr :=
  if fld w 13 5 = 0 ∧ fld w 26 6 = 0 then .ok (.sfdecl (bvf w 8 5) (bvf w 18 5) (bvf w 23 3)) else
  if fld w 23 9 = 8 then .ok (.sfnext (bvf w 8 5) (bvf w 13 5) (bvf w 18 5)) else
  if fld w 13 5 = 0 ∧ fld w 23 9 = 16 then .ok (.sfend (bvf w 8 5) (bvf w 18 5)) else
  .error .unassigned

/-- The words of major opcode 0x6A (R53): FTSET, MIGR. -/
def decodeMajor6A (w : Nat) : Except DecodeError Instr :=
  if fld w 26 6 = 0 then .ok (.ftset (bvf w 8 5) (bvf w 13 5) (bvf w 18 5) (bvf w 23 3)) else
  if fld w 23 9 = 8 then .ok (.migr (bvf w 8 5) (bvf w 13 5) (bvf w 18 5)) else
  .error .unassigned

/-- The words of major opcode 0x6C (R53): SAMPLE, SAMPLE_DRAFT. -/
def decodeMajor6C (w : Nat) : Except DecodeError Instr :=
  if fld w 26 6 = 0 then .ok (.sample (bvf w 8 5) (bvf w 13 5) (bvf w 18 5) (bvf w 23 3)) else
  if fld w 26 6 = 1 then .ok (.sampleDraft (bvf w 8 5) (bvf w 13 5) (bvf w 18 5) (bvf w 23 3)) else
  .error .unassigned

/-- The words of major opcode 0x6D (R53): TKAPP, TKDRAFT, TKCONF. -/
def decodeMajor6D (w : Nat) : Except DecodeError Instr :=
  if fld w 23 9 = 0 then .ok (.tkapp (bvf w 8 5) (bvf w 13 5) (bvf w 18 5)) else
  if fld w 23 9 = 8 then .ok (.tkdraft (bvf w 8 5) (bvf w 13 5) (bvf w 18 5)) else
  if fld w 23 9 = 16 then .ok (.tkconf (bvf w 8 5) (bvf w 13 5) (bvf w 18 5)) else
  .error .unassigned

/-- The words of major opcode 0x6E (R53): WSET, WGET, SQFORK, SQSTAT, SQITER. -/
def decodeMajor6E (w : Nat) : Except DecodeError Instr :=
  if fld w 23 9 = 0 then .ok (.wset (bvf w 8 5) (bvf w 13 5) (bvf w 18 5)) else
  if fld w 23 9 = 8 then .ok (.wget (bvf w 8 5) (bvf w 13 5) (bvf w 18 5)) else
  if fld w 23 9 = 16 then .ok (.sqfork (bvf w 8 5) (bvf w 13 5) (bvf w 18 5)) else
  if fld w 23 9 = 24 then .ok (.sqstat (bvf w 8 5) (bvf w 13 5) (bvf w 18 5)) else
  if fld w 23 9 = 32 then .ok (.sqiter (bvf w 8 5) (bvf w 13 5) (bvf w 18 5)) else
  .error .unassigned

/-- The words of major opcode 0x70 (R53): DCAPD, DCAPR, DCAPQ, TRMARK, SLIPRD. -/
noncomputable def decodeMajor70 (w : Nat) : Except DecodeError Instr :=
  if fld w 23 9 = 0 then .ok (.dcapd (bvf w 8 5) (bvf w 13 5) (bvf w 18 5)) else
  if fld w 13 5 = 0 ∧ fld w 23 9 = 8 then .ok (.dcapr (bvf w 8 5) (bvf w 18 5)) else
  if fld w 13 5 = 0 ∧ fld w 23 9 = 16 then .ok (.dcapq (bvf w 8 5) (bvf w 18 5)) else
  if fld w 8 10 = 0 ∧ fld w 23 9 = 24 then .ok (.trmark (bvf w 18 5)) else
  if fld w 13 5 = 0 ∧ fld w 23 9 = 32 then .ok (.sliprd (bvf w 8 5) (bvf w 18 5)) else
  .error .unassigned

/-- The words of major opcode 0x71 (R53): ATTEST, KEYNEW, KEYDEL, FUSERD, LCSTAT, DBGUNLK, MEASX. -/
noncomputable def decodeMajor71 (w : Nat) : Except DecodeError Instr :=
  if fld w 23 9 = 0 then .ok (.attest (bvf w 8 5) (bvf w 13 5) (bvf w 18 5)) else
  if fld w 13 5 = 0 ∧ fld w 23 9 = 8 then .ok (.keynew (bvf w 8 5) (bvf w 18 5)) else
  if fld w 13 5 = 0 ∧ fld w 23 9 = 16 then .ok (.keydel (bvf w 8 5) (bvf w 18 5)) else
  if fld w 13 5 = 0 ∧ fld w 23 9 = 24 then .ok (.fuserd (bvf w 8 5) (bvf w 18 5)) else
  if fld w 13 5 = 0 ∧ fld w 23 9 = 32 then .ok (.lcstat (bvf w 8 5) (bvf w 18 5)) else
  if fld w 13 5 = 0 ∧ fld w 23 9 = 40 then .ok (.dbgunlk (bvf w 8 5) (bvf w 18 5)) else
  if fld w 23 9 = 48 then .ok (.measx (bvf w 8 5) (bvf w 13 5) (bvf w 18 5)) else
  .error .unassigned

/-- The words of major opcode 0x72 (R53): PLBINV, TLBINV, PGWAKE, PGQRY, PGPIN. -/
noncomputable def decodeMajor72 (w : Nat) : Except DecodeError Instr :=
  if fld w 8 10 = 0 ∧ fld w 23 9 = 0 then .ok (.plbinv (bvf w 18 5)) else
  if fld w 8 5 = 0 ∧ fld w 23 9 = 8 then .ok (.tlbinv (bvf w 13 5) (bvf w 18 5)) else
  if fld w 13 5 = 0 ∧ fld w 23 9 = 16 then .ok (.pgwake (bvf w 8 5) (bvf w 18 5)) else
  if fld w 13 5 = 0 ∧ fld w 23 9 = 24 then .ok (.pgqry (bvf w 8 5) (bvf w 18 5)) else
  if fld w 23 9 = 32 then .ok (.pgpin (bvf w 8 5) (bvf w 13 5) (bvf w 18 5)) else
  .error .unassigned

/-- The words of major opcode 0x73 (R53): MSCFL, HBMSLOT, TENSET, VCRES. -/
noncomputable def decodeMajor73 (w : Nat) : Except DecodeError Instr :=
  if fld w 23 9 = 0 then .ok (.mscfl (bvf w 8 5) (bvf w 13 5) (bvf w 18 5)) else
  if fld w 23 9 = 8 then .ok (.hbmslot (bvf w 8 5) (bvf w 13 5) (bvf w 18 5)) else
  if fld w 23 9 = 16 then .ok (.tenset (bvf w 8 5) (bvf w 13 5) (bvf w 18 5)) else
  if fld w 23 9 = 24 then .ok (.vcres (bvf w 8 5) (bvf w 13 5) (bvf w 18 5)) else
  .error .unassigned

/-- The form a 32-bit word has, by its major opcode (R52, R53), before the checks of its fields. -/
noncomputable def decodeForm32 (w : Nat) : Except DecodeError Instr :=
  match fld w 1 7 with
  | 0x01 => decodeMajor01 w
  | 0x02 => decodeMajor02 w
  | 0x03 => decodeMajor03 w
  | 0x04 => decodeMajor04 w
  | 0x05 => decodeMajor05 w
  | 0x06 => decodeMajor06 w
  | 0x07 => decodeMajor07 w
  | 0x08 => decodeMajor08 w
  | 0x09 => decodeMajor09 w
  | 0x0A => decodeMajor0A w
  | 0x0B => decodeMajor0B w
  | 0x10 => decodeMajor10 w
  | 0x11 => decodeMajor11 w
  | 0x12 => decodeMajor12 w
  | 0x18 => decodeMajor18 w
  | 0x19 => decodeMajor19 w
  | 0x1A => decodeMajor1A w
  | 0x1B => decodeMajor1B w
  | 0x1C => decodeMajor1C w
  | 0x1D => decodeMajor1D w
  | 0x1E => decodeMajor1E w
  | 0x1F => decodeMajor1F w
  | 0x20 => decodeMajor20 w
  | 0x21 => decodeMajor21 w
  | 0x22 => decodeMajor22 w
  | 0x23 => decodeMajor23 w
  | 0x24 => decodeMajor24 w
  | 0x25 => decodeMajor25 w
  | 0x26 => decodeMajor26 w
  | 0x27 => decodeMajor27 w
  | 0x28 => decodeMajor28 w
  | 0x29 => decodeMajor29 w
  | 0x2A => decodeMajor2A w
  | 0x2B => decodeMajor2B w
  | 0x2C => decodeMajor2C w
  | 0x2D => decodeMajor2D w
  | 0x2E => decodeMajor2E w
  | 0x2F => decodeMajor2F w
  | 0x30 => decodeMajor30 w
  | 0x31 => decodeMajor31 w
  | 0x32 => decodeMajor32 w
  | 0x33 => decodeMajor33 w
  | 0x34 => decodeMajor34 w
  | 0x35 => decodeMajor35 w
  | 0x36 => decodeMajor36 w
  | 0x37 => decodeMajor37 w
  | 0x40 => decodeMajor40 w
  | 0x41 => decodeMajor41 w
  | 0x42 => decodeMajor42 w
  | 0x43 => decodeMajor43 w
  | 0x44 => decodeMajor44 w
  | 0x45 => decodeMajor45 w
  | 0x46 => decodeMajor46 w
  | 0x47 => decodeMajor47 w
  | 0x48 => decodeMajor48 w
  | 0x49 => decodeMajor49 w
  | 0x4A => decodeMajor4A w
  | 0x4B => decodeMajor4B w
  | 0x4C => decodeMajor4C w
  | 0x4D => decodeMajor4D w
  | 0x4E => decodeMajor4E w
  | 0x50 => decodeMajor50 w
  | 0x51 => decodeMajor51 w
  | 0x52 => decodeMajor52 w
  | 0x53 => decodeMajor53 w
  | 0x54 => decodeMajor54 w
  | 0x55 => decodeMajor55 w
  | 0x56 => decodeMajor56 w
  | 0x58 => decodeMajor58 w
  | 0x59 => decodeMajor59 w
  | 0x5A => decodeMajor5A w
  | 0x5B => decodeMajor5B w
  | 0x5C => decodeMajor5C w
  | 0x60 => decodeMajor60 w
  | 0x61 => decodeMajor61 w
  | 0x62 => decodeMajor62 w
  | 0x63 => decodeMajor63 w
  | 0x64 => decodeMajor64 w
  | 0x65 => decodeMajor65 w
  | 0x68 => decodeMajor68 w
  | 0x69 => decodeMajor69 w
  | 0x6A => decodeMajor6A w
  | 0x6C => decodeMajor6C w
  | 0x6D => decodeMajor6D w
  | 0x6E => decodeMajor6E w
  | 0x70 => decodeMajor70 w
  | 0x71 => decodeMajor71 w
  | 0x72 => decodeMajor72 w
  | 0x73 => decodeMajor73 w
  | _ => .error .reservedMajor

/-- The form of a 32-bit word that is a vector-stream instruction of majors 0x40 to 0x56 (R53). -/
def decodeVectorForm (w : Nat) : Except DecodeError Instr :=
  match fld w 1 7 with
  | 0x40 => decodeMajor40 w
  | 0x41 => decodeMajor41 w
  | 0x42 => decodeMajor42 w
  | 0x43 => decodeMajor43 w
  | 0x44 => decodeMajor44 w
  | 0x45 => decodeMajor45 w
  | 0x46 => decodeMajor46 w
  | 0x47 => decodeMajor47 w
  | 0x48 => decodeMajor48 w
  | 0x49 => decodeMajor49 w
  | 0x4A => decodeMajor4A w
  | 0x4B => decodeMajor4B w
  | 0x4C => decodeMajor4C w
  | 0x4D => decodeMajor4D w
  | 0x4E => decodeMajor4E w
  | 0x50 => decodeMajor50 w
  | 0x51 => decodeMajor51 w
  | 0x52 => decodeMajor52 w
  | 0x53 => decodeMajor53 w
  | 0x54 => decodeMajor54 w
  | 0x55 => decodeMajor55 w
  | 0x56 => decodeMajor56 w
  | _ => .error .reservedMajor

/-- The form a 16-bit word has (R47, R48). -/
noncomputable def decodeForm16 (w : Nat) : Except DecodeError Instr :=
  match fld w 1 5 with
  | 1 => .ok (.cMv (bvf w 6 5) (bvf w 11 5))
  | 2 => .ok (.cAdd (bvf w 6 5) (bvf w 11 5))
  | 3 => .ok (.cSub (bvf w 6 5) (bvf w 11 5))
  | 4 => .ok (.cAnd (bvf w 6 5) (bvf w 11 5))
  | 5 => .ok (.cOr (bvf w 6 5) (bvf w 11 5))
  | 6 => .ok (.cXor (bvf w 6 5) (bvf w 11 5))
  | 7 => .ok (.cSlt (bvf w 6 5) (bvf w 11 5))
  | 8 => .ok (.cLi (bvf w 6 5) (bvf w 11 5))
  | 9 => .ok (.cAddi (bvf w 6 5) (bvf w 11 5))
  | 10 => .ok (.cShli (bvf w 6 5) (bvf w 11 5))
  | 11 => .ok (.cShri (bvf w 6 5) (bvf w 11 5))
  | 12 => .ok (.cShai (bvf w 6 5) (bvf w 11 5))
  | 13 => .ok (.cLdw (bvf w 6 5) (bvf w 11 5))
  | 14 => .ok (.cLdd (bvf w 6 5) (bvf w 11 5))
  | 15 => .ok (.cStw (bvf w 6 5) (bvf w 11 5))
  | 16 => .ok (.cStd (bvf w 6 5) (bvf w 11 5))
  | 17 => .ok (.cLdsp (bvf w 6 5) (bvf w 11 5))
  | 18 => .ok (.cStsp (bvf w 6 5) (bvf w 11 5))
  | 19 => .ok (.cBeqz (bvf w 6 5) (bvf w 11 5))
  | 20 => .ok (.cBnez (bvf w 6 5) (bvf w 11 5))
  | 21 => if fld w 11 5 = 0 then .ok (.cJr (bvf w 6 5)) else .error .unassigned16
  | 22 => .ok (.cJal (bvf w 6 10))
  | 23 => .ok (.cAddsp (bvf w 6 10))
  | 24 => .ok (.cNeg (bvf w 6 5) (bvf w 11 5))
  | _ => .error .unassigned16

/-- A form becomes an instruction when none of its fields names something absent. -/
def checked (r : Except DecodeError Instr) : Except DecodeError Instr :=
  match r with
  | .error e => .error e
  | .ok i =>
    match i.check with
    | none => .ok i
    | some e => .error (.illFormed e)

/-- Decoding of a 32-bit word. -/
noncomputable def decode32 (w : Nat) : Except DecodeError Instr := checked (decodeForm32 w)

/-- Decoding of a 16-bit word. -/
noncomputable def decode16 (w : Nat) : Except DecodeError Instr := checked (decodeForm16 w)

/-- Decoding of a word of either length: bit 0 of the first halfword selects it (R40). -/
noncomputable def decodeWord (w : Nat) : Except DecodeError Instr := if w % 2 = 1 then decode32 w else decode16 (w % 2 ^ 16)

/-- The length in bytes of the word that begins with this halfword (R40). -/
def wordLen (w : Nat) : Nat := if w % 2 = 1 then 4 else 2

/-- The number a list of bytes spells, byte 0 lowest (00_scope R4). -/
def leNat (bs : List Byte) : Nat :=
  match bs with
  | [] => 0
  | b :: r => b.toNat + 256 * leNat r

/-- The `n` low bytes of a number, byte 0 first. -/
def leBytes (n x : Nat) : List Byte :=
  match n with
  | 0 => []
  | k + 1 => BitVec.ofNat 8 x :: leBytes k (x / 256)

/-- Decoding of the bytes at an address: the instruction and the bytes after it. -/
noncomputable def decodeBytes (bs : List Byte) : Except DecodeError (Instr × List Byte) :=
  match bs with
  | b0 :: b1 :: rest =>
    let h := b0.toNat + 256 * b1.toNat
    if h % 2 = 0 then (decode16 h).map (fun i => (i, rest))
    else
      match rest with
      | b2 :: b3 :: rest' => (decode32 (h + 2 ^ 16 * (b2.toNat + 256 * b3.toNat))).map (fun i => (i, rest'))
      | _ => .error .short
  | _ => .error .short

/-- The instruction the decoder reads from a word of the opcode table (its bits above `nbits` are 0). -/
noncomputable def decodeTableWord (nbits w : Nat) : Option Instr :=
  match decodeBytes (leBytes 4 (w % 2 ^ nbits)) with
  | .ok (i, _) => some i
  | .error _ => none

/-- A word with the field at bit `lo`, 0 before, set. -/
def setFld {n : Nat} (w lo : Nat) (f : BitVec n) : Nat := w + 2 ^ lo * f.toNat

/-- The encoding of an instruction: its length in bits and its word; `none` for an engine step. -/
def encode (i : Instr) : Option (Nat × Nat) :=
  match i with
  | .add rd rs1 rs2 => some (32, (setFld (setFld (setFld 3 8 rd) 14 rs1) 20 rs2))
  | .sub rd rs1 rs2 => some (32, (setFld (setFld (setFld 67108867 8 rd) 14 rs1) 20 rs2))
  | .mul rd rs1 rs2 => some (32, (setFld (setFld (setFld 134217731 8 rd) 14 rs1) 20 rs2))
  | .mulh rd rs1 rs2 => some (32, (setFld (setFld (setFld 201326595 8 rd) 14 rs1) 20 rs2))
  | .mulhu rd rs1 rs2 => some (32, (setFld (setFld (setFld 268435459 8 rd) 14 rs1) 20 rs2))
  | .div rd rs1 rs2 => some (32, (setFld (setFld (setFld 335544323 8 rd) 14 rs1) 20 rs2))
  | .divu rd rs1 rs2 => some (32, (setFld (setFld (setFld 402653187 8 rd) 14 rs1) 20 rs2))
  | .rem rd rs1 rs2 => some (32, (setFld (setFld (setFld 469762051 8 rd) 14 rs1) 20 rs2))
  | .remu rd rs1 rs2 => some (32, (setFld (setFld (setFld 536870915 8 rd) 14 rs1) 20 rs2))
  | .and rd rs1 rs2 => some (32, (setFld (setFld (setFld 603979779 8 rd) 14 rs1) 20 rs2))
  | .or rd rs1 rs2 => some (32, (setFld (setFld (setFld 671088643 8 rd) 14 rs1) 20 rs2))
  | .xor rd rs1 rs2 => some (32, (setFld (setFld (setFld 738197507 8 rd) 14 rs1) 20 rs2))
  | .andn rd rs1 rs2 => some (32, (setFld (setFld (setFld 805306371 8 rd) 14 rs1) 20 rs2))
  | .shl rd rs1 rs2 => some (32, (setFld (setFld (setFld 872415235 8 rd) 14 rs1) 20 rs2))
  | .shr rd rs1 rs2 => some (32, (setFld (setFld (setFld 939524099 8 rd) 14 rs1) 20 rs2))
  | .sha rd rs1 rs2 => some (32, (setFld (setFld (setFld 1006632963 8 rd) 14 rs1) 20 rs2))
  | .rot rd rs1 rs2 => some (32, (setFld (setFld (setFld 1073741827 8 rd) 14 rs1) 20 rs2))
  | .slt rd rs1 rs2 => some (32, (setFld (setFld (setFld 1140850691 8 rd) 14 rs1) 20 rs2))
  | .sltu rd rs1 rs2 => some (32, (setFld (setFld (setFld 1207959555 8 rd) 14 rs1) 20 rs2))
  | .min rd rs1 rs2 => some (32, (setFld (setFld (setFld 1275068419 8 rd) 14 rs1) 20 rs2))
  | .max rd rs1 rs2 => some (32, (setFld (setFld (setFld 1342177283 8 rd) 14 rs1) 20 rs2))
  | .minu rd rs1 rs2 => some (32, (setFld (setFld (setFld 1409286147 8 rd) 14 rs1) 20 rs2))
  | .maxu rd rs1 rs2 => some (32, (setFld (setFld (setFld 1476395011 8 rd) 14 rs1) 20 rs2))
  | .clz rd rs1 => some (32, (setFld (setFld 1543503875 8 rd) 14 rs1))
  | .ctz rd rs1 => some (32, (setFld (setFld 1610612739 8 rd) 14 rs1))
  | .popc rd rs1 => some (32, (setFld (setFld 1677721603 8 rd) 14 rs1))
  | .sext rd rs1 rs2 => some (32, (setFld (setFld (setFld 1744830467 8 rd) 14 rs1) 20 rs2))
  | .zext rd rs1 rs2 => some (32, (setFld (setFld (setFld 1811939331 8 rd) 14 rs1) 20 rs2))
  | .addi rd rs1 imm => some (32, (setFld (setFld (setFld 5 8 rd) 14 rs1) 20 imm))
  | .andi rd rs1 imm => some (32, (setFld (setFld (setFld 7 8 rd) 14 rs1) 20 imm))
  | .ori rd rs1 imm => some (32, (setFld (setFld (setFld 9 8 rd) 14 rs1) 20 imm))
  | .xori rd rs1 imm => some (32, (setFld (setFld (setFld 11 8 rd) 14 rs1) 20 imm))
  | .shli rd rs1 amt => some (32, (setFld (setFld (setFld 13 8 rd) 14 rs1) 20 amt))
  | .shri rd rs1 amt => some (32, (setFld (setFld (setFld 67108877 8 rd) 14 rs1) 20 amt))
  | .shai rd rs1 amt => some (32, (setFld (setFld (setFld 134217741 8 rd) 14 rs1) 20 amt))
  | .slti rd rs1 imm => some (32, (setFld (setFld (setFld 15 8 rd) 14 rs1) 20 imm))
  | .sltiu rd rs1 imm => some (32, (setFld (setFld (setFld 17 8 rd) 14 rs1) 20 imm))
  | .lih rd imm => some (32, (setFld (setFld 19 8 rd) 14 imm))
  | .loxi num imm => some (32, (setFld (setFld 21 11 num) 14 imm))
  | .loxiSh num imm => some (32, (setFld (setFld 277 11 num) 14 imm))
  | .lox num rs1 => some (32, (setFld (setFld 23 8 num) 14 rs1))
  | .movox num src => some (32, (setFld (setFld 67108887 8 num) 14 src))
  | .fadd rd rs1 rs2 ty => some (32, (setFld (setFld (setFld (setFld 33 8 rd) 14 rs1) 20 rs2) 30 ty))
  | .fsub rd rs1 rs2 ty => some (32, (setFld (setFld (setFld (setFld 67108897 8 rd) 14 rs1) 20 rs2) 30 ty))
  | .fmul rd rs1 rs2 ty => some (32, (setFld (setFld (setFld (setFld 134217761 8 rd) 14 rs1) 20 rs2) 30 ty))
  | .fdiv rd rs1 rs2 ty => some (32, (setFld (setFld (setFld (setFld 201326625 8 rd) 14 rs1) 20 rs2) 30 ty))
  | .fsqrt rd rs1 ty => some (32, (setFld (setFld (setFld 268435489 8 rd) 14 rs1) 30 ty))
  | .fmin rd rs1 rs2 ty => some (32, (setFld (setFld (setFld (setFld 335544353 8 rd) 14 rs1) 20 rs2) 30 ty))
  | .fmax rd rs1 rs2 ty => some (32, (setFld (setFld (setFld (setFld 402653217 8 rd) 14 rs1) 20 rs2) 30 ty))
  | .fcmp rd rs1 rs2 ty => some (32, (setFld (setFld (setFld (setFld 469762081 8 rd) 14 rs1) 20 rs2) 30 ty))
  | .fclass rd rs1 ty => some (32, (setFld (setFld (setFld 536870945 8 rd) 14 rs1) 30 ty))
  | .ffma rd rs1 rs2 rs3 ty => some (32, (setFld (setFld (setFld (setFld (setFld 35 8 rd) 14 rs1) 20 rs2) 26 rs3) 30 ty))
  | .fcvt rd rs1 rm src dst => some (32, (setFld (setFld (setFld (setFld (setFld 37 8 rd) 14 rs1) 20 rm) 26 src) 29 dst))
  | .ldb rd rs1 imm => some (32, (setFld (setFld (setFld 49 8 rd) 14 rs1) 20 imm))
  | .ldbu rd rs1 imm => some (32, (setFld (setFld (setFld 51 8 rd) 14 rs1) 20 imm))
  | .ldh rd rs1 imm => some (32, (setFld (setFld (setFld 53 8 rd) 14 rs1) 20 imm))
  | .ldhu rd rs1 imm => some (32, (setFld (setFld (setFld 55 8 rd) 14 rs1) 20 imm))
  | .ldw rd rs1 imm => some (32, (setFld (setFld (setFld 57 8 rd) 14 rs1) 20 imm))
  | .ldwu rd rs1 imm => some (32, (setFld (setFld (setFld 59 8 rd) 14 rs1) 20 imm))
  | .ldd rd rs1 imm => some (32, (setFld (setFld (setFld 61 8 rd) 14 rs1) 20 imm))
  | .stb immLo rs1 rs2 immHi => some (32, (setFld (setFld (setFld (setFld 63 8 immLo) 14 rs1) 20 rs2) 26 immHi))
  | .sth immLo rs1 rs2 immHi => some (32, (setFld (setFld (setFld (setFld 65 8 immLo) 14 rs1) 20 rs2) 26 immHi))
  | .stw immLo rs1 rs2 immHi => some (32, (setFld (setFld (setFld (setFld 67 8 immLo) 14 rs1) 20 rs2) 26 immHi))
  | .std immLo rs1 rs2 immHi => some (32, (setFld (setFld (setFld (setFld 69 8 immLo) 14 rs1) 20 rs2) 26 immHi))
  | .ldfe rd rs1 => some (32, (setFld (setFld 71 8 rd) 14 rs1))
  | .ldff rd rs1 => some (32, (setFld (setFld 67108935 8 rd) 14 rs1))
  | .stfe rs1 rs2 => some (32, (setFld (setFld 73 14 rs1) 20 rs2))
  | .stff rs1 rs2 => some (32, (setFld (setFld 67108937 14 rs1) 20 rs2))
  | .rsv rd rs1 rs2 scope => some (32, (setFld (setFld (setFld (setFld 75 8 rd) 14 rs1) 20 rs2) 26 scope))
  | .rls rs1 rs2 scope => some (32, (setFld (setFld (setFld 77 14 rs1) 20 rs2) 26 scope))
  | .aadd rd rs1 rs2 wide scope => some (32, (setFld (setFld (setFld (setFld (setFld 79 8 rd) 14 rs1) 20 rs2) 26 wide) 27 scope))
  | .aswp rd rs1 rs2 wide scope => some (32, (setFld (setFld (setFld (setFld (setFld 536870991 8 rd) 14 rs1) 20 rs2) 26 wide) 27 scope))
  | .acas rd rs1 rs2 wide scope => some (32, (setFld (setFld (setFld (setFld (setFld 1073741903 8 rd) 14 rs1) 20 rs2) 26 wide) 27 scope))
  | .aminSigned rd rs1 rs2 wide scope => some (32, (setFld (setFld (setFld (setFld (setFld 1610612815 8 rd) 14 rs1) 20 rs2) 26 wide) 27 scope))
  | .amaxSigned rd rs1 rs2 wide scope => some (32, (setFld (setFld (setFld (setFld (setFld 2147483727 8 rd) 14 rs1) 20 rs2) 26 wide) 27 scope))
  | .aminUnsigned rd rs1 rs2 wide scope => some (32, (setFld (setFld (setFld (setFld (setFld 2684354639 8 rd) 14 rs1) 20 rs2) 26 wide) 27 scope))
  | .amaxUnsigned rd rs1 rs2 wide scope => some (32, (setFld (setFld (setFld (setFld (setFld 3221225551 8 rd) 14 rs1) 20 rs2) 26 wide) 27 scope))
  | .beq immLo rs1 rs2 immHi => some (32, (setFld (setFld (setFld (setFld 81 8 immLo) 14 rs1) 20 rs2) 26 immHi))
  | .bne immLo rs1 rs2 immHi => some (32, (setFld (setFld (setFld (setFld 83 8 immLo) 14 rs1) 20 rs2) 26 immHi))
  | .blt immLo rs1 rs2 immHi => some (32, (setFld (setFld (setFld (setFld 85 8 immLo) 14 rs1) 20 rs2) 26 immHi))
  | .bge immLo rs1 rs2 immHi => some (32, (setFld (setFld (setFld (setFld 87 8 immLo) 14 rs1) 20 rs2) 26 immHi))
  | .bltu immLo rs1 rs2 immHi => some (32, (setFld (setFld (setFld (setFld 89 8 immLo) 14 rs1) 20 rs2) 26 immHi))
  | .bgeu immLo rs1 rs2 immHi => some (32, (setFld (setFld (setFld (setFld 91 8 immLo) 14 rs1) 20 rs2) 26 immHi))
  | .jal rd imm => some (32, (setFld (setFld 93 8 rd) 14 imm))
  | .jalr rd rs1 imm => some (32, (setFld (setFld (setFld 95 8 rd) 14 rs1) 20 imm))
  | .svc rs1 => some (32, (setFld 97 14 rs1))
  | .brk rs1 => some (32, (setFld 67108961 14 rs1))
  | .rett => some (32, 134217825)
  | .waiti => some (32, 201326689)
  | .halt => some (32, 268435553)
  | .ipi rs1 rs2 => some (32, (setFld (setFld 335544417 14 rs1) 20 rs2))
  | .ctlr rd reg => some (32, (setFld (setFld 99 8 rd) 20 reg))
  | .ctlw rd rs1 reg => some (32, (setFld (setFld (setFld 1073741923 8 rd) 14 rs1) 20 reg))
  | .ctlset rd rs1 reg => some (32, (setFld (setFld (setFld 2147483747 8 rd) 14 rs1) 20 reg))
  | .ctlclr rd rs1 reg => some (32, (setFld (setFld (setFld 3221225571 8 rd) 14 rs1) 20 reg))
  | .ctxsave rd rs1 rs2 => some (32, (setFld (setFld (setFld 101 8 rd) 14 rs1) 20 rs2))
  | .ctxload rd rs1 rs2 => some (32, (setFld (setFld (setFld 67108965 8 rd) 14 rs1) 20 rs2))
  | .amsend c b oxb => some (32, (setFld (setFld (setFld 103 8 c) 13 b) 23 oxb))
  | .amret => some (32, 67108967)
  | .fenceI => some (32, 105)
  | .fenceSv => some (32, 67108969)
  | .fenceVs => some (32, 134217833)
  | .fenceVv => some (32, 201326697)
  | .fenceA => some (32, 268435561)
  | .acq scope region => some (32, (setFld (setFld 107 8 scope) 20 region))
  | .rel scope region => some (32, (setFld (setFld 2155 8 scope) 20 region))
  | .scld rd rs1 => some (32, (setFld (setFld 109 8 rd) 14 rs1))
  | .scst rs1 rs2 => some (32, (setFld (setFld 67108973 14 rs1) 20 rs2))
  | .scswp rd rs1 rs2 => some (32, (setFld (setFld (setFld 134217837 8 rd) 14 rs1) 20 rs2))
  | .flushr scope region => some (32, (setFld (setFld 111 8 scope) 20 region))
  | .setvl rd rs1 efmt => some (32, (setFld (setFld (setFld 129 8 rd) 14 rs1) 20 efmt))
  | .setmvl rd rs1 efmt => some (32, (setFld (setFld (setFld 2147483777 8 rd) 14 rs1) 20 efmt))
  | .vaddIvv vd vs1 vs2 km uns => some (32, (setFld (setFld (setFld (setFld (setFld 131 8 vd) 13 vs1) 18 vs2) 23 km) 27 uns))
  | .vsubIvv vd vs1 vs2 km uns => some (32, (setFld (setFld (setFld (setFld (setFld 268435587 8 vd) 13 vs1) 18 vs2) 23 km) 27 uns))
  | .vmulIvv vd vs1 vs2 km uns => some (32, (setFld (setFld (setFld (setFld (setFld 536871043 8 vd) 13 vs1) 18 vs2) 23 km) 27 uns))
  | .vmulh vd vs1 vs2 km uns => some (32, (setFld (setFld (setFld (setFld (setFld 805306499 8 vd) 13 vs1) 18 vs2) 23 km) 27 uns))
  | .vdivIvv vd vs1 vs2 km uns => some (32, (setFld (setFld (setFld (setFld (setFld 1073741955 8 vd) 13 vs1) 18 vs2) 23 km) 27 uns))
  | .vminIvv vd vs1 vs2 km uns => some (32, (setFld (setFld (setFld (setFld (setFld 1342177411 8 vd) 13 vs1) 18 vs2) 23 km) 27 uns))
  | .vmaxIvv vd vs1 vs2 km uns => some (32, (setFld (setFld (setFld (setFld (setFld 1610612867 8 vd) 13 vs1) 18 vs2) 23 km) 27 uns))
  | .vandIvv vd vs1 vs2 km uns => some (32, (setFld (setFld (setFld (setFld (setFld 1879048323 8 vd) 13 vs1) 18 vs2) 23 km) 27 uns))
  | .vor vd vs1 vs2 km uns => some (32, (setFld (setFld (setFld (setFld (setFld 2147483779 8 vd) 13 vs1) 18 vs2) 23 km) 27 uns))
  | .vxor vd vs1 vs2 km uns => some (32, (setFld (setFld (setFld (setFld (setFld 2415919235 8 vd) 13 vs1) 18 vs2) 23 km) 27 uns))
  | .vshlIvv vd vs1 vs2 km uns => some (32, (setFld (setFld (setFld (setFld (setFld 2684354691 8 vd) 13 vs1) 18 vs2) 23 km) 27 uns))
  | .vshrIvv vd vs1 vs2 km uns => some (32, (setFld (setFld (setFld (setFld (setFld 2952790147 8 vd) 13 vs1) 18 vs2) 23 km) 27 uns))
  | .vadds vd vs1 vs2 km uns => some (32, (setFld (setFld (setFld (setFld (setFld 3221225603 8 vd) 13 vs1) 18 vs2) 23 km) 27 uns))
  | .vsubs vd vs1 vs2 km uns => some (32, (setFld (setFld (setFld (setFld (setFld 3489661059 8 vd) 13 vs1) 18 vs2) 23 km) 27 uns))
  | .vaddIvx vd vs1 km uns gs => some (32, (setFld (setFld (setFld (setFld (setFld 133 8 vd) 13 vs1) 18 km) 22 uns) 26 gs))
  | .vsubIvx vd vs1 km uns gs => some (32, (setFld (setFld (setFld (setFld (setFld 8388741 8 vd) 13 vs1) 18 km) 22 uns) 26 gs))
  | .vmulIvx vd vs1 km uns gs => some (32, (setFld (setFld (setFld (setFld (setFld 16777349 8 vd) 13 vs1) 18 km) 22 uns) 26 gs))
  | .vminIvx vd vs1 km uns gs => some (32, (setFld (setFld (setFld (setFld (setFld 25165957 8 vd) 13 vs1) 18 km) 22 uns) 26 gs))
  | .vmaxIvx vd vs1 km uns gs => some (32, (setFld (setFld (setFld (setFld (setFld 33554565 8 vd) 13 vs1) 18 km) 22 uns) 26 gs))
  | .vandIvx vd vs1 km uns gs => some (32, (setFld (setFld (setFld (setFld (setFld 41943173 8 vd) 13 vs1) 18 km) 22 uns) 26 gs))
  | .vshlIvx vd vs1 km uns gs => some (32, (setFld (setFld (setFld (setFld (setFld 50331781 8 vd) 13 vs1) 18 km) 22 uns) 26 gs))
  | .vshrIvx vd vs1 km uns gs => some (32, (setFld (setFld (setFld (setFld (setFld 58720389 8 vd) 13 vs1) 18 km) 22 uns) 26 gs))
  | .vaddFvv vd vs1 vs2 km => some (32, (setFld (setFld (setFld (setFld 135 8 vd) 13 vs1) 18 vs2) 23 km))
  | .vsubFvv vd vs1 vs2 km => some (32, (setFld (setFld (setFld (setFld 268435591 8 vd) 13 vs1) 18 vs2) 23 km))
  | .vmulFvv vd vs1 vs2 km => some (32, (setFld (setFld (setFld (setFld 536871047 8 vd) 13 vs1) 18 vs2) 23 km))
  | .vdivFvv vd vs1 vs2 km => some (32, (setFld (setFld (setFld (setFld 805306503 8 vd) 13 vs1) 18 vs2) 23 km))
  | .vminFvv vd vs1 vs2 km => some (32, (setFld (setFld (setFld (setFld 1073741959 8 vd) 13 vs1) 18 vs2) 23 km))
  | .vmaxFvv vd vs1 vs2 km => some (32, (setFld (setFld (setFld (setFld 1342177415 8 vd) 13 vs1) 18 vs2) 23 km))
  | .vaddFvx vd vs1 km gs => some (32, (setFld (setFld (setFld (setFld 137 8 vd) 13 vs1) 18 km) 26 gs))
  | .vsubFvx vd vs1 km gs => some (32, (setFld (setFld (setFld (setFld 8388745 8 vd) 13 vs1) 18 km) 26 gs))
  | .vmulFvx vd vs1 km gs => some (32, (setFld (setFld (setFld (setFld 16777353 8 vd) 13 vs1) 18 km) 26 gs))
  | .vdivFvx vd vs1 km gs => some (32, (setFld (setFld (setFld (setFld 25165961 8 vd) 13 vs1) 18 km) 26 gs))
  | .vminFvx vd vs1 km gs => some (32, (setFld (setFld (setFld (setFld 33554569 8 vd) 13 vs1) 18 km) 26 gs))
  | .vmaxFvx vd vs1 km gs => some (32, (setFld (setFld (setFld (setFld 41943177 8 vd) 13 vs1) 18 km) 26 gs))
  | .vfma vd vs1 vs2 km => some (32, (setFld (setFld (setFld (setFld 139 8 vd) 13 vs1) 18 vs2) 23 km))
  | .vfms vd vs1 vs2 km => some (32, (setFld (setFld (setFld (setFld 268435595 8 vd) 13 vs1) 18 vs2) 23 km))
  | .vfnma vd vs1 vs2 km => some (32, (setFld (setFld (setFld (setFld 536871051 8 vd) 13 vs1) 18 vs2) 23 km))
  | .vcmp vd vs1 vs2 km uns cond => some (32, (setFld (setFld (setFld (setFld (setFld (setFld 141 8 vd) 13 vs1) 18 vs2) 23 km) 27 uns) 28 cond))
  | .vsel vd vs1 km gs => some (32, (setFld (setFld (setFld (setFld 143 8 vd) 13 vs1) 18 km) 26 gs))
  | .vbcast vd vs1 km gs => some (32, (setFld (setFld (setFld (setFld 8388751 8 vd) 13 vs1) 18 km) 26 gs))
  | .vext vd vs1 uns gs => some (32, (setFld (setFld (setFld (setFld 16777359 8 vd) 13 vs1) 22 uns) 26 gs))
  | .vins vd idx gs => some (32, (setFld (setFld (setFld 25165967 8 vd) 13 idx) 26 gs))
  | .vslideup vd vs1 km gs => some (32, (setFld (setFld (setFld (setFld 145 8 vd) 13 vs1) 18 km) 26 gs))
  | .vslidedn vd vs1 km gs => some (32, (setFld (setFld (setFld (setFld 8388753 8 vd) 13 vs1) 18 km) 26 gs))
  | .vperm vd vs1 idx => some (32, (setFld (setFld (setFld 16777361 8 vd) 13 vs1) 18 idx))
  | .vcompress vd vs1 km => some (32, (setFld (setFld (setFld 25165969 8 vd) 13 vs1) 18 km))
  | .vexpand vd vs1 km => some (32, (setFld (setFld (setFld 33554577 8 vd) 13 vs1) 18 km))
  | .viota vd km => some (32, (setFld (setFld 41943185 8 vd) 18 km))
  | .vred vd vs1 km uns op => some (32, (setFld (setFld (setFld (setFld (setFld 147 8 vd) 13 vs1) 23 km) 27 uns) 28 op))
  | .vscan vd vs1 km uns op => some (32, (setFld (setFld (setFld (setFld (setFld 2147483795 8 vd) 13 vs1) 23 km) 27 uns) 28 op))
  | .vdot vd vs1 vs2 km uns => some (32, (setFld (setFld (setFld (setFld (setFld 149 8 vd) 13 vs1) 18 vs2) 23 km) 27 uns))
  | .vsqrt vd vs1 km => some (32, (setFld (setFld (setFld 151 8 vd) 13 vs1) 23 km))
  | .vrcp vd vs1 km => some (32, (setFld (setFld (setFld 268435607 8 vd) 13 vs1) 23 km))
  | .vrsq vd vs1 km => some (32, (setFld (setFld (setFld 536871063 8 vd) 13 vs1) 23 km))
  | .vexp2 vd vs1 km => some (32, (setFld (setFld (setFld 805306519 8 vd) 13 vs1) 23 km))
  | .vlog2 vd vs1 km => some (32, (setFld (setFld (setFld 1073741975 8 vd) 13 vs1) 23 km))
  | .vcvt vd vs1 km efc reset rm target => some (32, (setFld (setFld (setFld (setFld (setFld (setFld (setFld 153 8 vd) 13 vs1) 18 km) 21 efc) 23 reset) 24 rm) 26 target))
  | .efget rd num => some (32, (setFld (setFld 155 8 rd) 20 num))
  | .efset rs1 num => some (32, (setFld (setFld 67109019 14 rs1) 20 num))
  | .kand vd vs1 vs2 => some (32, (setFld (setFld (setFld 157 8 vd) 13 vs1) 18 vs2))
  | .kor vd vs1 vs2 => some (32, (setFld (setFld (setFld 268435613 8 vd) 13 vs1) 18 vs2))
  | .kxor vd vs1 vs2 => some (32, (setFld (setFld (setFld 536871069 8 vd) 13 vs1) 18 vs2))
  | .kandn vd vs1 vs2 => some (32, (setFld (setFld (setFld 805306525 8 vd) 13 vs1) 18 vs2))
  | .knot vd vs1 => some (32, (setFld (setFld 1073741981 8 vd) 13 vs1))
  | .kmov vd vs1 => some (32, (setFld (setFld 1342177437 8 vd) 13 vs1))
  | .kpop vd vs1 => some (32, (setFld (setFld 1610612893 8 vd) 13 vs1))
  | .kfirst vd vs1 => some (32, (setFld (setFld 1879048349 8 vd) 13 vs1))
  | .kset vd vs1 word => some (32, (setFld (setFld (setFld 2147483805 8 vd) 13 vs1) 18 word))
  | .kget vd vs1 word => some (32, (setFld (setFld (setFld 2415919261 8 vd) 13 vs1) 18 word))
  | .vld vd km gs => some (32, (setFld (setFld (setFld 161 8 vd) 18 km) 26 gs))
  | .vlds vd stride km gs => some (32, (setFld (setFld (setFld (setFld 8388769 8 vd) 13 stride) 18 km) 26 gs))
  | .vldx vd idx km gs => some (32, (setFld (setFld (setFld (setFld 16777377 8 vd) 13 idx) 18 km) 26 gs))
  | .vldSl vd km gs => some (32, (setFld (setFld (setFld 25165985 8 vd) 18 km) 26 gs))
  | .vst vd km gs => some (32, (setFld (setFld (setFld 163 8 vd) 18 km) 26 gs))
  | .vsts vd stride km gs => some (32, (setFld (setFld (setFld (setFld 8388771 8 vd) 13 stride) 18 km) 26 gs))
  | .vstx vd idx km gs => some (32, (setFld (setFld (setFld (setFld 16777379 8 vd) 13 idx) 18 km) 26 gs))
  | .vstSl vd km gs => some (32, (setFld (setFld (setFld 25165987 8 vd) 18 km) 26 gs))
  | .vldt vd line km gs => some (32, (setFld (setFld (setFld (setFld 165 8 vd) 13 line) 18 km) 26 gs))
  | .vstt vd shape gs => some (32, (setFld (setFld (setFld 8388773 8 vd) 13 shape) 26 gs))
  | .vldc vd offs km gs => some (32, (setFld (setFld (setFld (setFld 167 8 vd) 13 offs) 18 km) 26 gs))
  | .vpf level len gs => some (32, (setFld (setFld (setFld 169 8 level) 13 len) 26 gs))
  | .vamo vd idx km uns op gs => some (32, (setFld (setFld (setFld (setFld (setFld (setFld 171 8 vd) 13 idx) 18 km) 22 uns) 23 op) 26 gs))
  | .vrdm vd idx km uns op gs => some (32, (setFld (setFld (setFld (setFld (setFld (setFld 173 8 vd) 13 idx) 18 km) 22 uns) 23 op) 26 gs))
  | .mzero c => some (32, (setFld 177 8 c))
  | .mwait c => some (32, (setFld 67109041 8 c))
  | .mprg c d => some (32, (setFld (setFld 134217905 8 c) 18 d))
  | .mhdr c a => some (32, (setFld (setFld 201326769 8 c) 18 a))
  | .mop c b a sat => some (32, (setFld (setFld (setFld (setFld 179 8 c) 13 b) 18 a) 28 sat))
  | .mopd c b a sat => some (32, (setFld (setFld (setFld (setFld 67109043 8 c) 13 b) 18 a) 28 sat))
  | .mops c b a sat => some (32, (setFld (setFld (setFld (setFld 134217907 8 c) 13 b) 18 a) 28 sat))
  | .mmas c b a oxb sat => some (32, (setFld (setFld (setFld (setFld (setFld 181 8 c) 13 b) 18 a) 23 oxb) 28 sat))
  | .mrd c b a => some (32, (setFld (setFld (setFld 183 8 c) 13 b) 18 a))
  | .mwr c b a => some (32, (setFld (setFld (setFld 67109047 8 c) 13 b) 18 a))
  | .mld c a oxb => some (32, (setFld (setFld (setFld 185 8 c) 18 a) 23 oxb))
  | .mst c b a oxb => some (32, (setFld (setFld (setFld (setFld 67109049 8 c) 13 b) 18 a) 23 oxb))
  | .cpy c b a oxb => some (32, (setFld (setFld (setFld (setFld 193 8 c) 13 b) 18 a) 23 oxb))
  | .cpyf c b a oxb => some (32, (setFld (setFld (setFld (setFld 67109057 8 c) 13 b) 18 a) 23 oxb))
  | .cpym c b a oxb => some (32, (setFld (setFld (setFld (setFld 134217921 8 c) 13 b) 18 a) 23 oxb))
  | .cpys c b a oxb => some (32, (setFld (setFld (setFld (setFld 201326785 8 c) 13 b) 18 a) 23 oxb))
  | .rowcls c => some (32, (setFld 195 8 c))
  | .cpwait c => some (32, (setFld 67109059 8 c))
  | .cpqry c d => some (32, (setFld (setFld 134217923 8 c) 18 d))
  | .cbinit c b a => some (32, (setFld (setFld (setFld 197 8 c) 13 b) 18 a))
  | .cbacq c role d => some (32, (setFld (setFld (setFld 67109061 8 c) 13 role) 18 d))
  | .cbrel c role => some (32, (setFld (setFld 134217925 8 c) 13 role))
  | .lfmt c d a => some (32, (setFld (setFld (setFld 199 8 c) 13 d) 18 a))
  | .binit c a => some (32, (setFld (setFld 201 8 c) 18 a))
  | .barv c a => some (32, (setFld (setFld 67109065 8 c) 18 a))
  | .bwait c b a => some (32, (setFld (setFld (setFld 134217929 8 c) 13 b) 18 a))
  | .bfree c => some (32, (setFld 201326793 8 c))
  | .mbsend c b a => some (32, (setFld (setFld (setFld 203 8 c) 13 b) 18 a))
  | .mbrecv c b a => some (32, (setFld (setFld (setFld 67109067 8 c) 13 b) 18 a))
  | .mbpeek c b => some (32, (setFld (setFld 134217931 8 c) 13 b))
  | .gsub c a => some (32, (setFld (setFld 209 8 c) 18 a))
  | .gdep c b a => some (32, (setFld (setFld (setFld 67109073 8 c) 13 b) 18 a))
  | .gdone => some (32, 134217937)
  | .gwait c a => some (32, (setFld (setFld 201326801 8 c) 18 a))
  | .sfdecl c a oxb => some (32, (setFld (setFld (setFld 211 8 c) 18 a) 23 oxb))
  | .sfnext c b a => some (32, (setFld (setFld (setFld 67109075 8 c) 13 b) 18 a))
  | .sfend c a => some (32, (setFld (setFld 134217939 8 c) 18 a))
  | .ftset c b a oxb => some (32, (setFld (setFld (setFld (setFld 213 8 c) 13 b) 18 a) 23 oxb))
  | .migr c b a => some (32, (setFld (setFld (setFld 67109077 8 c) 13 b) 18 a))
  | .sample c b a oxb => some (32, (setFld (setFld (setFld (setFld 217 8 c) 13 b) 18 a) 23 oxb))
  | .sampleDraft c b a oxb => some (32, (setFld (setFld (setFld (setFld 67109081 8 c) 13 b) 18 a) 23 oxb))
  | .tkapp c b a => some (32, (setFld (setFld (setFld 219 8 c) 13 b) 18 a))
  | .tkdraft c b a => some (32, (setFld (setFld (setFld 67109083 8 c) 13 b) 18 a))
  | .tkconf c b a => some (32, (setFld (setFld (setFld 134217947 8 c) 13 b) 18 a))
  | .wset c b a => some (32, (setFld (setFld (setFld 221 8 c) 13 b) 18 a))
  | .wget c b a => some (32, (setFld (setFld (setFld 67109085 8 c) 13 b) 18 a))
  | .sqfork c b a => some (32, (setFld (setFld (setFld 134217949 8 c) 13 b) 18 a))
  | .sqstat c b a => some (32, (setFld (setFld (setFld 201326813 8 c) 13 b) 18 a))
  | .sqiter c b a => some (32, (setFld (setFld (setFld 268435677 8 c) 13 b) 18 a))
  | .dcapd c b a => some (32, (setFld (setFld (setFld 225 8 c) 13 b) 18 a))
  | .dcapr c a => some (32, (setFld (setFld 67109089 8 c) 18 a))
  | .dcapq c a => some (32, (setFld (setFld 134217953 8 c) 18 a))
  | .trmark a => some (32, (setFld 201326817 18 a))
  | .sliprd c a => some (32, (setFld (setFld 268435681 8 c) 18 a))
  | .attest c b a => some (32, (setFld (setFld (setFld 227 8 c) 13 b) 18 a))
  | .keynew c a => some (32, (setFld (setFld 67109091 8 c) 18 a))
  | .keydel c a => some (32, (setFld (setFld 134217955 8 c) 18 a))
  | .fuserd c a => some (32, (setFld (setFld 201326819 8 c) 18 a))
  | .lcstat c a => some (32, (setFld (setFld 268435683 8 c) 18 a))
  | .dbgunlk c a => some (32, (setFld (setFld 335544547 8 c) 18 a))
  | .measx c b a => some (32, (setFld (setFld (setFld 402653411 8 c) 13 b) 18 a))
  | .plbinv a => some (32, (setFld 229 18 a))
  | .tlbinv b a => some (32, (setFld (setFld 67109093 13 b) 18 a))
  | .pgwake c a => some (32, (setFld (setFld 134217957 8 c) 18 a))
  | .pgqry c a => some (32, (setFld (setFld 201326821 8 c) 18 a))
  | .pgpin c b a => some (32, (setFld (setFld (setFld 268435685 8 c) 13 b) 18 a))
  | .mscfl c b a => some (32, (setFld (setFld (setFld 231 8 c) 13 b) 18 a))
  | .hbmslot c b a => some (32, (setFld (setFld (setFld 67109095 8 c) 13 b) 18 a))
  | .tenset c b a => some (32, (setFld (setFld (setFld 134217959 8 c) 13 b) 18 a))
  | .vcres c b a => some (32, (setFld (setFld (setFld 201326823 8 c) 13 b) 18 a))
  | .cMv ga gb => some (16, (setFld (setFld 2 6 ga) 11 gb))
  | .cAdd ga gb => some (16, (setFld (setFld 4 6 ga) 11 gb))
  | .cSub ga gb => some (16, (setFld (setFld 6 6 ga) 11 gb))
  | .cAnd ga gb => some (16, (setFld (setFld 8 6 ga) 11 gb))
  | .cOr ga gb => some (16, (setFld (setFld 10 6 ga) 11 gb))
  | .cXor ga gb => some (16, (setFld (setFld 12 6 ga) 11 gb))
  | .cSlt ga gb => some (16, (setFld (setFld 14 6 ga) 11 gb))
  | .cLi ga imm => some (16, (setFld (setFld 16 6 ga) 11 imm))
  | .cAddi ga imm => some (16, (setFld (setFld 18 6 ga) 11 imm))
  | .cShli ga num => some (16, (setFld (setFld 20 6 ga) 11 num))
  | .cShri ga num => some (16, (setFld (setFld 22 6 ga) 11 num))
  | .cShai ga num => some (16, (setFld (setFld 24 6 ga) 11 num))
  | .cLdw ga gb => some (16, (setFld (setFld 26 6 ga) 11 gb))
  | .cLdd ga gb => some (16, (setFld (setFld 28 6 ga) 11 gb))
  | .cStw ga gb => some (16, (setFld (setFld 30 6 ga) 11 gb))
  | .cStd ga gb => some (16, (setFld (setFld 32 6 ga) 11 gb))
  | .cLdsp ga num => some (16, (setFld (setFld 34 6 ga) 11 num))
  | .cStsp ga num => some (16, (setFld (setFld 36 6 ga) 11 num))
  | .cBeqz ga imm => some (16, (setFld (setFld 38 6 ga) 11 imm))
  | .cBnez ga imm => some (16, (setFld (setFld 40 6 ga) 11 imm))
  | .cJr ga => some (16, (setFld 42 6 ga))
  | .cJal imm => some (16, (setFld 44 6 imm))
  | .cAddsp imm => some (16, (setFld 46 6 imm))
  | .cNeg ga gb => some (16, (setFld (setFld 48 6 ga) 11 gb))
  | .interruptEntry _ _ => none
  | .timerInterrupt _ _ => none
  | .vectorEntryComplete _ _ => none
  | .eptimeout _ _ => none
  | .laneGrant _ => none
  | .asyncFaultTrap _ _ => none
  | .asyncPageFaultDrop _ _ => none
  | .walkComplete _ => none
  | .plbFill _ _ => none
  | .faultRecordWrite _ => none
  | .matrixCmdAccept _ _ => none
  | .matrixCmdPerform _ => none
  | .mmasKrowApply _ => none
  | .matrixCmdFinish _ => none
  | .copyCmdAccept _ _ => none
  | .copyChunkRegister _ _ => none
  | .copyFollowonIssue _ _ => none
  | .copySlotTake _ _ => none
  | .mergeEntryClose _ => none
  | .mergeRequest _ _ => none
  | .feAccessArrive _ => none
  | .fetimeout _ _ => none
  | .feCancel _ => none
  | .rsvRequest _ _ => none
  | .rsvGrant _ _ => none
  | .mailboxArrival _ => none
  | .amArrival _ => none
  | .amHandlerStart _ => none
  | .registration _ => none
  | .revocationNotice _ => none
  | .homeReadResponse _ _ => none
  | .scWindowDeliver => none
  | .hostPostedWrite _ _ _ _ => none
  | .hostWritePerform _ _ => none
  | .hostRead _ _ _ => none
  | .spillWritebackDone _ => none
  | .channelSlotBoundary _ => none
  | .packetRoute _ => none
  | .escapeChannelMove _ => none
  | .flitReceive _ _ => none
  | .msgSwitchArrival _ => none
  | .ualinkMessageReceive _ _ => none
  | .ptpMessageReceive _ _ => none
  | .ppsEdge => none
  | .timeSyncLoss => none
  | .submitRecord _ => none
  | .placementDecision => none
  | .firingSlotBoundary => none
  | .migrationTransfer _ => none
  | .debugHoldNotice _ => none
  | .breakpointStop _ _ => none
  | .debugPortCommand _ _ _ _ => none
  | .dbgHalt _ _ => none
  | .dbgResume _ _ => none
  | .rdreg _ _ => none
  | .wrreg _ _ => none
  | .dbgCancel _ _ => none
  | .setbp _ _ => none
  | .clrbp _ _ => none
  | .brkcap _ _ => none
  | .trset _ _ => none
  | .pcreate => none
  | .pdissolve => none
  | .tplace => none
  | .tremove => none
  | .reserve => none
  | .release => none
  | .hwgrant => none
  | .mboxStatus _ => none
  | .logread _ => none
  | .stage _ => none
  | .mboxBoot _ => none
  | .dcmd _ => none
  | .route _ => none
  | .mboxBadCommand _ => none
  | .pcieConfigAccess _ _ _ _ => none
  | .powerOn => none
  | .packageReset => none
  | .calibrationComplete _ => none
  | .correctedErrorEvent _ _ _ => none
  | .powerCapLower _ => none
  | .powerCapRaise => none
  | .lockBroken _ => none
  | .ipendClear _ _ _ => none
  | .vqpop _ _ _ => none
  | .fqtailWrite _ _ _ => none
  | .trtailWrite _ _ _ => none
  | .shrent2Write _ _ _ => none
  | .svpop _ _ _ => none
  | .ipointWrite _ _ _ => none
  | .registerWrite _ _ _ _ => none
  | .vamoVrdmElementAtHome _ => none
  | .debugHoldWithdrawal _ => none
  | .linkFrameBoundary => none
  | .ualinkRemoteRequest _ => none
  | .spareTakeover _ _ => none

/-- The word of an instruction as an ILLEGAL or VHOLD trap reports it (R60): 0 for an engine step. -/
def wordOf (i : Instr) : Word :=
  match encode i with
  | some (_, w) => BitVec.ofNat 64 w
  | none => 0

/-- The length of an instruction in bytes (R40). -/
def lenOf (i : Instr) : Nat :=
  match encode i with
  | some (n, _) => n / 8
  | none => 0

end Sys2Proof
end

