-- ==== Sys2Proof/Machine/Bits.lean ====
section
/-! DEFINITION. Sparse tables, the byte memory in its canonical form, and the bit-field, sign-extension and
byte-order helpers that the meanings share. -/

namespace Sys2Proof.Machine

/-! ### Tables -/

/-- The value a table holds for a key, or `d`. -/
def tget {α : Type} (d : α) (t : Table α) (k : Nat) : α :=
  match t with
  | [] => d
  | (k', v) :: r => if k = k' then v else tget d r k

/-- The entry a table holds for a key, if any. -/
def tfind {α : Type} (t : Table α) (k : Nat) : Option α :=
  match t with
  | [] => none
  | (k', v) :: r => if k = k' then some v else tfind r k

/-- A table with an entry set, keys strictly rising. -/
def tput {α : Type} (t : Table α) (k : Nat) (v : α) : Table α :=
  match t with
  | [] => [(k, v)]
  | (k', v') :: r =>
    if k = k' then (k, v) :: r
    else if k < k' then (k, v) :: (k', v') :: r
    else (k', v') :: tput r k v

/-- A table without a key. -/
def tdel {α : Type} (t : Table α) (k : Nat) : Table α := t.filter (fun e => e.1 ≠ k)

/-- A table with one entry changed by a function; an absent entry counts as `d`. -/
def tmod {α : Type} (d : α) (t : Table α) (k : Nat) (f : α → α) : Table α := tput t k (f (tget d t k))

/-- A table with several entries set, left to right. -/
def tputs {α : Type} (t : Table α) (es : List (Nat × α)) : Table α := es.foldl (fun t e => tput t e.1 e.2) t

/-! ### Memory -/

/-- The byte memory: addresses strictly rising, no byte 0 listed. -/
abbrev Memory := List Host.Cell

/-- What an address reads as: the listed byte, or 0 (log 3). -/
def mget (m : Memory) (a : Nat) : Byte := tget 0 m a

/-- A memory with one byte written; writing 0 removes the entry. -/
def mput (m : Memory) (a : Nat) (b : Byte) : Memory := if b = 0 then tdel m a else tput m a b

/-- Addresses strictly rising, above `lo` where one is given. -/
def risingFrom (lo : Option Nat) (m : Memory) : Bool :=
  match m with
  | [] => true
  | (a, b) :: r => (match lo with | none => true | some l => decide (l < a)) && b != 0 && risingFrom (some a) r

/-- The canonical form of a memory. -/
def Memory.wf (m : Memory) : Bool := risingFrom none m

/-- `n` bytes from an address upward. -/
def mread (m : Memory) (a n : Nat) : List Byte := (List.range n).map (fun i => mget m (a + i))

/-- A memory with bytes written from an address upward. -/
def mwrite (m : Memory) (a : Nat) (bs : List Byte) : Memory :=
  match bs with
  | [] => m
  | b :: r => mwrite (mput m a b) (a + 1) r

/-! ### Bits and bytes -/

/-- Bits [hi:lo] of a word as a number (02_words R70). -/
def bits (x : Word) (hi lo : Nat) : Nat := x.toNat / 2 ^ lo % 2 ^ (hi - lo + 1)

/-- One bit of a word. -/
def bit (x : Word) (n : Nat) : Bool := x.getLsbD n

/-- A number as a word, modulo 2^64 (R71 wrap). -/
def word (n : Nat) : Word := BitVec.ofNat 64 n

/-- An integer as a word, modulo 2^64. -/
def wordI (n : Int) : Word := BitVec.ofInt 64 n

/-- 1 or 0. -/
def b2n (b : Bool) : Nat := if b then 1 else 0

/-- 1 or 0 as a word. -/
def b2w (b : Bool) : Word := if b then 1 else 0

/-- The n-bit field x read as two's complement (R71 sext). -/
def sext (x n : Nat) : Int := if x % 2 ^ n < 2 ^ (n - 1) then (x % 2 ^ n : Nat) else (x % 2 ^ n : Nat) - (2 ^ n : Nat)

/-- A word with every bit above bit n - 1 replaced by that bit. -/
def sextWord (x : Word) (n : Nat) : Word := wordI (sext x.toNat n)

/-- The n low bits of a word. -/
def zextWord (x : Word) (n : Nat) : Word := word (x.toNat % 2 ^ n)

/-- The n-bit two's complement code of an integer, as a number. -/
def wrapI (x : Int) (n : Nat) : Nat := (x % (2 ^ n : Nat)).toNat

/-- A word with the field [hi:lo] replaced. -/
def setBits (x : Word) (hi lo : Nat) (v : Nat) : Word :=
  let w := hi - lo + 1
  word (x.toNat - bits x hi lo * 2 ^ lo + v % 2 ^ w * 2 ^ lo)

/-- A word with one bit set to a value. -/
def setBit (x : Word) (n : Nat) (v : Bool) : Word := setBits x n n (b2n v)

/-- A multiple of `m` at or above `x`. -/
def roundUp (x m : Nat) : Nat := (x + m - 1) / m * m

/-- The quotient rounded up. -/
def ceilDiv (x m : Nat) : Nat := (x + m - 1) / m

/-- The word a list of bytes spells. -/
def leWord (bs : List Byte) : Word := word (leNat bs)

/-- Bytes [lo, lo + n) of a list as a number. -/
def leField (bs : List Byte) (lo n : Nat) : Nat := leNat ((bs.drop lo).take n)

/-- A list of bytes with those from `lo` on replaced. -/
def patch (bs : List Byte) (lo : Nat) (new : List Byte) : List Byte :=
  bs.take lo ++ new ++ bs.drop (lo + new.length)

/-- The first number below `n` that satisfies a test. -/
def firstBelow (n : Nat) (p : Nat → Bool) : Option Nat := (List.range n).find? p

/-- The number of 1 bits among the n low bits of a number. -/
def popCount (x n : Nat) : Nat := ((List.range n).filter (fun i => x.testBit i)).length

/-- The bit-wise complement of a number within n bits. -/
def notBits (x n : Nat) : Nat := 2 ^ n - 1 - x % 2 ^ n

/-- The largest k with 2^k at most x; 0 for 0. -/
def ilog2 (x : Nat) : Nat := Nat.log2 x

/-- A list with element `i` replaced. -/
def lset {α : Type} (l : List α) (i : Nat) (x : α) : List α := l.set i x

/-- Element `i` of a list, or `d`. -/
def lget {α : Type} (d : α) (l : List α) (i : Nat) : α := l.getD i d

end Sys2Proof.Machine
end

