-- ==== Sys2Proof/Machine/Measure.lean ====
section
/-! DEFINITION. SHAKE256 of FIPS 202, the measurement registers that use it, and what boot leaves in them
(17_service R420, R432). -/

namespace Sys2Proof.Machine

/-- The lane of the hash state at a column and a row; the state is 25 words, row after row. -/
def hashLane (a : List Word) (p : Nat × Nat) : Word := lget 0 a (p.1 % 5 + 5 * (p.2 % 5))

/-- The walk that goes once through the 24 lanes other than the first: the pi step moves each lane to the next place of it, and the
rho step turns the lane at its place t by (t + 1)(t + 2)/2. -/
def hashWalk : Nat → Nat × Nat
  | 0 => (1, 0)
  | t + 1 => let p := hashWalk t; (p.2, (2 * p.1 + 3 * p.2) % 5)

/-- The theta step: every lane takes the parity of the column before its own and that of the one after, turned by one. -/
def hashTheta (a : List Word) : List Word :=
  let parity := (List.range 5).map (fun x => (List.range 5).foldl (fun w y => w ^^^ hashLane a (x, y)) 0)
  a.zipIdx.map (fun e => e.1 ^^^ lget 0 parity ((e.2 + 4) % 5) ^^^ (lget 0 parity ((e.2 + 1) % 5)).rotateLeft 1)

/-- The rho and pi steps. -/
def hashMove (a : List Word) : List Word :=
  (List.range 24).foldl (fun b t =>
    let q := hashWalk (t + 1)
    b.set (q.1 + 5 * q.2) ((hashLane a (hashWalk t)).rotateLeft ((t + 1) * (t + 2) / 2))) a

/-- The chi step. -/
def hashChi (a : List Word) : List Word :=
  a.zipIdx.map (fun e =>
    let next := fun (k : Nat) => hashLane a (e.2 % 5 + k, e.2 / 5)
    e.1 ^^^ (~~~(next 1) &&& next 2))

/-- The shift register x^8 + x^6 + x^5 + x^4 + 1 after t steps from 1. -/
def hashRegister : Nat → Nat
  | 0 => 1
  | t + 1 => let r := 2 * hashRegister t; if r < 256 then r else r ^^^ 0x171

/-- The constant of a round: bit 2^j - 1 is what the register puts out at step 7 x round + j. -/
def hashConstant (round : Nat) : Word :=
  (List.range 7).foldl (fun w j => if hashRegister (7 * round + j) % 2 = 1 then setBit w (2 ^ j - 1) true else w) 0

/-- One round of the permutation of FIPS 202. -/
def hashRound (a : List Word) (round : Nat) : List Word := (hashChi (hashMove (hashTheta a))).modify 0 (fun w => w ^^^ hashConstant round)

/-- One block of 17 words taken into the state. -/
def hashBlock (a : List Word) (block : List Byte) : List Word :=
  (List.range 24).foldl hashRound (a.zipIdx.map (fun e => if e.2 < 17 then e.1 ^^^ word (leField block (8 * e.2) 8) else e.1))

/-- SHAKE256 of a message, `n` bytes of output, at most 136: the message, the bits 1111, and 10*1 up to a whole block. -/
def shake256 (msg : List Byte) (n : Nat) : List Byte :=
  let blocks := msg.length / 136 + 1
  let bs := (msg ++ [0x1F] ++ List.replicate (136 * blocks - msg.length - 1) 0).modify (136 * blocks - 1) (fun b => b ^^^ 0x80)
  let a := (List.range blocks).foldl (fun a i => hashBlock a ((bs.drop (136 * i)).take 136)) (List.replicate 25 0)
  ((a.take 17).flatMap (fun w => leBytes 8 w.toNat)).take n

/-- The 64-byte event record of a measurement (R432). -/
def eventRecord (code time : Nat) (detail : List Byte) : List Byte :=
  leBytes 4 code ++ leBytes 4 0 ++ leBytes 8 time ++ leBytes 16 Config.deviceId.toNat
    ++ (detail ++ List.replicate 32 0).take 32

/-- A measurement register; 64 zero bytes until it is extended (R420 step 1). -/
def measOf (m : Table (List Byte)) (n : Nat) : List Byte := tget (List.replicate 64 0) m n

/-- The measurement registers after register `n` is extended by an event (R432). -/
def extendMeas (m : Table (List Byte)) (n : Nat) (event : List Byte) : Table (List Byte) :=
  tput m n (shake256 (measOf m n ++ event) 64)

/-- What the boot steps leave in M0 and M1 (R420 steps 1 and 2), at a time and with the staged bytes of the image. -/
def imageMeas (time : Nat) (staged : Table Byte) : Table (List Byte) :=
  let m0 := extendMeas [] 0 (eventRecord 16 time (leBytes 32 Config.romDigest.toNat))
  extendMeas m0 1 (eventRecord 17 time (leBytes 32 (Config.imageDigest staged).toNat))

/-- What they leave in M0 to M2 (R420 step 5), in a lifecycle, with the debug port open or closed, and with a mask of dies
present. -/
def bootMeas (time : Nat) (staged : Table Byte) (lifecycle : Nat) (portOpen : Bool) (present : Nat) : Table (List Byte) :=
  extendMeas (imageMeas time staged) 2
    (eventRecord 18 time [BitVec.ofNat 8 lifecycle, BitVec.ofNat 8 (b2n portOpen), BitVec.ofNat 8 present])

end Sys2Proof.Machine
end

