-- ==== Sys2Proof/Machine/State.lean ====
section
/-! DEFINITION. The state of the package as plain data: strands, cores, clusters, dies, memory and the
package's own engines; the reasons a step can stop; and the state after release from reset. -/

namespace Sys2Proof.Machine

/-- The states of a strand (04_strand R106). -/
inductive RunState where
  | free | run | dropped | held | halted
deriving DecidableEq, Repr

/-- The privilege modes (04_strand R111); code 3 never occurs. -/
inductive Mode where
  | task | supervisor | monitor
deriving DecidableEq, Repr

/-- ctl.status (04_strand R113), field by field; the reserved bits read 0. -/
structure Status where
  mode : Mode := .monitor
  ie : Bool := false
  pie : Bool := false
  pmode : Mode := .task
  vhold : Bool := false
  saveinc : Bool := false
  mnest : Bool := false
  mpmode : Mode := .task
  mpie : Bool := false
deriving DecidableEq, Repr

/-- A shadow header (03_numbers R99); the reserved fields read 0. -/
structure VHdr where
  efmt : BitVec 8 := 0
  slay : BitVec 4 := 0
  sfmt : BitVec 4 := 0
  spar : BitVec 4 := 0
  order : BitVec 4 := 0
  rawsz : BitVec 2 := 3
  count : BitVec 16 := 0
deriving DecidableEq, Repr

/-- A tile header as an engine holds it (03_numbers R90). -/
structure TileHdr where
  base : Word
  efmt : Nat
  slay : Nat
  sfmt : Nat
  spar : Nat
  order : Nat
  flags : Nat
  rows : Nat
  cols : Nat
  pitch : Nat
  doff : Nat
  soff : Nat
  rid : Nat
deriving DecidableEq, Repr

/-- An entry of the vector queue or the hold buffer with what it captured (05_vector R142). -/
structure VEntry where
  pc : Word
  ins : Instr
  ox : List Word
  g1 : Word
  g2 : Word
  vl : Nat
  frm : BitVec 3
  grant : Nat
  lfmt : BitVec 8
  /-- first element not completed (ctl.velem at a restart) -/
  start : Nat
  /-- the protection domain at issue (07_translation R196) -/
  pd : Nat := 0
  /-- the lane clusters its captured grant counts (05 R149) -/
  lanes : List Nat := []
  /-- it has started (05 R152) -/
  begun : Bool := false
  /-- stopped by its strand's own page fault (05 R149) -/
  stopped : Bool := false
  /-- VLDT: the header it checked, its snapshot for the whole instruction (03_numbers R97) -/
  tile : Option TileHdr := none
deriving DecidableEq, Repr

/-- The replay buffer (05_vector R151): the captured words with their addresses. -/
structure Replay where
  open_ : Bool := false
  complete : Bool := false
  addr : Word := 0
  words : List (Word × Instr) := []
deriving DecidableEq, Repr

/-- The kinds of full/empty access (10_sync R274). -/
inductive FeKind where
  | ldfe | ldff | stfe | stff
deriving DecidableEq, Repr

/-- What a reservation is asked for: to be held (10_sync R281), or one atomic step (R285, R286) with its two operands. -/
inductive RsvUse where
  | hold (rd scope region : Nat)
  | atomic (rd op : Nat) (wide : Bool) (b c : Word)
deriving DecidableEq, Repr

/-- What a strand that is in flight waits for (04_strand R107, R110). -/
inductive Wait where
  /-- nothing -/
  | none
  /-- its next instruction has not issued and is offered again: a full queue, or a retry of its accumulator load -/
  | again
  /-- an instruction in flight that has changed nothing, `Strand.flying`: what it waits for is examined again at the strand's
  turns -/
  | poll
  /-- lanes: its SETVL or SETMVL is in the allocator's order (05 R147) -/
  | lanes
  /-- a full/empty access sent to its owner (10 R274): address, kind, destination register, the number of the access, refused, sent a
  cancel -/
  | fe (ea : Word) (kind : FeKind) (rd : Nat) (data : Word) (acc : Nat) (refused cancelled : Bool)
  /-- a reservation (10 R281, R286): physical word and key, address, whether the home slice has queued it, its use -/
  | rsv (pa key : Nat) (ea : Word) (asked : Bool) (use : RsvUse)
  /-- a circular buffer's slot (09 R261) -/
  | cbacq (buf : Nat) (producer : Bool) (rd : Nat)
  /-- a mailbox message (10 R296) -/
  | mbrecv (prio : Nat) (dst : Word) (rd : Nat)
  /-- a barrier's phase (10 R291) -/
  | bwait (bar : Nat) (rd : Nat)
  /-- WAITI (04 R127) -/
  | waiti
  /-- acceptance of its message (04 R137, 10 R295): packet -/
  | send (pkt : Nat)
  /-- MWAIT: commands and copies outstanding when it issued (08 R233) -/
  | mwait (cmds : List Nat) (copies : List Nat)
  /-- GWAIT: the node (14 R381) -/
  | gwait (node rd : Nat)
  /-- ACQ.s: the stamps each host port had issued, and the region (11 R316) -/
  | acqs (stamps : List Nat) (region : Nat)
  /-- SC operation announced or about to be (11 R314): its number, and whether it reads -/
  | sc (id : Nat) (load : Bool)
  /-- the completion of a queued vector instruction whose g result the scalar stream awaits, or FENCE.VS (05 R144,
  06 R188); the pc already names the next instruction -/
  | vres
  /-- a migration or parking it commanded (14 R384) -/
  | migr (id : Nat) (rd : Nat)
  /-- HALT of a tenant it commanded (16 R411) -/
  | dbgHalt (tenant : Nat) (cap : Option Nat)
  /-- SFEND (14 R382) -/
  | sfend (rd : Nat)
  /-- an instruction in flight whose effects are under way, `Strand.flying`; it completes before anything else takes effect
  (04 R439).  The frames are those of the translations a TLBINV discarded (07 R199): base and log2 of the size -/
  | flight (frames : List (Nat × Nat))
deriving DecidableEq, Repr

/-- What comes back to a strand of a VAMO element that waited at its home (06_vmem R183): the old value, or the error it met
(12_sagger R329). -/
inductive AmoEnd where
  | value (x : Word)
  | ecc
  | poison
deriving DecidableEq, Repr

/-- The kinds of access a fault record names (07_translation R200). -/
abbrev FaultKind := Nat

/-- A fault record (07_translation R200), before its time stamp. -/
structure FaultRec where
  va : Word
  sid : Nat
  tenant : Nat
  type : Nat
  kind : FaultKind
  level : Nat
  progress : Nat
  time : Word
  /-- the walk whose slot it waits in (07 R202) -/
  walk : Nat := 0
deriving DecidableEq, Repr

/-- Something that takes effect at a strand's next issue point (04_strand R439), oldest first. -/
inductive AsyncEv where
  /-- a recorded fault of a matrix or copy command: cause code, detail, tval (R236, R268) -/
  | fault (code : Nat) (detail : Nat) (tval : Word)
  /-- a drop for a page fault of a matrix or copy command, with its record (R226, R267) -/
  | drop (rec : FaultRec)
  /-- a vector fault met while the strand was held (16 R411, 04 R132): cause, tval, vepc, velem -/
  | vfault (cause : Word) (tval vepc velem : Word)
deriving DecidableEq, Repr

/-- A strand's place in a farm (14_dispatch R382). -/
structure FarmSeat where
  farm : Nat
  part : Nat
  ended : Bool
deriving DecidableEq, Repr

/-- One strand (04_strand R105, R106). -/
structure Strand where
  st : RunState := .free
  pc : Word := 0
  status : Status := {}
  g : Table Word := []
  ox : Table Word := []
  efc : Table (BitVec 32) := []
  v : Table (BitVec 2048) := []
  vh : Table VHdr := []
  k : Table (BitVec 256) := []
  /-- per-strand control registers by number (R112); an unlisted one holds its reset value -/
  cr : Table Word := []
  vq : List VEntry := []
  hold : List VEntry := []
  replay : Replay := {}
  /-- the lane clusters of its grant, in order (05 R146) -/
  lanes : List Nat := []
  wait : Wait := .none
  /-- core cycle from which it may be ready (R110) -/
  readyAt : Nat := 0
  /-- cycles its full/empty access has been timed (10 R277), and its limit -/
  feTimer : Nat := 0
  feLimit : Nat := 0
  /-- the limit of the element-progress timer's present wait (R112) -/
  epLimit : Nat := 0
  async : List AsyncEv := []
  /-- held or marked by HALT (16 R411, ctl.dbgstat.halted) -/
  dbgHalted : Bool := false
  /-- the state it was held from -/
  heldFrom : RunState := .run
  /-- held by a breakpoint or BRK stop (16 R414), the entry, and break capture -/
  bpStop : Bool := false
  bpIdx : Nat := 0
  brkCap : Bool := false
  /-- the strand that armed it -/
  brkBy : Nat := 0
  /-- breakpoint entry whose address or data access has armed a stop -/
  bpArmed : Option Nat := .none
  /-- slip counters 0 to 3 (16 R417); 5 counts the cycles HELD and 6 holds the core cycle of their last zeroing, so that
  counter 4, idle, is the rest -/
  slip : Table Word := []
  /-- it took the issue slot since cycles last passed -/
  issued : Bool := false
  /-- its last scalar instruction was a load: in flight until `readyAt` -/
  loadOut : Bool := false
  /-- node it is a member of (14 R370) -/
  node : Option Nat := .none
  farm : Option FarmSeat := .none
  /-- a failed CTXSAVE left it DROPPED: PGWAKE has no effect on it (R132) -/
  saveFail : Bool := false
  /-- what came back of the VAMO element that waited at its home (06_vmem R183) -/
  amoBack : Option AmoEnd := .none
  /-- the instruction in flight of `Wait.poll` and `Wait.flight` -/
  flying : Option Instr := .none
  /-- a SAMPLE in flight: the header it has checked and the logits it has read, in token order (15 R394) -/
  sampled : Option (TileHdr × List Nat) := .none
  /-- cores it has been moved from by live migration, each with the core whose scratchpad addresses now stand for that one's
  (01 R35) -/
  moves : List (Nat × Nat) := []
deriving DecidableEq, Repr

/-- A TLB entry (07_translation R191, R197): virtual page number, log2 of its size, leaf fields, and the
physical address of the leaf; `level` the level it came from. -/
structure TlbEntry where
  vbase : Nat
  lsize : Nat
  frame : Nat
  rid : Nat
  key : Nat
  im : Bool
  pinned : Bool
  dirty : Bool
  uo : Bool
  gt : Bool
  leafPa : Nat
deriving DecidableEq, Repr

/-- A segment of a domain's list (07_translation R195). -/
structure Seg where
  base : Nat
  lsize : Nat
  r : Bool
  w : Bool
  x : Bool
  s : Bool
  d : Bool
deriving DecidableEq, Repr

/-- What the PLB holds of one domain (07 R196): the first segments of its list, and whether that is all. -/
structure PlbDomain where
  pd : Nat
  segs : List Seg
  complete : Bool
deriving DecidableEq, Repr

/-- One 8-byte word of a line held in the L1 (11_home R300), under its virtual address. -/
structure L1Word where
  pa : Nat
  rid : Nat
  key : Nat
  valid : Bool
  own : Bool
  dirty : BitVec 8
  data : Word
  /-- for each byte, the number of the store that last wrote it among the stores its L1 accepted (R312); none listed for a word
  no store has written -/
  seq : List Nat := []
deriving DecidableEq, Repr

/-- One 8-byte word of a line held in the cluster cache (11_home R300). -/
structure CcWord where
  rid : Nat
  key : Nat
  valid : Bool
  dirty : BitVec 8
  writer : Nat
  cowner : Option Nat
  data : Word
deriving DecidableEq, Repr

/-- An accumulator header (08_matrix R208). -/
structure AccHdr where
  efmt : BitVec 8 := 0
  lock : Bool := false
  rows : BitVec 8 := 64
  cols : BitVec 8 := 64
  rslay : BitVec 4 := 0
  rsfmt : BitVec 4 := 0
  cslay : BitVec 4 := 0
  csfmt : BitVec 4 := 0
  rbase : BitVec 56 := 0
  cbase : BitVec 56 := 0
  arow : BitVec 16 := 0
  bcol : BitVec 16 := 0
  progress : BitVec 16 := 0
  consumed : BitVec 16 := 0
deriving DecidableEq, Repr

/-- What a queued matrix command does (08_matrix R212). -/
inductive MKind where
  | mzero
  | mhdr (img : AccHdr)
  /-- MOP, MOPD, MOPS with the elements it read: rows of A and B as exact operands in order of k -/
  | mop (fn : Nat) (sat : Bool) (m : Nat) (va vb : BitVec 2048) (ha hb : VHdr) (kx : BitVec 256)
  | mmas (sat : Bool) (a b : TileHdr) (arow bcol kbase kcount m n : Nat)
  | mwr (row : Nat) (vs : BitVec 2048) (efmt : BitVec 8)
  | mld (t : TileHdr) (arow bcol m n : Nat)
deriving DecidableEq, Repr

/-- The phases of an accepted matrix command. -/
inductive MPhase where
  | queued | performing | paused | done
deriving DecidableEq, Repr

/-- An accepted matrix command (08_matrix R212): its issuer, what it changed at acceptance (R213, R235). -/
structure MCmd where
  id : Nat
  slot : Nat
  acc : Nat
  kind : MKind
  phase : MPhase
  pd : Nat
  major : Nat
  /-- the accumulator header as it stood before this command was accepted -/
  before : AccHdr
deriving DecidableEq, Repr

/-- A follow-on as a copy carries it (09_copy R253). -/
structure FollowOn where
  kind : Nat
  sat : Bool
  acc : Nat
  role : Nat
  other : Word
  w0 : Word
  w1 : Word
deriving DecidableEq, Repr

/-- The states of a copy command (09_copy R265). -/
inductive CopyState where
  | waiting | moving | paused | followOn
deriving DecidableEq, Repr

/-- An unfinished copy command (09_copy R238, R265). -/
structure CopyCmd where
  id : Nat
  slot : Nat
  kind : Nat
  src : Word
  dst : Word
  extent : Nat
  kc : Nat
  scope : Nat
  cbv : Bool
  cb : Nat
  rs : Nat
  dir : Bool
  tile : Bool
  hdr : Option TileHdr
  /-- conversion: target format, rounding, bank -/
  conv : Option (Nat × Nat × Nat)
  follow : Option FollowOn
  /-- multicast set (R255) -/
  mset : Word
  state : CopyState
  done : Nat
  /-- CPYM: lines received of the chunk in hand -/
  lines : Table (List Byte)
  pd : Nat
  /-- words of the chunk in hand that were written and wait at their homes (10_sync R282) -/
  late : List Nat := []
  /-- source words, by address / 8, that were read with another word of their atom and are still to be used (R270) -/
  held : Table (List Byte) := []
deriving DecidableEq, Repr

/-- A circular-buffer descriptor (09_copy R259) with the slots' holders and the waiting order. -/
structure CbDesc where
  valid : Bool := false
  base : Word := 0
  ssize : Nat := 0
  nslots : Nat := 0
  scope : Nat := 0
  free : Nat := 0
  filled : Nat := 0
  phead : Nat := 0
  chead : Nat := 0
  pstall : BitVec 32 := 0
  cstall : BitVec 32 := 0
  maxocc : Nat := 0
  /-- slots held by producers and consumers in ring order: slot, holder (strand slot, or 16 + copy entry), done -/
  pheld : List (Nat × Nat × Bool) := []
  cheld : List (Nat × Nat × Bool) := []
  /-- who waits for a slot, in order of arrival: holder as above -/
  pwait : List Nat := []
  cwait : List Nat := []
deriving DecidableEq, Repr

/-- A row stream (09_copy R257): the bank it holds (`die`, channel, bank), its opener, and the rows its commands have
named, whose Sagger lines are locked (12_sagger R325). -/
structure RowStream where
  bank : Option (Nat × Nat × Nat)
  opener : Nat
  rows : List Nat := []
deriving DecidableEq, Repr

/-- A full/empty request at its owner (10_sync R276), and the number of the access it belongs to. -/
structure FeReq where
  sid : Nat
  tenant : Nat
  addr : Nat
  kind : FeKind
  data : Word
  acc : Nat := 0
deriving DecidableEq, Repr

/-- A mailbox message (10_sync R293). -/
structure MbMsg where
  sender : Nat
  data : List Byte
deriving DecidableEq, Repr

/-- An active message (04_strand R134). -/
structure AmMsg where
  index : Nat
  sender : Nat
  tenant : Nat
  reply : Bool
  args : List Word
deriving DecidableEq, Repr

/-- A forwarding entry (14_dispatch R377). -/
structure FwdEntry where
  tenant : Nat
  target : Nat
  held : Bool
  /-- of a held entry: the parking slot of its instance -/
  slotNo : Nat := 0
deriving DecidableEq, Repr

/-- A breakpoint (16_debug R414). -/
structure Breakpoint where
  slot : Nat
  kind : Nat
  rd : Bool
  wr : Bool
  len : Nat
  ord : Nat
  addr : Word
  setter : Nat
  cap : Option Nat
deriving DecidableEq, Repr

/-- One core (04_strand R105) with its engines. -/
structure Core where
  strands : Table Strand := []
  last : Nat := 4
  /-- core-wide control registers by number; an unlisted one holds its reset value -/
  cr : Table Word := []
  /-- arrival queues of the message strand in one order; the flag is the reply class (04 R134) -/
  amq : List AmMsg := []
  /-- a handler is running, and its class -/
  amRun : Option Bool := .none
  vicq : List Nat := []
  tlb : List TlbEntry := []
  plb : List PlbDomain := []
  saveRec : Option FaultRec := .none
  l1 : Table L1Word := []
  /-- stores the L1 has accepted (11 R312) -/
  stores : Nat := 0
  icache : Table (Byte × Nat) := []
  rvq : List Nat := []
  rvqOvf : Bool := false
  rvqOvcnt : BitVec 32 := 0
  /-- accumulator rows by accumulator x 64 + row: 64 words of 32 bits, column 0 lowest (08 R207) -/
  acc : Table (BitVec 2048) := []
  accHdr : Table AccHdr := []
  mq : List MCmd := []
  copies : Table CopyCmd := []
  lfmt : Table Word := []
  cbs : Table CbDesc := []
  rows : Table RowStream := []
  parked : List FeReq := []
  mbHi : List MbMsg := []
  mbLo : List MbMsg := []
  /-- slots that wait in MBRECV, in order (10 R296) -/
  mbWait : List Nat := []
  fwd : List FwdEntry := []
  bps : Table Breakpoint := []
  /-- fills on their way (06 R180): virtual line, level -/
  fills : List (Nat × Nat) := []
  /-- it is being migrated or parked -/
  moving : Bool := false
deriving DecidableEq, Repr

/-- A request in the lane allocator's order (05_vector R147). -/
structure LaneReq where
  core : Nat
  slot : Nat
  count : Nat
  /-- 0 SETVL, 1 SETMVL, 2 restore -/
  kind : Nat
  /-- of a SETVL or SETMVL: its destination, its application length, its element size in bits -/
  rd : Nat := 0
  avl : Nat := 0
  eb : Nat := 0
deriving DecidableEq, Repr

/-- A barrier register (10_sync R287) and its waiting strands. -/
structure Barrier where
  valid : Bool := false
  gen : BitVec 16 := 0
  arrived : BitVec 16 := 0
  expected : BitVec 16 := 0
  waiters : List Nat := []
deriving DecidableEq, Repr

/-- How a walk ends (07_translation R192): a leaf with its two words and its address and level, or a fault with type and
level. -/
inductive WalkEnd where
  | leaf (lo hi : Word) (pa level : Nat)
  | fault (type level : Nat)
deriving DecidableEq, Repr

/-- What a walk gives the accesses that joined it: its end, or the error a table node met (07 R197). -/
inductive WalkRes where
  | ended (e : WalkEnd)
  | ecc
  | poison
deriving DecidableEq, Repr

/-- A miss that has gone to the cluster's walker (07 R197): the strand charged, the core, the 4 KiB virtual page, and the
outcome of its walk once that has ended. -/
structure WalkReq where
  sid : Nat
  core : Nat
  page : Nat
  /-- which of the strand's accesses: 0 its scalar stream's, 1 its vector queue's, 2 its matrix and copy commands', 3 the fills of
  prefetched lines -/
  stream : Nat := 0
  res : Option WalkRes
  /-- the walk that gave the outcome -/
  walk : Nat := 0
deriving DecidableEq, Repr

/-- One cluster. -/
structure Cluster where
  laneOrder : List LaneReq := []
  /-- slice contents by lane cluster x 16,384 + offset; unlisted 0 -/
  slices : Table Byte := []
  cc : Table CcWord := []
  bars : Table Barrier := []
  /-- records waiting in walker slots (07 R202) -/
  recWait : List FaultRec := []
  /-- misses at the walker and those that wait behind them, in order of arrival (07 R197, R202) -/
  walkQ : List WalkReq := []
deriving DecidableEq, Repr

/-- A watch entry (15_sequence R398), as its 128-byte image. -/
abbrev WatchImage := List Byte

/-- A sequence slot that is not FREE (15_sequence R388). -/
structure SeqSlot where
  stopped : Bool
  owner : Nat
  tag : Word
  ring : Nat
  log2cap : Nat
  position : BitVec 32
  history : List (BitVec 32)
  draft : List (BitVec 32)
  total : BitVec 32
  cls : List (BitVec 32)
  provisional : BitVec 32
  watch : Table WatchImage
  supp : BitVec 16
  suppcnt : BitVec 32
  stopRec : Word
  notify : Word
  forkRep : BitVec 32
  parent : Nat
  forkPos : BitVec 32
  iteration : BitVec 32
  /-- an action has run since the previous SQITER iterate (R403) -/
  acted : Bool
deriving DecidableEq, Repr

/-- What a store below holds of a line: its bytes, the key identifier and generation it is recorded under (12_sagger R332),
and its poisoned atoms (R329). -/
structure LineImage where
  bytes : List Byte
  key : Nat
  gen : Nat
  poison : List Nat
deriving DecidableEq, Repr

/-- A line in a home slice (01_engines R28): its address, the 32-byte atoms it holds, the key and tenant of the last request
that dirtied it, and, when it is dirty, what the stores below still hold. -/
structure L2Line where
  pa : Nat
  atoms : List Nat
  key : Nat
  tenant : Nat
  under : Option LineImage
deriving DecidableEq, Repr

/-- A line in a Sagger (12_sagger R324): where, size, tags. -/
structure SagLine where
  pa : Nat
  key : Nat
  gen : Nat
  dirty : Bool
  tenant : Nat
  /-- pool way and first block, or the spill way (way 15) -/
  way : Nat
  block : Nat
  blocks : Nat
  /-- what HBM4 still holds under the dirty line -/
  old : Option LineImage
  /-- atoms whose SRAM holds an uncorrectable error (R326, R329) -/
  bad : List Nat := []
deriving DecidableEq, Repr

/-- A write that waits for the spill way (12_sagger R327 step 3): the line it places there, and the line whose writeback it
waits for. -/
structure SpillReq where
  line : SagLine
  occ : Nat
deriving DecidableEq, Repr

/-- One compute die. -/
structure Die where
  absent : Bool := false
  /-- reduced service has ended (17 R424) -/
  full : Bool := false
  parked : List FeReq := []
  seqs : Table SeqSlot := []
  /-- die-wide control registers (16 R419) -/
  cr : Table Word := []
  /-- the home slices by unit: the lines each holds (01 R12, R28) -/
  l2 : Table (List L2Line) := []
  /-- lines in least-recently-used order, oldest first -/
  sagger : List SagLine := []
  /-- the writeback buffer: line and tenant -/
  writeback : List (Nat × Nat) := []
  /-- writes that wait for a spill way's occupant (12 R327) -/
  spillWait : List SpillReq := []
  counters : Table Nat := []
  /-- channel slot maps by channel x 64 + slot: tenant; unlisted open (12 R330) -/
  chanSlots : Table Nat := []
  /-- the slot each channel is in, and its open banks -/
  chanNow : Table Nat := []
  openBanks : Table (List Nat) := []
  /-- home-slice slot maps by slice x 64 + slot: tenant; unlisted open (11 R319) -/
  sliceSlots : Table Nat := []
deriving DecidableEq, Repr

/-- A partition (01_engines R29): its dies, row boundary, granted windows. -/
structure Partition where
  mask : Nat
  rb : Nat
  windows : Nat
deriving DecidableEq, Repr

/-- A placed tenant (13_fabric R361). -/
structure Tenant where
  x0 : Nat
  x1 : Nat
  y0 : Nat
  y1 : Nat
  remote : Bool
deriving DecidableEq, Repr

/-- A virtual-channel reservation (13_fabric R362). -/
structure VcRes where
  mask : Nat
  core : Bool
  memory : Bool
  corePair : Nat
  memPair : Nat
  /-- in effect since a frame boundary -/
  live : Bool
  /-- the frame in which it was made (R349, R362) -/
  frame : Nat := 0
deriving DecidableEq, Repr

/-- A deterministic reservation (14_dispatch R375). -/
structure DetRes where
  whole : Bool
  ns : Nat
  nc : Nat
  locked : Bool
deriving DecidableEq, Repr

/-- The states of a node (14_dispatch R366). -/
inductive NodeState where
  | waiting | ready | running | parked
deriving DecidableEq, Repr

/-- A node in the pool (14_dispatch R363, R366); participants of a farm enter as `seats` still to be placed. -/
structure Node where
  id : Nat
  key : Option Nat
  tenant : Nat
  prio : Nat
  cls : Nat
  strands : Nat
  entry : Word
  succ : Word
  preds : Nat
  ops : List Word
  state : NodeState
  /-- order in which it became READY; firing instances go ahead -/
  ready : Nat
  front : Bool
  waits : Nat
  /-- farm participants not yet placed: farm handle (0 while the node's own farm has none), index, entry, class -/
  toPlace : List (Nat × Nat × Word × Nat)
  /-- members: strand identities (marked 0), save areas by address (marked 1), or parking slot x 8 + strand (marked 2) -/
  members : List (Nat × Nat)
deriving DecidableEq, Repr

/-- A strip farm (14_dispatch R372). -/
structure Farm where
  node : Nat
  base : Word
  count : Nat
  strip : Nat
  parts : Nat
  next : Nat
  ended : List Nat
deriving DecidableEq, Repr

/-- A firing-table entry (14_dispatch R373). -/
structure FireEntry where
  valid : Bool
  tenant : Nat
  record : Word
  next : Nat
  period : Nat
  rule : Nat
  /-- the node of its running instance -/
  inst : Option Nat
  pending : Bool
  skip : BitVec 32
  evfail : Nat
  last : Nat
deriving DecidableEq, Repr

/-- A migration or parking under way (14_dispatch R376). -/
structure Migration where
  id : Nat
  src : Nat
  dst : Nat
  tenant : Nat
  /-- 0 migrate, 1 park, 2 unpark, 3 retirement of a core to its spare (17 R426) -/
  kind : Nat
  slotNo : Nat
deriving DecidableEq, Repr

/-- A parked core's state (14_dispatch R378), held also as the bytes of its parking slot. -/
structure ParkedCore where
  tenant : Nat
  slotNo : Nat
  src : Nat
  core : Core
  mem : Table Byte
  full : List Nat
  woken : List Nat
deriving DecidableEq, Repr

/-- A debug capability (16_debug R405). -/
structure DbgCap where
  subject : Nat
  holder : Nat
  rights : Nat
  parent : Option Nat
deriving DecidableEq, Repr

/-- The classes of packets (13_fabric R342). -/
inductive PClass where
  | req | rsp | core | crsp | msg | ctrl
deriving DecidableEq, Repr

/-- What a packet carries. -/
inductive Payload where
  | am (m : AmMsg) (target : Nat)
  | mb (prio : Nat) (m : MbMsg)
  | fe (r : FeReq)
  /-- a cancel of the strand's parked access at the owner, by its number (10 R277) -/
  | feCancel (sid : Nat) (addr : Nat) (acc : Nat)
  /-- a line of a CPYM response: physical line, its bytes, and the commands that joined, each by core and identity; no bytes
  stand for poison, a single one for an uncorrectable error -/
  | line (pa : Nat) (data : List Byte) (joined : List (Nat × Nat))
deriving DecidableEq, Repr

/-- A packet in the mesh (13_fabric R341, R342): its place is a router, or an I/O die (x = 16 for I0, 17 for I1). -/
structure Packet where
  id : Nat
  cls : PClass
  tenant : Nat
  src : Nat
  dsts : List Nat
  x : Nat
  y : Nat
  vc : Nat
  waited : Nat
  escaped : Bool
  /-- the router it came from, whose link's buffer at this one holds it; its own router while it is at its sender's local port -/
  hx : Nat
  hy : Nat
  payload : Payload
  /-- the strand whose instruction completes on acceptance -/
  waiter : Option Nat
  fwd : Bool
  /-- the unit that first sent it, and the one it then named: what a forwarding entry re-sends keeps its place behind them (R346) -/
  sender : Nat := 0
  named : Nat := 0
  /-- the router and the channel of it that the header flit has gone to; the data flit follows (R341) -/
  ahead : Option ((Nat × Nat) × Nat) := none
deriving DecidableEq, Repr

/-- A CPYM merge entry at a home slice (09_copy R256). -/
structure Merge where
  pa : Nat
  mset : Word
  tenant : Nat
  joined : List (Nat × Nat)
  opened : Nat
  key : Nat
  /-- the line as read when a write to it closed the entry -/
  taken : Option (List Byte)
deriving DecidableEq, Repr

/-- A reservation of a word at its home slice (10_sync R280, R282). -/
structure Resv where
  holder : Nat
  sid : Nat
  value : Word
  queue : List Nat
  /-- handed to this strand and on its way (R283) -/
  grantTo : Option Nat
deriving DecidableEq, Repr

/-- A VRDM update on its way (06_vmem R182). -/
structure Update where
  pa : Nat
  core : Nat
  slot : Nat
  rid : Nat
  key : Nat
  size : Nat
  op : Nat
  uns : Bool
  efmt : Nat
  data : Word
deriving DecidableEq, Repr

/-- What waits at a home slice behind a reservation, in the one order of arrival (10_sync R282). -/
inductive PendAct where
  /-- a registration of stores, or a host's write -/
  | reg
  /-- a word of a chunk of this copy command -/
  | copy (id : Nat)
  /-- the atomic this strand waits in (R286) -/
  | atomic (sid : Nat)
  /-- the VAMO element this strand waits at: size, operation, unsigned, operand (06_vmem R183) -/
  | vamo (sid size op : Nat) (uns : Bool) (x : Nat)
  /-- a VRDM element -/
  | vrdm (u : Update)
deriving DecidableEq, Repr

/-- An access that waits at a home slice behind a reservation (10_sync R282): the word, and a write's bytes and owner. -/
structure PendReg where
  pa : Nat
  mask : BitVec 8
  data : Word
  owner : Option Nat
  key : Nat
  tenant : Nat
  act : PendAct := .reg
  /-- the core whose release made the registration -/
  via : Option Nat := none
deriving DecidableEq, Repr

/-- A revocation notice on its way to a core's queue (11_home R303): the word, and the core or host port (1024 + port) whose
registration it belongs to, and the core whose release made that registration. -/
structure Notice where
  core : Nat
  pa : Nat
  cause : Nat
  via : Option Nat := none
deriving DecidableEq, Repr

/-- A sequentially consistent operation that waits to be announced, or is announced (11_home R314). -/
structure ScOp where
  id : Nat
  core : Nat
  slot : Nat
  op : Nat
  ea : Word
  pa : Nat
  rd : Nat
  data : Word
  rid : Nat
  key : Nat
  readyT : Nat
  window : Option Nat
deriving DecidableEq, Repr

/-- A host posted write that is held (11_home R315): target 0 memory, 1 submit aperture, 2 mailbox. -/
structure Posted where
  stamp : Nat
  target : Nat
  addr : Nat
  data : List Byte
  /-- a write to memory has been handed to its home slices -/
  applied : Bool := false
deriving DecidableEq, Repr

/-- A host port (11_home R315, 14_dispatch R365, 17_service R423). -/
structure HostPort where
  stamp : Nat := 0
  horizonA : Nat := 0
  horizonH : Nat := 0
  held : List Posted := []
  done : List Nat := []
  lastResult : Nat := 0
  discarded : Nat := 0
  accepted : BitVec 32 := 0
  /-- what the last read returned: the part's answer to the host -/
  lastRead : List Byte := []
  lastPoison : Bool := false
  mbCmd : Word := 0
  mbBusy : Bool := false
  mbResult : Nat := 0
  mbArea : Table Byte := []
  /-- bytes of its configuration space that reads have shown (13_fabric R356) -/
  cfg : Table Byte := []
deriving DecidableEq, Repr

/-- A shared-region entry (11_home R318). -/
structure ShrEntry where
  valid : Bool
  base : Nat
  size : Nat
  rights : Nat
deriving DecidableEq, Repr

/-- A key slot (17_service R431). -/
structure KeySlot where
  live : Bool := false
  owner : Nat := 0
  gen : Nat := 0
  key : List Word := []
deriving DecidableEq, Repr

/-- The corrected-error record of a unit (17_service R425). -/
structure ErrUnit where
  times : List Word := []
  count : Nat := 0
  lasting : Bool := false
deriving DecidableEq, Repr

/-- An island (17_service R428, R429): its point, and the cycles it had advanced at a reference cycle since which it
holds that point.  An island that is not listed stands at point 12 on a present die in reduced service, at 17 elsewhere, since
release. -/
structure Island where
  point : Nat
  locked : Bool
  base : Nat
  mark : Nat
deriving DecidableEq, Repr

/-- A retirement to a spare under way (17_service R426). -/
structure Retiring where
  kind : Nat
  unit : Nat
deriving DecidableEq, Repr

/-- A message switch (13_fabric R353). -/
structure Switch where
  routes : Table (List Nat) := []
  buffer : List Packet := []
  discards : Nat := 0
  logged : Nat := 0
deriving DecidableEq, Repr

/-- Device time (13_fabric R359): ctl.time is `base` + the nanoseconds since reference cycle `mark` at a rate of
10^9 + `ppb` parts in 10^9; it runs from the first calibration. -/
structure DevTime where
  running : Bool := false
  base : Nat := 0
  mark : Nat := 0
  ppb : Int := 0
  /-- the offset measured against the time transmitter that is still to be slewed out, in ns -/
  offset : Int := 0
  holdover : Bool := false
  pps : Bool := false
deriving DecidableEq, Repr

/-- Where the part stands in its life (17_service R430). -/
inductive Lifecycle where
  | manufacture | production | rma | retired
deriving DecidableEq, Repr

/-- Who moves in a step (log 6). -/
inductive Turn where
  /-- the core offers its slot to this strand, if it is ready -/
  | issue (core slot : Nat)
  /-- the core's whole rotation (04 R108) -/
  | rotate (core : Nat)
  /-- an engine takes this step -/
  | act (e : Instr)
  /-- reference cycles pass -/
  | pass (n : Nat)
deriving DecidableEq, Repr

/-- The service processor and its stores (17_service). -/
structure Service where
  safe : Bool := false
  lifecycle : Lifecycle := .production
  portOpen : Bool := false
  nonce : Option Word := .none
  keys : Table KeySlot := []
  meas : Table (List Byte) := []
  events : List Word := []
  evlost : Bool := false
  diag : List (List Byte) := []
  diagNext : Nat := 0
  flash : Table Byte := []
  islands : Table Island := []
  capLowered : List Nat := []
  units : Table ErrUnit := []
  sparesUsed : Table Nat := []
  retiring : List Retiring := []
  calibrated : Bool := false
  /-- host ports whose mailbox commands wait to be served, in order of arrival (R423) -/
  mboxQueue : List Nat := []
  /-- what the last command on the external debug port answered: result code and value (16 R405) -/
  portResult : Nat := 0
  portValue : Word := 0
  /-- the cause value of the fault its last command met (01 R17) -/
  portFault : Option Word := .none
  /-- the HALT of the port that has not completed: the words of its command (16 R411) -/
  portHalt : Option (Word × Word × Word) := .none
deriving DecidableEq, Repr

/-- The dispatcher (14_dispatch). -/
structure Dispatch where
  partitions : List Partition := []
  tenants : Table Tenant := []
  dets : Table DetRes := []
  nodes : List Node := []
  /-- nodes that have become READY, and the reference cycle of the next placement decision -/
  readyCount : Nat := 0
  decideAt : Nat := 0
  served : Table Nat := []
  farms : Table Farm := []
  firing : Table FireEntry := []
  orphan : BitVec 32 := 0
  lastSlot : Nat := 0
  migrations : List Migration := []
  parked : List ParkedCore := []
  /-- members saved by CTXSAVE: area address, node, place in its farm (R370) -/
  saved : List (Nat × Nat × Option FarmSeat) := []
deriving DecidableEq, Repr

/-- The fabric (13_fabric). -/
structure Fabric where
  packets : List Packet := []
  vcres : Table VcRes := []
  escWait : Table Nat := []
  /-- links by number (R341): flits that failed since the last one delivered or retraining, and retrainings -/
  replays : Table Nat := []
  retrains : Table Nat := []
  /-- refusals by router, y x 16 + x (R348) -/
  refusals : Table Nat := []
  /-- the network cycle in which a flit last crossed each link, by router x 4 + direction (R349) -/
  crossed : Table Nat := []
  switches : Table Switch := []
  ualinkErrors : Nat := 0
  /-- messages that left on a UALink port: port and the 64-byte payload (R354) -/
  sent : List (Nat × List Byte) := []
deriving DecidableEq, Repr

/-- The state of one Idrid package. -/
structure State where
  cores : Table Core := []
  clusters : Table Cluster := []
  dies : Table Die := []
  /-- bytes by physical address, or by global scratchpad address; a byte not listed is 0 (log 3) -/
  mem : List Host.Cell := []
  /-- global scratchpad addresses of the full words (10 R271) -/
  full : List Nat := []
  /-- owners of words at their home slices: a core, or 1024 + host port (11 R299) -/
  owners : Table Nat := []
  /-- key identifier and generation of lines not recorded under identifier 0 (12 R332) -/
  lineKey : Table (Nat × Nat) := []
  /-- poisoned 32-byte atoms, by their address (12 R329) -/
  poison : List Nat := []
  /-- atoms whose next read meets an uncorrectable error (12 R329) -/
  broken : List Nat := []
  /-- words of core scratchpads and atoms that home slices hold, whose SRAM has an uncorrectable error (17 R425, log 98) -/
  flawed : List Nat := []
  resvs : Table Resv := []
  pendRegs : List PendReg := []
  notices : List Notice := []
  updates : List Update := []
  merges : List Merge := []
  scOps : List ScOp := []
  disp : Dispatch := {}
  fabric : Fabric := {}
  svc : Service := {}
  ports : Table HostPort := []
  shared : Table ShrEntry := []
  caps : Table DbgCap := []
  /-- tenants under HALT in this package: tenant, capability it was made under -/
  halts : List (Nat × Option Nat) := []
  /-- tenants whose timers a debug-hold notice suspends here (16 R412) -/
  holds : List Nat := []
  /-- package-wide control registers by number -/
  pcr : Table Word := []
  /-- tenant-wide control registers by tenant x 1024 + number -/
  tcr : Table Word := []
  devTime : DevTime := {}
  /-- reference cycles since release -/
  clock : Nat := 0
  pkg : Nat := 0
  curCore : Nat := 0
  curSlot : Nat := 0
  sched : List Turn := []
  freeCtr : Nat := 0
  nextId : Nat := 0
deriving DecidableEq, Repr

/-- Why the machine stops with a fault: it never does.  An access the spec forbids takes the trap the spec names, a page fault
drops its strand, and an instruction of a unit is answered with the code the spec gives; so there is no reason to list. -/
inductive Fault
deriving DecidableEq, Repr

/-- Why the machine gives no meaning to an instruction. -/
inductive Refusal where
  /-- The instruction has no meaning yet; raised by the arms of `exec`; safe. -/
  | notModelled (mnemonic : String)
deriving DecidableEq, Repr

/-- The machine right after release from reset (17_service R421): every die present and in reduced service, every
strand FREE in monitor mode, nothing placed (log 1); fields with no entry stand at the defaults of their structures. -/
def State.reset : State :=
  { svc := { meas := bootMeas 0 [] 1 false 0xFF } }

end Sys2Proof.Machine
end

