-- ==== Sys2Proof/Machine/Ops.lean ====
section
/-! DEFINITION. The named operations over registers and strands that every meaning shares: reading and writing state,
completing an instruction, stalling, taking a trap or an interrupt and returning from one (04_strand). -/

namespace Sys2Proof.Machine

/-! ### Identities

A core is named by the ten low bits of its ctl.coreid: die x 128 + cluster x 16 + logical core (R116); a strand by
core x 8 + slot; a cluster by die x 8 + cluster. -/

def dieOfCore (c : Nat) : Nat := c / 128
def clusterOfCore (c : Nat) : Nat := c / 16
def logicalOf (c : Nat) : Nat := c % 16
def coreOfSid (sid : Nat) : Nat := sid / 8
def slotOfSid (sid : Nat) : Nat := sid % 8

/-- A stream core (R12, R21: logical cores 8 and 9). -/
def isStreamCore (c : Nat) : Bool := decide (c % 16 = 8 ∨ c % 16 = 9)

/-- A core that exists and runs (R12). -/
def coreExists (c : Nat) : Bool := decide (c < 1024 ∧ c % 16 < 10)

/-- The cores of a cluster. -/
def coresOfCluster (cl : Nat) : List Nat := (List.range 10).map (fun i => cl * 16 + i)

/-- The cores of the package, in order of ctl.coreid. -/
def allCores : List Nat := (List.range 64).flatMap coresOfCluster

/-! ### Cores, clusters, dies, strands -/

def State.core (s : State) (c : Nat) : Core := tget {} s.cores c
def State.setCore (s : State) (c : Nat) (x : Core) : State := { s with cores := tput s.cores c x }
def State.modCore (s : State) (c : Nat) (f : Core → Core) : State := s.setCore c (f (s.core c))
def State.cluster (s : State) (cl : Nat) : Cluster := tget {} s.clusters cl
def State.setCluster (s : State) (cl : Nat) (x : Cluster) : State := { s with clusters := tput s.clusters cl x }
def State.modCluster (s : State) (cl : Nat) (f : Cluster → Cluster) : State := s.setCluster cl (f (s.cluster cl))
def State.die (s : State) (d : Nat) : Die := tget {} s.dies d
def State.setDie (s : State) (d : Nat) (x : Die) : State := { s with dies := tput s.dies d x }
def State.modDie (s : State) (d : Nat) (f : Die → Die) : State := s.setDie d (f (s.die d))
def State.port (s : State) (p : Nat) : HostPort := tget {} s.ports p
def State.modPort (s : State) (p : Nat) (f : HostPort → HostPort) : State := { s with ports := tput s.ports p (f (s.port p)) }

def Core.strand (c : Core) (k : Nat) : Strand := tget {} c.strands k
def Core.setStrand (c : Core) (k : Nat) (x : Strand) : Core := { c with strands := tput c.strands k x }

def State.st (s : State) (sid : Nat) : Strand := (s.core (coreOfSid sid)).strand (slotOfSid sid)
def State.setSt (s : State) (sid : Nat) (x : Strand) : State := s.modCore (coreOfSid sid) (fun c => c.setStrand (slotOfSid sid) x)
def State.modSt (s : State) (sid : Nat) (f : Strand → Strand) : State := s.setSt sid (f (s.st sid))

/-- The strand whose instruction is being executed. -/
def State.curSid (s : State) : Nat := s.curCore * 8 + s.curSlot
def State.cur (s : State) : Strand := s.st s.curSid
def State.setCur (s : State) (x : Strand) : State := s.setSt s.curSid x
def State.modCur (s : State) (f : Strand → Strand) : State := s.modSt s.curSid f

/-- Every strand identity of the package. -/
def allSids : List Nat := allCores.flatMap (fun c => (List.range 5).map (fun k => c * 8 + k))

/-- The strand identities of the cores that hold any state: no other strand has left reset. -/
def State.liveSids (s : State) : List Nat := s.cores.flatMap (fun e => (List.range 5).map (fun k => e.1 * 8 + k))

/-- ctl.coreid and ctl.strandid (R116). -/
def State.coreId (s : State) (c : Nat) : Word := word (s.pkg % 1024 * 1024 + c)
def State.strandId (s : State) (sid : Nat) : Word := word (s.pkg % 1024 * 8192 + sid)

/-! ### Clocks (17_service R427, R428) -/

/-- The island of a core. -/
def islandOfCore (c : Nat) : Nat := 10 * (c / 16) + c % 16

/-- The compute die an island sits on; 8 for the I/O dies. -/
def dieOfIsland (i : Nat) : Nat := if i < 640 then i / 80 else if i < 704 then (i - 640) / 8 else if i < 760 then (i - 704) / 7 else 8

def State.island (s : State) (i : Nat) : Island :=
  match tfind s.svc.islands i with
  | some x => x
  | none => { point := if dieOfIsland i < 8 && !(s.die (dieOfIsland i)).absent && !(s.die (dieOfIsland i)).full then 12 else 17, locked := false, base := 0, mark := 0 }

/-- The cycles an island has advanced: n of every 17 reference cycles, evenly spread. -/
def State.cyclesOf (s : State) (i : Nat) : Nat := let x := s.island i; x.base + (s.clock - x.mark) * x.point / 17

/-- An island moves to another point; its count of cycles goes on. -/
def State.setPoint (s : State) (i point : Nat) : State :=
  let x := s.island i
  { s with svc := { s.svc with islands := tput s.svc.islands i { x with point := point, base := s.cyclesOf i, mark := s.clock } } }

/-- ctl.cycle of a core: the cycles in which its island has advanced. -/
def State.cycleOf (s : State) (c : Nat) : Nat := s.cyclesOf (islandOfCore c)

/-! ### General registers (R45, R71) -/

/-- gread: register 0 reads 0. -/
def Strand.rd (t : Strand) (n : Nat) : Word := if n = 0 then 0 else tget 0 t.g n

/-- gwrite: a write to register 0 is discarded. -/
def Strand.wr (t : Strand) (n : Nat) (x : Word) : Strand := if n = 0 then t else { t with g := tput t.g n x }

/-- The registers a field names: gread of the current strand. -/
def State.gr {w : Nat} (s : State) (f : BitVec w) : Word := s.cur.rd f.toNat

/-- gwrite of the current strand. -/
def State.gw {w : Nat} (s : State) (f : BitVec w) (x : Word) : State := s.modCur (fun t => t.wr f.toNat x)

/-- ox registers: ox[(oxb + i) mod 8] (R51). -/
def Strand.oxr (t : Strand) (n : Nat) : Word := tget 0 t.ox (n % 8)
def Strand.oxw (t : Strand) (n : Nat) (x : Word) : Strand := { t with ox := tput t.ox (n % 8) x }

/-- Vector, shadow, predicate and carry registers (05_vector R138, R140); k0 reads all ones. -/
def Strand.vr (t : Strand) (n : Nat) : BitVec 2048 := tget 0 t.v n
def Strand.vw (t : Strand) (n : Nat) (x : BitVec 2048) : Strand := { t with v := tput t.v n x }
def Strand.vhr (t : Strand) (n : Nat) : VHdr := tget {} t.vh n
def Strand.vhw (t : Strand) (n : Nat) (x : VHdr) : Strand := { t with vh := tput t.vh n x }
def Strand.kr (t : Strand) (n : Nat) : BitVec 256 := if n = 0 then BitVec.allOnes 256 else tget 0 t.k n
def Strand.kw (t : Strand) (n : Nat) (x : BitVec 256) : Strand := if n = 0 then t else { t with k := tput t.k n x }
def Strand.efcr (t : Strand) (n : Nat) : BitVec 32 := tget 0 t.efc n
def Strand.efcw (t : Strand) (n : Nat) (x : BitVec 32) : Strand := { t with efc := tput t.efc n x }

/-! ### Control registers (R112) -/

/-- The reset value of a per-strand control register (R112, R115); the others reset to 0. -/
def strandReset (n : Nat) : Word :=
  match n with
  | 0x00C => 0xFFFFFFFFFFFFFFFF
  | 0x021 => 1
  | 0x033 => 0x100000
  | 0x034 => 0x10000
  | _ => 0

/-- The reset value of a core-wide control register (14_dispatch R385: ctl.spalloc). -/
def coreReset (n : Nat) : Word := if n = 0x2C3 then 0xFFFF else 0

def Strand.ctl (t : Strand) (n : Nat) : Word := tget (strandReset n) t.cr n
def Strand.setCtl (t : Strand) (n : Nat) (x : Word) : Strand := { t with cr := tput t.cr n x }
def Core.ctl (c : Core) (n : Nat) : Word := tget (coreReset n) c.cr n
def Core.setCtl (c : Core) (n : Nat) (x : Word) : Core := { c with cr := tput c.cr n x }
def State.pctl (s : State) (n : Nat) : Word := tget 0 s.pcr n
def State.setPctl (s : State) (n : Nat) (x : Word) : State := { s with pcr := tput s.pcr n x }

/-- Control register numbers the meanings name. -/
abbrev cCause : Nat := 0x001
abbrev cEpc : Nat := 0x002
abbrev cTval : Nat := 0x003
abbrev cTvec : Nat := 0x004
abbrev cVepc : Nat := 0x005
abbrev cVelem : Nat := 0x006
abbrev cScratch : Nat := 0x007
abbrev cIenable : Nat := 0x008
abbrev cIpend : Nat := 0x009
abbrev cIroute0 : Nat := 0x00A
abbrev cIroute1 : Nat := 0x00B
abbrev cTcmp : Nat := 0x00C
abbrev cMepc : Nat := 0x010
abbrev cMcause : Nat := 0x011
abbrev cMtval : Nat := 0x012
abbrev cMtvec : Nat := 0x013
abbrev cMscratch : Nat := 0x014
abbrev cFflags : Nat := 0x020
abbrev cFrm : Nat := 0x021
abbrev cVl : Nat := 0x030
abbrev cGrant : Nat := 0x031
abbrev cMvl : Nat := 0x032
abbrev cEplimit : Nat := 0x033
abbrev cFewait : Nat := 0x034
abbrev cStripaddr : Nat := 0x035
abbrev cStripord : Nat := 0x036
abbrev cEptime : Nat := 0x038
abbrev cPd : Nat := 0x040
abbrev cTenant : Nat := 0x041
abbrev cAmtab : Nat := 0x044
abbrev cAmstat : Nat := 0x045
abbrev cInstret : Nat := 0x052
abbrev cRsvhold : Nat := 0x181

def Strand.pd (t : Strand) : Nat := (t.ctl cPd).toNat % 65536
def Strand.tenant (t : Strand) : Nat := (t.ctl cTenant).toNat % 64
def Strand.vl (t : Strand) : Nat := (t.ctl cVl).toNat
def Strand.grant (t : Strand) : Nat := (t.ctl cGrant).toNat
def Strand.mvl (t : Strand) : Nat := (t.ctl cMvl).toNat
def Strand.frm (t : Strand) : Nat := (t.ctl cFrm).toNat % 8

/-- The element-progress timer restarts at 0; its limit is that in force as the wait begins (05_vector R152, R112). -/
def Strand.restartTimer (t : Strand) : Strand := { t.setCtl cEptime 0 with epLimit := (t.ctl cEplimit).toNat }

/-- ctl.fflags with flags ORed in (R75). -/
def Strand.raise (t : Strand) (fl : Nat) : Strand := t.setCtl cFflags (word ((t.ctl cFflags).toNat ||| fl % 32))

/-- The code of a mode (R111). -/
def Mode.code (m : Mode) : Nat := match m with | .task => 0 | .supervisor => 1 | .monitor => 2
def modeOf (n : Nat) : Mode := match n with | 0 => .task | 1 => .supervisor | _ => .monitor

/-- ctl.status as a word (R113). -/
def Status.toWord (t : Status) : Word :=
  word (t.mode.code + 4 * b2n t.ie + 8 * b2n t.pie + 16 * t.pmode.code + 64 * b2n t.vhold + 128 * b2n t.saveinc
    + 256 * b2n t.mnest + 512 * t.mpmode.code + 2048 * b2n t.mpie)

/-- A word read as ctl.status, as CTXLOAD reads it (R133). -/
def Status.ofWord (x : Word) : Status :=
  { mode := modeOf (bits x 1 0), ie := bit x 2, pie := bit x 3, pmode := modeOf (bits x 5 4), vhold := bit x 6,
    saveinc := bit x 7, mnest := bit x 8, mpmode := modeOf (bits x 10 9), mpie := bit x 11 }

/-- ctl.cause (R114). -/
def causeWord (intr async vec : Bool) (detail code : Nat) : Word :=
  word (code % 256 + 256 * (detail % 16) + 4096 * b2n vec + 8192 * b2n async + 2 ^ 63 * b2n intr)

/-- Cause codes (R117; 09 R243, 10 R297, 14 R380, 15 R391, 16 R410, 17 R434). -/
abbrev xIllegal : Nat := 1
abbrev xMisalign : Nat := 2
abbrev xPerm : Nat := 3
abbrev xEccfail : Nat := 4
abbrev xPoison : Nat := 5
abbrev xHdrMagic : Nat := 6
abbrev xHdrCrc : Nat := 7
abbrev xHdrUnsup : Nat := 8
abbrev xHdrShape : Nat := 9
abbrev xHdrMismatch : Nat := 10
abbrev xSvcall : Nat := 11
abbrev xBreak : Nat := 12
abbrev xFetimeout : Nat := 13
abbrev xEptimeout : Nat := 14
abbrev xCaprevoked : Nat := 15
abbrev xBarbusy : Nat := 16
abbrev xAmfault : Nat := 17
abbrev xVhold : Nat := 18
abbrev xCparg : Nat := 19
abbrev xSyncarg : Nat := 20
abbrev xGrapharg : Nat := 21
abbrev xSeqarg : Nat := 22
abbrev xDbgarg : Nat := 23
abbrev xSvcarg : Nat := 24
abbrev xWatchstop : Nat := 32
abbrev xForkfull : Nat := 33

/-! ### Free values (log 8) -/

/-- The next free value, and the state after it is drawn. -/
def State.draw (s : State) : Word × State := (Config.freeValue s.freeCtr, { s with freeCtr := s.freeCtr + 1 })

/-- A fresh identity for a packet, a command or a wait. -/
def State.fresh (s : State) : Nat × State := (s.nextId, { s with nextId := s.nextId + 1 })

/-! ### Device time (13_fabric R359; log 7) -/

/-- ctl.time: the nanoseconds of disciplined device time. -/
def State.time (s : State) : Nat :=
  if s.devTime.running then
    ((s.devTime.base : Int) + ((s.clock - s.devTime.mark : Nat) : Int) * 10 * (1000000000 + s.devTime.ppb) / 17000000000).toNat
  else s.devTime.base

/-! ### Service events and interrupts (17_service R437, 04 R120, R121) -/

/-- A service event enters the queue; when it is full the oldest is overwritten (R437). -/
def State.svcEvent (s : State) (kind unitKind unit count : Nat) : State :=
  let e := word (kind % 256 + 256 * (unitKind % 256) + 65536 * (unit % 2 ^ 32) + 2 ^ 48 * min count 65535)
  let q := s.svc.events
  if q.length < 256 then { s with svc := { s.svc with events := q ++ [e] } }
  else { s with svc := { s.svc with events := q.drop 1 ++ [e], evlost := true } }

/-- A unit's key in the table of R425's counts. -/
def unitKey (kind unit : Nat) : Nat := kind * 2 ^ 48 + unit

/-- A unit's spare has taken its place: event 3 with the unit's corrected count (R426, R437); the spare's counts begin afresh. -/
def State.unitRetired (s : State) (kind unit : Nat) : State :=
  let n := (tget {} s.svc.units (unitKey kind unit)).count
  { s with svc := { s.svc with units := tdel s.svc.units (unitKey kind unit) } }.svcEvent 3 kind unit n

/-- An entry of the diagnostic log: 64 bytes. -/
def State.diagEntry (s : State) (bs : List Byte) : State :=
  { s with svc := { s.svc with diag := s.svc.diag ++ [(bs ++ List.replicate 64 0).take 64] } }

/-- The slot a core routes source `n`, 1 to 31, to (R120). -/
def Core.route (c : Core) (n : Nat) : Option Nat :=
  let f := bits (if n < 16 then c.ctl cIroute0 else c.ctl cIroute1) (4 * (n % 16) + 3) (4 * (n % 16))
  if 8 ≤ f ∧ f % 8 ≤ 4 ∧ 1 ≤ n then some (f % 8) else none

/-- A pending bit of a strand set (R121). -/
def State.setPend (s : State) (sid n : Nat) : State :=
  s.modSt sid (fun t => t.setCtl cIpend (t.ctl cIpend ||| word (2 ^ n)))

/-- An event on a routed source of a core; not delivered, it sets nothing (R120). -/
def State.raiseSource (s : State) (c n : Nat) : State :=
  match (s.core c).route n with
  | some k => s.setPend (c * 8 + k) n
  | none => s

/-! ### Lanes (05_vector R146, R149) -/

/-- A cluster's slices without those of some lane clusters: they are zeroed on return (01 R27). -/
def Cluster.zeroSlices (cl : Cluster) (lanes : List Nat) : Cluster :=
  { cl with slices := cl.slices.filter (fun e => !lanes.contains (e.1 / 16384)) }

/-- What a restore asks for: the larger of the grant and the largest captured grant of the entries still to run (R149); a strand
that waits in the order of R147 has released its grant. -/
def Strand.lanesNeeded (t : Strand) : Nat :=
  ((t.vq ++ t.hold).map (·.grant)).foldl max (if t.wait = .lanes then 0 else t.grant)

/-- The lane clusters a strand holds: those of its grant, and those that entries still to run count. -/
def Strand.heldLanes (t : Strand) : List Nat := (t.lanes ++ (t.vq ++ t.hold).flatMap (·.lanes)).dedup

/-- The strand holds the lane clusters that it and its queue count. -/
def Strand.lanesHeld (t : Strand) : Bool :=
  (t.wait = .lanes || decide (t.grant ≤ t.lanes.length)) && t.vq.all (fun e => decide (e.grant ≤ e.lanes.length))

/-- A strand changes, and the lane clusters that it thereby gives up return to the pool. -/
def State.dropLanes (s : State) (sid : Nat) (f : Strand → Strand) : State :=
  let t := s.st sid
  let kept := (f t).heldLanes
  (s.setSt sid (f t)).modCluster (clusterOfCore (coreOfSid sid)) (fun cl =>
    cl.zeroSlices (t.heldLanes.filter (fun l => !kept.contains l)))

/-- release: the strand's grant keeps its first `n` lane clusters; each of the others returns once no older entry counts it
(R149). -/
def State.keepLanes (s : State) (sid n : Nat) : State := s.dropLanes sid (fun t => { t with lanes := t.lanes.take n })

/-- All the lane clusters of a strand return. -/
def Strand.noLanes (t : Strand) : Strand :=
  { t with
    lanes := []
    vq := t.vq.map (fun e => { e with lanes := [] })
    hold := t.hold.map (fun e => { e with lanes := [] }) }

/-- The waits during which a strand's whole grant returns (R149). -/
def Wait.returnsLanes (w : Wait) : Bool :=
  match w with
  | .fe _ _ _ _ _ refused _ => !refused
  | .cbacq _ _ _ => true
  | .mbrecv _ _ _ => true
  | .bwait _ _ => true
  | .waiti => true
  | _ => false

/-- An entry of the queue can still progress: there is one, and its strand's own page fault has not stopped it. -/
def Strand.progresses (t : Strand) : Bool := match t.vq with | [] => false | e :: _ => !e.stopped

/-- Lanes after anything that may return some: all of them when the strand is FREE, and in a wait of R149 or DROPPED once no queue
entry can progress; otherwise those beyond its grant that no entry counts. -/
def State.settleLanes (s : State) (sid : Nat) : State :=
  let t := s.st sid
  if t.st = .free || ((t.st = .dropped || t.wait.returnsLanes) && !t.progresses) then s.dropLanes sid Strand.noLanes
  else s.keepLanes sid (if t.wait = .lanes then 0 else t.grant)

/-! ### Completing an instruction -/

/-- The capture for replay is abandoned (R151). -/
def Strand.dropReplay (t : Strand) : Strand := { t with replay := {} }

/-- A taken branch or jump: it completes a capture that began at its target, and abandons it otherwise (R151). -/
def Replay.branch (r : Replay) (target : Word) : Replay :=
  if (r.open_ || r.complete) && target = r.addr && !r.words.isEmpty then { r with open_ := false, complete := true } else {}

/-- The instruction completes: pc to the next one, ctl.instret, readiness after `lat` cycles (R110, R112). -/
def Strand.complete (t : Strand) (cycle len lat : Nat) : Strand :=
  { t.setCtl cInstret (t.ctl cInstret + 1) with
    pc := t.pc + word len, wait := .none, readyAt := cycle + lat, loadOut := false }

/-- The current strand's instruction of `len` bytes completes. -/
def State.complete (s : State) (len lat : Nat) : State :=
  s.modCur (fun t => t.complete (s.cycleOf s.curCore) len lat)

/-- The current strand's instruction completes with a transfer to a target, whose bit 0 is cleared (R41, R126). -/
def State.jump (s : State) (target : Word) : State :=
  s.modCur (fun t =>
    { t.complete (s.cycleOf s.curCore) 0 1 with pc := target &&& ~~~1, replay := t.replay.branch (target &&& ~~~1) })

/-- An instruction in flight of any strand completes: its result, the next pc, readiness in the next cycle. -/
def State.finish (s : State) (sid rd : Nat) (x : Word) : State :=
  s.modSt sid (fun t => (t.wr rd x).complete (s.cycleOf (coreOfSid sid)) 4 1)

/-- An instruction in flight completes and writes no register. -/
def State.finish0 (s : State) (sid : Nat) : State := s.finish sid 0 0

/-! ### Traps (R118, R119) -/

/-- The double fault of R119: HALTED, and the service event that names it. -/
def State.doubleFault (s : State) (sid : Nat) (cause tval : Word) : State :=
  let s := s.modSt sid (fun t => { t with st := .halted, wait := .none })
  ((s.svcEvent 8 0 sid 0).diagEntry (leBytes 8 cause.toNat ++ leBytes 8 tval.toNat ++ leBytes 8 sid)).settleLanes sid

/-- Taking a trap or an interrupt (R119): which registers save the resume address, the cause, the value and the status
depends on the mode the strand was in. -/
def State.enter (s : State) (sid : Nat) (cause tval resume : Word) : State :=
  let t := { s.st sid with wait := .none, readyAt := (s.cycleOf (coreOfSid sid)) + 1, replay := {} }
  if t.status.mode = .task then
    s.setSt sid
      { ((t.setCtl cEpc (resume &&& ~~~1)).setCtl cCause cause).setCtl cTval tval with
        status := { t.status with pmode := .task, pie := t.status.ie, ie := false, mode := .supervisor }
        pc := t.ctl cTvec }
  else if t.status.mnest = false then
    s.setSt sid
      { ((t.setCtl cMepc (resume &&& ~~~1)).setCtl cMcause cause).setCtl cMtval tval with
        status := { t.status with mpmode := t.status.mode, mpie := t.status.ie, ie := false, mode := .monitor, mnest := true }
        pc := t.ctl cMtvec }
  else s.doubleFault sid cause tval

/-- A vector fault (R118): vepc and velem, the stopped entry and every younger one to the hold buffer, vhold, and the
entry with cause.vec at the next scalar instruction. -/
def State.enterVector (s : State) (sid : Nat) (detail code : Nat) (tval vepc velem : Word) (async : Bool) : State :=
  let t := s.st sid
  let t := (t.setCtl cVepc vepc).setCtl cVelem velem
  let t := { t with hold := t.vq, vq := [], status := { t.status with vhold := !t.vq.isEmpty } }
  (s.setSt sid t).enter sid (causeWord false async true detail code) tval t.pc

/-- A queued instruction that the scalar stream waits for: it writes a g register, or is FENCE.VS (05 R144, 06 R188). -/
def awaited (i : Instr) : Bool :=
  match i with
  | .vext _ _ _ _ => true
  | .kpop _ _ => true
  | .kfirst _ _ => true
  | .kget _ _ _ => true
  | .efget _ _ => true
  | .fenceVs => true
  | _ => false

/-- An entry that is to be performed again: it starts anew, and checks its header anew (log 86). -/
def VEntry.afresh (e : VEntry) : VEntry := { e with begun := false, stopped := false, tile := none }

/-- Entries of the hold buffer return to the head of the queue as a handler is left. -/
def Strand.takeBack (t : Strand) (back : List VEntry) (st : Status) (pc : Word) : Strand :=
  { t with
    pc := pc, status := st, vq := back.map VEntry.afresh ++ t.vq, hold := []
    wait := if back.any (fun e => awaited e.ins) then .vres else t.wait }

/-- Leaving a trap handler (R128).  Entries that return to the queue with a result the scalar stream awaits keep it
waiting. -/
def Strand.rett (t : Strand) : Strand :=
  match t.status.mode with
  | .monitor =>
    { t with pc := t.ctl cMepc, status := { t.status with mode := t.status.mpmode, ie := t.status.mpie, mnest := false } }
  | _ =>
    let st := { t.status with mode := t.status.pmode, ie := t.status.pie }
    if t.status.vhold then
      let back := match t.hold with | [] => [] | e :: r => { e with start := (t.ctl cVelem).toNat } :: r
      -- another entry becomes the oldest: its timer restarts (05_vector R152)
      (if back.isEmpty then t else t.restartTimer).takeBack back { st with vhold := false } (t.ctl cEpc)
    else { t with pc := t.ctl cEpc, status := st }

/-! ### The form of a meaning

A meaning runs on the state until it ends; `endHere` ends the instruction with the state as it then stands. -/

/-- A computation over the state that may end the instruction early. -/
abbrev Act (α : Type) := EStateM Unit State α

/-- The outcome of a meaning: it always goes on. -/
def runAct (a : Act Unit) (s : State) : Host.Outcome State Fault Refusal :=
  match a s with
  | .ok _ s' => .next s'
  | .error _ s' => .next s'

/-- The instruction ends here (R70). -/
def endHere {α : Type} : Act α := throw ()

/-- The state, changed by a function. -/
def change (f : State → State) : Act Unit := modify f

/-- Something read from the state. -/
def look {α : Type} (f : State → α) : Act α := do return f (← get)

/-- The instruction is in flight and what it waits for is examined again: nothing else changes. -/
def State.stall (s : State) : State := s.modCur (fun t => { t with wait := .poll })

/-- The instruction waits, unchanged. -/
def stall {α : Type} : Act α := do
  change State.stall
  endHere

/-- The strand is not ready this cycle (R107): its instruction has not issued, and is offered again. -/
def forfeit {α : Type} : Act α := do
  change (fun s => s.modCur (fun t => { t with wait := .again }))
  endHere

/-- The instruction is not issued before a condition holds. -/
def issueWhen (p : State → Bool) : Act Unit := do
  if p (← get) then return () else forfeit

/-- The effects of the instruction are under way, and it completes once a condition holds (R439); the frames are those of
`Wait.flight`. -/
def flyUntil (frames : List (Nat × Nat)) (p : State → Bool) : Act Unit := do
  if p (← get) then return ()
  else
    change (fun s => s.modCur (fun t => { t with wait := .flight frames }))
    endHere

/-- The current instruction is in flight with its effects under way: what its wait holds. -/
def State.underWay (s : State) : Option (List (Nat × Nat)) := match s.cur.wait with | .flight l => some l | _ => none

/-- The instruction waits until a condition holds. -/
def waitUntil (p : State → Bool) : Act Unit := do
  if p (← get) then return () else stall

/-- An exact scalar trap of the current strand (R118): it waits for the older vector entries, then enters the handler
with the given resume address. -/
def trapTo {α : Type} (resume : Word) (detail code : Nat) (tval : Word) : Act α := do
  waitUntil (fun s => s.cur.vq.isEmpty)
  change (fun s => s.enter s.curSid (causeWord false false false detail code) tval resume)
  endHere

/-- An exact scalar trap at the current instruction. -/
def trap {α : Type} (detail code : Nat) (tval : Word) : Act α := do
  trapTo (← look (fun s => s.cur.pc)) detail code tval

/-- ILLEGAL for the current instruction (R59, R60). -/
def illegal {α : Type} (i : Instr) : Act α := trap 0 xIllegal (wordOf i)

/-- The instruction is ILLEGAL unless a condition holds. -/
def require (p : State → Bool) (i : Instr) : Act Unit := do
  if p (← get) then return () else illegal i

/-- The current mode is at least supervisor; monitor (R111). -/
def State.atSupervisor (s : State) : Bool := s.cur.status.mode != .task
def State.atMonitor (s : State) : Bool := s.cur.status.mode == .monitor

/-- An instruction that needs supervisor mode; monitor mode (R59, R111). -/
def needSupervisor (i : Instr) : Act Unit := require State.atSupervisor i
def needMonitor (i : Instr) : Act Unit := require State.atMonitor i

/-- The current instruction completes. -/
def done (len lat : Nat) : Act Unit := change (fun s => s.complete len lat)

/-- The current instruction writes a register and completes. -/
def doneWith {w : Nat} (rd : BitVec w) (x : Word) (len lat : Nat) : Act Unit :=
  change (fun s => (s.gw rd x).complete len lat)

/-- The strand's older vector entries have completed. -/
def drained (s : State) : Bool := s.cur.vq.isEmpty

/-- Each element of a list in turn. -/
def forEach {α : Type} (l : List α) (f : α → Act Unit) : Act Unit :=
  match l with
  | [] => return ()
  | x :: r => do
    f x
    forEach r f

end Sys2Proof.Machine
end

