-- ==== Sys2Proof/Machine/Home.lean ====
section
/-! DEFINITION. Physical memory and the home slices: partitions and the interleave (12_sagger R321 to R323), the Sagger (R324
to R327), the lines the home slices hold above it (01_engines R28), reads with their errors (12 R329, R332), and registrations
with their notices and what waits behind a reservation (11_home R299, R303 to R305, 10_sync R282). -/

namespace Sys2Proof.Machine

/-! ### Partitions (01_engines R29) -/

/-- The partition a die belongs to; a die in none counts as a partition of its own die (log 21). -/
def State.partitionOfDie (s : State) (d : Nat) : Partition :=
  match s.disp.partitions.find? (fun p => p.mask.testBit d) with
  | some p => p
  | none => { mask := 2 ^ d, rb := 65536, windows := 0 }

def State.partitionOf (s : State) (core : Nat) : Partition := s.partitionOfDie (dieOfCore core)

/-- The dies of a partition, in order. -/
def Partition.dies (p : Partition) : List Nat := (List.range 8).filter (fun d => p.mask.testBit d)

/-- The lowest-numbered die. -/
def Partition.first (p : Partition) : Nat := (p.dies.head?).getD 0

/-- The moduli of R322: slices and channels. -/
def Partition.ps (p : Partition) : Nat := match p.dies.length with | 1 => 31 | 2 => 61 | 4 => 113 | _ => 241
def Partition.pc (p : Partition) : Nat := match p.dies.length with | 1 => 61 | 2 => 113 | 4 => 251 | _ => 503

/-- Two cores are of one partition. -/
def State.samePartition (s : State) (a b : Nat) : Bool := (s.partitionOf a).mask.testBit (dieOfCore b)

/-! ### Tenants (R30) -/

/-- The package coordinates of a cluster (01_engines R30). -/
def clusterXY (cl : Nat) : Nat × Nat := (4 * (cl / 8 % 4) + cl % 4, 2 * (cl / 32) + cl % 8 / 4)

/-- A placed tenant's rectangle holds a cluster. -/
def Tenant.holds (t : Tenant) (cl : Nat) : Bool :=
  let (x, y) := clusterXY cl
  decide (t.x0 ≤ x ∧ x ≤ t.x1 ∧ t.y0 ≤ y ∧ y ≤ t.y1)

/-- The tenant a cluster belongs to (R30). -/
def State.clusterTenant (s : State) (cl : Nat) : Option Nat := (s.disp.tenants.find? (fun e => e.2.holds cl)).map (·.1)

/-- A core of this package lies in a tenant. -/
def State.coreInTenant (s : State) (core tenant : Nat) : Bool :=
  coreExists core && s.clusterTenant (clusterOfCore core) = some tenant

/-! ### Physical addresses -/

/-- A physical address names a host window (R358). -/
def isHostPa (pa : Nat) : Bool := decide (pa / 2 ^ 50 % 4 = 2)

/-- A page of memory lies in the partition's memory, as its interleave mode reads it (R321, R323, R358). -/
def Partition.owns (p : Partition) (pa size : Nat) (im : Bool) : Bool :=
  if isHostPa pa then p.windows.testBit (pa / 2 ^ 48 % 4)
  else
    let off := pa % 2 ^ 45
    decide (pa / 2 ^ 48 = 0) && decide (pa / 2 ^ 45 % 8 = p.first) &&
      (if im then
        let row := off / 1024 % 65536
        let c := off / 1024 / 65536 / 16
        decide (c < p.pc) && decide (p.rb ≤ row) && decide (row + size / 1024 ≤ 65536)
      else decide ((off + size - 1) / 64 / p.pc < 256 * p.rb))

/-- A partition's own home copy of a line of a host window (13_fabric R358) has an address of its own, above every other, that
names the partition by its first die. -/
def isHostCell (a : Nat) : Bool := decide (2 ^ 60 ≤ a)

/-- The host window's physical address of a home copy. -/
def rawHost (a : Nat) : Nat := a % 2 ^ 60

/-- Where memory keeps a byte: a row-region address under the prime-region address of the same channel, line and byte,
which R323 leaves to no other address; one of a host window as the partition's own copy. -/
def Partition.cell (p : Partition) (pa : Nat) (im : Bool) : Nat :=
  if isHostPa pa then (p.first + 1) * 2 ^ 60 + pa
  else if im then
    let off := pa % 2 ^ 45
    let row := off / 1024 % 65536
    let bank := off / 1024 / 65536 % 16
    let c := off / 1024 / 65536 / 16
    let n := row * 256 + bank * 16 + off % 1024 / 64
    pa / 2 ^ 45 * 2 ^ 45 + (n * p.pc + c) * 64 + pa % 64
  else pa

/-- The pseudo-channel that holds a byte: its die, its number there, and the channel-local line (R322, R323). -/
def State.channelOf (s : State) (pa : Nat) : Nat × Nat × Nat :=
  let p := s.partitionOfDie (pa / 2 ^ 45 % 8)
  let l := pa % 2 ^ 45 / 64
  let pos := l % p.pc
  (lget 0 p.dies (pos / 63), pos % 63, l / p.pc)

/-- The physical address that memory keeps under an address of its own: the inverse of `Partition.cell`. -/
def State.rawPa (s : State) (a : Nat) : Nat :=
  let p := s.partitionOfDie (a / 2 ^ 45 % 8)
  let c := a % 2 ^ 45 / 64 % p.pc
  let n := a % 2 ^ 45 / 64 / p.pc
  if isHostCell a then rawHost a
  else if n < 256 * p.rb then a
  else a / 2 ^ 45 * 2 ^ 45 + ((c * 16 + n / 16 % 16) * 65536 + n / 256) * 1024 + n % 16 * 64 + a % 64

/-- A page, by its frame and the log2 of its size, holds what memory keeps under an address. -/
def State.pageHolds (s : State) (page : Nat × Nat) (a : Nat) : Bool := decide (s.rawPa a / 2 ^ page.2 = page.1 / 2 ^ page.2)

/-- The home slice of a line: die and unit (R322, R323).  A line of a host window is homed in the partition whose copy it is
(13_fabric R358), and a row-region line, whose channel-local line lies beyond the boundary, by its channel. -/
def State.sliceOf (s : State) (pa : Nat) : Nat × Nat :=
  let p := s.partitionOfDie (if isHostCell pa then pa / 2 ^ 60 - 1 else pa / 2 ^ 45 % 8)
  let pos :=
    if isHostCell pa then pa % 2 ^ 48 / 64 % p.ps
    else
      let l := pa % 2 ^ 45 / 64
      (if l / p.pc < 256 * p.rb then l else l % p.pc) % p.ps
  (lget 0 p.dies (pos / 31), pos % 31)

/-! ### Who accesses, and how an access fails -/

/-- The strand an access is charged to. -/
structure Who where
  core : Nat
  sid : Nat
  pd : Nat
  tenant : Nat
  mode : Mode
  /-- 0 for its scalar stream, 1 for its vector queue, 2 for its matrix and copy commands, 3 for prefetched lines -/
  stream : Nat := 0
deriving DecidableEq, Repr

def State.who (s : State) (sid : Nat) : Who :=
  let t := s.st sid
  { core := coreOfSid sid, sid := sid, pd := t.pd, tenant := t.tenant, mode := t.status.mode }

/-- How an access fails (02_words R71, 08_matrix R210, 10_sync R292). -/
inductive AccErr where
  | misalign
  /-- with the detail of R117 -/
  | perm (detail : Nat)
  /-- a walk that ended in a fault: type and level (R200), and which walk -/
  | page (type level walk : Nat)
  | ecc
  | poison
  /-- the accumulator is locked (R210) -/
  | retry
  /-- the access is under way: it waits for a walk (07 R197), or for a slot that serves it (11_home R319, 12_sagger R331) -/
  | walker
  /-- another cause, with its detail, and its value where that is not the address -/
  | other (detail code : Nat) (tval : Option Word)
deriving DecidableEq, Repr

/-- The priority of R185: a lower number is reported first. -/
def AccErr.rank (e : AccErr) : Nat :=
  match e with
  | .misalign => 1
  | .perm _ => 2
  | .other _ _ _ => 3
  | .page _ _ _ => 4
  | .ecc => 5
  | .poison => 6
  | .retry => 7
  | .walker => 7

/-- The access has come to its end: it is not made again. -/
def AccErr.final (e : AccErr) : Bool := e != .retry && e != .walker

/-- A computation of an access. -/
abbrev Acc (α : Type) := EStateM AccErr State α

def Acc.fail {α : Type} (e : AccErr) : Acc α := throw e

/-! ### Keys and poison (R329, R332) -/

/-- The generation under which a write of a key is recorded: that of the live slot, or one that never lives (R431). -/
def State.keyGen (s : State) (key : Nat) : Nat :=
  if key = 0 then 0
  else
    let k := tget {} s.svc.keys key
    if k.live then k.gen else 65536

/-- A line reads as stored under the key (R332). -/
def State.keyReads (s : State) (pa key : Nat) : Bool :=
  let r := tget (0, 0) s.lineKey (pa / 64)
  decide (r.1 = key) && decide (r.2 = s.keyGen key) && decide (r.2 ≠ 65536)

/-- The atoms that overlap a range, by their addresses. -/
def atomsOf (pa n : Nat) : List Nat := (List.range ((pa + n - 1) / 32 - pa / 32 + 1)).map (fun i => (pa / 32 + i) * 32)

/-- Counter `k` of a die (R337), one more. -/
def State.countDie (s : State) (d k : Nat) : State :=
  s.modDie d (fun x => { x with counters := tmod 0 x.counters k (fun n => (n + 1) % 2 ^ 64) })

/-- An atom becomes poisoned (R329). -/
def State.setPoison (s : State) (atom : Nat) : State :=
  { s with poison := if s.poison.contains atom then s.poison else atom :: s.poison }

/-! ### The Sagger (R324 to R327) -/

/-- The set of a line: R324. -/
def State.saggerSet (s : State) (pa : Nat) : Nat × Nat :=
  let (d, ch, n) := s.channelOf pa
  (d, (n * 64 + ch) % 196608)

/-- Blocks a line's compressed form needs (log 19). -/
def State.blocksNeeded (s : State) (line : Nat) : Nat := Config.compressedBlocks (mread s.mem line 64) % 4 + 1

/-- The lines of the rows that an open row stream's commands name are locked in the pool (R325). -/
def State.rowLocked (s : State) (pa : Nat) : Bool :=
  let (d, ch, n) := s.channelOf pa
  s.cores.any (fun e => e.2.rows.any (fun r => r.2.bank = some (d, ch, n / 16 % 16) && r.2.rows.contains (n / 256)))

/-- A way of a set has a run of free blocks that fits: its first block. -/
def freeRun (lines : List SagLine) (way need : Nat) : Option Nat :=
  let used (b : Nat) : Bool := lines.any (fun l => l.way = way && decide (l.block ≤ b ∧ b < l.block + l.blocks))
  firstBelow (4 - need + 1) (fun b => (List.range need).all (fun k => !used (b + k)))

/-- The first pool way and block of a set that fit a line, while one of its 32 tags is free. -/
def fitIn (lines : List SagLine) (need : Nat) : Option (Nat × Nat) :=
  if 32 ≤ lines.length then none else (List.range 15).findSome? (fun w => (freeRun lines w need).map (fun b => (w, b)))

/-- The cascade of R327 step 2: unlocked pool lines of the set go, least recently used first, until the line fits; a
dirty one only while the writeback buffer has room.  What stays of the set, what went, and where the line fits. -/
def cascade (locked : SagLine → Bool) (order kept : List SagLine) (room need : Nat) (gone : List SagLine) :
    List SagLine × List SagLine × Option (Nat × Nat) :=
  match fitIn kept need with
  | some w => (kept, gone, some w)
  | none =>
    match order with
    | [] => (kept, gone, none)
    | l :: r =>
      if locked l || l.way = 15 || (l.dirty && room = 0) then cascade locked r kept room need gone
      else cascade locked r (kept.filter (fun x => x.pa ≠ l.pa)) (if l.dirty then room - 1 else room) need (gone ++ [l])

/-- Lines leave the Sagger.  A dirty one reaches HBM4 whole: what was broken there is written over, and an atom its SRAM had lost
arrives poisoned (R326). -/
def State.leaveSagger (s : State) (gone : List SagLine) : State :=
  (gone.filter (·.dirty)).foldl (fun s l =>
    l.bad.foldl State.setPoison { s with broken := s.broken.filter (fun a => a / 64 ≠ l.pa / 64) }) s

/-- Entries of a die's writeback buffer for the dirty ones among lines. -/
def writebacksOf (ls : List SagLine) : List (Nat × Nat) := (ls.filter (·.dirty)).map (fun l => (l.pa, l.tenant))

/-- Step 3 of R327: a line goes to the spill way at once when that is free or holds a clean line; otherwise the write waits for
the writeback of the line that holds the way, or is the last of those that wait to hold it. -/
def State.saggerSpill (s : State) (d : Nat) (others kept : List SagLine) (x : SagLine) : State :=
  let die := s.die d
  let idx := (s.saggerSet x.pa).2
  let pool := kept.filter (fun l => l.way ≠ 15)
  match (die.spillWait.filter (fun q => (s.saggerSet q.line.pa).2 = idx)).getLast? with
  | some q => s.setDie d { die with sagger := others ++ kept, spillWait := die.spillWait ++ [{ line := x, occ := q.line.pa }] }
  | none =>
    match kept.find? (fun l => l.way = 15 && l.dirty) with
    | some l =>
      (s.setDie d { die with
        sagger := others ++ pool
        writeback := die.writeback ++ writebacksOf [l]
        spillWait := die.spillWait ++ [{ line := x, occ := l.pa }] }).leaveSagger [l]
    | none =>
      if 32 ≤ pool.length then (s.setDie d { die with sagger := others ++ kept, writeback := die.writeback ++ writebacksOf [x] }).leaveSagger [x]
      else s.setDie d { die with sagger := others ++ pool ++ [x], counters := tmod 0 die.counters 0 (fun n => (n + 1) % 2 ^ 64) }

/-- The placement of R327 of a line that the Sagger does not hold, or that has outgrown its blocks; `mk` gives it its way, block
and count of blocks. -/
def State.saggerGrow (s : State) (d idx : Nat) (rest : List SagLine) (need : Nat) (mk : Nat → Nat → Nat → SagLine) : State :=
  let die := s.die d
  let same := fun (l : SagLine) => decide ((s.saggerSet l.pa).2 = idx)
  let mine := rest.filter same
  let others := rest.filter (fun l => !same l)
  let (kept, gone, place) := cascade (fun l => s.rowLocked l.pa) mine mine (64 - die.writeback.length) need []
  let die := { die with
    writeback := die.writeback ++ writebacksOf gone
    counters := if gone.isEmpty then die.counters else tmod 0 die.counters 1 (fun n => (n + gone.length) % 2 ^ 64) }
  let s := (s.setDie d die).leaveSagger gone
  match place with
  | some (w, b) => s.setDie d { die with sagger := others ++ kept ++ [mk w b need] }
  | none => s.saggerSpill d others kept (mk 15 0 4)

/-- The Sagger's tag of a line, also of one that waits for the spill way. -/
def State.sagLine (s : State) (pa : Nat) : Option SagLine :=
  let line := pa / 64 * 64
  let die := s.die (s.saggerSet line).1
  match die.spillWait.find? (fun q => q.line.pa = line) with
  | some q => some q.line
  | none => die.sagger.find? (fun l => l.pa = line)

/-- A line that the Sagger of its die serves is the most recently used (R324). -/
def State.sagTouch (s : State) (line : Nat) : State :=
  let d := (s.saggerSet line).1
  let die := s.die d
  match die.sagger.find? (fun l => l.pa = line) with
  | some l => s.setDie d { die with sagger := die.sagger.filter (fun x => x.pa ≠ line) ++ [l] }
  | none => s

/-- The next read of an atom below the home slices meets an uncorrectable error: in the Sagger where it holds the line, otherwise
in HBM4 (R329). -/
def State.badBelow (s : State) (atom : Nat) : Bool :=
  !isHostCell atom && match s.sagLine atom with
    | some l => l.bad.contains atom
    | none => s.broken.contains atom

/-- An uncorrectable error has been met at an atom: it is poisoned, and counted (R329, R337). -/
def State.meetError (s : State) (atom : Nat) : State :=
  let d := (s.saggerSet atom).1
  let s := { s with broken := s.broken.filter (· ≠ atom), flawed := s.flawed.filter (· ≠ atom) }
  let s := s.modDie d (fun die => { die with
    sagger := die.sagger.map (fun l => { l with bad := l.bad.filter (· ≠ atom) })
    spillWait := die.spillWait.map (fun q => { q with line := { q.line with bad := q.line.bad.filter (· ≠ atom) } }) })
  (s.setPoison atom).countDie d 4

/-! ### The lines of the home slices (01_engines R28) -/

/-- The lines a home slice holds: 512 KiB of 64 bytes (01_engines R12). -/
abbrev sliceLines : Nat := 8192

/-- The home slice's line that holds an address. -/
def State.l2Find (s : State) (pa : Nat) : Option L2Line :=
  let u := s.sliceOf pa
  (tget [] (s.die u.1).l2 u.2).find? (fun x => x.pa = pa / 64 * 64)

/-- The home slice holds an atom. -/
def State.atomHeld (s : State) (atom : Nat) : Bool := match s.l2Find atom with | some x => x.atoms.contains atom | none => false

/-- A read of an atom meets an uncorrectable error where it stands: in its home slice, or below (R329, 17_service R425). -/
def State.badAt (s : State) (atom : Nat) : Bool := if s.atomHeld atom then s.flawed.contains atom else s.badBelow atom

/-- The lines of a line's home slice change. -/
def State.l2Mod (s : State) (pa : Nat) (f : List L2Line → List L2Line) : State :=
  let u := s.sliceOf pa
  s.modDie u.1 (fun d => { d with l2 := tmod [] d.l2 u.2 f })

/-- A line that its home slice holds changes. -/
def State.l2Put (s : State) (x : L2Line) : State := s.l2Mod x.pa (fun l => l.map (fun y => if y.pa = x.pa then x else y))

/-- What the store holds of a line. -/
def State.image (s : State) (line : Nat) : LineImage :=
  let k := tget (0, 0) s.lineKey (line / 64)
  { bytes := mread s.mem line 64, key := k.1, gen := k.2, poison := s.poison.filter (fun a => a / 64 = line / 64) }

/-- The store holds of a line what it held. -/
def State.putImage (s : State) (line : Nat) (m : LineImage) : State :=
  { s with
    mem := mwrite s.mem line m.bytes
    lineKey := if m.key = 0 ∧ m.gen = 0 then tdel s.lineKey (line / 64) else tput s.lineKey (line / 64) (m.key, m.gen)
    poison := m.poison ++ s.poison.filter (fun a => a / 64 ≠ line / 64) }

/-- A dirty line of a home slice is written into the Sagger of the die whose stack holds it: it enters there, or takes its new
size in place, or grows (R327).  Atoms the slice did not hold stay as they were below. -/
def State.saggerWrite (s : State) (x : L2Line) (before : LineImage) : State :=
  let (d, idx) := s.saggerSet x.pa
  let die := s.die d
  let need := s.blocksNeeded x.pa
  let k := tget (0, 0) s.lineKey (x.pa / 64)
  let old := die.sagger.find? (fun l => l.pa = x.pa)
  let rest := die.sagger.filter (fun l => l.pa ≠ x.pa)
  let under := match old with | some l => if l.dirty then l.old else some before | none => some before
  let bad := (atomsOf x.pa 64).filter (fun a => !x.atoms.contains a && s.badBelow a)
  let mk := fun (way block blocks : Nat) =>
    ({ pa := x.pa, key := k.1, gen := k.2, dirty := true, tenant := x.tenant, way := way, block := block, blocks := blocks,
       old := under, bad := bad } : SagLine)
  match die.spillWait.find? (fun q => q.line.pa = x.pa) with
  | some q =>
    s.setDie d { die with spillWait := die.spillWait.map (fun r =>
      if r.line.pa = x.pa then { r with line := { mk 15 0 4 with old := q.line.old } } else r) }
  | none =>
    match old with
    | some l =>
      if l.way = 15 then s.setDie d { die with sagger := rest ++ [mk 15 0 4] }
      else if need ≤ l.blocks then s.setDie d { die with sagger := rest ++ [mk l.way l.block need] }
      else s.saggerGrow d idx rest need mk
    | none => s.saggerGrow d idx rest need mk

/-- A line leaves its home slice: a dirty one is written below; a host window's copy is forgotten, since its writes have gone to
the host (13_fabric R358). -/
def State.l2Evict (s : State) (x : L2Line) : State :=
  let s := match x.under with
    | some m => if isHostCell x.pa then s else s.saggerWrite x m
    | none => s
  let lost := s.flawed.filter (fun a => a / 64 = x.pa / 64)
  -- what the slice's SRAM has lost of a dirty line arrives poisoned, as a Sagger line's does (R326)
  let s := if x.under.isSome then lost.foldl State.setPoison s else s
  let s := { s with flawed := s.flawed.filter (fun a => !lost.contains a) }
  let s := s.l2Mod x.pa (fun l => l.filter (fun y => y.pa ≠ x.pa))
  if isHostCell x.pa then { s with mem := mwrite s.mem x.pa (List.replicate 64 0) } else s

/-- A line enters its home slice; in a full one some line makes room, which the spec does not say (log 14). -/
def State.l2Insert (s : State) (x : L2Line) : State :=
  let u := s.sliceOf x.pa
  let held := tget [] (s.die u.1).l2 u.2
  let s :=
    if held.length < sliceLines then s
    else
      let (v, s) := s.draw
      match held[v.toNat % held.length]? with
      | some y => s.l2Evict y
      | none => s
  let s := { s with flawed := s.flawed.filter (fun a => a / 64 ≠ x.pa / 64) }
  s.l2Mod x.pa (fun l => l ++ [x])

/-- The home slice takes hold of an atom: it has it, or fetches it from below; a line of a host window is read whole from the
host. -/
def State.l2Take (s : State) (atom : Nat) : State :=
  let line := atom / 64 * 64
  match s.l2Find line with
  | some x => if x.atoms.contains atom then s else (s.sagTouch line).l2Put { x with atoms := x.atoms ++ [atom] }
  | none =>
    if isHostCell line then
      ({ s with mem := mwrite s.mem line (mread s.mem (rawHost line) 64) }).l2Insert
        { pa := line, atoms := atomsOf line 64, key := 0, tenant := 0, under := none }
    else (s.sagTouch line).l2Insert { pa := line, atoms := [atom], key := 0, tenant := 0, under := none }

/-- The home slice takes hold of an atom that is about to be written: its line becomes dirty. -/
def State.l2Own (s : State) (atom key tenant : Nat) : State :=
  let m := s.image (atom / 64 * 64)
  let s := s.l2Take atom
  match s.l2Find atom with
  | some x => s.l2Put { x with key := key, tenant := tenant, under := some (x.under.getD m) }
  | none => s

/-- The bytes of an address as its home slice has them, without the errors of a read: of a host window that it does not hold,
the host's. -/
def State.homeBytes (s : State) (pa n : Nat) : List Byte :=
  mread s.mem (if isHostCell pa && (s.l2Find pa).isNone then rawHost pa else pa) n

/-- A host read of a fill fails or answers, as the host has it (13_fabric R358): a free value. -/
def State.hostFails (s : State) (pa : Nat) : Bool × State :=
  if isHostCell pa && (s.l2Find pa).isNone then
    let (x, s) := s.draw
    (bit x 0, s)
  else (false, s)

/-- A read at the home slice: `n` bytes for a key, with the errors of R329 and R332.  A line it does not hold comes from
below. -/
def homeRead (pa n key : Nat) : Acc (List Byte) := do
  let s ← get
  let as := atomsOf pa n
  match as.find? s.badAt with
  | some a =>
    set (s.meetError a)
    throw .ecc
  | none =>
    if as.any (fun a => s.poison.contains a || !s.keyReads a key) then throw .poison
    else
      let (failed, s) := s.hostFails pa
      if failed then
        set s
        throw .poison
      else
        let s := as.foldl State.l2Take s
        set s
        return s.homeBytes pa n

/-! ### Slots (11_home R319, R330, R331) -/

/-- The slot map of a line's home slice admits a request of a tenant, or of a host, in this cycle (11_home R319). -/
def State.sliceAdmits (s : State) (tenant : Option Nat) (pa : Nat) : Bool :=
  let u := s.sliceOf pa
  let maps := (s.die u.1).sliceSlots
  match tfind maps (u.2 * 64 + s.clock % 64) with
  | some t => tenant = some t
  | none => match tenant with | none => true | some t => !(maps.any (fun e => e.1 / 64 = u.2 && e.2 = t))

/-- The tenant a channel's slot is assigned to. -/
def Die.slotTenant (d : Die) (ch k : Nat) : Option Nat := tfind d.chanSlots (ch * 64 + k)

/-- The slots of a channel assigned to a tenant. -/
def Die.slotMask (d : Die) (ch tenant : Nat) : Nat :=
  ((List.range 64).map (fun k => if d.slotTenant ch k = some tenant then 2 ^ k else 0)).foldl (· + ·) 0

/-- A request of a tenant, or of a host, may issue in a slot of its channel (R331): in its tenant's, or in an open one when the
tenant holds none; slot 0 serves refresh (R330). -/
def Die.mayIssue (d : Die) (ch k : Nat) (tenant : Option Nat) : Bool :=
  k != 0 && match d.slotTenant ch k with
    | some t => tenant = some t
    | none => match tenant with | none => true | some t => d.slotMask ch t = 0

/-- Another tenant's row stream holds a bank and a CPYS uses it: the bank serves no other request until that has finished (R331). -/
def State.bankBusy (s : State) (tenant : Option Nat) (bank : Nat × Nat × Nat) : Bool :=
  s.cores.any (fun e =>
    e.2.rows.any (fun r => r.2.bank = some bank && e.2.copies.any (fun k => k.2.kind = 3 && k.2.rs = r.1))
      && tenant != some ((e.2.strand 4).tenant))

/-- The bank that holds a line: die, channel there, bank (R322, R323). -/
def State.bankOf (s : State) (pa : Nat) : Nat × Nat × Nat :=
  let (d, ch, n) := s.channelOf pa
  (d, ch, n / 16 % 16)

/-- A request for a line can be served in this cycle: by its slice, and by its channel where neither the slice nor the Sagger
holds it. -/
def State.slotOpen (s : State) (tenant : Option Nat) (pa : Nat) : Bool :=
  s.sliceAdmits tenant pa
    && (isHostCell pa || s.atomHeld (pa / 32 * 32) || (s.sagLine pa).isSome
      || (let c := s.channelOf pa
          (s.die c.1).mayIssue c.2.1 (s.clock / 32 % 64) tenant && !s.bankBusy tenant (s.bankOf pa)))

/-- A request that no slot serves now is made again. -/
def slotGate (tenant : Option Nat) (pa : Nat) : Acc Unit := do
  if (← get).slotOpen tenant pa then return () else throw .walker

/-! ### Writes at the home slice -/

/-- A word of free values. -/
def State.freeBytes (s : State) (n : Nat) : List Byte × State :=
  ((List.range n).map (fun i => BitVec.ofNat 8 (Config.freeValue (s.freeCtr + i)).toNat), { s with freeCtr := s.freeCtr + n })

/-- A line is recorded under the key of a write (R332).  What its other bytes then hold, when they were stored under
another key, the spec does not say: they are free values (log 22). -/
def State.restamp (s : State) (pa key : Nat) : State :=
  let line := pa / 64
  let r := tget (0, 0) s.lineKey line
  let n := (key, s.keyGen key)
  if r = n then s
  else
    let s' := if r.1 = 0 then s else
      let (bs, s1) := s.freeBytes 64
      { s1 with mem := mwrite s1.mem (line * 64) bs }
    { s' with lineKey := if n = (0, 0) then tdel s'.lineKey line else tput s'.lineKey line n }

/-- Bytes of an aligned word written under a mask. -/
def maskWrite (m : Memory) (a : Nat) (mask : BitVec 8) (data : Word) : Memory :=
  (List.range 8).foldl (fun m i => if mask.getLsbD i then mput m (a + i) (BitVec.ofNat 8 (bits data (8 * i + 7) (8 * i))) else m) m

/-- A word of bytes merged under a mask. -/
def maskMerge (old new : Word) (mask : BitVec 8) : Word :=
  (List.range 8).foldl (fun w i => if mask.getLsbD i then setBits w (8 * i + 7) (8 * i) (bits new (8 * i + 7) (8 * i)) else w) old

/-- A line as a merge entry reads it at its close (09_copy R256): no bytes stand for poison, one for an uncorrectable error. -/
def State.mergeRead (s : State) (pa key : Nat) : List Byte × State :=
  match homeRead (pa / 64 * 64) 64 key s with
  | .ok bs s' => (bs, s')
  | .error e s' => (if e = .ecc then [0] else [], s')

/-- A write to a line closes the merge entries that are open on it; each then has the line as it was before the write, as a read of it
found it (R329). -/
def State.closeMerges (s : State) (pa : Nat) : State :=
  let open_ := fun (m : Merge) => m.pa / 64 = pa / 64 && m.taken.isNone
  if s.merges.any open_ then
    let (ms, s) := s.merges.foldl (fun (acc : List Merge × State) m =>
      if open_ m then
        let (bs, s) := acc.2.mergeRead pa m.key
        (acc.1 ++ [{ m with taken := some bs }], s)
      else (acc.1 ++ [m], acc.2)) ([], s)
    { s with merges := ms }
  else s

/-- Bytes of a word put at its home: the line's key is recorded, and the line is dirty in the home slice.  Of an atom that is not
held and not wholly written the rest is read first.  A write to a host window is a posted host write (13_fabric R358). -/
def State.homePut (s : State) (pa : Nat) (mask : BitVec 8) (data : Word) (key tenant : Nat) : State :=
  let s := s.closeMerges pa
  if isHostCell pa then
    let m := maskWrite s.mem (rawHost pa) mask data
    { s with mem := if (s.l2Find pa).isSome then maskWrite m pa mask data else m }
  else
    let a := pa / 32 * 32
    let s := if s.badAt a then s.meetError a else s
    let s := (s.l2Own a key tenant).restamp pa key
    { s with mem := maskWrite s.mem pa mask data }

/-- The atoms that a set of word writes covers wholly. -/
def coveredAtoms (ws : List (Nat × BitVec 8)) : List Nat :=
  ((ws.map (fun w => w.1 / 32 * 32)).dedup).filter (fun a =>
    (List.range 4).all (fun i => ws.any (fun w => w.1 = a + 8 * i && w.2 = 0xFF)))

/-! ### Notices (11_home R303, R304) -/

/-- A revocation notice reaches a core's queue, or is discarded and counted.  At a core whose state has left by
migration it is discarded without an overflow (R305). -/
def State.pushNotice (s : State) (core pa : Nat) : State :=
  let c := s.core core
  if !c.fwd.isEmpty && (List.range 5).all (fun k => (c.strand k).st = .free) then s
  else if c.rvq.length < 64 then s.setCore core { c with rvq := c.rvq ++ [pa] }
  else (s.setCore core { c with rvqOvf := true, rvqOvcnt := c.rvqOvcnt + 1 }).raiseSource core 4

/-- A notice is sent: into its target's queue at once, or in flight to it as part of a registration of `cause` that a release of `via`
made. -/
def State.sendNotice (s : State) (cause via : Option Nat) (core pa : Nat) : State :=
  match cause with
  | none => s.pushNotice core pa
  | some c => { s with notices := s.notices ++ [{ core := core, pa := pa, cause := c, via := via }] }

/-- The bytes of a mask whose value in one word is that in another. -/
def sameBytes (mask : BitVec 8) (a b : Word) : BitVec 8 :=
  BitVec.ofNat 8 (((List.range 8).map (fun i =>
    if mask.getLsbD i && bits a (8 * i + 7) (8 * i) = bits b (8 * i + 7) (8 * i) then 2 ^ i else 0)).foldl (· + ·) 0)

/-- Registration at the home slice (R303): bytes, owner, notices, the cluster cache of the registering core, and the
core's count.  `owner` is a core, 1024 + a host port, or none.  Of a registration that had to wait (`cause`), a byte that has since
been stored anew in the cluster cache stays dirty there; `via` is the core whose release made it. -/
def State.registerHome (s : State) (pa : Nat) (mask : BitVec 8) (data : Word) (owner : Option Nat) (key tenant : Nat)
    (cause via : Option Nat := none) : State :=
  let prev := tfind s.owners (pa / 8)
  let s := s.homePut pa mask data key tenant
  let s := { s with owners := match owner with | some o => tput s.owners (pa / 8) o | none => tdel s.owners (pa / 8) }
  let isCore := fun (o : Option Nat) => match o with | some x => decide (x < 1024) | none => false
  let s := if isCore prev && prev != owner then s.sendNotice cause via (prev.getD 0) pa else s
  match owner with
  | none => s
  | some c =>
    if c < 1024 then
      let cl := clusterOfCore c
      let s := s.modCore c (fun x => x.setCtl 0x1C1 (x.ctl 0x1C1 + 1))
      match tfind (s.cluster cl).cc (pa / 8) with
      | none => s
      | some w =>
        let s := match w.cowner with
          | some o => if o ≠ c ∧ some o ≠ prev then s.sendNotice cause via o pa else s
          | none => s
        let m := match cause with | none => mask | some _ => sameBytes mask w.data data ||| (mask &&& ~~~w.dirty)
        let w := { w with data := maskMerge w.data data m, dirty := w.dirty &&& ~~~m, cowner := some c, key := key }
        s.modCluster cl (fun x => { x with cc := tput x.cc (pa / 8) w })
    else s

/-- The reservation of a word: held by a core, or on its way to it (10_sync R282, R283). -/
def State.reserved (s : State) (pa : Nat) : Option Resv := tfind s.resvs (pa / 8)

/-- The reservation a core holds on a word, once its grant has arrived: it applies its accesses to the held copy (R282). -/
def State.heldBy (s : State) (core pa : Nat) : Option Resv :=
  match s.reserved pa with
  | some r => if r.holder = core ∧ r.grantTo = none then some r else none
  | none => none

/-- The value of a word as the home slice holds it, without the errors of a read. -/
def State.homeWord (s : State) (pa : Nat) : Word := leWord (s.homeBytes pa 8)

/-- The held copy of a word changes under a mask. -/
def State.writeHeld (s : State) (pa : Nat) (r : Resv) (mask : BitVec 8) (data : Word) : State :=
  { s with resvs := tput s.resvs (pa / 8) { r with value := maskMerge r.value data mask } }

/-- Accesses of a word still wait at its home slice for their turn. -/
def State.wordQueued (s : State) (pa : Nat) : Bool := s.pendRegs.any (fun p => p.pa / 8 = pa / 8)

/-- A registration for an owner waits at the word's home slice: behind another core's reservation, its own core's that is still on its
way, or what waits there already (R282). -/
def State.mustWait (s : State) (pa : Nat) (owner : Option Nat) : Bool :=
  match s.reserved pa with
  | none => s.wordQueued pa
  | some r => !(owner = some r.holder && r.grantTo = none)

/-- Atoms that a set of word writes covers wholly lose their poison (R329); words that wait behind a reservation are not written
yet. -/
def State.clearCovered (s : State) (ws : List (Nat × BitVec 8)) (key tenant : Nat) : State :=
  let as := (coveredAtoms (ws.filter (fun w => (s.reserved w.1).isNone && !s.wordQueued w.1))).filter (fun a => !isHostCell a)
  as.foldl (fun s a =>
    let s := s.l2Own a key tenant
    { s with poison := s.poison.filter (· ≠ a), flawed := s.flawed.filter (· ≠ a) }) s

/-- A core's registration of a word that waits is not made a second time while it is the last of that word. -/
def State.addPending (s : State) (q : PendReg) : State :=
  let same := s.pendRegs.filter (fun p => p.pa = q.pa && p.owner = q.owner && p.act = .reg)
  if q.act = .reg ∧ q.via.isSome ∧ same.getLast? = some q then s else { s with pendRegs := s.pendRegs ++ [q] }

/-- A registration arrives at the home slice: the holding core applies its own stores to the held copy; behind a reservation, a copy's
behind any, and behind what waits, it waits there (10_sync R282). -/
def State.arriveHome (s : State) (pa : Nat) (mask : BitVec 8) (data : Word) (owner : Option Nat) (key tenant : Nat)
    (cause : Option Nat := none) (act : PendAct := .reg) (via : Option Nat := none) : State :=
  let wait : PendReg :=
    { pa := pa, mask := mask, data := data, owner := owner, key := key, tenant := tenant, act := act, via := via }
  match s.reserved pa with
  | some r => if act = .reg ∧ s.mustWait pa owner = false then s.writeHeld pa r mask data else s.addPending wait
  | none => if s.wordQueued pa then s.addPending wait else s.registerHome pa mask data owner key tenant cause

end Sys2Proof.Machine
end

