-- ==== Sys2Proof/Machine/Translate.lean ====
section
/-! DEFINITION. The address space and its checks: what an address names (01_engines R20 to R25), the rights of a domain
(07_translation R195, R196), the walk and the TLB (R190 to R194, R197), page marking and the victim queue (R184, R203),
and the drop of a strand (R200). -/

namespace Sys2Proof.Machine

/-! ### What an address names (R20 to R25) -/

/-- What an effective address names. -/
inductive Place where
  | translated
  /-- a scratchpad byte, by its global scratchpad address; a cluster-shared one under core field 0 -/
  | pad (ga : Nat)
  /-- the accumulator aperture of a core, and a byte of it -/
  | acc (core off : Nat)
  | accHdr (core off : Nat)
  | copyStatus (core off : Nat)
  | cbDesc (core off : Nat)
  /-- the barrier alias of a cluster -/
  | barrier (cluster off : Nat)
deriving DecidableEq, Repr

/-- Bases of the spaces of R20. -/
abbrev padBase : Nat := 0xF0000000000000
abbrev selfBase : Nat := 0xFF000000000000

/-- The global scratchpad address of an offset in a core's window, on this package. -/
def State.padAddr (s : State) (core off : Nat) : Nat := padBase + s.pkg * 2 ^ 38 + core * 2 ^ 28 + off

/-- An offset of a core's window (R22). -/
def State.windowPlace (s : State) (core off : Nat) (mode : Mode) : Option Place :=
  let stream := isStreamCore core
  if off < 0x80000 then some (.pad (s.padAddr core off))
  else if 0x8000000 ≤ off ∧ off < 0x8280000 then some (.pad (s.padAddr (core / 16 * 16) off))
  else if 0xC000000 ≤ off ∧ off < 0xC010000 then (if stream then none else some (.acc core (off - 0xC000000)))
  else if 0xC010000 ≤ off ∧ off < 0xC010080 then (if stream then none else some (.accHdr core (off - 0xC010000)))
  else if 0xD000000 ≤ off ∧ off < 0xD001000 then some (.copyStatus core (off - 0xD000000))
  else if 0xD010000 ≤ off ∧ off < 0xD010200 then some (.cbDesc core (off - 0xD010000))
  else if 0xE000000 ≤ off ∧ off < 0xE000080 then
    (if mode = .task then none else some (.barrier (core / 16) (off - 0xE000000)))
  else none

/-- The core that a global scratchpad address names to a strand: for one that live migration has moved from it, the core it was
moved to (R35). -/
def Strand.coreNamed (t : Strand) (core : Nat) : Nat :=
  match t.moves.find? (fun m => m.1 = core) with
  | some m => m.2
  | none => core

/-- What an address names to a strand; none where R20 to R25 refuse it (PERM, detail 5).  DESIGN CHOICE (log 79): R21 does not say
what the cluster field means beside core value 15, since a die has one scratchpad; it is ignored, so that its eight values name
the same byte. -/
def State.placeOf (s : State) (w : Who) (ea : Nat) : Option Place :=
  if ea < padBase then some .translated
  else if ea < 0xF4000000000000 then
    let field := ea / 2 ^ 28 % 16
    let core := if field < 10 then (s.st w.sid).coreNamed (ea / 2 ^ 28 % 1024) else ea / 2 ^ 28 % 1024
    let off := ea % 2 ^ 28
    if ea / 2 ^ 48 % 4 ≠ 0 ∨ ea / 2 ^ 38 % 1024 ≠ s.pkg % 1024 then none
    else if !(s.samePartition w.core core) then none
    else if field = 15 then (if off < 0x2000000 then some (.pad (padBase + s.pkg * 2 ^ 38 + (core / 128 * 128 + 15) * 2 ^ 28 + off)) else none)
    else if 10 < field then none
    else if field = 10 ∧ w.mode ≠ .monitor then none
    else s.windowPlace core off w.mode
  else if selfBase ≤ ea ∧ ea < selfBase + 2 ^ 28 then s.windowPlace w.core (ea % 2 ^ 28) w.mode
  else none

/-- The place, or PERM. -/
def placeAt (w : Who) (ea : Nat) : Acc Place := do
  match (← get).placeOf w ea with
  | some p => return p
  | none => throw (.perm 5)

/-! ### Rights (R195, R196) -/

/-- The rights an access needs. -/
structure Need where
  r : Bool := false
  w : Bool := false
  x : Bool := false
  s : Bool := false
  d : Bool := false
deriving DecidableEq, Repr

def needR : Need := { r := true }
def needW : Need := { w := true }
def needRW : Need := { r := true, w := true }
def needX : Need := { x := true }
def needSR : Need := { s := true, r := true }
def needSW : Need := { s := true, w := true }
def needSRW : Need := { s := true, r := true, w := true }

/-- A segment covers an address. -/
def Seg.covers (g : Seg) (a : Nat) : Bool := decide (g.base ≤ a ∧ a < g.base + 2 ^ g.lsize)

/-- A segment entry as the list holds it; none where R195 skips it. -/
def segOf (x : Word) : Option Seg :=
  let l := bits x 5 0
  let base := bits x 55 12 * 4096
  if bit x 6 && decide (12 ≤ l ∧ l ≤ 56) && decide (base % 2 ^ l = 0) && decide (bits x 63 56 = 0) then
    some { base := base, lsize := l, r := bit x 7, w := bit x 8, x := bit x 9, s := bit x 10, d := bit x 11 }
  else none

/-- The first lacking right's detail, in the order R, W, X, S, D (R196). -/
def Need.lacking (n : Need) (g : Option Seg) : Option Nat :=
  let has := fun (f : Seg → Bool) => match g with | some s => f s | none => false
  if n.r && !has (·.r) then some 0
  else if n.w && !has (·.w) then some 1
  else if n.x && !has (·.x) then some 2
  else if n.s && !has (·.s) then some 3
  else if n.d && !has (·.d) then some 4
  else none

/-- A domain's segment list, read by the walker at its home slices (R195).  DESIGN CHOICE (log 93): the bits of a descriptor that R195
has zero are ignored. -/
def readSegs (core pd : Nat) : Acc (List Seg) := do
  let s ← get
  let d := leWord (← homeRead (((s.core core).ctl 0x101).toNat + 8 * pd) 8 0)
  let n := min 64 (bits d 6 0)
  let bs ← (if n = 0 then return [] else homeRead (bits d 51 9 * 512) (8 * n) 0)
  return (List.range n).filterMap (fun i => segOf (word (leField bs (8 * i) 8)))

/-- A core's PLB with a domain filled: at most 32 segments in all, the oldest domains go (log 13). -/
def plbWith (plb : List PlbDomain) (pd : Nat) (segs : List Seg) : List PlbDomain :=
  let e : PlbDomain := { pd := pd, segs := segs.take 32, complete := decide (segs.length ≤ 32) }
  let rest := plb.filter (fun p => p.pd ≠ pd)
  shrink rest.length (rest ++ [e])
where
  /-- Domains dropped, oldest first, until the segments fit. -/
  shrink (fuel : Nat) (l : List PlbDomain) : List PlbDomain :=
    match fuel with
    | 0 => l
    | n + 1 => if ((l.map (fun p => p.segs.length)).foldl (· + ·) 0) ≤ 32 then l else shrink n (l.drop 1)

/-- PLB_FILL: the walker reads the domain's list and fills the core's PLB (R196). -/
def plbFill (core pd : Nat) : Acc (List Seg) := do
  modify (fun s => s.modCore core (fun c => c.setCtl 0x102 (setBits (c.ctl 0x102) 63 32 (bits (c.ctl 0x102) 63 32 + 1))))
  let segs ← readSegs core pd
  modify (fun s => s.modCore core (fun c => { c with plb := plbWith c.plb pd segs }))
  return segs

/-- The segment that decides an address's rights in a domain: the first that covers it (R195), from the PLB where it
knows every earlier one, otherwise after a fill (R196). -/
def segAt (core pd ea : Nat) : Acc (Option Seg) := do
  match ((← get).core core).plb.find? (fun p => p.pd = pd) with
  | some p =>
    match p.segs.find? (·.covers ea) with
    | some g => return some g
    | none => if p.complete then return none else return (← plbFill core pd).find? (·.covers ea)
  | none => return (← plbFill core pd).find? (·.covers ea)

/-- The rights of an access (R196). -/
def checkRights (w : Who) (ea : Nat) (n : Need) : Acc Unit := do
  match n.lacking (← segAt w.core w.pd ea) with
  | some d => throw (.perm d)
  | none => return ()

/-! ### The walk (R190 to R193) -/

/-- An entry read at a level is malformed (R192). -/
def pteBad (lo hi : Word) (level va : Nat) : Bool :=
  let leaf := bit lo 1
  let c := bit lo 4
  bits hi 63 8 != 0 || bits lo 11 9 != 0 || (leaf && level ≥ 3) || (!leaf && level = 0)
    || (!leaf && (bits lo 8 2 != 0 || bits lo 63 52 != 0 || bits hi 7 0 != 0 || bit lo 12))
    || (leaf && bits lo 63 52 = 0)
    || (leaf && level = 1 && bits lo 20 12 != 0) || (leaf && level = 2 && bits lo 29 12 != 0)
    || (leaf && c && (level = 2 || (level = 0 && bits lo 15 12 != va / 4096 % 16)
        || (level = 1 && bits lo 24 21 != va / 2 ^ 21 % 16)))

/-- Log2 of the page size of a leaf at a level. -/
def pageBits (level : Nat) : Nat := 12 + 9 * level

/-- A walk below a node, entries read as one atom each at the home slice (R192, R193). -/
def walkFrom (p : Partition) (va node level : Nat) : Acc WalkEnd := do
  let pa := node + 16 * (va / 2 ^ (12 + 9 * level) % (if level = 4 then 256 else 512))
  let bs ← homeRead pa 16 0
  let lo := word (leField bs 0 8)
  let hi := word (leField bs 8 8)
  if !bit lo 0 then return .fault 1 level
  else if pteBad lo hi level va then return .fault 2 level
  else if bit lo 1 then
    let frame := bits lo 51 12 * 4096
    if isHostPa frame && bits hi 7 0 != 0 then return .fault 2 level
    else if !p.owns frame (2 ^ pageBits level) (bit lo 6) then return .fault 3 level
    else return .leaf lo hi pa level
  else
    match level with
    | 0 => return .fault 2 0
    | l + 1 => walkFrom p va (bits lo 51 12 * 4096) l

/-- The walk of a core for an address of the translated space. -/
def walk (core va : Nat) : Acc WalkEnd := do
  let s ← get
  walkFrom (s.partitionOf core) va ((s.core core).ctl 0x100).toNat 4

/-! ### The TLB, its bits and the victim queue (R184, R194, R197, R203) -/

/-- The bits of an entry that hardware sets. -/
abbrev pteA : Nat := 2
abbrev pteD : Nat := 3
abbrev pteP : Nat := 5
abbrev pteUO : Nat := 7
abbrev pteGT : Nat := 8

/-- The size of the page of the leaf that filled an entry: of a contiguous run it is one of sixteen (R191). -/
def TlbEntry.leafBits (e : TlbEntry) : Nat := if e.lsize = 16 ∨ e.lsize = 25 then e.lsize - 4 else e.lsize

/-- A leaf still is valid with the same frame (R194). -/
def State.leafStands (s : State) (pa frame : Nat) : Bool :=
  let lo := s.homeWord pa
  bit lo 0 && bit lo 1 && decide (bits lo 51 12 * 4096 = frame)

/-- An atomic update of a leaf at its home slice (R194): the bits set and cleared, provided it still is valid with the
same frame.  Whether it was. -/
def State.pteUpdate (s : State) (pa frame : Nat) (on off : List Nat) : Bool × State :=
  let lo := s.homeWord pa
  if s.leafStands pa frame then
    let lo' := off.foldl (fun x n => setBit x n false) (on.foldl (fun x n => setBit x n true) lo)
    (true, if lo' = lo then s else s.homePut pa 0xFF lo' 0 64)
  else (false, s)

/-- The core that holds a partition's fault ring and victim queue (R202): its lowest stream core with ctl.fqcfg.en. -/
def State.holdingCore (s : State) (p : Partition) : Option Nat :=
  allCores.find? (fun c => p.mask.testBit (dieOfCore c) && isStreamCore c && bit ((s.core c).ctl 0x109) 7)

/-- A core is the holding core of its partition (R202). -/
def State.isHolding (s : State) (core : Nat) : Bool := s.holdingCore (s.partitionOf core) = some core

/-! ### Pending interrupts (04 R121, R202, 17 R437) -/

/-- The core holds its partition's fault ring with records in it: interrupt source 3 (07 R202). -/
def Core.fqPending (c : Core) : Bool := c.ctl 0x10A != c.ctl 0x10B

/-- ctl.ipend as a strand sees it: sources 3 and 6 follow their queues (07 R202, 17 R437); the other bits are those set
and not cleared (R121). -/
def State.ipend (s : State) (sid : Nat) : Word :=
  let c := s.core (coreOfSid sid)
  let k := slotOfSid sid
  let lvl3 := s.isHolding (coreOfSid sid) && c.fqPending && (c.route 3 = some k)
  let lvl6 := !s.svc.events.isEmpty && (c.route 6 = some k)
  (s.st sid).ctl cIpend ||| word (8 * b2n lvl3 + 64 * b2n lvl6)

/-- The interrupt a strand would take: the lowest enabled pending source, outside monitor mode with ie set (R121). -/
def State.interruptDue (s : State) (sid : Nat) : Option Nat :=
  let t := s.st sid
  let p := s.ipend sid &&& t.ctl cIenable
  if t.status.ie && t.status.mode != .monitor && p != 0 then firstBelow 64 (fun n => bit p n) else none

/-! ### The victim queue -/

/-- A page whose use-once bit was set enters the victim queue (R203).  DESIGN CHOICE (log 93): while no core of the partition holds the
queue the page is neither appended nor counted. -/
def State.victimAppend (s : State) (core va : Nat) : State :=
  match s.holdingCore (s.partitionOf core) with
  | none => s
  | some h =>
    let c := s.core h
    if c.vicq.length < 256 then s.setCore h { c with vicq := c.vicq ++ [va] }
    else s.setCore h (c.setCtl 0x10E (word (min (2 ^ 64 - 1) ((c.ctl 0x10E).toNat + 1))))

/-- A page leaves the victim queue (R203). -/
def State.victimRemove (s : State) (core va : Nat) : State :=
  match s.holdingCore (s.partitionOf core) with
  | none => s
  | some h => s.modCore h (fun c => { c with vicq := c.vicq.filter (· ≠ va) })

/-- A TLB entry translates an address. -/
def TlbEntry.covers (e : TlbEntry) (va : Nat) : Bool := decide (e.vbase ≤ va ∧ va < e.vbase + 2 ^ e.lsize)

/-- The entry a leaf is installed as: a contiguous run as one (R192). -/
def entryOf (lo hi : Word) (pa level va : Nat) : TlbEntry :=
  let lsize := pageBits level + (if bit lo 4 then 4 else 0)
  { vbase := va / 2 ^ lsize * 2 ^ lsize, lsize := lsize, frame := bits lo 51 12 * 4096 / 2 ^ lsize * 2 ^ lsize,
    rid := bits lo 63 52, key := bits hi 7 0, im := bit lo 6, pinned := bit lo 5, dirty := bit lo 3, uo := bit lo 7,
    gt := bit lo 8, leafPa := pa }

/-- The physical cell an entry gives an address. -/
def TlbEntry.paOf (e : TlbEntry) (p : Partition) (va : Nat) : Nat := p.cell (e.frame + (va - e.vbase)) e.im

/-- A core's TLB with an entry installed: at most 128, the oldest goes (log 13). -/
def tlbWith (l : List TlbEntry) (e : TlbEntry) : List TlbEntry :=
  let l := l.filter (fun x => x.vbase ≠ e.vbase || x.lsize ≠ e.lsize)
  (if l.length < 128 then l else l.drop 1) ++ [e]

/-- The page of the leaf an entry came from, and its frame: one of the 16 of a contiguous run (R192), otherwise all of it. -/
def TlbEntry.inRun (e : TlbEntry) : Nat := if e.lsize = 16 ∨ e.lsize = 25 then e.leafPa / 16 % 16 * 2 ^ (e.lsize - 4) else 0
def TlbEntry.page (e : TlbEntry) : Nat := e.vbase + e.inRun
def TlbEntry.leafFrame (e : TlbEntry) : Nat := e.frame + e.inRun

/-- A leaf may serve the accesses of a tenant: its key names no live slot of another's (12_sagger R334). -/
def State.keyServes (s : State) (tenant key : Nat) : Bool :=
  let k := tget {} s.svc.keys key
  key = 0 || !k.live || k.owner = tenant

/-- A TLB miss goes to the walker of the core's cluster, and is counted (R197, R204). -/
def State.askWalk (s : State) (w : Who) (va : Nat) : State :=
  let s := s.modCore w.core (fun c => c.setCtl 0x102 (setBits (c.ctl 0x102) 31 0 (bits (c.ctl 0x102) 31 0 + 1)))
  s.modCluster (clusterOfCore w.core) (fun cl =>
    { cl with walkQ := cl.walkQ ++ [{ sid := w.sid, core := w.core, page := va / 4096, stream := w.stream, res := none }] })

/-- The walker's outcome for an access is taken, or what it waits for withdrawn. -/
def Cluster.dropWalks (cl : Cluster) (p : WalkReq → Bool) : Cluster := { cl with walkQ := cl.walkQ.filter (fun q => !p q) }

/-- The walk that an access has joined. -/
def State.joined (s : State) (w : Who) (va : Nat) : Option WalkReq :=
  (s.cluster (clusterOfCore w.core)).walkQ.find? (fun q => q.sid = w.sid && q.core = w.core && q.page = va / 4096 && q.stream = w.stream)

/-- Requests at a cluster's walker are withdrawn, their outcomes with them. -/
def State.dropWalks (s : State) (cluster : Nat) (p : WalkReq → Bool) : State :=
  if (s.cluster cluster).walkQ.any p then s.modCluster cluster (fun cl => cl.dropWalks p) else s

/-- What a strand had asked of the walker is withdrawn; only what one of its streams had asked. -/
def State.leaveWalks (s : State) (sid : Nat) : State := s.dropWalks (clusterOfCore (coreOfSid sid)) (fun q => q.sid = sid)
def State.forgetWalks (s : State) (sid stream : Nat) : State :=
  s.dropWalks (clusterOfCore (coreOfSid sid)) (fun q => q.sid = sid && q.stream = stream)

/-- How an access marks its page (R184): not at all, use-once, or gather-touched. -/
inductive Mark where
  | no | useOnce | gather
deriving DecidableEq, Repr

/-- The bits an access needs set through an entry, and cleared. -/
def TlbEntry.wants (e : TlbEntry) (store : Bool) (m : Mark) : List Nat × List Nat :=
  let d := if store && !e.dirty then [pteD] else []
  match m with
  | .no => (d, [])
  | .useOnce => (if e.uo || e.gt then d else pteUO :: d, [])
  | .gather => if e.gt && !e.uo then (d, []) else (pteGT :: d, [pteUO])

/-- Updates of an entry's leaf for one access (R184, R194): the entry, or none when the leaf has changed and the entry
is discarded. -/
def touch (w : Who) (e : TlbEntry) (store : Bool) (m : Mark) : Acc (Option TlbEntry) := do
  let s ← get
  let (on, off) := e.wants store m
  if on.isEmpty && off.isEmpty then return some e
  else
    -- a page already gather-touched gains no use-once bit (R184)
    let lo := s.homeWord e.leafPa
    let on := if bit lo pteGT then on.filter (· ≠ pteUO) else on
    let (ok, s) := s.pteUpdate e.leafPa e.leafFrame on off
    if !ok then
      set (s.modCore w.core (fun c => { c with tlb := c.tlb.filter (· ≠ e) }))
      return none
    else
      let page := e.page
      let s := if on.contains pteUO && !bit lo pteUO && !bit lo pteP then s.victimAppend w.core page else s
      let s := if on.contains pteGT then s.victimRemove w.core page else s
      let e' := { e with
        dirty := e.dirty || on.contains pteD
        gt := e.gt || on.contains pteGT || (bit lo pteGT && m = .useOnce)
        uo := (e.uo || on.contains pteUO) && !off.contains pteUO }
      set (s.modCore w.core (fun c => { c with tlb := c.tlb.map (fun x => if x = e then e' else x) }))
      return some e'

/-- The walker's leaf for a joined access: it uses it, whatever the TLB holds by now; PERM where the key is another tenant's
(12_sagger R334). -/
def useLeaf (w : Who) (va : Nat) (lo hi : Word) (pa level : Nat) : Acc TlbEntry := do
  let e := entryOf lo hi pa level va
  if (← get).keyServes w.tenant e.key then return e else throw (.perm 5)

/-- The entry of an access that misses the TLB: it joins a walk and waits for its end, and then has its outcome (R197). -/
def walked (w : Who) (va : Nat) : Acc TlbEntry := do
  match (← get).joined w va with
  | none =>
    modify (fun s => s.askWalk w va)
    throw .walker
  | some q =>
    match q.res with
    | none => throw .walker
    | some r =>
      modify (fun s => s.modCluster (clusterOfCore w.core) (fun cl => cl.dropWalks (· = q)))
      match r with
      | .ecc => throw .ecc
      | .poison => throw .poison
      | .ended (.fault t l) => throw (.page t l q.walk)
      | .ended (.leaf lo hi pa level) => useLeaf w va lo hi pa level

/-- The entry that translates an access: the outcome of the walk it has joined, otherwise from the TLB, otherwise by a walk (R197);
its bits as R194 and R184 have them.  A leaf that has changed is translated again. -/
def translate (w : Who) (va : Nat) (store : Bool) (m : Mark) : Acc TlbEntry := do
  let again : Acc TlbEntry := do
    let e ← walked w va
    match ← touch w e store m with
    | some e => return e
    | none =>
      modify (fun s => s.askWalk w va)
      throw .walker
  let s ← get
  if (match s.joined w va with | some q => q.res.isSome | none => false) then again
  else
    match (s.core w.core).tlb.find? (·.covers va) with
    | some e =>
      match ← touch w e store m with
      | some e => return e
      | none => again
    | none => again

/-- The marks of an access can be set through an entry (R184, R194): none is wanted, or its leaf has not changed; otherwise the entry is
discarded and the access is translated again. -/
def canMark (w : Who) (va : Nat) (e : TlbEntry) (m : Mark) : Acc Unit := do
  let s ← get
  if e.wants false m = ([], []) ∨ s.leafStands e.leafPa e.leafFrame then return ()
  else
    set ((s.modCore w.core (fun c => { c with tlb := c.tlb.filter (· ≠ e) })).askWalk w va)
    throw .walker

/-- An access that has not faulted marks its page (R184). -/
def markPage (w : Who) (e : TlbEntry) (m : Mark) : Acc Unit := do
  let _ ← touch w e false m

/-! ### Drops (R200, R202) -/

/-- The record of a page fault, of the walk that met it: R200. -/
def State.faultRec (s : State) (sid va type kind level progress walk : Nat) : FaultRec :=
  { va := word va, sid := sid, tenant := (s.st sid).tenant, type := type, kind := kind, level := level,
    progress := progress, time := word s.time, walk := walk }

/-- The strand enters DROPPED, its lanes return, and its record waits in a walker slot until the ring takes it. -/
def State.dropStrand (s : State) (rec : FaultRec) : State :=
  let s := s.leaveWalks rec.sid
  let s := s.modSt rec.sid (fun t => { t.dropReplay with st := .dropped, wait := .none, dbgHalted := t.dbgHalted })
  let s := s.settleLanes rec.sid
  s.modCluster (clusterOfCore (coreOfSid rec.sid)) (fun cl => { cl with recWait := cl.recWait ++ [rec] })

/-- The 32 bytes of a record. -/
def FaultRec.bytes (r : FaultRec) (pkg : Nat) : List Byte :=
  leBytes 8 r.va.toNat ++ leBytes 4 (pkg % 1024 * 8192 + r.sid) ++ leBytes 2 r.tenant ++ leBytes 1 r.type ++ leBytes 1 r.kind
    ++ leBytes 1 r.level ++ leBytes 3 0 ++ leBytes 4 r.progress ++ leBytes 8 r.time.toNat

/-- A failed access of the current scalar instruction ends it: a trap with its address, a drop with its record, or a
turn forfeited (R71, R118, R200, R210). -/
def failed {α : Type} (e : AccErr) (ea : Word) (kind : Nat) : Act α := do
  match e with
  | .misalign => trap 0 xMisalign ea
  | .perm d => trap d xPerm ea
  | .ecc => trap 0 xEccfail ea
  | .poison => trap 0 xPoison ea
  | .other d c v => trap d c (v.getD ea)
  | .retry => forfeit
  | .walker => stall
  | .page t l k =>
    -- an older vector entry's fault comes first (R34)
    waitUntil drained
    change (fun s => s.dropStrand (s.faultRec s.curSid ea.toNat t kind l 0 k))
    endHere

/-- An access of the current scalar instruction, charged to its strand.  While older vector entries are in the queue one that fails
leaves no trace, so that the outcome of a walk it has joined is still there once they have completed (R34, R200). -/
def access {α : Type} (a : Who → Acc α) (ea : Word) (kind : Nat) : Act α := do
  let s ← get
  match a (s.who s.curSid) s with
  | .ok x s' => set s'; return x
  | .error e s' =>
    if e.final && !drained s then stall
    else
      set s'
      failed e ea kind

end Sys2Proof.Machine
end

