-- ==== Sys2Proof/Machine/Access.lean ====
section
/-! DEFINITION. Accesses: the L1 and the cluster cache (11_home R300 to R303), the windows of a core (01 R22), reading and
writing memory under the checks of R71, and release, acquire and the fences over the caches (R305, R306, R311, R312). -/

namespace Sys2Proof.Machine

/-! ### Lines of the caches (01_engines R28) -/

/-- The lines an L1 holds, 64 KiB, and a cluster cache, 4 MiB. -/
abbrev l1Lines : Nat := 1024
abbrev ccLines : Nat := 65536

/-- The lines of which a table of words by word address lists any, in order. -/
def linesOf {α : Type} (t : Table α) : List Nat :=
  t.foldr (fun e l => match l with | x :: _ => if x = e.1 / 8 then l else e.1 / 8 :: l | [] => [e.1 / 8]) []

/-- Words of a cache that hold nothing any more are forgotten. -/
def l1Live (l1 : Table L1Word) : Table L1Word := l1.filter (fun e => e.2.valid || e.2.dirty != 0)

/-- The tenant that holds a core: that of its message strand (04_strand R135). -/
def State.tenantOf (s : State) (core : Nat) : Nat := ((s.core core).strand 4).tenant

/-- Words of a virtual line range leave a core's L1. -/
def State.dropL1 (s : State) (core : Nat) (p : Nat → L1Word → Bool) : State :=
  s.modCore core (fun c => { c with l1 := c.l1.filter (fun e => !p (e.1 * 8) e.2) })

/-- Dirty words of a cluster's cache that satisfy a test are registered at their home slices, each with its writer as
owner (R302, R306, R311), on behalf of a core's release where one is named.  A word that waits behind a reservation stays dirty
until it is performed. -/
def State.registerCcWords (s : State) (cl : Nat) (via : Option Nat) (p : Nat → CcWord → Bool) : State :=
  let ws := (s.cluster cl).cc.filter (fun e => e.2.dirty != 0 && p (e.1 * 8) e.2)
  let s := match ws with
    | [] => s
    | e :: _ => s.clearCovered (ws.map (fun e => (e.1 * 8, e.2.dirty))) e.2.key (s.tenantOf e.2.writer)
  ws.foldl (fun s e =>
    let s := if s.mustWait (e.1 * 8) (some e.2.writer) then s
      else s.modCluster cl (fun c => { c with cc := tput c.cc e.1 { e.2 with dirty := 0 } })
    s.arriveHome (e.1 * 8) e.2.dirty e.2.data (some e.2.writer) e.2.key (s.tenantOf e.2.writer) none .reg via) s

/-- A line leaves a cluster cache: its dirty words are registered at their homes, each with its writer (R302, R305); one that waits
there stays until it has been performed. -/
def State.evictCc (s : State) (cl line : Nat) : State :=
  (s.registerCcWords cl none (fun a _ => a / 64 = line)).modCluster cl (fun c =>
    { c with cc := c.cc.filter (fun e => e.1 / 8 ≠ line || e.2.dirty != 0) })

/-- A line that enters a full cache makes some other go; which, the spec does not say (log 14). -/
def State.roomFor (s : State) (held : List Nat) (line cap : Nat) (evict : State → Nat → State) : State :=
  if held.contains line || decide (held.length < cap) then s
  else
    let (x, s) := s.draw
    evict s (lget 0 held (x.toNat % held.length))

/-- A word is put into a cluster's cache. -/
def State.ccPut (s : State) (cl pa : Nat) (w : CcWord) : State :=
  let s := s.roomFor (linesOf (s.cluster cl).cc) (pa / 64) ccLines (fun s l => s.evictCc cl l)
  s.modCluster cl (fun c => { c with cc := tput c.cc (pa / 8) w })

/-- The L1's dirty bytes of one word move to the cluster cache, as an eviction moves them (R302). -/
def State.evictDirty (s : State) (core : Nat) (e : L1Word) : State :=
  if e.dirty = 0 then s
  else
    let cl := clusterOfCore core
    let w : CcWord := tget { rid := e.rid, key := e.key, valid := false, dirty := 0, writer := core, cowner := none, data := 0 }
      (s.cluster cl).cc (e.pa / 8)
    s.ccPut cl e.pa
      { w with data := maskMerge w.data e.data e.dirty, dirty := w.dirty ||| e.dirty, writer := core, rid := e.rid, key := e.key,
               valid := w.valid || (w.dirty ||| e.dirty) = 0xFF }

/-- A line leaves a core's L1: its dirty bytes move to the cluster cache (R302). -/
def State.evictL1 (s : State) (core line : Nat) : State :=
  let ws := (s.core core).l1.filter (fun e => e.1 / 8 = line)
  (ws.foldl (fun s e => s.evictDirty core e.2) s).dropL1 core (fun va _ => va / 64 = line)

/-- A word is put into a core's L1, under its virtual address. -/
def State.l1Put (s : State) (core va : Nat) (w : L1Word) : State :=
  let s := s.roomFor (linesOf (s.core core).l1) (va / 64) l1Lines (fun s l => s.evictL1 core l)
  s.modCore core (fun c => { c with l1 := tput c.l1 (va / 8) w })

/-! ### Words of translated memory in the caches -/

/-- The L1 entry of a virtual word, where it names the given physical word; one that names another leaves (R302). -/
def State.l1Entry (s : State) (core va pa : Nat) : Option L1Word × State :=
  match tfind (s.core core).l1 (va / 8) with
  | some e =>
    if e.pa = pa then (some e, s)
    else (none, (s.evictDirty core e).modCore core (fun c => { c with l1 := tdel c.l1 (va / 8) }))
  | none => (none, s)

/-- The cluster cache's word, filled from the home slice where it is not valid (R301), in a slot of the tenant's (R319, 12_sagger
R331). -/
def ccWord (core tenant pa rid key : Nat) : Acc Word := do
  let cl := clusterOfCore core
  match tfind ((← get).cluster cl).cc (pa / 8) with
  | some x =>
    if x.valid then return x.data
    else
      slotGate (some tenant) pa
      let v := leWord (← homeRead pa 8 key)
      let d := maskMerge v x.data x.dirty
      modify (fun s => s.ccPut cl pa { x with data := d, valid := true, rid := rid, key := key })
      return d
  | none =>
    slotGate (some tenant) pa
    let v := leWord (← homeRead pa 8 key)
    modify (fun s => s.ccPut cl pa { rid := rid, key := key, valid := true, dirty := 0, writer := 0, cowner := none, data := v })
    return v

/-- A word of the L1 filled, through a translation, from the cluster cache or the home slice; its dirty bytes stay (R301). -/
def fillWord (w : Who) (va : Nat) (t : TlbEntry) : Acc L1Word := do
  let s ← get
  let pa := t.paOf (s.partitionOf w.core) va
  let (e, s) := s.l1Entry w.core va pa
  set s
  let v ← ccWord w.core w.tenant pa t.rid t.key
  let n : L1Word := match e with
    | some x => { x with pa := pa, rid := t.rid, key := t.key, valid := true, own := false, data := maskMerge v x.data x.dirty }
    | none => { pa := pa, rid := t.rid, key := t.key, valid := true, own := false, dirty := 0, data := v }
  modify (fun s => s.l1Put w.core va n)
  return n

/-- A load's word of translated memory: the bytes in `need` from the first source of R301 that holds them; a held word
from its copy (10_sync R282).  A load that faults marks nothing (06_vmem R184). -/
def loadWord (w : Who) (va : Nat) (need : BitVec 8) (m : Mark) : Acc Word := do
  let s ← get
  match tfind (s.core w.core).l1 (va / 8) with
  | some e =>
    if e.valid || (need &&& ~~~e.dirty) = 0 then
      match s.heldBy w.core e.pa with
      | some r => return r.value
      | none => return e.data
    else miss
  | none => miss
where
  /-- The miss path: translation, then the cluster cache and the home slice. -/
  miss : Acc Word := do
    let t ← translate w va false .no
    let s ← get
    let pa := t.paOf (s.partitionOf w.core) va
    match s.heldBy w.core pa with
    | some r =>
      canMark w va t m
      markPage w t m
      return r.value
    | none =>
      canMark w va t m
      let n ← fillWord w va t
      markPage w t m
      return n.data

/-- The line of the L1 that holds a virtual address, as the word at that address would stand in it: a store to it needs no walk
(07_translation R197). -/
def State.l1Line (s : State) (core va : Nat) : Option L1Word :=
  match (s.core core).l1.find? (fun e => e.1 / 8 = va / 64) with
  | some e =>
    some ((tfind (s.core core).l1 (va / 8)).getD
      { e.2 with pa := e.2.pa / 64 * 64 + va % 64 / 8 * 8, valid := false, own := false, dirty := 0, data := 0, seq := [] })
  | none => none

/-- A word of the L1 after a store of bytes of it, the `n`-th the L1 accepts (R312). -/
def L1Word.store (x : L1Word) (mask : BitVec 8) (data : Word) (n : Nat) : L1Word :=
  { x with
    data := maskMerge x.data data mask
    dirty := x.dirty ||| mask
    seq := (List.range 8).map (fun i => if mask.getLsbD i then n else lget 0 x.seq i) }

/-- The page that a store to a word of translated memory needs, its bits set; none where the L1 holds the line (07_translation R197). -/
def storePage (w : Who) (va : Nat) (m : Mark) : Acc (Option TlbEntry) := do
  let s ← get
  match s.l1Line w.core va, (s.core w.core).tlb.find? (·.covers va) with
  | some _, none => return none
  | some _, some e =>
    match ← touch w e true m with
    | some _ => return none
    | none => return some (← translate w va true m)
  | none, _ => return some (← translate w va true m)

/-- A store's bytes of a word of translated memory: into the L1, dirty, the line allocated without a fetch (R301); a held
word's copy takes them instead (10_sync R282).  A line the L1 holds needs no walk (07_translation R197); a TLB entry that covers
it has its bits set all the same (R184, R194, log 84). -/
def storeWord (w : Who) (va : Nat) (mask : BitVec 8) (data : Word) (m : Mark) : Acc Unit := do
  let page ← storePage w va m
  match page, (← get).l1Line w.core va with
  | none, some x => put x
  | none, none => walkedStore (← translate w va true m)
  | some t, _ => walkedStore t
where
  /-- The bytes go into a word of the L1, or into the held copy. -/
  put (x : L1Word) : Acc Unit := do
    let s ← get
    match s.heldBy w.core x.pa with
    | some r => set (s.writeHeld x.pa r mask data)
    | none =>
      let n := (s.core w.core).stores + 1
      set ((s.modCore w.core (fun c => { c with stores := n })).l1Put w.core va (x.store mask data n))
  /-- The store of an address whose line the L1 does not hold. -/
  walkedStore (t : TlbEntry) : Acc Unit := do
    let s ← get
    let pa := t.paOf (s.partitionOf w.core) va
    let (e, s) := s.l1Entry w.core va pa
    set s
    put (e.getD { pa := pa, rid := t.rid, key := t.key, valid := false, own := false, dirty := 0, data := 0 })

/-! ### The windows of a core (R22) -/

/-- The 32 bytes of an accumulator header (08_matrix R208). -/
def AccHdr.bytes (h : AccHdr) : List Byte :=
  leBytes 8 (h.efmt.toNat + 2 ^ 8 * b2n h.lock + 2 ^ 16 * h.rows.toNat + 2 ^ 24 * h.cols.toNat + 2 ^ 40 * h.rslay.toNat
      + 2 ^ 44 * h.rsfmt.toNat + 2 ^ 48 * h.cslay.toNat + 2 ^ 52 * h.csfmt.toNat)
    ++ leBytes 7 h.rbase.toNat ++ leBytes 7 h.cbase.toNat ++ leBytes 2 h.arow.toNat ++ leBytes 2 h.bcol.toNat
    ++ leBytes 2 h.progress.toNat ++ leBytes 2 h.consumed.toNat ++ leBytes 2 0

/-- The header of an accumulator. -/
def Core.accHeader (c : Core) (n : Nat) : AccHdr := tget {} c.accHdr n

/-- Where a command stands in the orders of 09_copy R240: it may move. -/
def Core.copyTurn (c : Core) (k : CopyCmd) : Bool :=
  !c.copies.any (fun e => decide (e.2.id < k.id) && decide (1024 * e.2.done < e.2.extent) &&
    ((k.kind = 3 && e.2.kind = 3 && e.2.rs = k.rs)
      || (match k.conv, e.2.conv with | some (_, _, b), some (_, _, b') => b = b' | _, _ => false)))

/-- The state a copy command shows (09_copy R265): one that waits for its turn or its bank, for a slot, or moves; then paused, or with
its follow-on to come. -/
def State.copyCode (s : State) (core : Nat) (k : CopyCmd) : Nat :=
  let busy := match tfind (s.core core).rows k.rs with
    | some { bank := some b, .. } => k.kind = 3 && s.bankBusy (some (s.tenantOf core)) b
    | _ => false
  match k.state with
  | .waiting => 1
  | .moving => if (s.core core).copyTurn k && !busy then 2 else 1
  | .paused => 3
  | .followOn => 4

/-- The 64 bytes of an entry of the copy-engine status block (R265), and its state's code. -/
def copyBytes (code : CopyCmd → Nat) (e : Option CopyCmd) : List Byte :=
  match e with
  | none => List.replicate 64 0
  | some k =>
    (leBytes 8 k.src.toNat ++ leBytes 8 k.dst.toNat ++ leBytes 4 k.extent ++ leBytes 1 k.kind ++ leBytes 1 (code k)
      ++ leBytes 1 k.slot ++ leBytes 1 k.kc ++ leBytes 2 k.done ++ leBytes 1 k.scope
      ++ leBytes 1 (128 * b2n k.cbv + k.cb) ++ leBytes 1 k.rs ++ List.replicate 35 0)

/-- The 64 bytes of a circular-buffer descriptor (R259). -/
def CbDesc.bytes (d : CbDesc) : List Byte :=
  leBytes 8 d.base.toNat
    ++ leBytes 8 (d.ssize + 2 ^ 16 * d.nslots + 2 ^ 23 * b2n d.valid + 2 ^ 24 * d.scope + 2 ^ 32 * d.free + 2 ^ 40 * d.filled
      + 2 ^ 48 * d.phead + 2 ^ 56 * d.chead)
    ++ leBytes 4 d.pstall.toNat ++ leBytes 4 d.cstall.toNat ++ leBytes 1 d.maxocc ++ List.replicate 39 0

/-- A barrier register as the alias shows it (10_sync R287). -/
def Barrier.toWord (b : Barrier) : Word :=
  word (b.expected.toNat + 2 ^ 16 * b.arrived.toNat + 2 ^ 32 * b.gen.toNat + 2 ^ 56 * b.waiters.length + 2 ^ 63 * b2n b.valid)

/-- Barrier register `n` of a cluster. -/
def Cluster.bar (c : Cluster) (n : Nat) : Barrier := tget {} c.bars n

/-- Bytes of the accumulator aperture. -/
def Core.accBytes (c : Core) (off n : Nat) : List Byte :=
  let row : BitVec 2048 := tget 0 c.acc (off / 256)
  leBytes n (row.toNat / 2 ^ (8 * (off % 256)))

/-- A core whose bytes of the aperture are set, within one row. -/
def Core.setAccBytes (c : Core) (off : Nat) (bs : List Byte) : Core :=
  let row : BitVec 2048 := tget 0 c.acc (off / 256)
  let old := leBytes 256 row.toNat
  { c with acc := tput c.acc (off / 256) (BitVec.ofNat 2048 (leNat (patch old (off % 256) bs))) }

/-- The mask of `n` bytes of a word from a byte address. -/
def byteMask (a n : Nat) : BitVec 8 := BitVec.ofNat 8 ((2 ^ n - 1) * 2 ^ (a % 8))

/-- `n` bytes at an offset of a window of like objects, each of `size` bytes. -/
def windowBytes (size : Nat) (obj : Nat → List Byte) (off n : Nat) : List Byte :=
  (((List.range (ceilDiv (off % size + n) size)).flatMap (fun i => obj (off / size + i))).drop (off % size)).take n

/-- Bytes of a scratchpad meet an uncorrectable error of its SRAM (02_words R71). -/
def State.padFlawed (s : State) (ga n : Nat) : Bool := s.flawed.any (fun a => decide (ga < a + 8 ∧ a < ga + n))

/-- Words of a scratchpad written whole are sound again. -/
def State.padMend (s : State) (ga n : Nat) : State :=
  { s with flawed := s.flawed.filter (fun a => !decide (ga ≤ a ∧ a + 8 ≤ ga + n)) }

/-- `n` bytes at a place, after the checks of rights. -/
def loadBytes (w : Who) (p : Place) (ea n : Nat) (m : Mark) : Acc (List Byte) := do
  match p with
  | .translated =>
    if n ≤ 8 then
      let v ← loadWord w (ea / 8 * 8) (byteMask ea n) m
      return leBytes n (v.toNat / 2 ^ (8 * (ea % 8)))
    else
      let ws ← (List.range (n / 8)).mapM (fun i => loadWord w (ea + 8 * i) 0xFF m)
      return ws.flatMap (fun v => leBytes 8 v.toNat)
  | .pad ga =>
    let s ← get
    if s.padFlawed ga n then throw .ecc else return mread s.mem ga n
  | .acc c off =>
    let k := (← get).core c
    if (k.accHeader (off / 0x4000)).lock then throw .retry else return k.accBytes off n
  | .accHdr c off =>
    let k := (← get).core c
    return windowBytes 32 (fun i => (k.accHeader i).bytes) off n
  | .copyStatus c off =>
    let s ← get
    return windowBytes 64 (fun i => copyBytes (s.copyCode c) (if i < 16 then tfind (s.core c).copies i else none)) off n
  | .cbDesc c off =>
    let k := (← get).core c
    return windowBytes 64 (fun i => (tget {} k.cbs i).bytes) off n
  | .barrier cl off =>
    let k := (← get).cluster cl
    return windowBytes 8 (fun i => leBytes 8 (k.bar i).toWord.toNat) off n

/-- A supervisor store to a barrier's alias (10_sync R292). -/
def storeBarrier (cl off : Nat) (bs : List Byte) : Acc Unit := do
  let b := ((← get).cluster cl).bar (off / 8)
  let x := leWord (patch (leBytes 8 b.toWord.toNat) (off % 8) bs)
  if !b.waiters.isEmpty then throw (.other 0 xBarbusy none)
  else if bit x 63 && (bits x 15 0 = 0 || decide (bits x 15 0 ≤ bits x 31 16)) then throw (.other 2 xSyncarg (some x))
  else
    let b' : Barrier :=
      { valid := bit x 63, gen := BitVec.ofNat 16 (bits x 47 32), arrived := BitVec.ofNat 16 (bits x 31 16),
        expected := BitVec.ofNat 16 (bits x 15 0), waiters := [] }
    modify (fun s => s.modCluster cl (fun c => { c with bars := tput c.bars (off / 8) b' }))

/-- A store to the barriers' alias as wide as several registers changes them all, or none. -/
def storeBarriers (cl off : Nat) (bs : List Byte) : Acc Unit := fun s =>
  match (List.range (ceilDiv bs.length 8)).forM (fun i => storeBarrier cl (off + 8 * i) ((bs.drop (8 * i)).take 8)) s with
  | .error e _ => .error e s
  | r => r

/-- Bytes stored at a place, after the checks of rights. -/
def storeBytes (w : Who) (p : Place) (ea : Nat) (bs : List Byte) (m : Mark) : Acc Unit := do
  match p with
  | .translated =>
    if bs.length ≤ 8 then
      storeWord w (ea / 8 * 8) (byteMask ea bs.length) (word (leNat bs * 2 ^ (8 * (ea % 8)))) m
    else
      (List.range (bs.length / 8)).forM (fun i => storeWord w (ea + 8 * i) 0xFF (word (leField bs (8 * i) 8)) m)
  | .pad ga => modify (fun s => { s.padMend ga bs.length with mem := mwrite s.mem ga bs })
  | .acc c off =>
    if (((← get).core c).accHeader (off / 0x4000)).lock then throw .retry
    else modify (fun s => s.modCore c (fun k => k.setAccBytes off bs))
  | .accHdr _ _ => throw (.perm 1)
  | .copyStatus _ _ => throw (.perm 1)
  | .cbDesc _ _ => throw (.perm 1)
  | .barrier cl off => storeBarriers cl off bs

/-! ### Reading and writing memory (02_words R71) -/

/-- The core whose attachments a place belongs to; none for translated memory and a die scratchpad. -/
def Place.coreOf (p : Place) : Option Nat :=
  match p with
  | .translated => none
  | .pad ga => if ga / 2 ^ 28 % 16 = 15 then none else some (ga / 2 ^ 28 % 1024)
  | .acc c _ => some c
  | .accHdr c _ => some c
  | .copyStatus c _ => some c
  | .cbDesc c _ => some c
  | .barrier cl _ => some (cl * 16)

/-- The membership check of the core group (13_fabric R347, R348): an access to a core of another cluster is refused unless the strand's
tenant holds that cluster, one to another core of its own cluster where another tenant holds it.  DEDUCED (log 96): where no tenant is
set, and in the memory group, R348 lets no check fail but for a core or memory outside the tenant or the partition; `placeOf` and the
walk keep to the partition. -/
def State.admits (s : State) (w : Who) (p : Place) : Bool :=
  match p.coreOf with
  | none => true
  | some c =>
    match s.clusterTenant (clusterOfCore c) with
    | some t => t = w.tenant || c = w.core
    | none => clusterOfCore c = clusterOfCore w.core

/-! ### Units and routers (R339)

A core is named by its identity; the other units by numbers above. -/

/-- A cluster cache, a die-scratchpad bank, a home slice, an I/O die (0 for I0, 1 for I1), an HBM4 pseudo-channel with the Sagger
sets it uses. -/
def unitCc (cl : Nat) : Nat := 1024 + cl
def unitBank (die bank : Nat) : Nat := 2048 + die * 16 + bank
def unitSlice (die sl : Nat) : Nat := 4096 + die * 32 + sl
def unitIo (k : Nat) : Nat := 8192 + k
def unitChannel (die ch : Nat) : Nat := 16384 + die * 64 + ch

/-- The package coordinates of a die's routers: those of its corner. -/
def dieCorner (d : Nat) : Nat × Nat := (4 * (d % 4), 4 * (d / 4))

/-- The router a unit is attached to; I0 stands at x = 16 and I1 at x = 17. -/
def routerOf (u : Nat) : Nat × Nat :=
  if u < 1024 then
    let (x, y) := dieCorner (u / 128)
    let cl := u / 16 % 8
    (x + cl % 4, y + 2 * (cl / 4) + (if u % 16 < 5 then 0 else 1))
  else if u < 2048 then
    let (x, y) := dieCorner ((u - 1024) / 8)
    (x + u % 4, y + 2 * (u % 8 / 4))
  else if u < 4096 then
    let (x, y) := dieCorner ((u - 2048) / 16)
    let b := (u - 2048) % 16
    (x + b % 4, y + b / 4)
  else if u < 8192 then
    let (x, y) := dieCorner ((u - 4096) / 32)
    let k := (u - 4096) % 32 % 16
    (x + k % 4, y + k / 4)
  else if u < 16384 then (16 + (u - 8192), 0)
  else
    let (x, y) := dieCorner ((u - 16384) / 64)
    let k := (u - 16384) % 64 / 4
    (x + k % 4, y + k / 4)

/-- The mesh hop distance of two routers. -/
def hops (a b : Nat × Nat) : Nat := (if a.1 ≤ b.1 then b.1 - a.1 else a.1 - b.1) + (if a.2 ≤ b.2 then b.2 - a.2 else a.2 - b.2)

/-- The place one hop further on in dimension order: x first, then y (R342).  I/O dies join the ends of every row. -/
def nextHop (x y tx ty : Nat) : Nat × Nat :=
  if x = 16 then (0, y)
  else if x = 17 then (15, y)
  else if tx = 16 then (if x = 0 then (16, y) else (x - 1, y))
  else if tx = 17 then (if x = 15 then (17, y) else (x + 1, y))
  else if x < tx then (x + 1, y)
  else if tx < x then (x - 1, y)
  else if y < ty then (x, y + 1)
  else if ty < y then (x, y - 1)
  else (x, y)

/-- The cluster whose cores a router serves belongs to a tenant. -/
def State.routerOfTenant (s : State) (x y tenant : Nat) : Bool :=
  match tfind s.disp.tenants tenant with
  | some t => decide (t.x0 ≤ x ∧ x ≤ t.x1 ∧ t.y0 ≤ y / 2 ∧ y / 2 ≤ t.y1)
  | none => false

/-- A refusal is counted at its router (13_fabric R348). -/
def State.refuseAt (s : State) (r : Nat × Nat) : State :=
  { s with fabric := { s.fabric with refusals := tmod 0 s.fabric.refusals (r.2 * 16 + r.1) (· + 1) } }

/-- The router that refuses a tenant's packet to a unit: the first on its way that no next router of the tenant's follows. -/
def State.refuser (s : State) (tenant : Nat) (target : Nat × Nat) (fuel : Nat) (r : Nat × Nat) : Nat × Nat :=
  match fuel with
  | 0 => r
  | k + 1 =>
    let n := nextHop r.1 r.2 target.1 target.2
    if s.routerOfTenant r.1 r.2 tenant && s.routerOfTenant n.1 n.2 tenant then s.refuser tenant target k n else r

/-- A packet of the core group from a core to another is on its way: what follows it between the two does not overtake it (13_fabric
R346). -/
def State.coreTraffic (s : State) (src dst : Nat) : Bool :=
  s.fabric.packets.any (fun q => q.cls = .core && q.sender = src && (q.dsts = [dst] || q.named = dst))

/-- A refused access is counted and fails with PERM, detail 5; one to another core waits behind the packets its own core has sent
there. -/
def mayEnter (w : Who) (p : Place) : Acc Unit := do
  let s ← get
  if s.admits w p then
    match p.coreOf with
    | some c => if c ≠ w.core && s.coreTraffic w.core c then throw .walker else return ()
    | none => return ()
  else
    set (s.refuseAt (s.refuser w.tenant (routerOf (p.coreOf.getD 0)) 24 (routerOf w.core)))
    throw (.perm 5)

/-- Alignment, place, rights and membership of an access, in the order of R71 and R348. -/
def checkAccess (w : Who) (ea : Word) (n : Nat) (need : Need) : Acc Place := do
  if ea.toNat % n ≠ 0 then throw .misalign
  else
    let p ← placeAt w ea.toNat
    checkRights w ea.toNat need
    mayEnter w p
    return p

/-- read_mem: `n` bytes at an address, all checks made. -/
def readMem (w : Who) (ea : Word) (n : Nat) (m : Mark) : Acc (List Byte) := do
  let p ← checkAccess w ea n needR
  loadBytes w p ea.toNat n m

/-- write_mem. -/
def writeMem (w : Who) (ea : Word) (bs : List Byte) (m : Mark) : Acc Unit := do
  let p ← checkAccess w ea bs.length needW
  storeBytes w p ea.toNat bs m

/-- A window that loads only may address (R22). -/
def Place.readOnly (p : Place) : Bool :=
  match p with
  | .accHdr _ _ => true
  | .copyStatus _ _ => true
  | .cbDesc _ _ => true
  | _ => false

/-- The checks of a store, with nothing translated. -/
def checkStore (w : Who) (ea : Word) (n : Nat) : Acc Place := do
  let p ← checkAccess w ea n needW
  if p.readOnly then throw (.perm 1) else return p

/-- The pages a store needs are translated before any byte is written (08_matrix R230, 10_sync R296). -/
def probeStore (w : Who) (ea : Word) (n : Nat) : Acc Unit := do
  match ← checkStore w ea n with
  | .translated => discard (storePage w ea.toNat .no)
  | _ => return ()

/-- The cycles of a scalar load (04_strand R110): a hit of the L1, the core's own scratchpad or aperture, any other. -/
def State.loadCycles (s : State) (w : Who) (ea : Word) (n : Nat) : Nat :=
  match s.placeOf w ea.toNat with
  | some .translated =>
    match tfind (s.core w.core).l1 (ea.toNat / 8) with
    | some e => if e.valid || (byteMask ea.toNat n &&& ~~~e.dirty) = 0 then 4 else 1
    | none => 1
  | some (.pad ga) => if ga / 2 ^ 28 % 1024 = w.core then 6 else 1
  | some (.acc c _) => if c = w.core then 6 else 1
  | _ => 1

/-! ### Release and acquire (R306) -/

/-- Scope codes (02_words R55). -/
abbrev scC : Nat := 0
abbrev scD : Nat := 1
abbrev scP : Nat := 2
abbrev scS : Nat := 3

/-- A line's region is selected (R306). -/
def inRegion (rgn rid : Nat) : Bool := rgn = 0 || rid = rgn

/-- A dirty word of a core's L1 is registered at the cluster cache, where it becomes valid: the bytes it does not write come from the
home slice (R303). -/
def State.registerCc (s : State) (core : Nat) (e : L1Word) : State :=
  let cl := clusterOfCore core
  let w := tget { rid := e.rid, key := e.key, valid := false, dirty := 0, writer := core, cowner := none, data := 0 }
    (s.cluster cl).cc (e.pa / 8)
  let d := w.dirty ||| e.dirty
  let (w, s) : CcWord × State :=
    if w.valid || d = 0xFF then ({ w with valid := true }, s)
    else match homeRead e.pa 8 e.key s with
      | .ok bs s' => ({ w with data := maskMerge (leWord bs) w.data w.dirty, valid := true }, s')
      | .error _ s' => (w, s')
  let n := { w with data := maskMerge w.data e.data e.dirty, dirty := d, writer := core, cowner := some core,
                    rid := e.rid, key := e.key }
  let s := s.ccPut cl e.pa n
  let s := s.modCore core (fun c => c.setCtl 0x1C1 (c.ctl 0x1C1 + 1))
  match w.cowner with
  | some o => if o ≠ core then s.pushNotice o e.pa else s
  | none => s

/-- A word of the L1 once registered: it loses its dirty bytes and, if valid, is owned (R303). -/
def L1Word.registered (e : L1Word) : L1Word := { e with dirty := 0, own := e.own || e.valid }

/-- A dirty word of a core's L1 whose registration has to wait goes to the cluster cache over the older bytes there, as an eviction
moves it (R302), and is registered from there, so that its stores reach the home slice in their order. -/
def State.registerLater (s : State) (core va : Nat) (e : L1Word) : State :=
  ((s.evictDirty core e).modCore core (fun c => { c with l1 := tdel c.l1 (va / 8) })).registerCcWords (clusterOfCore core) (some core)
    (fun a _ => a = e.pa)

/-- The dirty words of a core's L1 that satisfy a test are registered at a scope and lose their dirty bytes (R303); one that waits
behind a reservation does so in the cluster cache until its registration is performed. -/
def State.registerL1 (s : State) (core scope : Nat) (p : Nat → L1Word → Bool) : State :=
  let ws := (s.core core).l1.filter (fun e => e.2.dirty != 0 && p (e.1 * 8) e.2)
  let s := match ws with
    | [] => s
    | e :: _ => if scope = scC then s else s.clearCovered (ws.map (fun e => (e.2.pa, e.2.dirty))) e.2.key (s.tenantOf core)
  ws.foldl (fun s e =>
    if scope != scC && s.mustWait e.2.pa (some core) then s.registerLater core (e.1 * 8) e.2
    else
      let s := if scope = scC then s.registerCc core e.2
        else s.arriveHome e.2.pa e.2.dirty e.2.data (some core) e.2.key (s.tenantOf core)
      s.modCore core (fun c => { c with l1 := tput c.l1 e.1 e.2.registered })) s

/-- Bytes that a core's registration has put into its held copy are clean in its cluster cache. -/
def State.settleCc (s : State) (core pa : Nat) (mask : BitVec 8) (data : Word) : State :=
  s.modCluster (clusterOfCore core) (fun cl => { cl with
    cc := cl.cc.map (fun (e : Nat × CcWord) =>
      (e.1, if e.1 = pa / 8 then { e.2 with dirty := e.2.dirty &&& ~~~(sameBytes mask e.2.data data) } else e.2)) })

/-- Words of a core of a selection that its cluster cache has dirty but the core does not own there: the core takes them, and the
previous owner is notified (R306). -/
def State.takeCowner (s : State) (core : Nat) (p : Nat → CcWord → Bool) : State :=
  let cl := clusterOfCore core
  let ws := (s.cluster cl).cc.filter (fun e =>
    e.2.dirty != 0 && e.2.writer = core && e.2.cowner != some core && p (e.1 * 8) e.2)
  ws.foldl (fun s e =>
    let s := s.modCluster cl (fun c => { c with cc := tput c.cc e.1 { e.2 with cowner := some core } })
    match e.2.cowner with | some o => s.pushNotice o (e.1 * 8) | none => s) s

/-- The registrations of rel(scope, region) (R306). -/
def State.release (s : State) (core scope rgn : Nat) : State :=
  let s := s.registerL1 core scope (fun _ e => inRegion rgn e.rid)
  if scope = scC then s.takeCowner core (fun _ w => inRegion rgn w.rid)
  else s.registerCcWords (clusterOfCore core) (some core) (fun _ w => w.writer = core && inRegion rgn w.rid)

/-- The registrations of FLUSHR beyond those of rel (R311). -/
def State.flushCc (s : State) (core scope rgn : Nat) : State :=
  if scope = scC then s else s.registerCcWords (clusterOfCore core) (some core) (fun _ w => inRegion rgn w.rid)

/-- Registrations that a core has made wait behind a reservation, or notices of its registrations are on their way: its release is not
complete (R303, 10_sync R282). -/
def State.releasePending (s : State) (core : Nat) : Bool :=
  s.pendRegs.any (fun p => p.act = .reg && (p.owner = some core || p.via = some core))
    || s.notices.any (fun n => n.cause = core || n.via = some core)

/-- One drain of the revocation queue (R306). -/
def Core.drainNotices (c : Core) : Core :=
  let hit := fun (e : L1Word) => c.rvq.contains e.pa
  let l1 := c.l1.map (fun e => (e.1, if hit e.2 then { e.2 with valid := false, own := false } else e.2))
  let l1 := if c.rvqOvf then l1.map (fun e => (e.1, { e.2 with own := false })) else l1
  { c with l1 := l1, rvq := [], rvqOvf := false }

/-- acq(scope, region) (R306), but for its waits.  A cluster-cache word that is no longer valid keeps the core that registered
it. -/
def State.acquire (s : State) (core scope rgn : Nat) : State :=
  let s := s.modCore core (fun c =>
    let c := c.drainNotices
    { c with l1 := l1Live (c.l1.map (fun e =>
        (e.1, if e.2.valid && inRegion rgn e.2.rid && !e.2.own && e.2.dirty = 0 then { e.2 with valid := false } else e.2))) })
  if scope = scC then s
  else s.modCluster (clusterOfCore core) (fun cl =>
    let cc := cl.cc.map (fun e => (e.1, if inRegion rgn e.2.rid && e.2.dirty = 0 then { e.2 with valid := false } else e.2))
    { cl with cc := cc.filter (fun e => e.2.valid || e.2.dirty != 0 || e.2.cowner.isSome) })

/-- The dirty bytes of an L1 word that no store through another tag of its address has followed (R312). -/
def Core.lastStored (c : Core) (key : Nat) (e : L1Word) : BitVec 8 :=
  BitVec.ofNat 8 (((List.range 8).map (fun i =>
    if e.dirty.getLsbD i
      && !(c.l1.any (fun f => f.1 ≠ key && f.2.pa = e.pa && f.2.dirty.getLsbD i && decide (lget 0 e.seq i < lget 0 f.2.seq i)))
    then 2 ^ i else 0)).foldl (· + ·) 0)

/-- FENCE.A over a core's L1 (R312). -/
def State.fenceAliases (s : State) (core : Nat) : State :=
  let k := s.core core
  let s := k.l1.foldl (fun s e => s.evictDirty core { e.2 with dirty := k.lastStored e.1 e.2 }) s
  s.modCore core (fun c =>
    let l1 := c.l1.map (fun e => (e.1, { e.2 with dirty := 0 }))
    -- tags of one physical line
    let many := fun (e : Nat × L1Word) =>
      l1.any (fun f => f.2.pa / 64 = e.2.pa / 64 && (f.1 * 8) / 64 != (e.1 * 8) / 64)
    { c with l1 := l1Live (l1.filter (fun e => !many e)) })

/-- The physical address of a virtual one as a TLB or a walk gives it, without marking or faulting. -/
def State.peekPa (s : State) (core va : Nat) : Option (Nat × TlbEntry) :=
  let p := s.partitionOf core
  match (s.core core).tlb.find? (·.covers va) with
  | some e => some (e.paOf p va, e)
  | none =>
    match walk core va s with
    | .ok (.leaf lo hi pa l) _ => let e := entryOf lo hi pa l va; some (e.paOf p va, e)
    | _ => none

/-- The lines of a virtual range leave a core's L1 and its cluster cache; in each of the two a line with dirty words of the core stays
(06_vmem R179, 09_copy R261). -/
def State.invalidateRange (s : State) (core base n : Nat) : State :=
  if n = 0 ∨ padBase ≤ base then s
  else
    let lines := (List.range ((base + n - 1) / 64 - base / 64 + 1)).map (fun i => base / 64 + i)
    let mine := (s.core core).l1
    let cc := (s.cluster (clusterOfCore core)).cc
    let clean := lines.filter (fun l => !mine.any (fun e => e.1 / 8 = l && e.2.dirty != 0))
    let pas := lines.filterMap (fun l => (s.peekPa core (l * 64)).map (fun x => x.1 / 64))
    let pas := pas.filter (fun p => !cc.any (fun e => e.1 / 8 = p && e.2.dirty != 0 && e.2.writer = core))
    let s := s.dropL1 core (fun va _ => clean.contains (va / 64))
    s.modCluster (clusterOfCore core) (fun cl =>
      { cl with cc := (cl.cc.filter (fun e => !(pas.contains (e.1 / 8) && e.2.dirty = 0))).map (fun e =>
          (e.1, if pas.contains (e.1 / 8) then { e.2 with valid := false } else e.2)) })

/-! ### Full/empty bits (10_sync R271) -/

/-- A scratchpad word is full. -/
def State.isFull (s : State) (ga : Nat) : Bool := s.full.contains ga

/-- A scratchpad word's bit set. -/
def State.setFull (s : State) (ga : Nat) (b : Bool) : State :=
  { s with full := if b then (if s.full.contains ga then s.full else ga :: s.full) else s.full.filter (· ≠ ga) }

end Sys2Proof.Machine
end

