-- ==== Sys2Proof/Machine/Float.lean ====
section
/-! DEFINITION. Number formats, exact values and rounding (03_numbers R72 to R85): every operation is computed exactly
on dyadic numbers and rounded once. -/

namespace Sys2Proof.Machine

/-! ### Formats -/

/-- A binary format: `prec` significand bits, the exponent of its smallest step, its largest finite magnitude code,
its infinity's magnitude code, its canonical NaN, and its sign bit's place (none: unsigned). -/
structure Fmt where
  prec : Nat
  qmin : Int
  maxCode : Nat
  inf : Option Nat
  nan : Nat
  sign : Option Nat
  ieee : Bool
deriving DecidableEq, Repr

/-- An IEEE format with `w` exponent and `t` fraction bits (R72). -/
def ieeeFmt (w t : Nat) : Fmt :=
  { prec := t + 1, qmin := 2 - 2 ^ (w - 1) - (t : Int), maxCode := (2 ^ w - 1) * 2 ^ t - 1, inf := some ((2 ^ w - 1) * 2 ^ t),
    nan := (2 ^ w - 1) * 2 ^ t + 2 ^ (t - 1), sign := some (w + t), ieee := true }

/-- binary16, bfloat16, binary32 and binary64 (R72). -/
def fmtH : Fmt := ieeeFmt 5 10
def fmtBf : Fmt := ieeeFmt 8 7
def fmtF : Fmt := ieeeFmt 8 23
def fmtD : Fmt := ieeeFmt 11 52

/-- A binary8 format of precision `p`: signed or not, extended or finite (R78, R79). -/
def b8Fmt (p : Nat) (signed ext : Bool) : Fmt :=
  let bias : Int := if signed then 2 ^ (7 - p) else 2 ^ (8 - p)
  let top := if signed then 0x7F else 0xFE
  { prec := p, qmin := 2 - bias - p, maxCode := if ext then top - 1 else top, inf := if ext then some top else none,
    nan := if signed then 0x80 else 0xFF, sign := if signed then some 7 else none, ieee := false }

/-- The floating format of an element-format code (R72, R78). -/
def fmtOf (efmt : Nat) : Fmt :=
  match efmt with
  | 4 => fmtH
  | 5 => fmtBf
  | 6 => fmtF
  | 7 => fmtD
  | e => b8Fmt (e % 16) (e / 16 ≤ 2) (e / 16 % 2 = 0)

/-- An element-format code names a floating format. -/
def isFloat (efmt : Nat) : Bool := decide (4 ≤ efmt ∧ efmt ≤ 7) || binary8Code efmt

/-- An element-format code names one of the integer formats INT8, INT16 and INT32 (R77). -/
def isInt (efmt : Nat) : Bool := decide (1 ≤ efmt ∧ efmt ≤ 3)

/-- The element size in bytes of a code (R91); raw bytes are 1. -/
def esizeOf (efmt : Nat) : Nat :=
  match efmt with
  | 2 => 2
  | 3 => 4
  | 4 => 2
  | 5 => 2
  | 6 => 4
  | 7 => 8
  | _ => 1

/-! ### Values -/

/-- A dyadic number: (-1)^neg x m x 2^e.  With m = 0 it is a zero of that sign. -/
structure Dy where
  neg : Bool
  m : Nat
  e : Int
deriving DecidableEq, Repr

/-- What a code stands for. -/
inductive FVal where
  | nan (signalling : Bool)
  | inf (neg : Bool)
  | fin (x : Dy)
deriving DecidableEq, Repr

/-- Flag bits of ctl.fflags (04_strand R115). -/
def flagNV : Nat := 16
def flagDZ : Nat := 8
def flagOF : Nat := 4
def flagUF : Nat := 2
def flagNX : Nat := 1

/-- 2^k as a natural number; 1 for a negative k. -/
def pow2 (k : Int) : Nat := 2 ^ k.toNat

/-- m x 2^e as a multiple of 2^q, for q at most e. -/
def scaleTo (m : Nat) (e q : Int) : Nat := m * pow2 (e - q)

/-- The integer a dyadic is at the scale 2^q, for q at most its exponent. -/
def Dy.at (x : Dy) (q : Int) : Int := if x.neg then -(scaleTo x.m x.e q : Int) else (scaleTo x.m x.e q : Int)

/-- i x 2^q as a dyadic; `z` is the sign of a zero. -/
def dyOf (i : Int) (q : Int) (z : Bool) : Dy := { neg := if i = 0 then z else decide (i < 0), m := i.natAbs, e := q }

/-- The exact sum; an exact zero from non-zero terms or from zeros of both signs has sign `z`. -/
def Dy.add (x y : Dy) (z : Bool) : Dy :=
  let q := min x.e y.e
  if x.m = 0 ∧ y.m = 0 ∧ x.neg = y.neg then { neg := x.neg, m := 0, e := q }
  else dyOf (x.at q + y.at q) q z

/-- The exact product. -/
def Dy.mul (x y : Dy) : Dy := { neg := xor x.neg y.neg, m := x.m * y.m, e := x.e + y.e }

/-- The negation. -/
def Dy.opp (x : Dy) : Dy := { x with neg := !x.neg }

/-- x < y, by value. -/
def Dy.lt (x y : Dy) : Bool := let q := min x.e y.e; decide (x.at q < y.at q)

/-- x = y, by value. -/
def Dy.eqv (x y : Dy) : Bool := let q := min x.e y.e; decide (x.at q = y.at q)

/-- An integer as a dyadic. -/
def dyInt (i : Int) : Dy := dyOf i 0 false

/-- The value of a magnitude code. -/
def Fmt.mag (f : Fmt) (c : Nat) : Dy :=
  let h := 2 ^ (f.prec - 1)
  if c / h = 0 then { neg := false, m := c, e := f.qmin }
  else { neg := false, m := h + c % h, e := f.qmin + (c / h : Nat) - 1 }

/-- The value of a code (R72, R78 b8_value). -/
def Fmt.val (f : Fmt) (x : Nat) : FVal :=
  let s := match f.sign with | some b => x.testBit b | none => false
  let c := match f.sign with | some b => x % 2 ^ b | none => x
  if f.ieee then
    match f.inf with
    | some i =>
      if c = i then .inf s
      else if i < c then .nan (!c.testBit (f.prec - 2))
      else .fin { f.mag c with neg := s }
    | none => .fin { f.mag c with neg := s }
  else if x = f.nan then .nan false
  else if f.inf = some c then .inf s
  else .fin { f.mag c with neg := s }

/-- The code of a magnitude with a sign; formats without a sign, and a binary8 zero, drop it (R83). -/
def Fmt.code (f : Fmt) (neg : Bool) (c : Nat) : Nat :=
  match f.sign with
  | some b => if neg && (f.ieee || c != 0) then 2 ^ b + c else c
  | none => c

/-- The largest finite value and the `ulp` of R80 and R84. -/
def Fmt.maxVal (f : Fmt) : Dy := f.mag f.maxCode
def Fmt.ulpMax (f : Fmt) : Dy := (f.mag f.maxCode).add (f.mag (f.maxCode - 1)).opp false

/-! ### Rounding -/

/-- Rounding modes (R74), and SAT (R83). -/
inductive RMode where
  | rne | rtz | rup | rdn | rna
deriving DecidableEq, Repr

/-- The mode of a rounding code 1 to 5 (R74). -/
def rmodeOf (c : Nat) : RMode :=
  match c with
  | 2 => .rtz
  | 3 => .rup
  | 4 => .rdn
  | 5 => .rna
  | _ => .rne

/-- Whether a magnitude between two neighbours goes to the upper one: `twice` is twice the remainder against `step`,
`odd` says the lower neighbour's code is odd. -/
def goesUp (md : RMode) (neg odd : Bool) (twice step : Nat) : Bool :=
  match md with
  | .rne => decide (step < twice) || (decide (twice = step) && odd)
  | .rna => decide (step ≤ twice)
  | .rtz => false
  | .rup => !neg && decide (0 < twice)
  | .rdn => neg && decide (0 < twice)

/-- A magnitude m x 2^e rounded to a step of 2^q: the multiple, and whether it is exact. -/
def roundStep (md : RMode) (neg : Bool) (m : Nat) (e q : Int) (oddOf : Nat → Bool) : Nat × Bool :=
  if q ≤ e then (scaleTo m e q, true)
  else
    let s := pow2 (q - e)
    let n := m / s
    let r := m % s
    (if goesUp md neg (oddOf n) (2 * r) s then n + 1 else n, decide (r = 0))

/-- The magnitude code, without an upper bound, of a non-zero m x 2^e rounded into the format, whether it is exact,
and whether it is tiny after rounding (R73). -/
def Fmt.roundMag (f : Fmt) (md : RMode) (neg : Bool) (m : Nat) (e : Int) : Nat × Bool × Bool :=
  let h := 2 ^ (f.prec - 1)
  let top := (Nat.log2 m : Int) + e - (f.prec - 1 : Nat)
  let q := max top f.qmin
  let base (q : Int) (n : Nat) : Int := (q - f.qmin + 1) * h + n - h
  let codeAt (q : Int) (n : Nat) : Nat := if n < h then n else (base q n).toNat
  let (n, ex) := roundStep md neg m e q (fun n => decide (codeAt q n % 2 = 1))
  let (n', _) := roundStep md neg m e top (fun n => decide (base top n % 2 = 1))
  (codeAt q n, ex, decide (base top n' < h))

/-- A finite exact value rounded into an IEEE format by a mode of R74: code and flags. -/
def Fmt.roundIeee (f : Fmt) (md : RMode) (x : Dy) : Nat × Nat :=
  if x.m = 0 then (f.code x.neg 0, 0)
  else
    let (c, ex, tiny) := f.roundMag md x.neg x.m x.e
    if f.maxCode < c then
      let toInf := match md with | .rne => true | .rna => true | .rtz => false | .rup => !x.neg | .rdn => x.neg
      (f.code x.neg (if toInf then f.maxCode + 1 else f.maxCode), flagOF + flagNX)
    else (f.code x.neg c, if ex then 0 else if tiny then flagUF + flagNX else flagNX)

/-- The narrowing modes of R83. -/
inductive NMode where
  | rne | rtz | sat | ef
deriving DecidableEq, Repr

/-- The narrowing mode of a VCVT rounding code (R53, R83). -/
def nmodeOf (c : Nat) : NMode :=
  match c with
  | 0 => .rne
  | 1 => .rtz
  | 2 => .sat
  | _ => .ef

/-- The sign of x is not representable: a negative value that an unsigned format cannot hold. -/
def Fmt.refusesNeg (f : Fmt) (neg : Bool) : Bool := f.sign.isNone && neg

/-- A finite exact value narrowed (R83): code and flags.  RNE, SAT and EF overflow at max + ulp/2 of R80; RTZ when the
rounded magnitude is beyond max. -/
def Fmt.narrowFin (f : Fmt) (md : NMode) (x : Dy) : Nat × Nat :=
  let clamps := md = .sat ∨ md = .ef
  if x.m = 0 then (f.code x.neg 0, 0)
  else
    let rm : RMode := if md = .rtz then .rtz else .rne
    let (c, ex, tiny) := f.roundMag rm x.neg x.m x.e
    let half : Dy := { f.ulpMax with e := f.ulpMax.e - 1 }
    let beyond := if md = .rtz then decide (f.maxCode < c)
      else !(Dy.lt { x with neg := false } (f.maxVal.add half false))
    if f.refusesNeg x.neg && (beyond || c != 0) then
      (if clamps then 0 else f.nan, flagNV)
    else if beyond then
      let c' := if md = .rne then (match f.inf with | some i => f.code x.neg i | none => f.nan) else f.code x.neg f.maxCode
      (c', flagOF + flagNX)
    else
      (f.code x.neg (min c f.maxCode),
        if ex then 0 else if c = 0 then flagUF + flagNX else if tiny then flagUF + flagNX else flagNX)

/-- Any value narrowed (R83): code and flags. -/
def Fmt.narrow (f : Fmt) (md : NMode) (v : FVal) : Nat × Nat :=
  match v with
  | .nan sig => (f.nan, if sig then flagNV else 0)
  | .inf neg =>
    if f.refusesNeg neg then (if md = .sat ∨ md = .ef then 0 else f.nan, flagNV)
    else
      match f.inf with
      | some i => (f.code neg (if md = .ef then f.maxCode else i), 0)
      | none => (if md = .rne then f.nan else f.code neg f.maxCode, flagNV)
  | .fin x => f.narrowFin md x

/-! ### Arithmetic on codes -/

/-- The NV flag when an operand is a signalling NaN. -/
def FVal.nv (v : FVal) : Nat := match v with | .nan true => flagNV | _ => 0

/-- The value is a NaN. -/
def FVal.isNan (v : FVal) : Bool := match v with | .nan _ => true | _ => false

/-- The sign of a value. -/
def FVal.isNeg (v : FVal) : Bool := match v with | .nan _ => false | .inf n => n | .fin x => x.neg

/-- The negation of a value; a NaN stays. -/
def FVal.opp (v : FVal) : FVal := match v with | .nan s => .nan s | .inf n => .inf (!n) | .fin x => .fin x.opp

/-- The code of an infinity. -/
def Fmt.infCode (f : Fmt) (neg : Bool) : Nat := f.code neg (f.maxCode + 1)

/-- x + y rounded (R73). -/
def Fmt.add (f : Fmt) (md : RMode) (x y : FVal) : Nat × Nat :=
  let nv := x.nv ||| y.nv
  match x, y with
  | .nan _, _ => (f.nan, nv)
  | _, .nan _ => (f.nan, nv)
  | .inf a, .inf b => if a = b then (f.infCode a, 0) else (f.nan, flagNV)
  | .inf a, _ => (f.infCode a, 0)
  | _, .inf b => (f.infCode b, 0)
  | .fin a, .fin b => f.roundIeee md (a.add b (md = .rdn))

/-- x - y rounded. -/
def Fmt.sub (f : Fmt) (md : RMode) (x y : FVal) : Nat × Nat := f.add md x y.opp

/-- The exact product, or what an infinity or a NaN makes of it; with the NV flag. -/
def FVal.mul (x y : FVal) : FVal × Nat :=
  let nv := x.nv ||| y.nv
  let s := xor x.isNeg y.isNeg
  match x, y with
  | .nan _, _ => (.nan false, nv)
  | _, .nan _ => (.nan false, nv)
  | .inf _, .inf _ => (.inf s, 0)
  | .inf _, .fin b => if b.m = 0 then (.nan false, flagNV) else (.inf s, 0)
  | .fin a, .inf _ => if a.m = 0 then (.nan false, flagNV) else (.inf s, 0)
  | .fin a, .fin b => (.fin (a.mul b), 0)

/-- A value rounded into an IEEE format. -/
def Fmt.roundVal (f : Fmt) (md : RMode) (v : FVal) : Nat × Nat :=
  match v with
  | .nan sig => (f.nan, if sig then flagNV else 0)
  | .inf n => (f.infCode n, 0)
  | .fin x => f.roundIeee md x

/-- x times y rounded. -/
def Fmt.mul (f : Fmt) (md : RMode) (x y : FVal) : Nat × Nat :=
  let (p, fl) := x.mul y
  let (c, fl') := f.roundVal md p
  (c, fl ||| fl')

/-- x times y plus z with one rounding; an invalid product raises NV even when z is a quiet NaN (04 R124). -/
def Fmt.fma (f : Fmt) (md : RMode) (x y z : FVal) : Nat × Nat :=
  let (p, fl) := x.mul y
  let (c, fl') := f.add md p z
  (c, fl ||| fl' ||| z.nv)

/-- The largest s at or below `bits` for which (r + 2^s)^2 is at most m, added in turn: an integer square root. -/
def isqrtFrom (m : Nat) (k r : Nat) : Nat :=
  match k with
  | 0 => r
  | k + 1 => let r' := r + 2 ^ k; isqrtFrom m k (if r' * r' ≤ m then r' else r)

/-- The integer square root, rounded down. -/
def isqrt (m : Nat) : Nat := isqrtFrom m (Nat.log2 m / 2 + 1) 0

/-- a quotient of dyadics, cut after enough bits with the rest as a sticky bit: as far as rounding can tell, exact. -/
def Dy.quot (x y : Dy) (bits : Nat) : Dy :=
  let k := bits + Nat.log2 y.m + 2
  let n := x.m * 2 ^ k
  { neg := xor x.neg y.neg, m := 2 * (n / y.m) + b2n (n % y.m != 0), e := x.e - y.e - (k : Int) - 1 }

/-- x divided by y, rounded. -/
def Fmt.div (f : Fmt) (md : RMode) (x y : FVal) : Nat × Nat :=
  let nv := x.nv ||| y.nv
  let s := xor x.isNeg y.isNeg
  match x, y with
  | .nan _, _ => (f.nan, nv)
  | _, .nan _ => (f.nan, nv)
  | .inf _, .inf _ => (f.nan, flagNV)
  | .inf _, .fin _ => (f.infCode s, 0)
  | .fin _, .inf _ => (f.code s 0, 0)
  | .fin a, .fin b =>
    if b.m = 0 then (if a.m = 0 then (f.nan, flagNV) else (f.infCode s, flagDZ))
    else if a.m = 0 then (f.code s 0, 0)
    else f.roundIeee md (a.quot b 120)

/-- The square root of a positive dyadic, cut after enough bits with the rest as a sticky bit. -/
def Dy.root (x : Dy) : Dy :=
  let k : Nat := if x.e % 2 = 0 then 240 else 241
  let n := x.m * 2 ^ k
  let r := isqrt n
  { neg := false, m := 2 * r + b2n (r * r != n), e := (x.e - k) / 2 - 1 }

/-- The square root, rounded. -/
def Fmt.sqrt (f : Fmt) (md : RMode) (x : FVal) : Nat × Nat :=
  match x with
  | .nan sig => (f.nan, if sig then flagNV else 0)
  | .inf neg => if neg then (f.nan, flagNV) else (f.infCode false, 0)
  | .fin a =>
    if a.m = 0 then (f.code a.neg 0, 0)
    else if a.neg then (f.nan, flagNV)
    else f.roundIeee md a.root

/-- Four ways two values compare. -/
inductive FRel where
  | lt | eq | gt | un
deriving DecidableEq, Repr

/-- How two values compare; zeros are equal. -/
def FVal.rel (x y : FVal) : FRel :=
  match x, y with
  | .nan _, _ => .un
  | _, .nan _ => .un
  | .inf a, .inf b => if a = b then .eq else if a then .lt else .gt
  | .inf a, .fin _ => if a then .lt else .gt
  | .fin _, .inf b => if b then .gt else .lt
  | .fin a, .fin b => if a.lt b then .lt else if b.lt a then .gt else .eq

/-- minimumNumber and maximumNumber of two codes (R76): -0 lies below +0, one NaN gives the other operand. -/
def Fmt.minMax (f : Fmt) (max : Bool) (a b : Nat) : Nat × Nat :=
  let x := f.val a
  let y := f.val b
  let nv := x.nv ||| y.nv
  match x.isNan, y.isNan with
  | true, true => (f.nan, nv)
  | true, false => (b, nv)
  | false, true => (a, nv)
  | false, false =>
    let below := match x.rel y with | .lt => true | .gt => false | _ => x.isNeg || !y.isNeg
    (if below = max then b else a, 0)

/-- The class of a code, 0 to 9 (04 R124 FCLASS). -/
def Fmt.classOf (f : Fmt) (x : Nat) : Nat :=
  match f.val x with
  | .nan sig => if sig then 8 else 9
  | .inf neg => if neg then 0 else 7
  | .fin d =>
    if d.m = 0 then (if d.neg then 3 else 4)
    else if d.m < 2 ^ (f.prec - 1) then (if d.neg then 2 else 5)
    else (if d.neg then 1 else 6)

/-! ### Integers -/

/-- A value rounded to an integer by a mode, and whether it is exact. -/
def Dy.toInt (x : Dy) (md : RMode) : Int × Bool :=
  let (n, ex) := roundStep md x.neg x.m x.e 0 (fun n => decide (n % 2 = 1))
  (if x.neg then -(n : Int) else n, ex)

/-- The ends of an integer range. -/
def intLo (signed : Bool) (n : Nat) : Int := if signed then -(2 ^ (n - 1) : Nat) else 0
def intHi (signed : Bool) (n : Nat) : Int := if signed then (2 ^ (n - 1) : Nat) - 1 else (2 ^ n : Nat) - 1

/-- An integer clamped to a range. -/
def clampInt (signed : Bool) (n : Nat) (x : Int) : Int := max (intLo signed n) (min (intHi signed n) x)

/-- A value converted to an n-bit integer (R77): the integer and flags. -/
def FVal.toIntN (v : FVal) (md : RMode) (signed : Bool) (n : Nat) : Int × Nat :=
  match v with
  | .nan _ => (0, flagNV)
  | .inf neg => (if neg then intLo signed n else intHi signed n, flagNV)
  | .fin x =>
    let (i, ex) := x.toInt md
    let c := clampInt signed n i
    if c ≠ i then (c, flagNV) else (i, if ex then 0 else flagNX)

/-- The integer an n-bit code is. -/
def intOf (signed : Bool) (n x : Nat) : Int := if signed then sext x n else (x % 2 ^ n : Nat)

/-! ### Shorthands of R84 -/

/-- A binary32 code rounded from an exact value by RNE (rne32). -/
def rne32 (v : FVal) : Nat := (fmtF.roundVal .rne v).1

/-- The binary32 sum of two binary32 codes by RNE. -/
def add32 (a b : Nat) : Nat := (fmtF.add .rne (fmtF.val a) (fmtF.val b)).1

end Sys2Proof.Machine
end

