-- ==== Sys2Proof/Machine/Tile.lean ====
section
/-! DEFINITION. Tile headers: their fields, check and CRC, and where elements, scales and index groups lie
(03_numbers R90 to R98). -/

namespace Sys2Proof.Machine

/-- One bit of CRC-16 (R94). -/
def crcStep (c : Nat) : Nat := if c / 32768 % 2 = 1 then ((c * 2) ^^^ 0x1021) % 65536 else c * 2 % 65536

/-- crc16 over bytes in order (R94). -/
def crc16 (bs : List Byte) : Nat :=
  bs.foldl (fun c b => (List.range 8).foldl (fun c _ => crcStep c) (c ^^^ (b.toNat * 256))) 0xFFFF

/-- The first 30 bytes of a header (R90). -/
def TileHdr.front (h : TileHdr) : List Byte :=
  leBytes 8 (0x7A1E + 2 ^ 16 * 1 + 2 ^ 20 * h.efmt + 2 ^ 28 * h.slay + 2 ^ 32 * h.sfmt + 2 ^ 36 * h.spar + 2 ^ 40 * h.order
      + 2 ^ 44 * h.flags + 2 ^ 48 * h.rows)
    ++ leBytes 2 h.cols ++ leBytes 4 h.pitch ++ leBytes 4 h.doff ++ leBytes 4 h.soff ++ leBytes 2 h.rid ++ leBytes 6 0

/-- The 32 bytes of a header with its CRC. -/
def TileHdr.bytes (h : TileHdr) : List Byte := h.front ++ leBytes 2 (crc16 h.front)

/-- The fields of 32 bytes read as a header of the tile at a base. -/
def tileOf (base : Word) (bs : List Byte) : TileHdr :=
  let x := leNat bs
  let f := fun (hi lo : Nat) => x / 2 ^ lo % 2 ^ (hi - lo + 1)
  { base := base, efmt := f 27 20, slay := f 31 28, sfmt := f 35 32, spar := f 39 36, order := f 43 40, flags := f 47 44,
    rows := f 63 48, cols := f 79 64, pitch := f 111 80, doff := f 143 112, soff := f 175 144, rid := f 187 176 }

/-- INT8, a 16-bit float or binary8: the formats that scales and 2:4 tiles allow (R95). -/
def narrowFmt (e : Nat) : Bool := e = 1 || e = 4 || e = 5 || binary8Code e

/-- The smallest pitch of a tile (R91, R95). -/
def TileHdr.minPitch (h : TileHdr) : Nat :=
  if h.spar = 1 then h.cols / 2 * esizeOf h.efmt
  else match h.order with
    | 0 => h.cols * esizeOf h.efmt
    | 1 => h.rows * esizeOf h.efmt
    | _ => 2 * h.cols

/-- A header satisfies R95, but for its reserved bits. -/
def TileHdr.supported (h : TileHdr) : Bool :=
  setvlFormat h.efmt && decide (1 ≤ h.rows) && decide (1 ≤ h.cols) && decide (h.slay ≤ 4) && decide (h.sfmt ≤ 1)
    && decide (h.spar ≤ 1) && decide (h.order ≤ 2) && decide (h.flags < 4)
    && (if h.slay = 0 then h.sfmt = 0 && h.soff = 0 else narrowFmt h.efmt && decide (32 ≤ h.soff) && h.soff % 4 = 0)
    && (h.spar != 1 || (narrowFmt h.efmt && h.order = 0 && decide (h.slay ≤ 2) && h.cols % 8 = 0))
    && (h.order != 2 || ((h.efmt = 1 || binary8Code h.efmt) && h.rows % 2 = 0 && h.cols % 2 = 0))
    && (h.efmt != 0 || (h.slay = 0 && h.spar = 0 && h.order = 0))
    && decide (32 ≤ h.doff) && h.doff % 32 = 0 && h.pitch % esizeOf h.efmt = 0 && decide (h.minPitch ≤ h.pitch)

/-- A header fault (R96, R101). -/
def hdrFault {α : Type} (code : Nat) (tval : Word) : Acc α := throw (.other 0 code (some tval))

/-- hdr_check: one atom read, then magic, CRC and R95 (R96). -/
def hdrCheck (w : Who) (base : Word) (m : Mark) : Acc TileHdr := do
  if base.toNat % 32 ≠ 0 then throw .misalign
  else
    let bs ← readMem w base 32 m
    let x := leNat bs
    let h := tileOf base bs
    if x % 65536 ≠ 0x7A1E ∨ x / 2 ^ 16 % 16 ≠ 1 then hdrFault xHdrMagic base
    else if x / 2 ^ 240 ≠ crc16 (bs.take 30) then hdrFault xHdrCrc base
    else if !h.supported || x / 2 ^ 188 % 2 ^ 52 ≠ 0 then hdrFault xHdrUnsup base
    else return h

/-- The register references of R101. -/
def vecRef (n : Nat) : Word := word (n % 32 + 256)
def accRef (n : Nat) : Word := word (n % 4 + 512)

/-- The byte offset of element (i, j) of a dense tile (R91), or of stored element j of row i of a 2:4 tile (R93). -/
def TileHdr.offset (h : TileHdr) (i j : Nat) : Nat :=
  match h.order with
  | 0 => h.doff + i * h.pitch + j * esizeOf h.efmt
  | 1 => h.doff + j * h.pitch + i * esizeOf h.efmt
  | _ => h.doff + i / 2 * h.pitch + 4 * (j / 2) + 2 * (i % 2) + j % 2

/-- The number of scales, and the index of that of an element (R92). -/
def TileHdr.scales (h : TileHdr) : Nat :=
  match h.slay with
  | 0 => 0
  | 1 => 1
  | 2 => h.rows
  | 3 => h.cols
  | _ => h.rows * ceilDiv h.cols 64
def TileHdr.scaleIndex (h : TileHdr) (i j : Nat) : Nat :=
  match h.slay with
  | 2 => i
  | 3 => j
  | 4 => i * ceilDiv h.cols 64 + j / 64
  | _ => 0

/-- The bytes of one scale. -/
def scaleSize (sfmt : Nat) : Nat := if sfmt = 0 then 4 else 2

/-- The value of a scale's code (R92). -/
def scaleVal (sfmt x : Nat) : FVal := if sfmt = 0 then fmtF.val x else fmtBf.val x

/-- The byte and the nibble that hold index group g of row i (R93). -/
def TileHdr.groupByte (h : TileHdr) (i g : Nat) : Nat := h.doff + h.rows * h.pitch + i * (h.cols / 8) + g / 2

/-- The two indices of a group of R93. -/
def groupOf (b g : Nat) : Nat × Nat := let n := b / 2 ^ (4 * (g % 2)) % 16; (n % 4, n / 4)

/-- How many lines a tile has, and the elements of one (06_vmem R177). -/
def TileHdr.lines (h : TileHdr) : Nat := match h.order with | 0 => h.rows | 1 => h.cols | _ => h.rows / 2
def TileHdr.lineLen (h : TileHdr) : Nat :=
  match h.order with
  | 0 => if h.spar = 1 then h.cols / 2 else h.cols
  | 1 => h.rows
  | _ => 2 * h.cols

/-- The span of a tile (09_copy R246). -/
def TileHdr.span (h : TileHdr) : Nat :=
  let a := h.doff + h.lines * h.pitch
  let b := if h.spar = 1 then h.doff + h.rows * h.pitch + h.rows * h.cols / 8 else 0
  let c := if h.slay = 0 then 0 else h.soff + h.scales * scaleSize h.sfmt
  roundUp (max a (max b c)) 32

/-- An element's value: exact, floating or integer (R72, R77, R78). -/
def elemVal (efmt x : Nat) : FVal :=
  if isFloat efmt then (fmtOf efmt).val x
  else .fin (dyInt (intOf true (8 * esizeOf efmt) x))

end Sys2Proof.Machine
end

