-- ==== Sys2Proof/Machine/Operands.lean ====
section
/-! DEFINITION. Operand forms: immediates, addresses and targets of the formats (02_words R46, R48), captured ox values
(R51), and the integer operations both the register and the immediate forms compute (04_strand R122, R123). -/

namespace Sys2Proof.Machine

/-! ### Immediates (R46) -/

/-- The RI immediate, sign-extended; zero-extended for ANDI, ORI and XORI. -/
def immS (imm : BitVec 12) : Word := imm.signExtend 64
def immZ (imm : BitVec 12) : Word := imm.zeroExtend 64

/-- The ST and BR immediate: its high half above its low half. -/
def immHL (hi lo : BitVec 6) : Word := (hi ++ lo : BitVec 12).signExtend 64

/-- The JL immediate. -/
def immJ (imm : BitVec 18) : Word := imm.signExtend 64

/-- The 5-bit immediate of the 16-bit forms, and their 10-bit one (R48). -/
def imm5 (imm : BitVec 5) : Word := imm.signExtend 64
def imm10 (imm : BitVec 10) : Word := imm.signExtend 64

/-- Effective addresses of scalar loads and stores (R125). -/
def eaLoad (s : State) (rs1 : BitVec 6) (imm : BitVec 12) : Word := s.gr rs1 + immS imm
def eaStore (s : State) (rs1 : BitVec 6) (hi lo : BitVec 6) : Word := s.gr rs1 + immHL hi lo

/-- The target of a branch or jump at the current pc. -/
def targetOf (s : State) (disp : Word) : Word := s.cur.pc + 2 * disp

/-- The captured value of ox[(oxb + i) mod 8] (R51). -/
def State.xo (s : State) (oxb : BitVec 3) (i : Nat) : Word := s.cur.oxr (oxb.toNat + i)

/-! ### Integer operations (R122) -/

/-- The signed and unsigned readings of a register. -/
def sOf (x : Word) : Int := x.toInt

def opMulh (a b : Word) : Word := wordI (sOf a * sOf b / 2 ^ 64)
def opMulhu (a b : Word) : Word := word (a.toNat * b.toNat / 2 ^ 64)

/-- DIV: truncated toward zero; all ones for b = 0; -2^63 for the one quotient that overflows. -/
def opDiv (a b : Word) : Word := if b = 0 then BitVec.allOnes 64 else wordI (Int.tdiv (sOf a) (sOf b))
def opDivu (a b : Word) : Word := if b = 0 then BitVec.allOnes 64 else word (a.toNat / b.toNat)
def opRem (a b : Word) : Word := if b = 0 then a else wordI (Int.tmod (sOf a) (sOf b))
def opRemu (a b : Word) : Word := if b = 0 then a else word (a.toNat % b.toNat)

/-- A shift amount: b[5:0]. -/
def amount (b : Word) : Nat := b.toNat % 64

def opShl (a b : Word) : Word := a <<< amount b
def opShr (a b : Word) : Word := a >>> amount b
def opSha (a b : Word) : Word := a.sshiftRight (amount b)
def opRot (a b : Word) : Word := a.rotateRight (amount b)
def opSlt (a b : Word) : Word := b2w (decide (sOf a < sOf b))
def opSltu (a b : Word) : Word := b2w (decide (a.toNat < b.toNat))
def opMin (a b : Word) : Word := if sOf a ≤ sOf b then a else b
def opMax (a b : Word) : Word := if sOf a ≤ sOf b then b else a
def opMinu (a b : Word) : Word := if a.toNat ≤ b.toNat then a else b
def opMaxu (a b : Word) : Word := if a.toNat ≤ b.toNat then b else a

/-- Leading and trailing zeros, and ones. -/
def opClz (a : Word) : Word := word (if a = 0 then 64 else 63 - Nat.log2 a.toNat)
def opCtz (a : Word) : Word := word ((firstBelow 64 (fun i => bit a i)).getD 64)
def opPopc (a : Word) : Word := word (popCount a.toNat 64)

/-- Bit b[5:0] of a copied upward, or every bit above it cleared. -/
def opSext (a b : Word) : Word := sextWord a (amount b + 1)
def opZext (a b : Word) : Word := zextWord a (amount b + 1)

/-! ### Completing an ALU instruction -/

/-- The current instruction writes rd and completes: `len` bytes, ready after `lat` cycles (R110). -/
def State.putReg {w : Nat} (s : State) (rd : BitVec w) (x : Word) (len lat : Nat) : Host.Outcome State Fault Refusal :=
  .next ((s.gw rd x).complete len lat)

/-- The current instruction writes an ox register and completes. -/
def State.putOx (s : State) (n : BitVec 3) (x : Word) : Host.Outcome State Fault Refusal :=
  .next ((s.modCur (fun t => t.oxw n.toNat x)).complete 4 1)

/-- A branch: to the target when the condition holds, otherwise on (R126). -/
def State.branch (s : State) (c : Bool) (disp : Word) (len : Nat) : Host.Outcome State Fault Refusal :=
  .next (if c then s.jump (targetOf s disp) else s.complete len 1)

/-- A jump that writes a link (R126). -/
def State.link {w : Nat} (s : State) (rd : BitVec w) (target : Word) (len : Nat) : Host.Outcome State Fault Refusal :=
  .next ((s.gw rd (s.cur.pc + word len)).jump target)

end Sys2Proof.Machine
end

