-- ==== Sys2Proof/Machine/Flags.lean ====
section
/-! DEFINITION. Flag computations: the exception flags and the rounding mode of scalar floating point (04_strand R115,
R124), comparison and class results, and conversions (03_numbers R77, R82). -/

namespace Sys2Proof.Machine

/-- The format of a scalar type code 0 to 3 (02_words R56). -/
def scalarFmt (ty : Nat) : Fmt := match ty with | 0 => fmtH | 1 => fmtBf | 2 => fmtF | _ => fmtD

/-- The width of a scalar type in bits. -/
def scalarBits (ty : Nat) : Nat := match ty with | 0 => 16 | 1 => 16 | 2 => 32 | _ => 64

/-- The field of a type in a register (R124). -/
def fieldOf (x : Word) (ty : Nat) : Nat := x.toNat % 2 ^ scalarBits ty

/-- The dynamic rounding mode: ctl.frm (R74, R115). -/
def State.rmode (s : State) : RMode := rmodeOf s.cur.frm

/-- A floating result and its flags: rd, ctl.fflags, completion (R75, R124). -/
def State.putFp {w : Nat} (s : State) (rd : BitVec w) (r : Nat × Nat) (lat : Nat) : Host.Outcome State Fault Refusal :=
  .next (((s.gw rd (word r.1)).modCur (fun t => t.raise r.2)).complete 4 lat)

/-- FCMP's result: one of un, gt, eq, lt in bits [3:0], and NV for a signalling NaN (R124). -/
def cmpResult (f : Fmt) (a b : Nat) : Nat × Nat :=
  let x := f.val a
  let y := f.val b
  (match x.rel y with | .lt => 1 | .eq => 2 | .gt => 4 | .un => 8, x.nv ||| y.nv)

/-- FCLASS's result: one bit of [9:0]. -/
def classResult (f : Fmt) (a : Nat) : Nat := 2 ^ f.classOf a

/-- The value of an FCVT source: a floating field, or an integer of 32 or 64 bits (R56, R77). -/
def cvtSource (src : Nat) (x : Word) : FVal :=
  match src with
  | 4 => .fin (dyInt (sext x.toNat 32))
  | 5 => .fin (dyInt (x.toNat % 2 ^ 32 : Nat))
  | 6 => .fin (dyInt x.toInt)
  | 7 => .fin (dyInt (x.toNat : Nat))
  | ty => (scalarFmt ty).val (fieldOf x ty)

/-- FCVT (R77, R82, R124): the register written, and flags. -/
def cvtResult (dst : Nat) (md : RMode) (v : FVal) : Nat × Nat :=
  match dst with
  | 4 => let r := v.toIntN md true 32; ((wordI r.1).toNat, r.2)
  | 5 => let r := v.toIntN md false 32; ((wordI r.1).toNat, r.2)
  | 6 => let r := v.toIntN md true 64; ((wordI r.1).toNat, r.2)
  | 7 => let r := v.toIntN md false 64; ((wordI r.1).toNat, r.2)
  | ty => (scalarFmt ty).roundVal md v

/-- FCVT's rounding: a static code, or ctl.frm for 0. -/
def State.cvtMode (s : State) (rm : Nat) : RMode := if rm = 0 then s.rmode else rmodeOf rm

/-- Cycles of FDIV and FSQRT (R110). -/
def divCycles (ty : Nat) : Nat := if ty = 3 then 30 else 16

end Sys2Proof.Machine
end

