-- ==== Sys2Proof/Machine/Alu.lean ====
section
/-! DEFINITION. Meanings of the integer instructions: register forms (04_strand R122), immediate forms (R123), the ox
registers (02_words R50) and the 16-bit forms that compute (R48).  Each names one operation of `Operands`. -/

namespace Sys2Proof.Machine

/-! ### Register forms (R122): a is gread(rs1), b is gread(rs2) -/

/-- Wrapped sum. -/
def execAdd (rd rs1 rs2 : BitVec 6) (s : State) : Host.Outcome State Fault Refusal :=
  s.putReg rd (s.gr rs1 + s.gr rs2) 4 1

/-- Wrapped difference. -/
def execSub (rd rs1 rs2 : BitVec 6) (s : State) : Host.Outcome State Fault Refusal :=
  s.putReg rd (s.gr rs1 - s.gr rs2) 4 1

/-- Low product. -/
def execMul (rd rs1 rs2 : BitVec 6) (s : State) : Host.Outcome State Fault Refusal :=
  s.putReg rd (s.gr rs1 * s.gr rs2) 4 4

/-- High signed product. -/
def execMulh (rd rs1 rs2 : BitVec 6) (s : State) : Host.Outcome State Fault Refusal :=
  s.putReg rd (opMulh (s.gr rs1) (s.gr rs2)) 4 4

/-- High unsigned product. -/
def execMulhu (rd rs1 rs2 : BitVec 6) (s : State) : Host.Outcome State Fault Refusal :=
  s.putReg rd (opMulhu (s.gr rs1) (s.gr rs2)) 4 4

/-- Signed quotient. -/
def execDiv (rd rs1 rs2 : BitVec 6) (s : State) : Host.Outcome State Fault Refusal :=
  s.putReg rd (opDiv (s.gr rs1) (s.gr rs2)) 4 36

/-- Unsigned quotient. -/
def execDivu (rd rs1 rs2 : BitVec 6) (s : State) : Host.Outcome State Fault Refusal :=
  s.putReg rd (opDivu (s.gr rs1) (s.gr rs2)) 4 36

/-- Signed remainder. -/
def execRem (rd rs1 rs2 : BitVec 6) (s : State) : Host.Outcome State Fault Refusal :=
  s.putReg rd (opRem (s.gr rs1) (s.gr rs2)) 4 36

/-- Unsigned remainder. -/
def execRemu (rd rs1 rs2 : BitVec 6) (s : State) : Host.Outcome State Fault Refusal :=
  s.putReg rd (opRemu (s.gr rs1) (s.gr rs2)) 4 36

/-- Bitwise AND. -/
def execAnd (rd rs1 rs2 : BitVec 6) (s : State) : Host.Outcome State Fault Refusal :=
  s.putReg rd (s.gr rs1 &&& s.gr rs2) 4 1

/-- Bitwise OR. -/
def execOr (rd rs1 rs2 : BitVec 6) (s : State) : Host.Outcome State Fault Refusal :=
  s.putReg rd (s.gr rs1 ||| s.gr rs2) 4 1

/-- Bitwise XOR. -/
def execXor (rd rs1 rs2 : BitVec 6) (s : State) : Host.Outcome State Fault Refusal :=
  s.putReg rd (s.gr rs1 ^^^ s.gr rs2) 4 1

/-- AND with the complement. -/
def execAndn (rd rs1 rs2 : BitVec 6) (s : State) : Host.Outcome State Fault Refusal :=
  s.putReg rd (s.gr rs1 &&& ~~~s.gr rs2) 4 1

/-- Shift left by b[5:0]. -/
def execShl (rd rs1 rs2 : BitVec 6) (s : State) : Host.Outcome State Fault Refusal :=
  s.putReg rd (opShl (s.gr rs1) (s.gr rs2)) 4 1

/-- Logical shift right. -/
def execShr (rd rs1 rs2 : BitVec 6) (s : State) : Host.Outcome State Fault Refusal :=
  s.putReg rd (opShr (s.gr rs1) (s.gr rs2)) 4 1

/-- Arithmetic shift right. -/
def execSha (rd rs1 rs2 : BitVec 6) (s : State) : Host.Outcome State Fault Refusal :=
  s.putReg rd (opSha (s.gr rs1) (s.gr rs2)) 4 1

/-- Rotate right. -/
def execRot (rd rs1 rs2 : BitVec 6) (s : State) : Host.Outcome State Fault Refusal :=
  s.putReg rd (opRot (s.gr rs1) (s.gr rs2)) 4 1

/-- Signed less than. -/
def execSlt (rd rs1 rs2 : BitVec 6) (s : State) : Host.Outcome State Fault Refusal :=
  s.putReg rd (opSlt (s.gr rs1) (s.gr rs2)) 4 1

/-- Unsigned less than. -/
def execSltu (rd rs1 rs2 : BitVec 6) (s : State) : Host.Outcome State Fault Refusal :=
  s.putReg rd (opSltu (s.gr rs1) (s.gr rs2)) 4 1

/-- Signed minimum. -/
def execMin (rd rs1 rs2 : BitVec 6) (s : State) : Host.Outcome State Fault Refusal :=
  s.putReg rd (opMin (s.gr rs1) (s.gr rs2)) 4 1

/-- Signed maximum. -/
def execMax (rd rs1 rs2 : BitVec 6) (s : State) : Host.Outcome State Fault Refusal :=
  s.putReg rd (opMax (s.gr rs1) (s.gr rs2)) 4 1

/-- Unsigned minimum. -/
def execMinu (rd rs1 rs2 : BitVec 6) (s : State) : Host.Outcome State Fault Refusal :=
  s.putReg rd (opMinu (s.gr rs1) (s.gr rs2)) 4 1

/-- Unsigned maximum. -/
def execMaxu (rd rs1 rs2 : BitVec 6) (s : State) : Host.Outcome State Fault Refusal :=
  s.putReg rd (opMaxu (s.gr rs1) (s.gr rs2)) 4 1

/-- Leading zeros of a. -/
def execClz (rd rs1 : BitVec 6) (s : State) : Host.Outcome State Fault Refusal :=
  s.putReg rd (opClz (s.gr rs1)) 4 1

/-- Trailing zeros of a. -/
def execCtz (rd rs1 : BitVec 6) (s : State) : Host.Outcome State Fault Refusal :=
  s.putReg rd (opCtz (s.gr rs1)) 4 1

/-- Ones of a. -/
def execPopc (rd rs1 : BitVec 6) (s : State) : Host.Outcome State Fault Refusal :=
  s.putReg rd (opPopc (s.gr rs1)) 4 1

/-- Bit b[5:0] of a copied upward. -/
def execSext (rd rs1 rs2 : BitVec 6) (s : State) : Host.Outcome State Fault Refusal :=
  s.putReg rd (opSext (s.gr rs1) (s.gr rs2)) 4 1

/-- The bits of a above bit b[5:0] cleared. -/
def execZext (rd rs1 rs2 : BitVec 6) (s : State) : Host.Outcome State Fault Refusal :=
  s.putReg rd (opZext (s.gr rs1) (s.gr rs2)) 4 1

/-! ### Immediate forms (R123) -/

/-- Sum with the sign-extended immediate. -/
def execAddi (rd rs1 : BitVec 6) (imm : BitVec 12) (s : State) : Host.Outcome State Fault Refusal :=
  s.putReg rd (s.gr rs1 + immS imm) 4 1

/-- AND with the zero-extended immediate. -/
def execAndi (rd rs1 : BitVec 6) (imm : BitVec 12) (s : State) : Host.Outcome State Fault Refusal :=
  s.putReg rd (s.gr rs1 &&& immZ imm) 4 1

/-- OR with the zero-extended immediate. -/
def execOri (rd rs1 : BitVec 6) (imm : BitVec 12) (s : State) : Host.Outcome State Fault Refusal :=
  s.putReg rd (s.gr rs1 ||| immZ imm) 4 1

/-- XOR with the zero-extended immediate. -/
def execXori (rd rs1 : BitVec 6) (imm : BitVec 12) (s : State) : Host.Outcome State Fault Refusal :=
  s.putReg rd (s.gr rs1 ^^^ immZ imm) 4 1

/-- Signed comparison with the immediate. -/
def execSlti (rd rs1 : BitVec 6) (imm : BitVec 12) (s : State) : Host.Outcome State Fault Refusal :=
  s.putReg rd (opSlt (s.gr rs1) (immS imm)) 4 1

/-- Unsigned comparison with the wrapped sign-extended immediate. -/
def execSltiu (rd rs1 : BitVec 6) (imm : BitVec 12) (s : State) : Host.Outcome State Fault Refusal :=
  s.putReg rd (opSltu (s.gr rs1) (immS imm)) 4 1

/-- Shift left by the amount. -/
def execShli (rd rs1 amt : BitVec 6) (s : State) : Host.Outcome State Fault Refusal :=
  s.putReg rd (opShl (s.gr rs1) (word amt.toNat)) 4 1

/-- Logical shift right by the amount. -/
def execShri (rd rs1 amt : BitVec 6) (s : State) : Host.Outcome State Fault Refusal :=
  s.putReg rd (opShr (s.gr rs1) (word amt.toNat)) 4 1

/-- Arithmetic shift right by the amount. -/
def execShai (rd rs1 amt : BitVec 6) (s : State) : Host.Outcome State Fault Refusal :=
  s.putReg rd (opSha (s.gr rs1) (word amt.toNat)) 4 1

/-- The immediate times 2^14 (R46). -/
def execLih (rd : BitVec 6) (imm : BitVec 18) (s : State) : Host.Outcome State Fault Refusal :=
  s.putReg rd (immJ imm <<< 14) 4 1

/-! ### The ox registers (02_words R50) -/

/-- The sign-extended immediate. -/
def execLoxi (num : BitVec 3) (imm : BitVec 18) (s : State) : Host.Outcome State Fault Refusal :=
  s.putOx num (immJ imm)

/-- The register shifted left by 18, with the immediate below. -/
def execLoxiSh (num : BitVec 3) (imm : BitVec 18) (s : State) : Host.Outcome State Fault Refusal :=
  s.putOx num ((s.cur.oxr num.toNat <<< 18) + imm.zeroExtend 64)

/-- From a g register. -/
def execLox (num : BitVec 3) (rs1 : BitVec 6) (s : State) : Host.Outcome State Fault Refusal :=
  s.putOx num (s.gr rs1)

/-- From an ox register. -/
def execMovox (num src : BitVec 3) (s : State) : Host.Outcome State Fault Refusal :=
  s.putOx num (s.cur.oxr src.toNat)

/-! ### The 16-bit forms that compute (R48), each with the effect of its 32-bit instruction -/

/-- MV over two of g0 to g31. -/
def execCMv (ga gb : BitVec 5) (s : State) : Host.Outcome State Fault Refusal :=
  s.putReg ga (0 + s.gr gb) 2 1

/-- ADD over two of g0 to g31. -/
def execCAdd (ga gb : BitVec 5) (s : State) : Host.Outcome State Fault Refusal :=
  s.putReg ga (s.gr ga + s.gr gb) 2 1

/-- SUB over two of g0 to g31. -/
def execCSub (ga gb : BitVec 5) (s : State) : Host.Outcome State Fault Refusal :=
  s.putReg ga (s.gr ga - s.gr gb) 2 1

/-- AND over two of g0 to g31. -/
def execCAnd (ga gb : BitVec 5) (s : State) : Host.Outcome State Fault Refusal :=
  s.putReg ga (s.gr ga &&& s.gr gb) 2 1

/-- OR over two of g0 to g31. -/
def execCOr (ga gb : BitVec 5) (s : State) : Host.Outcome State Fault Refusal :=
  s.putReg ga (s.gr ga ||| s.gr gb) 2 1

/-- XOR over two of g0 to g31. -/
def execCXor (ga gb : BitVec 5) (s : State) : Host.Outcome State Fault Refusal :=
  s.putReg ga (s.gr ga ^^^ s.gr gb) 2 1

/-- SLT over two of g0 to g31. -/
def execCSlt (ga gb : BitVec 5) (s : State) : Host.Outcome State Fault Refusal :=
  s.putReg ga (opSlt (s.gr ga) (s.gr gb)) 2 1

/-- NEG over two of g0 to g31. -/
def execCNeg (ga gb : BitVec 5) (s : State) : Host.Outcome State Fault Refusal :=
  s.putReg ga (0 - s.gr gb) 2 1

/-- ADDI of the immediate to g0. -/
def execCLi (ga imm : BitVec 5) (s : State) : Host.Outcome State Fault Refusal :=
  s.putReg ga (imm5 imm) 2 1

/-- ADDI in place. -/
def execCAddi (ga imm : BitVec 5) (s : State) : Host.Outcome State Fault Refusal :=
  s.putReg ga (s.gr ga + imm5 imm) 2 1

/-- A shift in place by 0 to 31. -/
def execCShli (ga num : BitVec 5) (s : State) : Host.Outcome State Fault Refusal :=
  s.putReg ga (opShl (s.gr ga) (word num.toNat)) 2 1

/-- A shift in place by 0 to 31. -/
def execCShri (ga num : BitVec 5) (s : State) : Host.Outcome State Fault Refusal :=
  s.putReg ga (opShr (s.gr ga) (word num.toNat)) 2 1

/-- A shift in place by 0 to 31. -/
def execCShai (ga num : BitVec 5) (s : State) : Host.Outcome State Fault Refusal :=
  s.putReg ga (opSha (s.gr ga) (word num.toNat)) 2 1

/-- ADDI of 4 times the immediate to g2. -/
def execCAddsp (imm : BitVec 10) (s : State) : Host.Outcome State Fault Refusal :=
  s.putReg (2 : BitVec 6) (s.gr (2 : BitVec 6) + 4 * imm10 imm) 2 1

end Sys2Proof.Machine
end

