-- ==== Sys2Proof/Machine/Fp.lean ====
section
/-! DEFINITION. Meanings of the scalar floating-point instructions (04_strand R124): operands are fields of g registers,
results round by ctl.frm, and their flags are ORed into ctl.fflags. -/

namespace Sys2Proof.Machine

/-- The value of a register's field of a type. -/
def fieldVal (s : State) (r : BitVec 6) (ty : BitVec 2) : FVal := (scalarFmt ty.toNat).val (fieldOf (s.gr r) ty.toNat)

/-- The value of FFMA's third operand, one of g0 to g15. -/
def fieldVal4 (s : State) (r : BitVec 4) (ty : BitVec 2) : FVal := (scalarFmt ty.toNat).val (fieldOf (s.gr r) ty.toNat)

/-- Sum. -/
def execFadd (rd rs1 rs2 : BitVec 6) (ty : BitVec 2) (s : State) : Host.Outcome State Fault Refusal :=
  s.putFp rd ((scalarFmt ty.toNat).add s.rmode (fieldVal s rs1 ty) (fieldVal s rs2 ty)) 4

/-- Difference. -/
def execFsub (rd rs1 rs2 : BitVec 6) (ty : BitVec 2) (s : State) : Host.Outcome State Fault Refusal :=
  s.putFp rd ((scalarFmt ty.toNat).sub s.rmode (fieldVal s rs1 ty) (fieldVal s rs2 ty)) 4

/-- Product. -/
def execFmul (rd rs1 rs2 : BitVec 6) (ty : BitVec 2) (s : State) : Host.Outcome State Fault Refusal :=
  s.putFp rd ((scalarFmt ty.toNat).mul s.rmode (fieldVal s rs1 ty) (fieldVal s rs2 ty)) 4

/-- Quotient. -/
def execFdiv (rd rs1 rs2 : BitVec 6) (ty : BitVec 2) (s : State) : Host.Outcome State Fault Refusal :=
  s.putFp rd ((scalarFmt ty.toNat).div s.rmode (fieldVal s rs1 ty) (fieldVal s rs2 ty)) (divCycles ty.toNat)

/-- minimumNumber (R76). -/
def execFmin (rd rs1 rs2 : BitVec 6) (ty : BitVec 2) (s : State) : Host.Outcome State Fault Refusal :=
  s.putFp rd ((scalarFmt ty.toNat).minMax false (fieldOf (s.gr rs1) ty.toNat) (fieldOf (s.gr rs2) ty.toNat)) 4

/-- maximumNumber (R76). -/
def execFmax (rd rs1 rs2 : BitVec 6) (ty : BitVec 2) (s : State) : Host.Outcome State Fault Refusal :=
  s.putFp rd ((scalarFmt ty.toNat).minMax true (fieldOf (s.gr rs1) ty.toNat) (fieldOf (s.gr rs2) ty.toNat)) 4

/-- Comparison: one of un, gt, eq, lt. -/
def execFcmp (rd rs1 rs2 : BitVec 6) (ty : BitVec 2) (s : State) : Host.Outcome State Fault Refusal :=
  s.putFp rd (cmpResult (scalarFmt ty.toNat) (fieldOf (s.gr rs1) ty.toNat) (fieldOf (s.gr rs2) ty.toNat)) 4

/-- Square root. -/
def execFsqrt (rd rs1 : BitVec 6) (ty : BitVec 2) (s : State) : Host.Outcome State Fault Refusal :=
  s.putFp rd ((scalarFmt ty.toNat).sqrt s.rmode (fieldVal s rs1 ty)) (divCycles ty.toNat)

/-- Class: one of bits [9:0]; no flag. -/
def execFclass (rd rs1 : BitVec 6) (ty : BitVec 2) (s : State) : Host.Outcome State Fault Refusal :=
  s.putFp rd (classResult (scalarFmt ty.toNat) (fieldOf (s.gr rs1) ty.toNat), 0) 4

/-- x times y plus z with one rounding. -/
def execFfma (rd rs1 rs2 : BitVec 6) (rs3 : BitVec 4) (ty : BitVec 2) (s : State) : Host.Outcome State Fault Refusal :=
  s.putFp rd ((scalarFmt ty.toNat).fma s.rmode (fieldVal s rs1 ty) (fieldVal s rs2 ty) (fieldVal4 s rs3 ty)) 5

/-- Conversion between scalar types (R77, R82). -/
def execFcvt (rd rs1 rm : BitVec 6) (src dst : BitVec 3) (s : State) : Host.Outcome State Fault Refusal :=
  s.putFp rd (cvtResult dst.toNat (s.cvtMode rm.toNat) (cvtSource src.toNat (s.gr rs1))) 4

end Sys2Proof.Machine
end

