-- ==== Sys2Proof/Machine/Trace.lean ====
section
/-! DEFINITION. Trace records and stops of the debug engine (16_debug R414 to R416), and what a strand's commands still
have to finish (08_matrix R237, 09_copy R269). -/

namespace Sys2Proof.Machine

/-! ### Tenants and forwarding -/

/-- Where an operation of a tenant on a core goes: along its forwarding entries (14_dispatch R377). -/
def State.followFwd (s : State) (core tenant : Nat) : Nat := go 8 core
where
  /-- At most 8 hops. -/
  go (fuel core : Nat) : Nat :=
    match fuel with
    | 0 => core
    | n + 1 =>
      match (s.core core).fwd.find? (fun f => f.tenant = tenant && !f.held) with
      | some f => go n f.target
      | none => core

/-! ### Trace records (R415, R416) -/

/-- The collector writes a record to the ring of the strand's die, or counts it lost. -/
def State.traceRecord (s : State) (sid kind : Nat) (mark : Word) : State :=
  let t := s.st sid
  let d := dieOfCore (coreOfSid sid)
  let die := s.die d
  let reg := fun (n : Nat) => tget (0 : Word) die.cr n
  let lsize := bits (reg 0x242) 4 0
  let head := (reg 0x243).toNat
  let tail := (reg 0x244).toNat
  if !bit (reg 0x242) 7 || decide ((head + 2 ^ 32 - tail) % 2 ^ 32 = 2 ^ lsize) then
    s.setDie d { die with cr := tput die.cr 0x245 (reg 0x245 + 1) }
  else
    let w1 := if kind = 1 then mark else word (bits (t.ctl cStripord) 31 0 + 2 ^ 32 * bits (t.ctl 0x2C1) 31 0)
    let bs := leBytes 8 (bits (t.ctl cStripaddr) 55 0 + 2 ^ 56 * kind) ++ leBytes 8 w1.toNat ++ leBytes 2 t.vl
      ++ leBytes 1 (t.grant % 8) ++ leBytes 1 0 ++ leBytes 4 (s.strandId sid).toNat ++ leBytes 8 s.time
    let base := bits (reg 0x241) 51 0 / 2 ^ (5 + lsize) * 2 ^ (5 + lsize) + 32 * (head % 2 ^ lsize)
    let s := s.clearCovered ((List.range 4).map (fun i => (base + 8 * i, (0xFF : BitVec 8)))) 0 t.tenant
    let s := (List.range 4).foldl (fun s i =>
      s.arriveHome (base + 8 * i) 0xFF (word (leField bs (8 * i) 8)) none 0 t.tenant) s
    s.modDie d (fun x => { x with cr := tput x.cr 0x243 (word ((head + 1) % 2 ^ 32)) })

/-! ### Stops (R414) -/

/-- A stop: the strand is HELD, the entry stands in ctl.dbgstat, and source 5 is raised at the setter's core.  A queued result that its
scalar stream awaits is awaited still. -/
def State.stopStrand (s : State) (sid idx : Nat) (setter : Nat) : State :=
  let s := s.modSt sid (fun t => { t with
    st := .held, heldFrom := .run, bpStop := true, bpIdx := idx, bpArmed := none, wait := if t.wait = .vres then .vres else .none })
  (s.traceRecord sid 2 0).raiseSource (coreOfSid setter) 5

/-- The breakpoint entries of a strand. -/
def State.breakpoints (s : State) (sid : Nat) : List (Nat × Breakpoint) :=
  (s.core (coreOfSid sid)).bps.filter (fun e => e.2.slot = slotOfSid sid)

/-- A data access arms the strand's data breakpoints whose range it touches. -/
def State.dataHit (s : State) (sid ea n : Nat) (write : Bool) : State :=
  let hit := (s.breakpoints sid).find? (fun e => e.2.kind = 2 && (if write then e.2.wr else e.2.rd)
    && decide (ea < e.2.addr.toNat + 2 ^ e.2.len) && decide (e.2.addr.toNat < ea + n))
  match hit with
  | some e => s.modSt sid (fun t => { t with bpArmed := some e.1 })
  | none => s

/-- The strand stops before this stop point when a breakpoint of it is armed; whether it did. -/
def State.stopIfArmed (s : State) (sid : Nat) : Option State :=
  match (s.st sid).bpArmed with
  | some i => some (s.stopStrand sid i (match tfind (s.core (coreOfSid sid)).bps i with | some b => b.setter | none => sid))
  | none => none

/-! ### Unfinished commands (R237, R269) -/

/-- A strand has an unfinished matrix command: queued, performing or paused, or a follow-on still to be issued. -/
def State.matrixPending (s : State) (sid : Nat) : Bool :=
  (s.core (coreOfSid sid)).mq.any (fun m => m.slot = slotOfSid sid)

/-- A strand has an unfinished copy command. -/
def State.copyPending (s : State) (sid : Nat) : Bool :=
  (s.core (coreOfSid sid)).copies.any (fun e => e.2.slot = slotOfSid sid)

/-- Nothing the strand commanded is unfinished, and no fault of it waits to be taken. -/
def State.settled (s : State) (sid : Nat) : Bool :=
  !(s.matrixPending sid) && !(s.copyPending sid) && (s.st sid).async.isEmpty

end Sys2Proof.Machine
end

