-- ==== Sys2Proof/Machine/LoadStore.lean ====
section
/-! DEFINITION. Meanings of the scalar loads and stores (04_strand R125) and of their 16-bit forms (02_words R48). -/

namespace Sys2Proof.Machine

/-- A scalar load: `n` bytes at an address, extended, to rd (R125). -/
def loadReg {w : Nat} (rd : BitVec w) (ea : Word) (n : Nat) (ext : Nat → Word) (len : Nat) : Act Unit := do
  let lat ← look (fun s => s.loadCycles (s.who s.curSid) ea n)
  let bs ← access (fun w => readMem w ea n .no) ea 0
  change (fun s => s.dataHit s.curSid ea.toNat n false)
  doneWith rd (ext (leNat bs)) len lat
  change (fun s => s.modCur (fun t => { t with loadOut := true }))

/-- A scalar store: the `n` low bytes of a value at an address (R125). -/
def storeReg (ea x : Word) (n len : Nat) : Act Unit := do
  access (fun w => writeMem w ea (leBytes n x.toNat) .no) ea 1
  change (fun s => s.dataHit s.curSid ea.toNat n true)
  done len 1

/-- LDB. -/
def execLdb (rd rs1 : BitVec 6) (imm : BitVec 12) (s : State) : Host.Outcome State Fault Refusal :=
  runAct (loadReg rd (eaLoad s rs1 imm) 1 (fun x => sextWord (word x) 8) 4) s

/-- LDBU. -/
def execLdbu (rd rs1 : BitVec 6) (imm : BitVec 12) (s : State) : Host.Outcome State Fault Refusal :=
  runAct (loadReg rd (eaLoad s rs1 imm) 1 word 4) s

/-- LDH. -/
def execLdh (rd rs1 : BitVec 6) (imm : BitVec 12) (s : State) : Host.Outcome State Fault Refusal :=
  runAct (loadReg rd (eaLoad s rs1 imm) 2 (fun x => sextWord (word x) 16) 4) s

/-- LDHU. -/
def execLdhu (rd rs1 : BitVec 6) (imm : BitVec 12) (s : State) : Host.Outcome State Fault Refusal :=
  runAct (loadReg rd (eaLoad s rs1 imm) 2 word 4) s

/-- LDW. -/
def execLdw (rd rs1 : BitVec 6) (imm : BitVec 12) (s : State) : Host.Outcome State Fault Refusal :=
  runAct (loadReg rd (eaLoad s rs1 imm) 4 (fun x => sextWord (word x) 32) 4) s

/-- LDWU. -/
def execLdwu (rd rs1 : BitVec 6) (imm : BitVec 12) (s : State) : Host.Outcome State Fault Refusal :=
  runAct (loadReg rd (eaLoad s rs1 imm) 4 word 4) s

/-- LDD. -/
def execLdd (rd rs1 : BitVec 6) (imm : BitVec 12) (s : State) : Host.Outcome State Fault Refusal :=
  runAct (loadReg rd (eaLoad s rs1 imm) 8 word 4) s

/-- STB. -/
def execStb (immLo rs1 rs2 immHi : BitVec 6) (s : State) : Host.Outcome State Fault Refusal :=
  runAct (storeReg (eaStore s rs1 immHi immLo) (s.gr rs2) 1 4) s

/-- STH. -/
def execSth (immLo rs1 rs2 immHi : BitVec 6) (s : State) : Host.Outcome State Fault Refusal :=
  runAct (storeReg (eaStore s rs1 immHi immLo) (s.gr rs2) 2 4) s

/-- STW. -/
def execStw (immLo rs1 rs2 immHi : BitVec 6) (s : State) : Host.Outcome State Fault Refusal :=
  runAct (storeReg (eaStore s rs1 immHi immLo) (s.gr rs2) 4 4) s

/-- STD. -/
def execStd (immLo rs1 rs2 immHi : BitVec 6) (s : State) : Host.Outcome State Fault Refusal :=
  runAct (storeReg (eaStore s rs1 immHi immLo) (s.gr rs2) 8 4) s

/-- LDW of an address in gb. -/
def execCLdw (ga gb : BitVec 5) (s : State) : Host.Outcome State Fault Refusal :=
  runAct (loadReg ga (s.gr gb) 4 (fun x => sextWord (word x) 32) 2) s

/-- LDD of an address in gb. -/
def execCLdd (ga gb : BitVec 5) (s : State) : Host.Outcome State Fault Refusal :=
  runAct (loadReg ga (s.gr gb) 8 word 2) s

/-- STW of ga at an address in gb. -/
def execCStw (ga gb : BitVec 5) (s : State) : Host.Outcome State Fault Refusal :=
  runAct (storeReg (s.gr gb) (s.gr ga) 4 2) s

/-- STD of ga at an address in gb. -/
def execCStd (ga gb : BitVec 5) (s : State) : Host.Outcome State Fault Refusal :=
  runAct (storeReg (s.gr gb) (s.gr ga) 8 2) s

/-- LDD at 8 n above g2. -/
def execCLdsp (ga num : BitVec 5) (s : State) : Host.Outcome State Fault Refusal :=
  runAct (loadReg ga (s.gr (2 : BitVec 6) + word (8 * num.toNat)) 8 word 2) s

/-- STD at 8 n above g2. -/
def execCStsp (ga num : BitVec 5) (s : State) : Host.Outcome State Fault Refusal :=
  runAct (storeReg (s.gr (2 : BitVec 6) + word (8 * num.toNat)) (s.gr ga) 8 2) s

end Sys2Proof.Machine
end

