-- ==== Sys2Proof/Machine/Control.lean ====
section
/-! DEFINITION. Meanings of control transfer (04_strand R126), of the system instructions (R127 to R129, R131) and of the
16-bit branches and jumps (02_words R48). -/

namespace Sys2Proof.Machine

/-! ### Branches and jumps -/

/-- BEQ. -/
def execBeq (immLo rs1 rs2 immHi : BitVec 6) (s : State) : Host.Outcome State Fault Refusal :=
  s.branch (s.gr rs1 == s.gr rs2) (immHL immHi immLo) 4

/-- BNE. -/
def execBne (immLo rs1 rs2 immHi : BitVec 6) (s : State) : Host.Outcome State Fault Refusal :=
  s.branch (s.gr rs1 != s.gr rs2) (immHL immHi immLo) 4

/-- BLT, signed. -/
def execBlt (immLo rs1 rs2 immHi : BitVec 6) (s : State) : Host.Outcome State Fault Refusal :=
  s.branch (decide (sOf (s.gr rs1) < sOf (s.gr rs2))) (immHL immHi immLo) 4

/-- BGE, signed. -/
def execBge (immLo rs1 rs2 immHi : BitVec 6) (s : State) : Host.Outcome State Fault Refusal :=
  s.branch (decide (sOf (s.gr rs2) ≤ sOf (s.gr rs1))) (immHL immHi immLo) 4

/-- BLTU. -/
def execBltu (immLo rs1 rs2 immHi : BitVec 6) (s : State) : Host.Outcome State Fault Refusal :=
  s.branch (decide ((s.gr rs1).toNat < (s.gr rs2).toNat)) (immHL immHi immLo) 4

/-- BGEU. -/
def execBgeu (immLo rs1 rs2 immHi : BitVec 6) (s : State) : Host.Outcome State Fault Refusal :=
  s.branch (decide ((s.gr rs2).toNat ≤ (s.gr rs1).toNat)) (immHL immHi immLo) 4

/-- JAL: pc + 4 to rd. -/
def execJal (rd : BitVec 6) (imm : BitVec 18) (s : State) : Host.Outcome State Fault Refusal :=
  s.link rd (targetOf s (immJ imm)) 4

/-- JALR: the target is computed before rd is written. -/
def execJalr (rd rs1 : BitVec 6) (imm : BitVec 12) (s : State) : Host.Outcome State Fault Refusal :=
  s.link rd (s.gr rs1 + immS imm) 4

/-- BEQ of ga and g0. -/
def execCBeqz (ga imm : BitVec 5) (s : State) : Host.Outcome State Fault Refusal :=
  s.branch (s.gr ga == 0) (imm5 imm) 2

/-- BNE of ga and g0. -/
def execCBnez (ga imm : BitVec 5) (s : State) : Host.Outcome State Fault Refusal :=
  s.branch (s.gr ga != 0) (imm5 imm) 2

/-- JALR g0, 0(ga). -/
def execCJr (ga : BitVec 5) (s : State) : Host.Outcome State Fault Refusal :=
  .next (s.jump (s.gr ga))

/-- JAL g1: the link is pc + 2. -/
def execCJal (imm : BitVec 10) (s : State) : Host.Outcome State Fault Refusal :=
  s.link (1 : BitVec 6) (targetOf s (imm10 imm)) 2

/-! ### System instructions (R127) -/

/-- SVC: the trap SVCALL, resuming at the next instruction. -/
def execSvc (rs1 : BitVec 6) (s : State) : Host.Outcome State Fault Refusal :=
  runAct (trapTo (s.cur.pc + 4) 0 xSvcall (s.gr rs1)) s

/-- BRK: the trap BREAK, or an exact stop when break capture is armed (16_debug R414). -/
def execBrk (rs1 : BitVec 6) (s : State) : Host.Outcome State Fault Refusal :=
  runAct (do
    if s.cur.brkCap then
      waitUntil drained
      change (fun s => s.stopStrand s.curSid 0 s.cur.brkBy)
    else trap 0 xBreak (s.gr rs1)) s

/-- RETT: R128. -/
def execRett (s : State) : Host.Outcome State Fault Refusal :=
  runAct (do
    needSupervisor .rett
    change (fun s => s.modCur (fun t =>
      let cyc := s.cycleOf s.curCore
      ((t.complete cyc 0 1).rett).dropReplay))) s

/-- WAITI: on as soon as an enabled source is pending; in the wait the lanes return (R149). -/
def execWaiti (s : State) : Host.Outcome State Fault Refusal :=
  runAct (do
    needSupervisor .waiti
    if s.ipend s.curSid &&& s.cur.ctl cIenable != 0 then done 4 1
    else
      change (fun s => (s.modCur (fun t => { t with wait := .waiti })).settleLanes s.curSid)) s

/-- HALT: HALTED once the strand's vector queue and its commands have finished (R127, 08 R237, 09 R269). -/
def execHalt (s : State) : Host.Outcome State Fault Refusal :=
  runAct (do
    needSupervisor .halt
    waitUntil (fun s => s.cur.vq.isEmpty && s.settled s.curSid)
    done 4 1
    change (fun s => (s.modCur (fun t => { t with st := .halted })).settleLanes s.curSid)) s

/-- IPI: sets a pending bit of the strand a value of ctl.strandid's form names (R129), behind what its core has sent there (13_fabric
R346); it is none of the operations that a forwarding entry sends on (14_dispatch R377). -/
def execIpi (rs1 rs2 : BitVec 6) (s : State) : Host.Outcome State Fault Refusal :=
  runAct (do
    needSupervisor (.ipi rs1 rs2)
    let t := s.gr rs1
    let src := s.gr rs2
    let core := bits t 12 3
    if decide (48 ≤ src.toNat ∧ src.toNat ≤ 63) && bits t 63 23 = 0 && decide (bits t 6 3 < 10) && decide (bits t 2 0 ≤ 4)
        && bits t 22 13 = s.pkg % 1024 && s.coreInTenant core s.cur.tenant then
      waitUntil (fun s => !s.coreTraffic s.curCore core)
      change (fun s => s.setPend (core * 8 + bits t 2 0) src.toNat)
      done 4 1
    else trap 5 xPerm t) s

/-- FENCE.I: once every older store has been accepted, the strand's replay buffer and the core's L1 instruction cache
are discarded (R131). -/
def execFenceI (s : State) : Host.Outcome State Fault Refusal :=
  runAct (do
    waitUntil drained
    change (fun s => (s.modCore s.curCore (fun c => { c with icache := [] })).modCur Strand.dropReplay)
    done 4 1) s

end Sys2Proof.Machine
end

