-- ==== Sys2Proof/Machine/Waits.lean ====
section
/-! DEFINITION. Waits and what ends them early: a wait abandoned for an asynchronous fault, a drop, a save or a migration
(04_strand R439, 10_sync R278, R284), the entry of such a fault, and of an interrupt (R121). -/

namespace Sys2Proof.Machine

/-! ### Owners of full/empty words (10_sync R276) -/

/-- Who serves the full/empty accesses of a word. -/
inductive Owner where
  | core (c : Nat)
  | die (d : Nat)
deriving DecidableEq, Repr

/-- The owner of a scratchpad word, by its global scratchpad address (R276, 01 R24). -/
def ownerOf (ga : Nat) : Owner :=
  let core := ga / 2 ^ 28 % 1024
  let off := ga % 2 ^ 28
  if core % 16 = 15 then .die (core / 128)
  else if 0x8000000 ≤ off then .core (core / 16 * 16 + (off - 0x8000000) / 0x40000)
  else .core core

/-- The parked requests of an owner, and with others put in their place. -/
def State.parkedAt (s : State) (o : Owner) : List FeReq := match o with | .core c => (s.core c).parked | .die d => (s.die d).parked
def State.setParked (s : State) (o : Owner) (l : List FeReq) : State :=
  match o with
  | .core c => s.modCore c (fun x => { x with parked := l })
  | .die d => s.modDie d (fun x => { x with parked := l })

/-- The entries an owner can park. -/
def Owner.room (o : Owner) : Nat := match o with | .core _ => 64 | .die _ => 512

/-! ### Abandoning a wait -/

/-- A cancel takes the parked entries of a selection out of a core's table, where it is counted (R277, R298). -/
def Core.cancelFe (c : Core) (hit : FeReq → Bool) : Core :=
  if c.parked.any hit then
    let k := c.ctl 0x180
    { (c.setCtl 0x180 (setBits k 31 16 (bits k 31 16 + 1))) with parked := c.parked.filter (fun r => !hit r) }
  else c

/-- A strand's parked access, wherever its owner's table stands, that of a parked core among them, or the packet that carries it, is
withdrawn, as a cancel withdraws it (R278). -/
def State.withdrawFe (s : State) (sid : Nat) : State :=
  let mine := fun (r : FeReq) => decide (r.sid = sid)
  let s := { s with
    cores := s.cores.map (fun (e : Nat × Core) => (e.1, e.2.cancelFe mine))
    dies := s.dies.map (fun (e : Nat × Die) => (e.1, { e.2 with parked := e.2.parked.filter (fun r => !mine r) }))
    disp := { s.disp with parked := s.disp.parked.map (fun (p : ParkedCore) => { p with core := p.core.cancelFe mine }) } }
  { s with fabric := { s.fabric with packets := s.fabric.packets.filter (fun p =>
      match p.payload with | .fe r => r.sid != sid | .feCancel i _ _ => i != sid | _ => true) } }

/-- A word's reservation passes to the oldest strand queued for it, with the word's value, or ends (10_sync R283). -/
def State.handOn (s : State) (pa : Nat) : State :=
  match tfind s.resvs (pa / 8) with
  | none => s
  | some r =>
    match r.queue with
    | [] => { s with resvs := tdel s.resvs (pa / 8) }
    | n :: rest =>
      { s with resvs := tput s.resvs (pa / 8) { holder := coreOfSid n, sid := n, value := s.homeWord pa, queue := rest, grantTo := some n } }

/-- A strand that waits in RSV leaves the queue of its word, as a save or a migration of it makes it (10_sync R284); a grant on its
way to it goes to the next.  A reservation that a strand holds is no wait, and stays. -/
def State.leaveRsv (s : State) (sid pa : Nat) : State :=
  let s := { s with
    resvs := s.resvs.map (fun e => (e.1, { e.2 with queue := e.2.queue.filter (· ≠ sid) }))
    pendRegs := s.pendRegs.filter (fun p => p.act ≠ .atomic sid) }
  match tfind s.resvs (pa / 8) with
  | some r => if r.grantTo = some sid then s.handOn pa else s
  | none => s

/-- A strand's request leaves the lane order. -/
def State.leaveLaneOrder (s : State) (sid : Nat) : State :=
  s.modCluster (clusterOfCore (coreOfSid sid)) (fun cl =>
    { cl with laneOrder := cl.laneOrder.filter (fun r => r.core * 8 + r.slot ≠ sid || r.kind = 2) })

/-- A wait that changed nothing is given up: its places in queues are withdrawn, and the instruction stands to be issued
again (R439). -/
def State.abandon (s : State) (sid : Nat) : State :=
  let c := coreOfSid sid
  let k := slotOfSid sid
  let t := s.st sid
  let s := match t.wait with
    | .lanes => s.leaveLaneOrder sid
    | .fe _ _ _ _ _ _ _ => s.withdrawFe sid
    | .rsv pa _ _ _ _ => s.leaveRsv sid pa
    | .cbacq b _ _ => s.modCore c (fun x => { x with
        cbs := tmod {} x.cbs b (fun d => { d with pwait := d.pwait.filter (· ≠ k), cwait := d.cwait.filter (· ≠ k) }) })
    | .mbrecv _ _ _ => s.modCore c (fun x => { x with mbWait := x.mbWait.filter (· ≠ k) })
    | .bwait b _ => s.modCluster (clusterOfCore c) (fun cl => { cl with
        bars := tmod {} cl.bars b (fun r => { r with waiters := r.waiters.filter (· ≠ sid) }) })
    | .poll => s.leaveWalks sid
    | .again => s.leaveWalks sid
    | _ => s
  s.modSt sid (fun t => { t with wait := .none, flying := none, feTimer := 0 })

/-- The instructions that R439 gives up while they wait with nothing changed: those that wait for commands, nodes or their
conditions, copy and matrix commands held before acceptance, and those that wait for older vector entries before they are sent. -/
def givenUp (i : Instr) : Bool :=
  match i with
  | .mwait _ => true
  | .cpwait _ => true
  | .gwait _ _ => true
  | .rowcls _ => true
  | .lfmt _ _ _ => true
  | .cbinit _ _ _ => true
  | .cbacq _ _ _ => true
  | .mbrecv _ _ _ => true
  | .halt => true
  | .gdone => true
  | .amret => true
  | .mzero _ => true
  | .mhdr _ _ => true
  | .mop _ _ _ _ => true
  | .mopd _ _ _ _ => true
  | .mops _ _ _ _ => true
  | .mmas _ _ _ _ _ => true
  | .mrd _ _ _ => true
  | .mwr _ _ _ => true
  | .mld _ _ _ => true
  | .mst _ _ _ _ => true
  | .cpy _ _ _ _ => true
  | .cpyf _ _ _ _ => true
  | .cpym _ _ _ _ => true
  | .cpys _ _ _ _ => true
  | .ldfe _ _ => true
  | .ldff _ _ => true
  | .stfe _ _ => true
  | .stff _ _ => true
  | .rsv _ _ _ _ => true
  | .sample _ _ _ _ => true
  | .sampleDraft _ _ _ _ => true
  | .tkapp _ _ _ => true
  | .tkdraft _ _ _ => true
  | .tkconf _ _ _ => true
  | .wset _ _ _ => true
  | .wget _ _ _ => true
  | .sqfork _ _ _ => true
  | .sqstat _ _ _ => true
  | .sqiter _ _ _ => true
  | _ => false

/-- Nothing of a strand's scalar stream is in flight: its next instruction has not issued. -/
def Strand.unissued (t : Strand) : Bool := t.wait = .none || t.wait = .again

/-- An instruction of the strand is in flight that is run again until what it waits for has come. -/
def Strand.inFlight (t : Strand) : Bool := match t.wait with | .poll => true | .flight _ => true | _ => false

/-- The waits R439 abandons; every other instruction in flight completes first. -/
def Strand.abandonable (t : Strand) : Bool :=
  match t.wait with
  | .none => true
  | .again => true
  | .poll => match t.flying with | some i => givenUp i | none => true
  | .lanes => true
  | .fe _ _ _ _ _ _ _ => true
  | .rsv _ _ _ _ (.hold _ _ _) => true
  | .cbacq _ _ _ => true
  | .mbrecv _ _ _ => true
  | .bwait _ _ => true
  | .waiti => true
  | .mwait _ _ => true
  | .gwait _ _ => true
  | _ => false

/-! ### Asynchronous faults and drops (R439, 08 R236, 09 R268) -/

/-- A fault or trap is not entered while a breakpoint stop is armed: the strand stops before (16_debug R414). -/
def State.orStop (s : State) (sid : Nat) (f : State → State) : State :=
  match s.stopIfArmed sid with
  | some s' => s'
  | none => f s

/-- The oldest recorded fault or drop of a strand takes effect at its next issue point: an abandonable wait is given up, as is that
for a result whose entry a vector fault has put into the hold buffer; a fault first waits for the older vector entries.  `none` while
it cannot. -/
def State.takeAsync (s : State) (sid : Nat) : Option State :=
  let t := s.st sid
  if t.st ≠ .run || !(t.abandonable || (t.wait = .vres && t.vq.isEmpty)) then none
  else
    match t.async with
    | [] => none
    | .fault code detail tval :: r =>
      if !t.vq.isEmpty then none
      else
        some (s.orStop sid (fun s =>
          let s := (s.abandon sid).modSt sid (fun t => { t with async := r })
          s.enter sid (causeWord false true false detail code) tval (s.st sid).pc))
    | .drop rec :: r =>
      let s := (s.abandon sid).modSt sid (fun t => { t with async := r })
      some (s.dropStrand { rec with time := word s.time })
    | .vfault cause tval vepc velem :: r =>
      some (s.orStop sid (fun s =>
        let s := (s.abandon sid).modSt sid (fun t => (({ t with async := r }).setCtl cVepc vepc).setCtl cVelem velem)
        s.enter sid cause tval (s.st sid).pc))

/-! ### Interrupts (R121) -/

/-- A strand stands where an instruction of its scalar stream could issue: nothing of it is in flight, but a WAITI, which an
interrupt ends. -/
def Strand.atIssue (t : Strand) (cycle : Nat) : Bool :=
  t.st = .run && (t.unissued || t.wait = .waiti) && decide (t.readyAt ≤ cycle)

/-- The interrupt that is due is entered, once the vector queue is empty: cause intr, code the source, value 0, resume
the instruction that did not issue.  A WAITI it ends has completed (R127). -/
def State.takeInterrupt (s : State) (sid : Nat) : Option State :=
  let t := s.st sid
  match s.interruptDue sid with
  | none => none
  | some n =>
    if t.vq.isEmpty && t.async.isEmpty then
      let s := if t.wait = .waiti then s.finish0 sid else s.abandon sid
      some (s.enter sid (causeWord true false false 0 n) 0 (s.st sid).pc)
    else none

/-! ### Where an entry restarts (05_vector R149, R152) -/

/-- The element size in bytes a shadow header gives (03_numbers R91, R99). -/
def VHdr.esize (h : VHdr) : Nat := if h.efmt = 0 then 2 ^ h.rawsz.toNat else esizeOf h.efmt.toNat

/-- The register whose header sizes the elements of a memory instruction. -/
def memData (i : Instr) : Option (BitVec 5) :=
  match i with
  | .vld vd _ _ => some vd
  | .vlds vd _ _ _ => some vd
  | .vldx vd _ _ _ => some vd
  | .vst vd _ _ => some vd
  | .vsts vd _ _ _ => some vd
  | .vstx vd _ _ _ => some vd
  | .vstt vd _ _ => some vd
  | .vldc vd _ _ _ => some vd
  | .vamo vd _ _ _ _ _ => some vd
  | .vrdm vd _ _ _ _ _ => some vd
  | _ => none

/-- The elements of a group of an entry: the 64 bytes of one lane cluster (DESIGN CHOICE, log 86: R152 does not size its groups). -/
def VEntry.groupSize (t : Strand) (e : VEntry) : Nat :=
  match e.tile, memData e.ins with
  | some h, _ => 64 / esizeOf h.efmt
  | none, some vd => 64 / (t.vhr vd.toNat).esize
  | none, none => 64

/-- The oldest entry has performed the elements below `elem`: it restarts there, and completing a group restarts its timer (R152). -/
def Strand.restartAt (t : Strand) (elem : Nat) : Strand :=
  match t.vq with
  | [] => t
  | e :: r =>
    let n := e.groupSize t
    let t := if e.start / n < elem / n then t.restartTimer else t
    { t with vq := { e with start := elem } :: r }

/-! ### Vector faults (R118) -/

/-- A recorded vector fault comes before the faults of commands that wait for the strand's vector work, and behind the drops that are
older (R34, R118). -/
def recordVector (l : List AsyncEv) (v : AsyncEv) : List AsyncEv :=
  match l with
  | [] => [v]
  | .drop r :: l => .drop r :: recordVector l v
  | l => v :: l

/-- A vector fault of a strand: taken at once when no scalar instruction of it is in flight, or one that has changed nothing and is
issued again on return, otherwise when that one has completed; the queue goes to the hold buffer in either case.  Where an armed stop
or an older drop (R34) comes first, the entry is performed again from its element. -/
def State.vectorFault (s : State) (sid detail code : Nat) (tval : Word) (velem : Nat) : State :=
  let t := s.st sid
  match t.vq with
  | [] => s
  | e :: _ =>
    let reached := s.modSt sid (fun t => t.restartAt velem)
    -- a wait that changed nothing is issued again on return; one for a queued result goes on with its entry
    let now := t.st = .run && (t.abandonable || t.wait = .poll || t.wait = .vres)
    match (if now then (if t.wait = .vres then reached else reached.abandon sid).stopIfArmed sid else none) with
    | some s' => s'
    | none =>
      let cause := causeWord false false true detail code
      if now then
        match t.async with
        | .drop rec :: r => ((reached.abandon sid).modSt sid (fun t => { t with async := r })).dropStrand { rec with time := word s.time }
        | _ => (reached.abandon sid).enterVector sid detail code tval e.pc (word velem) false
      else
        reached.modSt sid (fun t => { t with
          hold := t.vq, vq := [], status := { t.status with vhold := true }
          async := recordVector t.async (.vfault cause tval e.pc (word velem)) })

end Sys2Proof.Machine
end

