-- ==== Sys2Proof/Machine/Fetch.lean ====
section
/-! DEFINITION. Fetching a word (02_words R40, R42, R43): each halfword under the rules of its own address, through the
core's L1 instruction cache in the translated space; and the words a complete capture replays (05_vector R151). -/

namespace Sys2Proof.Machine

/-- One halfword at an address: its place, the X right, its bytes. -/
def fetchHalf (w : Who) (a : Nat) : Acc Nat := do
  let p ← placeAt w a
  checkRights w a needX
  mayEnter w p
  match p with
  | .translated =>
    let c := (← get).core w.core
    match tfind c.icache a, tfind c.icache (a + 1) with
    | some x, some y => return x.1.toNat + 256 * y.1.toNat
    | _, _ =>
      let bs ← loadBytes w p a 2 .no
      modify (fun s => s.modCore w.core (fun c =>
        let key := match tfind c.l1 (a / 8) with | some e => e.key | none => 0
        { c with icache := tputs c.icache [(a, lget 0 bs 0, key), (a + 1, lget 0 bs 1, key)] }))
      return leNat bs
  | _ => return leNat (← loadBytes w p a 2 .no)

/-- A halfword of the current strand's word; a page fault drops it with ctl.epc at the word (R42). -/
def fetchAt (ea : Word) : Act Nat := do
  let s ← get
  match fetchHalf (s.who s.curSid) ea.toNat s with
  | .ok x s' =>
    set s'
    return x
  | .error e s' =>
    if e.final && !drained s then stall
    else
      set s'
      match e with
      | .page t l k =>
        change (fun s =>
          let s := s.modCur (fun t => t.setCtl cEpc t.pc)
          s.dropStrand (s.faultRec s.curSid ea.toNat t 2 l 0 k))
        endHere
      | _ => failed e ea 2

/-- The word at the current strand's pc: one halfword, or two. -/
def fetchWord : Act Nat := do
  let pc ← look (fun s => s.cur.pc)
  let h ← fetchAt pc
  if h % 2 = 0 then return h
  else
    let h2 ← fetchAt (pc + 2)
    return h + 2 ^ 16 * h2

/-- The captured word the strand's path now passes, while its capture is complete (R151). -/
def Strand.replayed (t : Strand) : Option Instr :=
  if t.replay.complete then (t.replay.words.find? (fun w => w.1 = t.pc)).map (·.2) else none

end Sys2Proof.Machine
end

