-- ==== Sys2Proof/Machine/Funcs.lean ====
section
/-! DEFINITION. The functions of the vector lanes that are no single arithmetic operation: reciprocal, reciprocal square
root, 2^x and log2 x, correctly rounded (05_vector R160); the narrowing with a carry (03_numbers R85); conversions of
elements (R77, R82 to R84). -/

namespace Sys2Proof.Machine

/-! ### Reciprocals -/

/-- The dyadic 1. -/
def dyOne : Dy := { neg := false, m := 1, e := 0 }

/-- 1 / x (R160 VRCP). -/
def Fmt.recip (f : Fmt) (md : RMode) (x : FVal) : Nat × Nat := f.div md (.fin dyOne) x

/-- 1 / sqrt of a positive dyadic, cut after enough bits with the rest as a sticky bit. -/
def Dy.rootRecip (x : Dy) : Dy :=
  let m := if x.e % 2 = 0 then x.m else 2 * x.m
  let e := if x.e % 2 = 0 then x.e else x.e - 1
  let k := 160 + Nat.log2 m
  let r := isqrt (2 ^ (2 * k) / m)
  { neg := false, m := 2 * r + b2n (r * r * m != 2 ^ (2 * k)), e := -(e / 2) - (k : Int) - 1 }

/-- 1 / sqrt x (R160 VRSQ). -/
def Fmt.rsqrt (f : Fmt) (md : RMode) (x : FVal) : Nat × Nat :=
  match x with
  | .nan sig => (f.nan, if sig then flagNV else 0)
  | .inf neg => if neg then (f.nan, flagNV) else (f.code false 0, 0)
  | .fin a =>
    if a.m = 0 then (f.infCode a.neg, flagDZ)
    else if a.neg then (f.nan, flagNV)
    else f.roundIeee md a.rootRecip

/-! ### 2^x and log2 x

The values are irrational but where they are exact, so a value cut far below the last place of any format, with a
sticky bit, rounds as the exact one. -/

/-- ln 2 x 2^320, rounded down. -/
def ln2Fix : Nat := 0xb17217f7d1cf79abc9e3b39803f2f6af40f343267298b62d8a0d175b8baafa2be7b876206debac98

/-- The sum of the terms of e^t from term `i` on, for t = t x 2^-320, rounded down. -/
def expTerms (fuel i t term : Nat) : Nat :=
  match fuel with
  | 0 => 0
  | n + 1 => term + expTerms n (i + 1) t (term * t / 2 ^ 320 / i)

/-- 2^f x 2^320 for f = a x 2^-k below 1, rounded down. -/
def exp2Fix (a k : Nat) : Nat := expTerms 100 1 (a * ln2Fix / 2 ^ k) (2 ^ 320)

/-- 2^x (R160 VEXP2). -/
def Fmt.exp2 (f : Fmt) (md : RMode) (x : FVal) : Nat × Nat :=
  match x with
  | .nan sig => (f.nan, if sig then flagNV else 0)
  | .inf neg => (if neg then f.code false 0 else f.infCode false, 0)
  | .fin a =>
    if a.m = 0 then f.roundIeee md dyOne
    else if 0 ≤ a.e + (Nat.log2 a.m : Int) - 12 then
      -- |x| is at least 4096: far outside every format's range
      f.roundIeee md { neg := false, m := 3, e := if a.neg then -9000 else 9000 }
    else
      let k := (-a.e).toNat
      let i : Int := a.at (min a.e 0)
      let n := i / (2 ^ k : Nat)
      let r := (i % (2 ^ k : Nat)).toNat
      if r = 0 then f.roundIeee md { neg := false, m := 1, e := n }
      else f.roundIeee md { neg := false, m := 2 * exp2Fix r k + 1, e := n - 321 }

/-- Odd terms of atanh z from power 2 i + 1 on, for z^(2 i + 1) = p x 2^-320 and z^2 = q x 2^-320, rounded down. -/
def atanhTerms (fuel i p q : Nat) : Nat :=
  match fuel with
  | 0 => 0
  | n + 1 => p / (2 * i + 1) + atanhTerms n (i + 1) (p * q / 2 ^ 320) q

/-- log2 y x 2^320 for y = m / 2^l between 1 and 2, rounded down. -/
def log2Fix (m l : Nat) : Nat :=
  let z := (m - 2 ^ l) * 2 ^ 320 / (m + 2 ^ l)
  2 * atanhTerms 110 0 z (z * z / 2 ^ 320) * 2 ^ 320 / ln2Fix

/-- log2 x (R160 VLOG2). -/
def Fmt.log2 (f : Fmt) (md : RMode) (x : FVal) : Nat × Nat :=
  match x with
  | .nan sig => (f.nan, if sig then flagNV else 0)
  | .inf neg => if neg then (f.nan, flagNV) else (f.infCode false, 0)
  | .fin a =>
    if a.m = 0 then (f.infCode true, flagDZ)
    else if a.neg then (f.nan, flagNV)
    else
      let l := Nat.log2 a.m
      let n : Int := a.e + l
      if a.m = 2 ^ l then f.roundIeee md (dyInt n)
      else
        let v : Int := n * (2 ^ 320 : Nat) + log2Fix a.m l
        if 0 ≤ v then f.roundIeee md { neg := false, m := 2 * v.toNat + 1, e := -321 }
        else f.roundIeee md { neg := true, m := 2 * ((-v).toNat - 2 ^ 20) + 1, e := -321 }

/-! ### Conversions (R77, R82 to R85) -/

/-- The exact value of an element read for a conversion: integers are signed (05_vector R166). -/
def cvtVal (efmt bits x : Nat) : FVal :=
  if isFloat efmt then (fmtOf efmt).val x else .fin (dyInt (intOf true bits x))

/-- cvt into an element format by a narrowing mode: the code and flags (R77, R82 to R84).  Between two binary8 formats the
widening to binary32 is exact, so it is not written out. -/
def cvtTo (target : Nat) (md : NMode) (v : FVal) : Nat × Nat :=
  if isFloat target then (fmtOf target).narrow md v
  else
    let n := 8 * esizeOf target
    let r := v.toIntN (if md = .rtz then .rtz else .rne) true n
    (wrapI r.1 n, r.2)

/-- A narrowing under EF of one element: the code, the new carry and flags (R85).  DESIGN CHOICE (log 82): the flags are those of the
narrowing itself; R85 names none for its two inner binary32 roundings, and none for a sum that is NaN but those of the source. -/
def efStep (target : Nat) (v : FVal) (carry : Nat) : Nat × Nat × Nat :=
  let f := fmtOf target
  let t := add32 (rne32 v) carry
  match fmtF.val t with
  | .nan _ => (f.nan, 0, v.nv)
  | .inf neg =>
    let r := f.narrow .ef (.inf neg)
    (r.1, 0, r.2)
  | .fin x =>
    let r := f.narrowFin .sat x
    match f.val r.1 with
    | .fin y =>
      let c := (fmtF.sub .rne (.fin x) (.fin y)).1
      let lim := f.ulpMax
      let c' := match fmtF.val c with
        | .fin d =>
          if lim.lt d then (fmtF.roundIeee .rne lim).1
          else if d.lt lim.opp then (fmtF.roundIeee .rne lim.opp).1
          else c
        | _ => c
      (r.1, c', r.2)
    | _ => (r.1, 0, r.2)

end Sys2Proof.Machine
end

