-- ==== Sys2Proof/Machine/Regs.lean ====
section
/-! DEFINITION. Control registers: who may read and write each (04_strand R112 and the tables of R141, R204, R211, R266, R298,
R320, R385, R404, R419, R438), what each reads as, and what a write of it does, but for the two registers that issue
commands (ctl.dbgcmd, ctl.dcmd). -/

namespace Sys2Proof.Machine

/-! ### Access (00_scope R7, R112) -/

/-- What a mode may do with a register. -/
inductive Access where
  | none | ro | rw | wo
deriving DecidableEq, Repr

/-- The three columns of a register's row: task, supervisor, monitor. -/
def ctlColumns (n : Nat) : Access × Access × Access :=
  let sup : Access × Access × Access := (.none, .rw, .rw)
  let mon : Access × Access × Access := (.none, .none, .rw)
  let ro : Access × Access × Access := (.ro, .ro, .ro)
  let monW : Access × Access × Access := (.none, .ro, .rw)
  let supR : Access × Access × Access := (.none, .ro, .ro)
  let taskR : Access × Access × Access := (.ro, .rw, .rw)
  if n = 0x000 ∨ n = 0x033 ∨ n = 0x040 ∨ n = 0x240 ∨ (0x200 ≤ n ∧ n ≤ 0x203) then taskR
  else if n ≤ 0x00C ∨ n = 0x044 ∨ n = 0x045 ∨ n = 0x10B ∨ n = 0x10E ∨ n = 0x140 ∨ n = 0x244 ∨ n = 0x2C3 ∨ n = 0x301 then sup
  else if (0x010 ≤ n ∧ n ≤ 0x014) ∨ (0x1C4 ≤ n ∧ n ≤ 0x1C7) ∨ n = 0x283 ∨ n = 0x285 ∨ n = 0x2C8 ∨ n = 0x2C9 then mon
  else if n = 0x020 ∨ n = 0x021 ∨ n = 0x034 ∨ (0x248 ≤ n ∧ n ≤ 0x24A) then (.rw, .rw, .rw)
  else if n = 0x100 ∨ n = 0x101 ∨ n = 0x108 ∨ n = 0x109 ∨ n = 0x1C8 ∨ n = 0x241 ∨ n = 0x242 ∨ n = 0x284 then monW
  else if n = 0x102 ∨ n = 0x10A ∨ n = 0x10C ∨ n = 0x243 ∨ n = 0x245 ∨ n = 0x281 ∨ n = 0x2C4 then supR
  else if n = 0x10D ∨ n = 0x282 then (.none, .wo, .wo)
  else if n = 0x24B then (.wo, .wo, .wo)
  else if n = 0x2CA then (.none, .none, .wo)
  else if n = 0x2CB then (.none, .none, .ro)
  else if ctlAssigned n then ro
  else (.none, .none, .none)

/-- A core of this kind has the register (R204, R211). -/
def ctlPresent (core n : Nat) : Bool :=
  ctlAssigned n && !(0x108 ≤ n && n ≤ 0x10E && !isStreamCore core) && !(0x300 ≤ n && n ≤ 0x302 && isStreamCore core)

/-- The access a mode has on a core. -/
def ctlAccess (core n : Nat) (m : Mode) : Access :=
  if !ctlPresent core n then .none
  else
    let (t, sv, mo) := ctlColumns n
    match m with
    | .task => t
    | .supervisor => sv
    | .monitor => mo

/-! ### Reading -/

/-- ctl.vqstat (R141). -/
def State.vqstat (s : State) (sid : Nat) : Word :=
  let t := s.st sid
  let restore := (s.cluster (clusterOfCore (coreOfSid sid))).laneOrder.any (fun r => r.core * 8 + r.slot = sid && r.kind = 2)
  word (t.vq.length + 32 * t.replay.words.length + 2048 * b2n t.replay.complete + 4096 * b2n restore)

/-- ctl.amstat (R136): its counters are stored, its occupancies read. -/
def Core.amstat (c : Core) : Word :=
  let n := fun (reply : Bool) => (c.amq.filter (fun m => m.reply = reply)).length
  word (bits (c.ctl cAmstat) 31 0 + 2 ^ 32 * n false + 2 ^ 37 * n true + 2 ^ 42 * b2n c.amRun.isSome)

/-- ctl.dbgstat (16_debug R419). -/
def State.dbgstat (s : State) (sid : Nat) : Word :=
  let t := s.st sid
  word (b2n t.dbgHalted + 2 * b2n t.bpStop + 4 * (t.bpIdx % 8) + 32 * b2n t.brkCap + 64 * b2n (s.holds.contains t.tenant))

/-- Live key slots (17_service R431). -/
def State.liveKeys (s : State) : Nat := (s.svc.keys.filter (fun e => e.2.live)).length

/-- A mask over the dies. -/
def dieMask (p : Nat → Bool) : Nat := ((List.range 8).map (fun d => if p d then 2 ^ d else 0)).foldl (· + ·) 0

/-- ctl.svstat (R438). -/
def State.svstat (s : State) : Word :=
  word (b2n s.svc.portOpen + 2 * (s.liveKeys % 256) + 2 ^ 9 * dieMask (fun d => !(s.die d).absent)
    + 2 ^ 17 * dieMask (fun d => !(s.die d).absent && !(s.die d).full) + 2 ^ 25 * b2n s.svc.evlost)

/-- ctl.mstat (08_matrix R211). -/
def Core.mstat (c : Core) : Word :=
  word (c.mq.length + 256 * b2n (c.accHeader 0).lock + 512 * b2n (c.accHeader 1).lock
    + 1024 * b2n (c.accHeader 2).lock + 2048 * b2n (c.accHeader 3).lock)

/-- ctl.cpstat (09_copy R266). -/
def Core.cpstat (c : Core) : Word :=
  let opened := fun (n : Nat) => match tfind c.rows n with | some r => r.bank.isSome | none => false
  word (c.copies.length + 256 * b2n (opened 0) + 512 * b2n (opened 1) + 1024 * b2n (opened 2) + 2048 * b2n (opened 3))

/-- ctl.dstat (14_dispatch R385). -/
def State.dstat (s : State) : Word :=
  word (s.disp.nodes.length + 2 ^ 16 * (s.disp.nodes.filter (fun n => n.state = .ready)).length + 2 ^ 32 * s.disp.orphan.toNat)

/-- The shared-region entry ctl.shrsel selects. -/
def State.shrEntry (s : State) : ShrEntry :=
  tget { valid := false, base := 0, size := 0, rights := 0 } s.shared ((s.pctl 0x1C4).toNat % 64)

/-- An operation has been announced: its window has ended, so that no other takes that window from it (11_home R314). -/
def ScOp.announced (o : ScOp) (cycle : Nat) : Bool := match o.window with | some w => decide (16 * (w + 1) ≤ cycle) | none => false

/-- What a control register reads as for a strand. -/
def State.readCtl (s : State) (sid n : Nat) : Word :=
  let core := coreOfSid sid
  let c := s.core core
  let t := s.st sid
  let d := s.die (dieOfCore core)
  match n with
  | 0x000 => t.status.toWord
  | 0x009 => s.ipend sid
  | 0x00A => c.ctl n
  | 0x00B => c.ctl n
  | 0x037 => s.vqstat sid
  | 0x042 => s.strandId sid
  | 0x043 => s.coreId core
  | 0x044 => c.ctl n
  | 0x045 => c.amstat
  | 0x050 => word s.time
  | 0x051 => word (s.cycleOf core)
  | 0x10A => if s.isHolding core then c.ctl n else 0
  | 0x10B => if s.isHolding core then c.ctl n else 0
  | 0x10C => if s.isHolding core then word (lget 0 c.vicq 0) else 0
  | 0x10D => 0
  | 0x10E => if s.isHolding core then c.ctl n else 0
  | 0x140 => t.ctl n
  | 0x141 => c.cpstat
  | 0x180 => word ((c.ctl n).toNat / 2 ^ 16 * 2 ^ 16 + c.parked.length)
  | 0x181 => t.ctl n
  | 0x182 => word (c.mbHi.length + 256 * c.mbLo.length)
  | 0x1C2 => c.ctl n + word (s.scOps.filter (fun o => o.core = core && o.announced (s.cyclesOf 767))).length
  | 0x1C0 => word (c.rvq.length + 128 * b2n c.rvqOvf + 2 ^ 32 * c.rvqOvcnt.toNat)
  | 0x1C4 => s.pctl n
  | 0x1C5 => word (s.shrEntry.base + b2n s.shrEntry.valid)
  | 0x1C6 => word s.shrEntry.size
  | 0x1C7 => word s.shrEntry.rights
  | 0x1C8 => s.pctl n
  | 0x204 => word (512 - d.seqs.length)
  | 0x240 => t.ctl n
  | 0x241 => word (bits (tget 0 d.cr n) 51 0 / 2 ^ (5 + bits (tget 0 d.cr 0x242) 4 0) * 2 ^ (5 + bits (tget 0 d.cr 0x242) 4 0))
  | 0x24B => 0
  | 0x24D => s.dbgstat sid
  | 0x280 => s.svstat
  | 0x281 => lget 0 s.svc.events 0
  | 0x282 => 0
  | 0x283 => s.pctl n
  | 0x284 =>
    let i := s.island (s.pctl 0x283).toNat
    word (i.point + 512 * b2n i.locked)
  | 0x285 => s.pctl n
  | 0x2C2 => s.dstat
  | 0x2C4 => word (c.fwd.length + 256 * (c.fwd.filter (·.held)).length)
  | 0x2CA => 0
  | 0x300 => c.mstat
  | 0x301 => t.ctl n
  | _ =>
    if 0x100 ≤ n ∧ n < 0x200 then c.ctl n
    else if 0x200 ≤ n ∧ n ≤ 0x203 then tget 0 s.tcr (t.tenant * 1024 + n)
    else if 0x242 ≤ n ∧ n ≤ 0x245 then tget 0 d.cr n
    else if n = 0x2C3 ∨ n = 0x302 then c.ctl n
    else if 0x2C8 ≤ n then s.pctl n
    else t.ctl n

/-! ### Writing -/

/-- The bits of a write that a register keeps, those the others hold. -/
def keepBits (mask old x : Word) : Word := (x &&& mask) ||| (old &&& ~~~mask)

/-- ctl.status written in a mode (R113). -/
def Status.write (t : Status) (m : Mode) (x : Word) : Status :=
  let p := bits x 5 4
  let t := { t with pie := bit x 3, ie := bit x 2, pmode := if p = 3 ∨ (p = 2 ∧ m = .supervisor) then t.pmode else modeOf p }
  if m = .monitor then { t with mpie := bit x 11, mpmode := if bits x 10 9 = 3 then t.mpmode else modeOf (bits x 10 9) } else t

/-- A ring's tail moves to a value that is neither beyond its head nor more than its size behind it (R204, R419). -/
def tailMoves (head x lsize : Nat) : Bool := decide ((head + 2 ^ 32 - x % 2 ^ 32) % 2 ^ 32 ≤ 2 ^ lsize)

/-- IPEND_CLEAR: pending bits cleared (R121). -/
def State.clearIpend (s : State) (sid : Nat) (x : Word) : State :=
  s.modSt sid (fun t => t.setCtl cIpend (t.ctl cIpend &&& ~~~x))

/-- FQTAIL_WRITE (R204). -/
def State.writeFqtail (s : State) (core : Nat) (x : Word) : State :=
  let c := s.core core
  if s.isHolding core && tailMoves (c.ctl 0x10A).toNat x.toNat (bits (c.ctl 0x109) 4 0) then
    s.setCore core (c.setCtl 0x10B (zextWord x 32))
  else s

/-- VQPOP: the oldest victim page leaves when it is the one named (R203). -/
def State.popVictim (s : State) (core : Nat) (x : Word) : State :=
  let c := s.core core
  match c.vicq with
  | v :: r => if s.isHolding core && decide (v = x.toNat) then s.setCore core { c with vicq := r } else s
  | [] => s

/-- TRTAIL_WRITE (R419). -/
def State.writeTrtail (s : State) (die : Nat) (x : Word) : State :=
  let d := s.die die
  if tailMoves (tget 0 d.cr 0x243).toNat x.toNat (bits (tget 0 d.cr 0x242) 4 0) then
    s.setDie die { d with cr := tput d.cr 0x244 (zextWord x 32) }
  else s

/-- SHRENT2_WRITE: the staged entry is installed, unless R318 has it ignored: for its size only where it is valid, for its range, if
that is not empty, in any case. -/
def State.installShared (s : State) (x : Word) : State :=
  let e : ShrEntry :=
    { valid := bit (s.pctl 0x1C5) 0, base := bits (s.pctl 0x1C5) 51 21 * 2 ^ 21, size := bits (s.pctl 0x1C6) 17 0,
      rights := bits x 7 0 }
  let idx := (s.pctl 0x1C4).toNat % 64
  let top := fun (e : ShrEntry) => e.base + e.size * 2 ^ 21
  let clash := e.size != 0 && s.shared.any (fun o => o.1 ≠ idx && o.2.valid && decide (o.2.base < top e ∧ e.base < top o.2))
  if (e.valid && e.size = 0) || decide (2 ^ 52 < top e) || clash then s
  else { s with shared := tput s.shared idx e }

/-- SVPOP: the oldest service event leaves (R437, R438). -/
def State.popEvent (s : State) : State := { s with svc := { s.svc with events := s.svc.events.drop 1, evlost := false } }

/-- IPOINT_WRITE: the selected island's point, unless R428 or R429 ignores the write (log 33). -/
def State.writeIpoint (s : State) (x : Word) : State :=
  let i := (s.pctl 0x283).toNat
  let p := bits x 4 0
  if (p = 8 ∨ p = 12 ∨ p = 15 ∨ p = 17) ∧ i < 640 ∧ (s.island i).locked = false then s.setPoint i p else s

/-- The bits that a write of a register with no behaviour of its own sets. -/
def ctlMask (n : Nat) : Word :=
  match n with
  | 0x001 => 0x8000000000003FFF
  | 0x011 => 0x8000000000003FFF
  | 0x002 => 0xFFFFFFFFFFFFFFFE
  | 0x004 => 0xFFFFFFFFFFFFFFFE
  | 0x005 => 0xFFFFFFFFFFFFFFFE
  | 0x010 => 0xFFFFFFFFFFFFFFFE
  | 0x013 => 0xFFFFFFFFFFFFFFFE
  | 0x00A => 0xFFFFFFFFFFFFFFF0
  | 0x020 => 0x1F
  | 0x035 => 0xFFFFFFFFFFFFFFFE
  | 0x040 => 0xFFFF
  | 0x045 => 0xFFFFFFFF
  | 0x100 => 0x000FFFFFFFFFE000
  | 0x101 => 0x000FFFFFFFF80000
  | 0x140 => 0x1FFFFFF1C
  | 0x1C4 => 0x3F
  | 0x1C5 => 0x000FFFFFFFE00001
  | 0x1C6 => 0x3FFFF
  | 0x240 => 3
  | 0x241 => 0x000FFFFFFFFFFFFF
  | 0x283 => 0x3FF
  | 0x285 => 0xF
  | 0x2C3 => 0xFFFF
  | 0x2C8 => 0x000FFFFFFFFFF000
  | 0x301 => 0x0000FFFFFFFFFF07
  | _ => 0xFFFFFFFFFFFFFFFF

/-- A register whose low field keeps its value on a write outside a range, with its enable bit 7 (R204, R419). -/
def lsizeField (old x : Word) (lo hi : Nat) : Word :=
  let l := bits x 4 0
  word ((if lo ≤ l ∧ l ≤ hi then l else bits old 4 0) + 128 * b2n (bit x 7))

/-- A write of a control register by a strand in a mode: its behaviour, or its writable fields (R130). -/
def State.writeCtl (s : State) (sid n : Nat) (m : Mode) (x : Word) : State :=
  let core := coreOfSid sid
  let die := dieOfCore core
  let y := x &&& ctlMask n
  let strand := fun (v : Word) => s.modSt sid (fun t => t.setCtl n v)
  let perCore := fun (v : Word) => s.modCore core (fun c => c.setCtl n v)
  let perDie := fun (f : Word → Word) => s.modDie die (fun d => { d with cr := tput d.cr n (f (tget 0 d.cr n)) })
  match n with
  | 0x000 => s.modSt sid (fun t => { t with status := t.status.write m x })
  | 0x009 => s.clearIpend sid x
  | 0x021 => if 1 ≤ bits x 2 0 ∧ bits x 2 0 ≤ 5 then strand (word (bits x 2 0)) else s
  | 0x00A => perCore y
  | 0x00B => perCore y
  | 0x044 => perCore y
  | 0x045 => perCore y
  | 0x100 => perCore y
  | 0x101 => perCore y
  | 0x108 => perCore y
  | 0x109 => s.modCore core (fun c => c.setCtl n (lsizeField (c.ctl n) x 4 16))
  | 0x10B => s.writeFqtail core x
  | 0x10D => s.popVictim core x
  | 0x10E => if s.isHolding core then perCore y else s
  | 0x1C4 => s.setPctl n y
  | 0x1C5 => s.setPctl n y
  | 0x1C6 => s.setPctl n y
  | 0x1C7 => s.installShared x
  | 0x1C8 => s.setPctl n y
  | 0x200 => { s with tcr := tput s.tcr ((s.st sid).tenant * 1024 + n) y }
  | 0x201 => { s with tcr := tput s.tcr ((s.st sid).tenant * 1024 + n) y }
  | 0x202 => { s with tcr := tput s.tcr ((s.st sid).tenant * 1024 + n) y }
  | 0x203 => { s with tcr := tput s.tcr ((s.st sid).tenant * 1024 + n) y }
  | 0x241 => perDie (fun _ => y)
  | 0x242 => perDie (fun old => lsizeField old x 8 20)
  | 0x244 => s.writeTrtail die x
  | 0x282 => s.popEvent
  | 0x283 => s.setPctl n y
  | 0x284 => s.writeIpoint x
  | 0x285 => s.setPctl n y
  | 0x2C3 => perCore y
  | 0x2C8 => s.setPctl n y
  | 0x2C9 => s.setPctl n y
  | _ => strand y

end Sys2Proof.Machine
end

