-- ==== Sys2Proof/Machine/VecSeq.lean ====
section
/-! DEFINITION. The vector sequencer: entering the queue with captured values (05_vector R142, R151), lanes and strips
(R146 to R150), SETVL and SETMVL (R148), and what an entry does when it is performed (R143). -/

namespace Sys2Proof.Machine

/-! ### Entering the queue -/

/-- VHOLD while the hold buffer holds entries (04_strand R118). -/
def checkVhold (i : Instr) : Act Unit := do
  if (← get).cur.status.vhold then trap 0 xVhold (wordOf i) else return ()

/-- The replay buffer after a vector-stream word is issued: recorded while a capture is open, a 33rd abandons it. -/
def Replay.record (r : Replay) (pc : Word) (i : Instr) : Replay :=
  if r.open_ then (if 32 ≤ r.words.length then {} else { r with words := r.words ++ [(pc, i)] }) else r

/-- The strand after an instruction enters its queue: the pc moves on, the entry holds what it captured. -/
def Strand.enqueue (t : Strand) (cycle : Nat) (i : Instr) (g1 g2 : Word) (lf : BitVec 8) : Strand :=
  let e : VEntry :=
    { pc := t.pc, ins := i, ox := (List.range 8).map t.oxr, g1 := g1, g2 := g2, vl := t.vl, frm := BitVec.ofNat 3 t.frm,
      grant := t.grant, lfmt := lf, start := 0, pd := t.pd, lanes := t.lanes }
  let t := if t.vq.isEmpty then t.restartTimer else t
  { t with
    vq := t.vq ++ [e]
    replay := t.replay.record t.pc i
    pc := t.pc + 4
    readyAt := cycle + 1
    loadOut := false
    wait := if awaited i then .vres else .none }

/-- A vector-stream instruction issues: VHOLD, a full queue holds it back, otherwise it takes an entry (R142). -/
def enqueue (i : Instr) (g1 g2 : Word) (lf : BitVec 8) : Act Unit := do
  checkVhold i
  issueWhen (fun s => decide (s.cur.vq.length < 16))
  change (fun s => s.modCur (fun t => t.enqueue (s.cycleOf s.curCore) i g1 g2 lf))

/-! ### Lanes (R146, R147) -/

/-- The lane clusters of a cluster that no strand holds. -/
def State.freeLanes (s : State) (cl : Nat) : List Nat :=
  let held := (coresOfCluster cl).flatMap (fun c => (s.core c).strands.flatMap (fun e => e.2.heldLanes))
  (List.range 16).filter (fun l => !held.contains l)

/-- A strand takes `n` free lane clusters, the lowest-numbered first. -/
def State.takeLanes (s : State) (sid n : Nat) : State :=
  let fr := (s.freeLanes (clusterOfCore (coreOfSid sid))).take n
  s.modSt sid (fun t => { t with lanes := t.lanes ++ fr })

/-- A strand with lane clusters given back: they fill its grant, and every entry that holds fewer than it counts takes the first of
them (R149). -/
def Strand.restoreLanes (t : Strand) (all : List Nat) : Strand :=
  let fill := fun (e : VEntry) => if e.lanes.length < e.grant then { e with lanes := all.take e.grant } else e
  { t with lanes := if t.lanes.length < t.grant then all.take t.grant else t.lanes, vq := t.vq.map fill, hold := t.hold.map fill }

/-- strip_step (R150). -/
def Strand.stripStep (t : Strand) : Strand :=
  if t.pc = t.ctl cStripaddr then t.setCtl cStripord (t.ctl cStripord + 1)
  else (t.setCtl cStripaddr t.pc).setCtl cStripord 0

/-- The capture a SETVL or SETMVL begins at its address (R151); a complete one of that address goes on. -/
def Replay.begin_ (r : Replay) (pc : Word) : Replay :=
  if r.complete && r.addr = pc then r else { open_ := true, complete := false, addr := pc, words := [] }

/-- SETVL or SETMVL completes with a grant: the strip, ctl.grant, ctl.vl and ctl.mvl, rd, the trace record (R148, R150,
16_debug R415). -/
def State.setvlDone (s : State) (sid rd grant vl mvl : Nat) : State :=
  let s := s.modSt sid (fun t =>
    let t := t.stripStep
    let t := ((t.setCtl cGrant (word grant)).setCtl cVl (word vl)).setCtl cMvl (word mvl)
    { t with replay := t.replay.begin_ t.pc, wait := .none })
  let s := if bit ((s.st sid).ctl 0x240) 0 then s.traceRecord sid 0 0 else s
  (s.finish sid rd (word vl)).settleLanes sid

/-- Elements of `eb` bits per lane cluster. -/
def perLane (eb : Nat) : Nat := 512 / eb

/-- The size in bits of a SETVL or SETMVL element format. -/
def setvlBits (efmt : Nat) : Nat := if efmt = 0 then 64 else 8 * esizeOf efmt

/-- SETVL holds `grant` lane clusters: vl is the lesser of avl and what they take (R148). -/
def State.setvlWith (s : State) (sid rd avl eb grant : Nat) : State :=
  s.setvlDone sid rd grant (min avl (grant * perLane eb)) 0

/-- The lane clusters SETVL wishes for, and SETMVL needs. -/
def setvlWant (avl eb : Nat) : Nat := min 4 (ceilDiv avl (perLane eb))
def setmvlWant (eb : Nat) : Nat := 64 * eb / 512

/-- A request enters the allocator's order and its strand waits (R147). -/
def State.joinLanes (s : State) (sid : Nat) (r : LaneReq) : State :=
  let s := s.modSt sid (fun t => { t with wait := .lanes })
  let s := s.settleLanes sid
  s.modCluster (clusterOfCore (coreOfSid sid)) (fun cl => { cl with laneOrder := cl.laneOrder ++ [r] })

/-- The strand's queue entries hold the lane clusters they count: no restore is due for them (R149). -/
def Strand.entriesHeld (t : Strand) : Bool := t.vq.all (fun e => decide (e.grant ≤ e.lanes.length))

/-- SETVL with a non-zero length (R147, R148).  DEDUCED (log 81): a strand whose lanes a wait of R149 returned takes no more of them
before its restore, since it would then wait in the order while it holds lanes; it keeps its grant. -/
def State.setvlTake (s : State) (sid rd avl eb : Nat) : State :=
  let t := s.st sid
  let cl := clusterOfCore (coreOfSid sid)
  let want := setvlWant avl eb
  let idle := (s.cluster cl).laneOrder.isEmpty
  let free := (s.freeLanes cl).length
  if want ≤ t.grant then s.setvlWith sid rd avl eb want
  else if 0 < t.grant then
    let n := if idle && t.lanesHeld then min (want - t.grant) free else 0
    (s.takeLanes sid n).setvlWith sid rd avl eb (t.grant + n)
  else if idle && decide (0 < free) then
    (s.takeLanes sid (min want free)).setvlWith sid rd avl eb (min want free)
  else s.joinLanes sid { core := coreOfSid sid, slot := slotOfSid sid, count := want, kind := 0, rd := rd, avl := avl, eb := eb }

/-- SETMVL with a non-zero length on a matrix core: the whole count or the order. -/
def State.setmvlTake (s : State) (sid rd avl eb : Nat) : State :=
  let t := s.st sid
  let cl := clusterOfCore (coreOfSid sid)
  let want := setmvlWant eb
  let m := min avl 64
  if want ≤ t.grant then s.setvlDone sid rd want m m
  else
    -- the whole grant returns first
    let s' := s.joinLanes sid { core := coreOfSid sid, slot := slotOfSid sid, count := want, kind := 1, rd := rd, avl := avl, eb := eb }
    if (s.cluster cl).laneOrder.isEmpty && decide (want ≤ (s'.freeLanes cl).length) then
      ((s'.leaveLaneOrder sid).takeLanes sid want).setvlDone sid rd want m m
    else s'

/-- SETVL (R148).  One that begins a grant issues after the restore of the strand's older entries (log 81). -/
def execSetvl (rd rs1 : BitVec 6) (efmt : BitVec 8) (s : State) : Host.Outcome State Fault Refusal :=
  runAct (do
    checkVhold (.setvl rd rs1 efmt)
    let avl := (s.gr rs1).toNat
    issueWhen (fun s => avl = 0 || decide (0 < s.cur.grant) || s.cur.entriesHeld)
    change (fun s =>
      if avl = 0 then s.setvlDone s.curSid rd.toNat 0 0 0 else s.setvlTake s.curSid rd.toNat avl (setvlBits efmt.toNat))) s

/-- SETMVL (R148).  One that needs more than the grant issues after the restore of the strand's older entries (log 81). -/
def execSetmvl (rd rs1 : BitVec 6) (efmt : BitVec 8) (s : State) : Host.Outcome State Fault Refusal :=
  runAct (do
    checkVhold (.setmvl rd rs1 efmt)
    let avl := (s.gr rs1).toNat
    issueWhen (fun s => avl = 0 || isStreamCore s.curCore || decide (setmvlWant (setvlBits efmt.toNat) ≤ s.cur.grant) || s.cur.entriesHeld)
    change (fun s =>
      if avl = 0 || isStreamCore s.curCore then s.setvlDone s.curSid rd.toNat 0 0 0
      else s.setmvlTake s.curSid rd.toNat avl (setvlBits efmt.toNat))) s

/-- The strip breakpoints after a SETVL or SETMVL that completed between two states (16_debug R414). -/
def State.stripStop (s0 s : State) (sid : Nat) : State :=
  let pc := (s0.st sid).pc
  let t := s.st sid
  if t.wait = .none && (t.st = .run || t.st = .held) && t.pc = pc + 4 then
    match (s.breakpoints sid).find? (fun e => e.2.kind = 0 && e.2.addr = pc
        && (e.2.ord = 0xFFFFFFFF || e.2.ord = bits (t.ctl cStripord) 31 0)) with
    | some e => s.stopStrand sid e.1 e.2.setter
    | none => s
  else s

/-- A strand at the head of the order is served: a SETVL as soon as one lane cluster is free, the others when their whole
count is. -/
def State.grantHead (s : State) (cl : Nat) : State :=
  match (s.cluster cl).laneOrder with
  | [] => s
  | r :: rest =>
    let sid := r.core * 8 + r.slot
    let free := (s.freeLanes cl).length
    let s' := s.modCluster cl (fun c => { c with laneOrder := rest })
    if r.kind = 0 then
      if free = 0 then s else s.stripStop ((s'.takeLanes sid (min r.count free)).setvlWith sid r.rd r.avl r.eb (min r.count free)) sid
    else if r.kind = 1 then
      if free < r.count then s else s.stripStop ((s'.takeLanes sid r.count).setvlDone sid r.rd r.count (min r.avl 64) (min r.avl 64)) sid
    else
      let t := s.st sid
      let n := t.lanesNeeded - t.heldLanes.length
      if free < n then s
      else (s'.modSt sid (fun t => t.restoreLanes (t.heldLanes ++ (s.freeLanes cl).take n))).settleLanes sid

/-- LANE_GRANT: the allocator of a cluster serves the head of its order (R147). -/
def execLaneGrant (cluster : Nat) (s : State) : Host.Outcome State Fault Refusal := .next (s.grantHead cluster)

/-! ### Performing an entry -/

/-- How an entry stops: a fault (R155, R185), a page fault, or a wait. -/
inductive VStop where
  | fault (detail code : Nat) (tval : Word) (elem : Nat)
  | page (va type level kind elem walk : Nat)
  | again
deriving DecidableEq, Repr

/-- A computation of an entry. -/
abbrev VAct (α : Type) := EStateM VStop State α

/-- A header fault of the arithmetic: register reference, element 0 (R155). -/
def vecFault {α : Type} (code n : Nat) : VAct α := throw (.fault 0 code (vecRef n) 0)

/-- Elements. -/
def elemAt (v : BitVec 2048) (eb i : Nat) : Nat := v.toNat / 2 ^ (eb * i) % 2 ^ eb
def setElem (v : BitVec 2048) (eb i x : Nat) : BitVec 2048 :=
  BitVec.ofNat 2048 (v.toNat - elemAt v eb i * 2 ^ (eb * i) + x % 2 ^ eb * 2 ^ (eb * i))

/-- A predicate register is the chunk register of an unfinished copy of the strand (09_copy R241). -/
def State.chunkReg (s : State) (sid k : Nat) : Bool :=
  k != 0 && (s.core (coreOfSid sid)).copies.any (fun e => e.2.slot = slotOfSid sid && e.2.kc = k)

/-- The instruction of a strand's queue that has been performed leaves it (R143): ctl.instret, the timer, the scalar
stream that awaited it, its lanes. -/
def State.retire (s : State) (sid : Nat) (e : VEntry) : State :=
  let cycle := s.cycleOf (coreOfSid sid)
  let s := s.dropLanes sid (fun t =>
    let t := t.restartTimer.setCtl cInstret (t.ctl cInstret + 1)
    if awaited e.ins && t.wait = .vres then { t with vq := t.vq.drop 1, wait := .none, readyAt := cycle + 1 }
    else { t with vq := t.vq.drop 1 })
  s.settleLanes sid

/-- The oldest entry is stopped by its strand's own page fault (R149). -/
def Strand.stopEntry (t : Strand) : Strand :=
  { t with vq := match t.vq with | [] => [] | e :: r => { e with stopped := true } :: r }

/-- A page fault of the oldest entry: the strand is dropped with ctl.velem at the element, the entry stays (R149, R185).  A scalar
instruction in flight with effects under way completes first (04_strand R439); of a strand that is DROPPED already the entry only
stops, and is performed again when the strand is woken. -/
def State.vectorDrop (s : State) (sid va type level kind elem walk : Nat) : State :=
  let s := s.modSt sid (fun t => (t.restartAt elem).stopEntry.setCtl cVelem (word elem))
  let rec_ := s.faultRec sid va type kind level (if kind = 10 then 0 else elem) walk
  let t := s.st sid
  if t.st = .dropped then s.settleLanes sid
  else if t.st != .run || t.abandonable || t.wait = .poll || t.wait = .vres then (s.abandon sid).dropStrand rec_
  else s.modSt sid (fun t => { t with async := t.async ++ [.drop rec_] })

/-- An entry can run: its strand is in RUN, held, or dropped for another access, and no page fault has stopped it. -/
def Strand.runsEntry (t : Strand) : Bool := (t.st = .run || t.st = .held || t.st = .dropped) && t.progresses

/-- The queue's oldest entry is performed, once the strand holds its lanes; before that the sequencer places a restore
request (R143, R149). -/
def State.stepEntry (s : State) (sid : Nat) (perform : VEntry → VAct Unit) : State :=
  let t := s.st sid
  match t.vq with
  | [] => s
  | e :: _ =>
    if !t.runsEntry then s
    else if !t.lanesHeld then
      let cl := clusterOfCore (coreOfSid sid)
      if (s.cluster cl).laneOrder.any (fun r => r.core * 8 + r.slot = sid) then s
      else s.modCluster cl (fun c => { c with
        laneOrder := c.laneOrder ++ [{ core := coreOfSid sid, slot := slotOfSid sid, count := t.lanesNeeded, kind := 2 }] })
    else
      match perform e s with
      | .ok _ s' => s'.retire sid e
      | .error (.fault d c v i) s' => s'.vectorFault sid d c v i
      | .error (.page va ty l k i w) s' => s'.vectorDrop sid va ty l k i w
      | .error .again s' => s'

end Sys2Proof.Machine
end

