-- ==== Sys2Proof/Machine/VecArith.lean ====
section
/-! DEFINITION. What the queued arithmetic, comparison, permutation, reduction, conversion and predicate instructions do
when their entries are performed (05_vector R153 to R168), on one strand's registers. -/

namespace Sys2Proof.Machine

/-- The outcome of an arithmetic entry on its strand: a header fault with the register it names (R155), or the strand. -/
abbrev VRes := Except (Nat × Nat) Strand

/-! ### Operand checks (R155) -/

/-- The family an opcode asks of its operands. -/
inductive Fam where
  | any | int | flt
deriving DecidableEq, Repr

/-- What R103 and R155 ask of one operand. -/
structure OpRule where
  fam : Fam := .any
  uns : Bool := false
  noSlay : Bool := false
  noSpar : Bool := false
  noB8 : Bool := false
  /-- it must agree with the first operand: 0 no, 1 format and order, 2 scales too -/
  same : Nat := 0
deriving DecidableEq, Repr

/-- The fields two operands must share.  DESIGN CHOICE (log 82): R155 does not say what two raw operands of different element sizes do;
they disagree, which is HDR_MISMATCH. -/
def VHdr.agrees (a b : VHdr) (same : Nat) : Bool :=
  same = 0 || (a.efmt = b.efmt && a.rawsz = b.rawsz && a.order = b.order
    && (same = 1 || (a.slay = b.slay && a.sfmt = b.sfmt)))

/-- `vl` elements of a size lie within the captured grant. -/
def VEntry.fits (e : VEntry) (size : Nat) : Bool := decide (e.vl * (8 * size) ≤ e.grant * 512)

/-- The four checks of one register, in order; `first` is the first operand's header. -/
def checkOperand (t : Strand) (e : VEntry) (r : OpRule) (first : Option VHdr) (n : Nat) : Except (Nat × Nat) Unit :=
  let h := t.vhr n
  let ef := h.efmt.toNat
  if (r.fam = .int && decide (3 < ef)) || (r.fam = .flt && !isFloat ef) || (r.uns && isFloat ef) then .error (xHdrMismatch, n)
  else if !e.fits h.esize then .error (xHdrShape, n)
  else if (r.noSpar && h.spar != 0) || (r.noSlay && h.slay != 0) then .error (xHdrMismatch, n)
  else if (match first with | some f => !h.agrees f r.same | none => false) then .error (xHdrMismatch, n)
  else if r.noB8 && binary8Code ef then .error (xHdrUnsup, n)
  else .ok ()

/-- The operands of an instruction in its order. -/
def checkOperands (t : Strand) (e : VEntry) (r : OpRule) (first : Option VHdr) (ns : List Nat) : Except (Nat × Nat) Unit :=
  match ns with
  | [] => .ok ()
  | n :: rest =>
    match checkOperand t e r first n with
    | .error x => .error x
    | .ok () => checkOperands t e r (match first with | some f => some f | none => some (t.vhr n)) rest

/-- An instruction without elements changes nothing once its checks have passed (R153). -/
def withChecks (t : Strand) (e : VEntry) (r : OpRule) (ns : List Nat) (go : Unit → Strand) : VRes :=
  match checkOperands t e r none ns with
  | .error x => .error x
  | .ok () => .ok (if e.vl = 0 then t else go ())

/-! ### Elements and masks -/

/-- Element `i` of a register, at a size in bits. -/
def Strand.el (t : Strand) (n eb i : Nat) : Nat := elemAt (t.vr n) eb i

/-- active(i) under a mask (02_words R71). -/
def VEntry.active (e : VEntry) (mask : BitVec 256) (i : Nat) : Bool := decide (i < e.vl) && mask.getLsbD i

/-- The active elements, ascending. -/
def VEntry.actives (e : VEntry) (mask : BitVec 256) : List Nat := (List.range e.vl).filter (fun i => mask.getLsbD i)

/-- A register with some elements set; the others keep their bits. -/
def setElems (v : BitVec 2048) (eb : Nat) (xs : List (Nat × Nat)) : BitVec 2048 := xs.foldl (fun v x => setElem v eb x.1 x.2) v

/-- The header a producer leaves: format, order and, where carried, scales of a source, and count = vl (R103). -/
def VHdr.result (h : VHdr) (count : Nat) (scales : Bool) : VHdr :=
  { efmt := h.efmt, rawsz := h.rawsz, order := h.order, count := BitVec.ofNat 16 count,
    slay := if scales then h.slay else 0, sfmt := if scales then h.sfmt else 0 }

/-- A destination with elements written and a header. -/
def Strand.putVec (t : Strand) (n eb : Nat) (xs : List (Nat × Nat)) (h : VHdr) : Strand :=
  (t.vw n (setElems (t.vr n) eb xs)).vhw n h

/-! ### Element-wise arithmetic (R157 to R160) -/

/-- The integer operations of R157. -/
inductive VIop where
  | add | sub | mul | mulh | div | min | max | and | or | xor | shl | shr | adds | subs
deriving DecidableEq, Repr

/-- f(a, b) of R157 on elements of `eb` bits, wrapped. -/
def VIop.eval (op : VIop) (uns : Bool) (eb x y : Nat) : Nat :=
  let a := intOf (!uns) eb x
  let b := intOf (!uns) eb y
  let sh := y % eb
  match op with
  | .add => wrapI (a + b) eb
  | .sub => wrapI (a - b) eb
  | .mul => wrapI (a * b) eb
  | .mulh => wrapI (a * b / (2 ^ eb : Nat)) eb
  | .div => if b = 0 then 2 ^ eb - 1 else wrapI (Int.tdiv a b) eb
  | .min => if a ≤ b then x else y
  | .max => if a ≤ b then y else x
  | .and => x &&& y
  | .or => x ||| y
  | .xor => x ^^^ y
  | .shl => x * 2 ^ sh % 2 ^ eb
  | .shr => wrapI (a / (2 ^ sh : Nat)) eb
  | .adds => wrapI (clampInt (!uns) eb (a + b)) eb
  | .subs => wrapI (clampInt (!uns) eb (a - b)) eb

/-- VV and VX integer arithmetic: `second` is vs2, or none for the captured scalar (R156, R157). -/
def vecInt (t : Strand) (e : VEntry) (op : VIop) (vd vs1 : Nat) (second : Option Nat) (mask : Nat) (uns : Bool) : VRes :=
  withChecks t e { fam := .int, noSlay := true, noSpar := true, same := 1 } (vs1 :: second.toList) (fun _ =>
    let h := t.vhr vs1
    let eb := 8 * h.esize
    let b := fun (i : Nat) => match second with | some v => t.el v eb i | none => e.g1.toNat % 2 ^ eb
    t.putVec vd eb ((e.actives (t.kr mask)).map (fun i => (i, op.eval uns eb (t.el vs1 eb i) (b i)))) (h.result e.vl false))

/-- The floating operations of R158. -/
inductive VFop where
  | add | sub | mul | div | min | max
deriving DecidableEq, Repr

/-- One element of R158: code and flags. -/
def VFop.eval (op : VFop) (f : Fmt) (md : RMode) (x y : Nat) : Nat × Nat :=
  match op with
  | .add => f.add md (f.val x) (f.val y)
  | .sub => f.sub md (f.val x) (f.val y)
  | .mul => f.mul md (f.val x) (f.val y)
  | .div => f.div md (f.val x) (f.val y)
  | .min => f.minMax false x y
  | .max => f.minMax true x y

/-- Elements computed with flags: the results written, the flags of the active elements ORed (R75). -/
def Strand.putFlags (t : Strand) (n eb : Nat) (xs : List (Nat × Nat × Nat)) (h : VHdr) : Strand :=
  (t.putVec n eb (xs.map (fun x => (x.1, x.2.1))) h).raise (xs.foldl (fun f x => f ||| x.2.2) 0)

/-- A floating operation element by element over operand registers. -/
def vecFltWith (t : Strand) (e : VEntry) (vd vs1 : Nat) (regs : List Nat) (mask : Nat)
    (f : Fmt → RMode → Nat → Nat → Nat × Nat) : VRes :=
  withChecks t e { fam := .flt, noSlay := true, noSpar := true, noB8 := true, same := 1 } regs (fun _ =>
    let h := t.vhr vs1
    let eb := 8 * h.esize
    let fm := fmtOf h.efmt.toNat
    let md := rmodeOf e.frm.toNat
    t.putFlags vd eb ((e.actives (t.kr mask)).map (fun i => (i, f fm md eb i))) (h.result e.vl false))

/-- VV and VX floating arithmetic (R158). -/
def vecFlt (t : Strand) (e : VEntry) (op : VFop) (vd vs1 : Nat) (second : Option Nat) (mask : Nat) : VRes :=
  vecFltWith t e vd vs1 (vs1 :: second.toList) mask (fun fm md eb i =>
    op.eval fm md (t.el vs1 eb i) (match second with | some v => t.el v eb i | none => e.g1.toNat % 2 ^ eb))

/-- VFMA, VFMS, VFNMA (R159): the signs of the product and of the addend. -/
def vecFma (t : Strand) (e : VEntry) (negProd negAdd : Bool) (vd vs1 vs2 mask : Nat) : VRes :=
  vecFltWith t e vd vs1 [vs1, vs2, vd] mask (fun fm md eb i =>
    let x := fm.val (t.el vs1 eb i)
    let z := fm.val (t.el vd eb i)
    fm.fma md (if negProd then x.opp else x) (fm.val (t.el vs2 eb i)) (if negAdd then z.opp else z))

/-- The functions of one operand (R160). -/
def vecFun (t : Strand) (e : VEntry) (fn : Fmt → RMode → FVal → Nat × Nat) (vd vs1 mask : Nat) : VRes :=
  vecFltWith t e vd vs1 [vs1] mask (fun fm md eb i => fn fm md (fm.val (t.el vs1 eb i)))

/-! ### Comparison and selection (R161, R162) -/

/-- How two elements relate, with their signalling-NaN flag. -/
def elemRel (ef1 ef2 : Nat) (uns : Bool) (eb x y : Nat) : FRel × Nat :=
  if isFloat ef1 then
    let a := (fmtOf ef1).val x
    let b := (fmtOf ef2).val y
    (a.rel b, a.nv ||| b.nv)
  else
    let a := intOf (!uns) eb x
    let b := intOf (!uns) eb y
    (if a < b then .lt else if b < a then .gt else .eq, 0)

/-- A condition code holds of a relation (R161). -/
def condHolds (cond : Nat) (r : FRel) : Bool :=
  match cond with
  | 0 => r = .eq
  | 1 => r != .eq
  | 2 => r = .lt
  | 3 => r = .lt || r = .eq
  | 4 => r = .gt
  | 5 => r = .gt || r = .eq
  | _ => r = .un

/-- The flags of one comparison: the ordered conditions raise NV for any NaN. -/
def condFlags (cond : Nat) (r : FRel × Nat) : Nat := if 2 ≤ cond ∧ cond ≤ 5 ∧ r.1 = .un then flagNV else r.2

/-- A predicate register with bits set to values. -/
def setKBits (k : BitVec 256) (bs : List (Nat × Bool)) : BitVec 256 :=
  bs.foldl (fun k b => if b.2 then k ||| BitVec.ofNat 256 (2 ^ b.1) else k &&& ~~~BitVec.ofNat 256 (2 ^ b.1)) k

/-- Two operands VCMP accepts. -/
def comparable (a b : VHdr) : Bool :=
  (a.efmt = b.efmt && (a.efmt != 0 || a.rawsz = b.rawsz)) || (binary8Code a.efmt.toNat && binary8Code b.efmt.toNat)

/-- VCMP (R161). -/
def vecCmp (t : Strand) (e : VEntry) (cond kd vs1 vs2 mask : Nat) (uns : Bool) : VRes :=
  match checkOperands t e { uns := uns } none [vs1, vs2] with
  | .error x => .error x
  | .ok () =>
    let h1 := t.vhr vs1
    let h2 := t.vhr vs2
    if !comparable h1 h2 then .error (xHdrMismatch, vs2)
    else
      let eb := 8 * h1.esize
      let rs := (e.actives (t.kr mask)).map (fun i =>
        (i, elemRel h1.efmt.toNat h2.efmt.toNat uns eb (t.el vs1 eb i) (t.el vs2 eb i)))
      let k := setKBits (t.kr kd) (rs.map (fun r => (r.1, condHolds cond r.2.1)))
      .ok ((t.kw kd k).raise (rs.foldl (fun f r => f ||| condFlags cond r.2) 0))

/-- The rule of the data-movement instructions: scales are carried, sparsity faults (R103). -/
def moveRule : OpRule := { noSpar := true, same := 2 }

/-- VSEL: the mask selects (R162). -/
def vecSel (t : Strand) (e : VEntry) (vd vs1 mask : Nat) : VRes :=
  withChecks t e moveRule [vs1] (fun _ =>
    let h := t.vhr vs1
    let eb := 8 * h.esize
    let k := t.kr mask
    t.putVec vd eb ((List.range e.vl).map (fun i => (i, if k.getLsbD i then t.el vs1 eb i else e.g1.toNat))) (h.result e.vl true))

/-- VBCAST. -/
def vecBcast (t : Strand) (e : VEntry) (vd vs1 mask : Nat) : VRes :=
  withChecks t e moveRule [vs1] (fun _ =>
    let h := t.vhr vs1
    let eb := 8 * h.esize
    let x := if e.g1.toNat < e.vl then t.el vs1 eb e.g1.toNat else 0
    t.putVec vd eb ((e.actives (t.kr mask)).map (fun i => (i, x))) (h.result e.vl true))

/-- VEXT: an element to a g register; 0 beyond vl. -/
def vecExt (t : Strand) (e : VEntry) (gd vs1 : Nat) (uns : Bool) : VRes :=
  match checkOperands t e { moveRule with uns := uns } none [vs1] with
  | .error x => .error x
  | .ok () =>
    let h := t.vhr vs1
    let eb := 8 * h.esize
    let x := if e.g1.toNat < e.vl then t.el vs1 eb e.g1.toNat else 0
    .ok (t.wr gd (if isFloat h.efmt.toNat || uns then word x else wordI (sext x eb)))

/-- VINS: one element of vd; its header keeps every field except count, which becomes ctl.vl where j is not below it too (DESIGN CHOICE,
log 82). -/
def vecIns (t : Strand) (e : VEntry) (vd : Nat) : VRes :=
  withChecks t e moveRule [vd] (fun _ =>
    let h := t.vhr vd
    t.putVec vd (8 * h.esize) (if e.g2.toNat < e.vl then [(e.g2.toNat, e.g1.toNat)] else [])
      { h with count := BitVec.ofNat 16 e.vl })

/-! ### Permutation (R163) -/

/-- Each active element with the count of active elements below it. -/
def ranked (xs : List Nat) : List (Nat × Nat) := (List.range xs.length).zip xs

/-- A permutation of one source: the pairs it writes, from the source's elements. -/
def vecPerm (t : Strand) (e : VEntry) (vd vs1 : Nat) (pairs : (Nat → Nat) → List (Nat × Nat)) : VRes :=
  withChecks t e moveRule [vs1] (fun _ =>
    let h := t.vhr vs1
    let eb := 8 * h.esize
    t.putVec vd eb (pairs (fun i => t.el vs1 eb i)) (h.result e.vl true))

/-- VSLIDEUP and VSLIDEDN. -/
def vecSlideUp (t : Strand) (e : VEntry) (vd vs1 mask : Nat) : VRes :=
  let n := e.g1.toNat
  vecPerm t e vd vs1 (fun x => ((e.actives (t.kr mask)).filter (fun i => decide (n ≤ i))).map (fun i => (i, x (i - n))))
def vecSlideDn (t : Strand) (e : VEntry) (vd vs1 mask : Nat) : VRes :=
  let n := e.g1.toNat
  vecPerm t e vd vs1 (fun x => (e.actives (t.kr mask)).map (fun i => (i, if i + n < e.vl then x (i + n) else 0)))

/-- VPERM: the index register is integer and dense, its elements unsigned. -/
def vecPermute (t : Strand) (e : VEntry) (vd vs1 vi : Nat) : VRes :=
  match checkOperands t e moveRule none [vs1] with
  | .error x => .error x
  | .ok () =>
    match checkOperands t e { fam := .int, noSpar := true } none [vi] with
    | .error x => .error x
    | .ok () =>
      let ib := 8 * (t.vhr vi).esize
      vecPerm t e vd vs1 (fun x => (List.range e.vl).map (fun i => (i, if t.el vi ib i < e.vl then x (t.el vi ib i) else 0)))

/-- VCOMPRESS and VEXPAND. -/
def vecCompress (t : Strand) (e : VEntry) (vd vs1 mask : Nat) : VRes :=
  vecPerm t e vd vs1 (fun x => (ranked (e.actives (t.kr mask))).map (fun p => (p.1, x p.2)))
def vecExpand (t : Strand) (e : VEntry) (vd vs1 mask : Nat) : VRes :=
  vecPerm t e vd vs1 (fun x => (ranked (e.actives (t.kr mask))).map (fun p => (p.2, x p.1)))

/-- VIOTA: the format is vd's own, which must be integer. -/
def vecIota (t : Strand) (e : VEntry) (vd mask : Nat) : VRes :=
  withChecks t e { moveRule with fam := .int } [vd] (fun _ =>
    let h := t.vhr vd
    t.putVec vd (8 * h.esize) ((ranked (e.actives (t.kr mask))).map (fun p => (p.2, p.1))) (h.result e.vl true))

/-! ### Reductions and the dot product (R164, R165) -/

/-- An operation of VRED and VSCAN on two elements: code and flags; codes 0 add, 1 min, 2 max, 3 and, 4 or, 5 xor. -/
def redOp (ef op : Nat) (uns : Bool) (eb : Nat) (md : RMode) (x y : Nat) : Nat × Nat :=
  if isFloat ef then
    match op with
    | 0 => VFop.add.eval (fmtOf ef) md x y
    | 1 => VFop.min.eval (fmtOf ef) md x y
    | _ => VFop.max.eval (fmtOf ef) md x y
  else
    match op with
    | 0 => (VIop.add.eval uns eb x y, 0)
    | 1 => (VIop.min.eval uns eb x y, 0)
    | 2 => (VIop.max.eval uns eb x y, 0)
    | 3 => (x &&& y, 0)
    | 4 => (x ||| y, 0)
    | _ => (x ^^^ y, 0)

/-- The identities of R86. -/
def redIdentity (ef op : Nat) (uns : Bool) (eb : Nat) : Nat :=
  if isFloat ef then
    let f := fmtOf ef
    match op with
    | 0 => f.code true 0
    | 1 => f.infCode false
    | _ => f.infCode true
  else
    match op with
    | 1 => wrapI (intHi (!uns) eb) eb
    | 2 => wrapI (intLo (!uns) eb) eb
    | 3 => 2 ^ eb - 1
    | _ => 0

/-- Two positions of the tree: an identity position passes the other on. -/
def redPair (f : Nat → Nat → Nat × Nat) (a b : Option Nat) : Option Nat × Nat :=
  match a, b with
  | none, y => (y, 0)
  | x, none => (x, 0)
  | some x, some y => let r := f x y; (some r.1, r.2)

/-- One level of the tree of R86: the lower half combined with the upper. -/
def redLevel (f : Nat → Nat → Nat × Nat) (xs : List (Option Nat)) : List (Option Nat) × Nat :=
  let h := xs.length / 2
  let ps := ((xs.take h).zip (xs.drop h)).map (fun p => redPair f p.1 p.2)
  (ps.map (·.1), ps.foldl (fun a p => a ||| p.2) 0)

/-- The tree of R86 over a power of two of positions. -/
def redTree (f : Nat → Nat → Nat × Nat) (fuel : Nat) (xs : List (Option Nat)) (fl : Nat) : Option Nat × Nat :=
  match fuel with
  | 0 => ((lget none xs 0), fl)
  | n + 1 =>
    if xs.length ≤ 1 then (lget none xs 0, fl)
    else
      let (ys, g) := redLevel f xs
      redTree f n ys (fl ||| g)

/-- The smallest power of two that is not below a number. -/
def powerAbove (n : Nat) : Nat := if n ≤ 1 then 1 else 2 ^ (Nat.log2 (n - 1) + 1)

/-- VRED: the tree's result to vd[0]; the others keep their bits. -/
def vecRed (t : Strand) (e : VEntry) (op vd vs1 mask : Nat) (uns : Bool) : VRes :=
  match checkOperands t e { uns := uns, noSlay := true, noB8 := true } none [vs1] with
  | .error x => .error x
  | .ok () =>
    let h := t.vhr vs1
    let ef := h.efmt.toNat
    let eb := 8 * h.esize
    if isFloat ef && decide (3 ≤ op) then .error (xHdrUnsup, vs1)
    else if e.vl = 0 then .ok t
    else
      let k := t.kr mask
      let xs := (List.range (powerAbove e.vl)).map (fun i => if e.active k i then some (t.el vs1 eb i) else none)
      let (r, fl) := redTree (redOp ef op uns eb (rmodeOf e.frm.toNat)) e.vl xs 0
      .ok ((t.putVec vd eb [(0, r.getD (redIdentity ef op uns eb))]
        { efmt := h.efmt, rawsz := h.rawsz, count := 1 }).raise fl)

/-- The running values of R87 over the active elements: index, value, and the flags so far. -/
def scanFrom (f : Nat → Nat → Nat × Nat) (xs : List (Nat × Nat)) (acc : Option Nat) (fl : Nat) : List (Nat × Nat) × Nat :=
  match xs with
  | [] => ([], fl)
  | (i, x) :: r =>
    let (y, g) := match acc with | none => (x, 0) | some a => f a x
    let (ys, fl') := scanFrom f r (some y) (fl ||| g)
    ((i, y) :: ys, fl')

/-- VSCAN.  DEDUCED (log 82): with vl above 0 and no active element it "writes nothing" (R164), which is read of the elements; the header
is set as R103 has it. -/
def vecScan (t : Strand) (e : VEntry) (op vd vs1 mask : Nat) (uns : Bool) : VRes :=
  match checkOperands t e { uns := uns, noSlay := true, noB8 := true } none [vs1] with
  | .error x => .error x
  | .ok () =>
    let h := t.vhr vs1
    let ef := h.efmt.toNat
    let eb := 8 * h.esize
    if isFloat ef && decide (3 ≤ op) then .error (xHdrUnsup, vs1)
    else if e.vl = 0 then .ok t
    else
      let xs := (e.actives (t.kr mask)).map (fun i => (i, t.el vs1 eb i))
      let (ys, fl) := scanFrom (redOp ef op uns eb (rmodeOf e.frm.toNat)) xs none 0
      .ok ((t.putVec vd eb ys { efmt := h.efmt, rawsz := h.rawsz, count := BitVec.ofNat 16 e.vl }).raise fl)

/-- An exact value added to another: NaN and infinity as R73 has them, with NV where they make it. -/
def FVal.add (x y : FVal) (z : Bool) : FVal × Nat :=
  match x, y with
  | .nan _, _ => (.nan false, x.nv ||| y.nv)
  | _, .nan _ => (.nan false, x.nv ||| y.nv)
  | .inf a, .inf b => if a = b then (.inf a, 0) else (.nan false, flagNV)
  | .inf a, _ => (.inf a, 0)
  | _, .inf b => (.inf b, 0)
  | .fin a, .fin b => (.fin (a.add b z), 0)

/-- The exact sum of a group's products with the flags they raise (R88).  DESIGN CHOICE (log 82): the sum starts at +0, so that an exact
zero sum is +0 unless every rule of R73 makes it otherwise; R165 writes `s := 0` and no sign. -/
def dotGroup (f1 f2 : Fmt) (ps : List (Nat × Nat)) : FVal × Nat :=
  ps.foldl (fun (s : FVal × Nat) p =>
    let (x, g) := (f1.val p.1).mul (f2.val p.2)
    let (y, g') := s.1.add x false
    (y, s.2 ||| g ||| g')) (.fin { neg := false, m := 0, e := 0 }, 0)

/-- The groups of four of a list of indices below vl. -/
def groupsOf (vl : Nat) : List (List Nat) :=
  (List.range (ceilDiv vl 4)).map (fun g => ((List.range 4).map (fun j => 4 * g + j)).filter (fun i => decide (i < vl)))

/-- Two operands VDOT accepts. -/
def dotPair (a b : Nat) : Bool :=
  (a = 1 && b = 1) || (decide (4 ≤ a ∧ a ≤ 6) && a = b) || (binary8Code a && binary8Code b)

/-- VDOT (R165, R88).  DESIGN CHOICE (log 82): where an operand's format is unsupported and the pair also disagrees, R165 gives no order;
HDR_UNSUP comes first. -/
def vecDot (t : Strand) (e : VEntry) (vd vs1 vs2 mask : Nat) (uns : Bool) : VRes :=
  match checkOperands t e { uns := uns, noSlay := true } none [vs1, vs2] with
  | .error x => .error x
  | .ok () =>
    let h1 := t.vhr vs1
    let h2 := t.vhr vs2
    let a := h1.efmt.toNat
    let b := h2.efmt.toNat
    let bad := fun (x : Nat) => x = 0 || x = 2 || x = 3 || x = 7
    let want := if a = 1 then 3 else 6
    if bad a then .error (xHdrUnsup, vs1)
    else if bad b then .error (xHdrUnsup, vs2)
    else if !dotPair a b then .error (xHdrMismatch, vs2)
    else if (t.vhr vd).efmt.toNat ≠ want then .error (xHdrMismatch, vd)
    else if e.vl = 0 then .ok t
    else
      let k := t.kr mask
      let eb1 := 8 * h1.esize
      let eb2 := 8 * h2.esize
      let pairs := fun (g : List Nat) => (g.filter (fun i => k.getLsbD i)).map (fun i => (t.el vs1 eb1 i, t.el vs2 eb2 i))
      let acc := t.el vd 32 0
      let h : VHdr := { efmt := BitVec.ofNat 8 want, rawsz := 0, count := 1 }
      if a = 1 then
        let sum := fun (g : List Nat) =>
          ((pairs g).map (fun p => intOf (!uns) 8 p.1 * intOf (!uns) 8 p.2)).foldl (· + ·) (0 : Int)
        let r := (groupsOf e.vl).foldl (fun acc g => wrapI (sext acc 32 + sum g) 32) acc
        .ok (t.putVec vd 32 [(0, r)] h)
      else
        let md := rmodeOf e.frm.toNat
        let r := (groupsOf e.vl).foldl (fun (s : Nat × Nat) g =>
          let (x, f1) := dotGroup (fmtOf a) (fmtOf b) (pairs g)
          let (y, f2) := fmtF.add md (fmtF.val s.1) x
          (y, s.2 ||| f1 ||| f2)) (acc, 0)
        .ok ((t.putVec vd 32 [(0, r.1)] h).raise r.2)

/-! ### Conversion and carries (R166, R167) -/

/-- The element format of a VCVT target code (R57). -/
def targetFmt (target : Nat) : Nat := if target < 8 then target else 16 * (target / 8) + target % 8

/-- The elements of a conversion: index, code, carry so far and flags, the carry running along the vector. -/
def cvtElems (src target rm eb : Nat) (xs : List (Nat × Nat)) (carry fl : Nat) : List (Nat × Nat) × Nat × Nat :=
  match xs with
  | [] => ([], carry, fl)
  | (i, x) :: r =>
    let v := cvtVal src eb x
    if rm = 3 then
      let (y, c, g) := efStep target v carry
      let (ys, c', fl') := cvtElems src target rm eb r c (fl ||| g)
      ((i, y) :: ys, c', fl')
    else
      let (y, g) := cvtTo target (nmodeOf rm) v
      let (ys, c', fl') := cvtElems src target rm eb r carry (fl ||| g)
      ((i, y) :: ys, c', fl')

/-- VCVT (R166).  DESIGN CHOICES (log 82): efmt 0x00 with another rawsz than 3 is HDR_UNSUP, whose cause R166 does not name; an unset
landing format of .q is charged to vd, whose bank it is. -/
def vecCvt (t : Strand) (e : VEntry) (vd vs1 mask efc : Nat) (reset : Bool) (rm target : Nat) : VRes :=
  let h := t.vhr vs1
  let src := h.efmt.toNat
  let tc := if target = 63 then e.lfmt.toNat else targetFmt target
  if src = 0 && h.rawsz != 3 then .error (xHdrUnsup, vs1)
  else if !e.fits h.esize then .error (xHdrShape, vs1)
  else if tc = 0 then .error (xHdrUnsup, vd)
  else if !e.fits (esizeOf tc) then .error (xHdrShape, vd)
  else if h.spar != 0 then .error (xHdrMismatch, vs1)
  else if rm = 3 && (!isFloat src || !isFloat tc) then .error (xHdrUnsup, vs1)
  else
    let t := if reset then t.efcw efc 0 else t
    if e.vl = 0 then .ok t
    else
      let eb := 8 * h.esize
      let xs := (e.actives (t.kr mask)).map (fun i => (i, t.el vs1 eb i))
      let (ys, c, fl) := cvtElems src tc rm eb xs (t.efcr efc).toNat 0
      let t := if rm = 3 then t.efcw efc (BitVec.ofNat 32 c) else t
      .ok ((t.putVec vd (8 * esizeOf tc) ys
        { efmt := BitVec.ofNat 8 tc, rawsz := 0, slay := h.slay, sfmt := h.sfmt,
          order := if esizeOf tc = 1 then h.order else 0, count := BitVec.ofNat 16 e.vl }).raise fl)

/-! ### Predicates (R168) -/

/-- A word of a predicate register. -/
def kWord (k : BitVec 256) (j : Nat) : Word := BitVec.ofNat 64 (k.toNat / 2 ^ (64 * j))

/-- A predicate register with a word replaced. -/
def setKWord (k : BitVec 256) (j : Nat) (x : Word) : BitVec 256 :=
  BitVec.ofNat 256 (k.toNat - (kWord k j).toNat * 2 ^ (64 * j) + x.toNat * 2 ^ (64 * j))

/-- KPOP and KFIRST. -/
def kPop (k : BitVec 256) : Nat := popCount k.toNat 256
def kFirst (k : BitVec 256) : Nat := (firstBelow 256 (fun i => k.getLsbD i)).getD 256

/-! ### Dispatch over the arithmetic entries -/

/-- What an entry of opcodes 0x41 to 0x4E does to its strand; none for the other entries. -/
def arithEntry (t : Strand) (e : VEntry) : Option VRes :=
  match e.ins with
  | .vaddIvv d a b k u => some (vecInt t e .add d.toNat a.toNat (some b.toNat) k.toNat (u = 1))
  | .vsubIvv d a b k u => some (vecInt t e .sub d.toNat a.toNat (some b.toNat) k.toNat (u = 1))
  | .vmulIvv d a b k u => some (vecInt t e .mul d.toNat a.toNat (some b.toNat) k.toNat (u = 1))
  | .vmulh d a b k u => some (vecInt t e .mulh d.toNat a.toNat (some b.toNat) k.toNat (u = 1))
  | .vdivIvv d a b k u => some (vecInt t e .div d.toNat a.toNat (some b.toNat) k.toNat (u = 1))
  | .vminIvv d a b k u => some (vecInt t e .min d.toNat a.toNat (some b.toNat) k.toNat (u = 1))
  | .vmaxIvv d a b k u => some (vecInt t e .max d.toNat a.toNat (some b.toNat) k.toNat (u = 1))
  | .vandIvv d a b k u => some (vecInt t e .and d.toNat a.toNat (some b.toNat) k.toNat (u = 1))
  | .vor d a b k u => some (vecInt t e .or d.toNat a.toNat (some b.toNat) k.toNat (u = 1))
  | .vxor d a b k u => some (vecInt t e .xor d.toNat a.toNat (some b.toNat) k.toNat (u = 1))
  | .vshlIvv d a b k u => some (vecInt t e .shl d.toNat a.toNat (some b.toNat) k.toNat (u = 1))
  | .vshrIvv d a b k u => some (vecInt t e .shr d.toNat a.toNat (some b.toNat) k.toNat (u = 1))
  | .vadds d a b k u => some (vecInt t e .adds d.toNat a.toNat (some b.toNat) k.toNat (u = 1))
  | .vsubs d a b k u => some (vecInt t e .subs d.toNat a.toNat (some b.toNat) k.toNat (u = 1))
  | .vaddIvx d a k u _ => some (vecInt t e .add d.toNat a.toNat none k.toNat (u = 1))
  | .vsubIvx d a k u _ => some (vecInt t e .sub d.toNat a.toNat none k.toNat (u = 1))
  | .vmulIvx d a k u _ => some (vecInt t e .mul d.toNat a.toNat none k.toNat (u = 1))
  | .vminIvx d a k u _ => some (vecInt t e .min d.toNat a.toNat none k.toNat (u = 1))
  | .vmaxIvx d a k u _ => some (vecInt t e .max d.toNat a.toNat none k.toNat (u = 1))
  | .vandIvx d a k u _ => some (vecInt t e .and d.toNat a.toNat none k.toNat (u = 1))
  | .vshlIvx d a k u _ => some (vecInt t e .shl d.toNat a.toNat none k.toNat (u = 1))
  | .vshrIvx d a k u _ => some (vecInt t e .shr d.toNat a.toNat none k.toNat (u = 1))
  | .vaddFvv d a b k => some (vecFlt t e .add d.toNat a.toNat (some b.toNat) k.toNat)
  | .vsubFvv d a b k => some (vecFlt t e .sub d.toNat a.toNat (some b.toNat) k.toNat)
  | .vmulFvv d a b k => some (vecFlt t e .mul d.toNat a.toNat (some b.toNat) k.toNat)
  | .vdivFvv d a b k => some (vecFlt t e .div d.toNat a.toNat (some b.toNat) k.toNat)
  | .vminFvv d a b k => some (vecFlt t e .min d.toNat a.toNat (some b.toNat) k.toNat)
  | .vmaxFvv d a b k => some (vecFlt t e .max d.toNat a.toNat (some b.toNat) k.toNat)
  | .vaddFvx d a k _ => some (vecFlt t e .add d.toNat a.toNat none k.toNat)
  | .vsubFvx d a k _ => some (vecFlt t e .sub d.toNat a.toNat none k.toNat)
  | .vmulFvx d a k _ => some (vecFlt t e .mul d.toNat a.toNat none k.toNat)
  | .vdivFvx d a k _ => some (vecFlt t e .div d.toNat a.toNat none k.toNat)
  | .vminFvx d a k _ => some (vecFlt t e .min d.toNat a.toNat none k.toNat)
  | .vmaxFvx d a k _ => some (vecFlt t e .max d.toNat a.toNat none k.toNat)
  | .vfma d a b k => some (vecFma t e false false d.toNat a.toNat b.toNat k.toNat)
  | .vfms d a b k => some (vecFma t e false true d.toNat a.toNat b.toNat k.toNat)
  | .vfnma d a b k => some (vecFma t e true false d.toNat a.toNat b.toNat k.toNat)
  | .vcmp d a b k u c => some (vecCmp t e c.toNat d.toNat a.toNat b.toNat k.toNat (u = 1))
  | .vsel d a k _ => some (vecSel t e d.toNat a.toNat k.toNat)
  | .vbcast d a k _ => some (vecBcast t e d.toNat a.toNat k.toNat)
  | .vext d a u _ => some (vecExt t e d.toNat a.toNat (u = 1))
  | .vins d _ _ => some (vecIns t e d.toNat)
  | .vslideup d a k _ => some (vecSlideUp t e d.toNat a.toNat k.toNat)
  | .vslidedn d a k _ => some (vecSlideDn t e d.toNat a.toNat k.toNat)
  | .vperm d a i => some (vecPermute t e d.toNat a.toNat i.toNat)
  | .vcompress d a k => some (vecCompress t e d.toNat a.toNat k.toNat)
  | .vexpand d a k => some (vecExpand t e d.toNat a.toNat k.toNat)
  | .viota d k => some (vecIota t e d.toNat k.toNat)
  | .vred d a k u op => some (vecRed t e op.toNat d.toNat a.toNat k.toNat (u = 1))
  | .vscan d a k u op => some (vecScan t e op.toNat d.toNat a.toNat k.toNat (u = 1))
  | .vdot d a b k u => some (vecDot t e d.toNat a.toNat b.toNat k.toNat (u = 1))
  | .vsqrt d a k => some (vecFun t e Fmt.sqrt d.toNat a.toNat k.toNat)
  | .vrcp d a k => some (vecFun t e Fmt.recip d.toNat a.toNat k.toNat)
  | .vrsq d a k => some (vecFun t e Fmt.rsqrt d.toNat a.toNat k.toNat)
  | .vexp2 d a k => some (vecFun t e Fmt.exp2 d.toNat a.toNat k.toNat)
  | .vlog2 d a k => some (vecFun t e Fmt.log2 d.toNat a.toNat k.toNat)
  | .vcvt d a k n r m tg => some (vecCvt t e d.toNat a.toNat k.toNat n.toNat (r = 1) m.toNat tg.toNat)
  | .efget d n => some (.ok (t.wr d.toNat ((t.efcr n.toNat).zeroExtend 64)))
  | .efset _ n => some (.ok (t.efcw n.toNat (e.g1.setWidth 32)))
  | .kand d a b => some (.ok (t.kw d.toNat (t.kr a.toNat &&& t.kr b.toNat)))
  | .kor d a b => some (.ok (t.kw d.toNat (t.kr a.toNat ||| t.kr b.toNat)))
  | .kxor d a b => some (.ok (t.kw d.toNat (t.kr a.toNat ^^^ t.kr b.toNat)))
  | .kandn d a b => some (.ok (t.kw d.toNat (t.kr a.toNat &&& ~~~t.kr b.toNat)))
  | .knot d a => some (.ok (t.kw d.toNat (~~~t.kr a.toNat)))
  | .kmov d a => some (.ok (t.kw d.toNat (t.kr a.toNat)))
  | .kpop d a => some (.ok (t.wr d.toNat (word (kPop (t.kr a.toNat)))))
  | .kfirst d a => some (.ok (t.wr d.toNat (word (kFirst (t.kr a.toNat)))))
  | .kset d _ j => some (.ok (t.kw d.toNat (setKWord (t.kr d.toNat) j.toNat e.g2)))
  | .kget d a j => some (.ok (t.wr d.toNat (kWord (t.kr a.toNat) j.toNat)))
  | _ => none

/-- The predicate register an entry writes, which an unfinished copy may hold (09_copy R241). -/
def entryKDest (i : Instr) : Nat :=
  match i with
  | .vcmp d _ _ _ _ _ => d.toNat
  | .kand d _ _ => d.toNat
  | .kor d _ _ => d.toNat
  | .kxor d _ _ => d.toNat
  | .kandn d _ _ => d.toNat
  | .knot d _ => d.toNat
  | .kmov d _ => d.toNat
  | .kset d _ _ => d.toNat
  | .vldt _ _ k _ => k.toNat
  | _ => 0

/-- The predicate registers an entry reads or writes: its destination and its operands, or its mask (02_words R53). -/
def entryKNames (i : Instr) : List Nat :=
  let w := wordOf i
  let m := bits w 7 1
  let mask :=
    if m = 0x41 || m = 0x46 || m = 0x49 || m = 0x4A then [bits w 26 23]
    else if m = 0x42 || m = 0x55 || m = 0x56 then [bits w 21 18]
    else if m = 0x43 || m = 0x45 || m = 0x4B then [bits w 27 23]
    else if m = 0x4C then [bits w 20 18]
    else if m = 0x44 || m = 0x47 || m = 0x48 || (decide (0x50 ≤ m) && decide (m ≤ 0x53)) then [bits w 22 18]
    else if m = 0x4E then [bits w 17 13, bits w 22 18]
    else []
  entryKDest i :: mask

/-- The vector register an entry writes. -/
def entryVDest (i : Instr) : Option Nat :=
  let w := wordOf i
  let m := bits w 7 1
  match i with
  | .vext _ _ _ _ => none
  | .vstt _ _ _ => none
  | _ =>
    if (decide (0x41 ≤ m) && decide (m ≤ 0x4C) && m != 0x46) || m = 0x50 || m = 0x52 || m = 0x53 || m = 0x55 then some (bits w 12 8) else none

/-- The vector registers an entry may read or write: every field of its word that can name one. -/
def entryVNames (i : Instr) : List Nat := let w := wordOf i; [bits w 12 8, bits w 17 13, bits w 22 18]

/-- The carry register an entry writes. -/
def entryCarry (i : Instr) : Option Nat :=
  match i with
  | .efset _ n => some n.toNat
  | .vcvt _ _ _ n r m _ => if r = 1 ∨ m = 3 then some n.toNat else none
  | _ => none

/-- No older entry of the current strand's queue is of a kind. -/
def noOlder (p : Instr → Bool) (s : State) : Bool := s.cur.vq.all (fun e => !p e.ins)

end Sys2Proof.Machine
end

