-- ==== Sys2Proof/Machine/VecMem.lean ====
section
/-! DEFINITION. The vector memory pipe: what the queued loads, stores, tile accesses, atomics, reductions, prefetches and
fences do when their entries are performed (06_vmem R170 to R188), element by element. -/

namespace Sys2Proof.Machine

/-! ### Element accesses -/

/-- Who accesses for a strand's oldest entry: in the domain of its issue (07_translation R196). -/
def State.entryWho (s : State) (sid : Nat) : Who :=
  match (s.st sid).vq with
  | e :: _ => { s.who sid with pd := e.pd, stream := 1 }
  | [] => { s.who sid with stream := 1 }

/-- An access charged to an element of a strand's oldest entry.  A page fault restarts the entry at `again`; an access that
must wait leaves the entry there (R175, R183, R185). -/
def elemAccess {α : Type} (sid : Nat) (ea : Word) (kind elem again : Nat) (a : Who → Acc α) : VAct α := do
  let s ← get
  match a (s.entryWho sid) s with
  | .ok x s' => set s'; return x
  | .error e s' =>
    let wait := fun (s : State) => s.modSt sid (fun t => t.restartAt again)
    match e with
    | .misalign => set s'; throw (.fault 0 xMisalign ea elem)
    | .perm d => set s'; throw (.fault d xPerm ea elem)
    | .ecc => set s'; throw (.fault 0 xEccfail ea elem)
    | .poison => set s'; throw (.fault 0 xPoison ea elem)
    | .other d c v => set s'; throw (.fault d c (v.getD ea) elem)
    | .retry => set (wait s'); throw .again
    | .walker => set (wait s'); throw .again
    | .page t l k => set s'; throw (.page ea.toNat t l kind again k)

/-- Each element of a list in turn. -/
def forElems (is : List Nat) (f : Nat → VAct Unit) : VAct Unit :=
  match is with
  | [] => return ()
  | i :: r => do
    f i
    forElems r f

/-- The elements an entry still has to perform: the active ones from the first not completed. -/
def VEntry.todo (e : VEntry) (mask : BitVec 256) : List Nat := (e.actives mask).filter (fun i => decide (e.start ≤ i))

/-- Element `i` of a vector register of the strand takes the bytes read. -/
def State.putElem (s : State) (sid vd eb i : Nat) (bs : List Byte) : State :=
  s.modSt sid (fun t => t.vw vd (setElem (t.vr vd) eb i (leNat bs)))

/-- One element load. -/
def loadElem (sid vd esz i : Nat) (ea : Word) (m : Mark) : VAct Unit := do
  let bs ← elemAccess sid ea 4 i i (fun w => readMem w ea esz m)
  modify (fun s => (s.dataHit sid ea.toNat esz false).putElem sid vd (8 * esz) i bs)

/-- One element store, of the element's own bits. -/
def storeElem (sid vd esz i : Nat) (ea : Word) (m : Mark) : VAct Unit := do
  let x := ((← get).st sid).el vd (8 * esz) i
  elemAccess sid ea 5 i i (fun w => writeMem w ea (leBytes esz x) m)
  modify (fun s => s.dataHit sid ea.toNat esz true)

/-! ### The register checks of R172 -/

/-- A fault naming a vector register, at element 0. -/
def regFault {α : Type} (code n : Nat) : VAct α := vecFault code n

/-- The checks of R172, but for the instruction's own format rule: the index register, then the sizes. -/
def checkRegs (sid : Nat) (e : VEntry) (data : Nat) (idx : Option Nat) : VAct Unit := do
  let t := (← get).st sid
  match idx with
  | some n =>
    if 3 < (t.vhr n).efmt.toNat then regFault xHdrMismatch n
    else if !e.fits (t.vhr data).esize then regFault xHdrShape data
    else if !e.fits (t.vhr n).esize then regFault xHdrShape n
    else return ()
  | none => if !e.fits (t.vhr data).esize then regFault xHdrShape data else return ()

/-- The header a plain load leaves (R176, 03_numbers R103). -/
def VHdr.loaded (h : VHdr) (count : Nat) : VHdr := { efmt := h.efmt, rawsz := h.rawsz, count := BitVec.ofNat 16 count }

/-- The signed byte offset of element `i` of an index register (R173). -/
def Strand.indexOf (t : Strand) (n i : Nat) : Word :=
  let eb := 8 * (t.vhr n).esize
  wordI (sext (t.el n eb i) eb)

/-! ### Addresses (R173, R174) -/

/-- How an instruction of this chapter addresses its elements. -/
inductive VForm where
  | unit
  | strided (stride : Word)
  | indexed (idx : Nat)
  /-- VLDC: base + offset -/
  | chunk (off : Word)
deriving DecidableEq, Repr

/-- The address of element `i`. -/
def VForm.addr (f : VForm) (t : Strand) (base : Word) (esz i : Nat) : Word :=
  match f with
  | .unit => base + word (i * esz)
  | .strided d => base + word i * d
  | .indexed n => base + t.indexOf n i
  | .chunk off => base + off + word (i * esz)

/-- The index register of a form, and its page mark (R184). -/
def VForm.index (f : VForm) : Option Nat := match f with | .indexed n => some n | _ => none
def VForm.mark (f : VForm) : Mark := match f with | .unit => .useOnce | .chunk _ => .useOnce | _ => .gather

/-! ### Plain loads and stores (R176) -/

/-- VLD, VLDS, VLDX. -/
def vecLoad (sid : Nat) (e : VEntry) (f : VForm) (vd mask : Nat) : VAct Unit := do
  if e.vl = 0 then return ()
  checkRegs sid e vd f.index
  let t := (← get).st sid
  let esz := (t.vhr vd).esize
  forElems (e.todo (t.kr mask)) (fun i => do
    loadElem sid vd esz i (f.addr ((← get).st sid) e.g1 esz i) f.mark)
  modify (fun s => s.modSt sid (fun t => t.vhw vd ((t.vhr vd).loaded e.vl)))

/-- VST, VSTS, VSTX. -/
def vecStore (sid : Nat) (e : VEntry) (f : VForm) (vd mask : Nat) : VAct Unit := do
  if e.vl = 0 then return ()
  checkRegs sid e vd f.index
  let t := (← get).st sid
  let esz := (t.vhr vd).esize
  forElems (e.todo (t.kr mask)) (fun i => storeElem sid vd esz i (f.addr t e.g1 esz i) f.mark)

/-- The checks of a slice offset (R174). -/
def checkSlice (e : VEntry) : VAct Unit :=
  if e.g1.toNat % 64 ≠ 0 then throw (.fault 0 xMisalign e.g1 0)
  else if 16320 < e.g1.toNat then throw (.fault 5 xPerm e.g1 0)
  else return ()

/-- Where element `i` lies in its cluster's slices: the lane cluster of the entry's captured grant (05_vector R142) and the byte within
its slice (R174). -/
def sliceAddr (e : VEntry) (esz i : Nat) : Nat :=
  let epc := 512 / (8 * esz)
  lget 0 e.lanes (i / epc) * 16384 + e.g1.toNat + i % epc * esz

/-- Bytes of a cluster's slices, and with some replaced. -/
def Cluster.sliceBytes (c : Cluster) (a n : Nat) : List Byte := (List.range n).map (fun k => tget 0 c.slices (a + k))
def Cluster.setSlice (c : Cluster) (a : Nat) (bs : List Byte) : Cluster :=
  { c with slices := ((List.range bs.length).zip bs).foldl (fun (t : Table Byte) p =>
      if p.2 = 0 then tdel t (a + p.1) else tput t (a + p.1) p.2) c.slices }

/-- VLD.SL. -/
def vecLoadSlice (sid : Nat) (e : VEntry) (vd mask : Nat) : VAct Unit := do
  if e.vl = 0 then return ()
  checkRegs sid e vd none
  checkSlice e
  let t := (← get).st sid
  let esz := (t.vhr vd).esize
  forElems (e.todo (t.kr mask)) (fun i =>
    modify (fun s => s.putElem sid vd (8 * esz) i
      ((s.cluster (clusterOfCore (coreOfSid sid))).sliceBytes (sliceAddr e esz i) esz)))
  modify (fun s => s.modSt sid (fun t => t.vhw vd ((t.vhr vd).loaded e.vl)))

/-- VST.SL. -/
def vecStoreSlice (sid : Nat) (e : VEntry) (vd mask : Nat) : VAct Unit := do
  if e.vl = 0 then return ()
  checkRegs sid e vd none
  checkSlice e
  let t := (← get).st sid
  let esz := (t.vhr vd).esize
  forElems (e.todo (t.kr mask)) (fun i =>
    modify (fun s => s.modCluster (clusterOfCore (coreOfSid sid)) (fun c =>
      c.setSlice (sliceAddr e esz i) (leBytes esz (t.el vd (8 * esz) i)))))

/-! ### Tiles (R177, R178) -/

/-- The address of element `i` of a line. -/
def TileHdr.lineAddr (h : TileHdr) (line i : Nat) : Word :=
  h.base + word (h.doff + line * h.pitch + i * esizeOf h.efmt)

/-- The shadow header VLDT leaves. -/
def TileHdr.shadow (h : TileHdr) (count : Nat) : VHdr :=
  { efmt := BitVec.ofNat 8 h.efmt, slay := BitVec.ofNat 4 h.slay, sfmt := BitVec.ofNat 4 h.sfmt, spar := BitVec.ofNat 4 h.spar,
    order := BitVec.ofNat 4 h.order, rawsz := 0, count := BitVec.ofNat 16 count }

/-- The index byte of group `g` of a line is read and checked; its faults rank with those of element 2g (R177), and name the byte's own
address (DESIGN CHOICE, log 85: R177 gives the element, not the address). -/
def indexGroup (sid : Nat) (h : TileHdr) (line g : Nat) : VAct Nat := do
  let a := h.base + word (h.groupByte line g)
  let ea := h.lineAddr line (2 * g)
  let esz := esizeOf h.efmt
  let s ← get
  let both : Who → Acc Nat := fun w => do
    let bs ← readMem w a 1 .no
    let (i, j) := groupOf (leNat bs) g
    if i < j then return i + 4 * j else throw (.other 0 xHdrUnsup (some h.base))
  match both (s.entryWho sid) s with
  | .ok x s' =>
    set (s'.dataHit sid a.toNat 1 false)
    return x
  | .error er _ =>
    match (readMem (s.entryWho sid) ea esz .useOnce) s with
    | .error er2 _ =>
      if er.rank < 7 && decide (er2.rank < er.rank) then
        let _ ← elemAccess sid ea 4 (2 * g) (2 * g) (fun w => readMem w ea esz .useOnce)
        throw .again
      else elemAccess sid a 4 (2 * g) (2 * g) both
    | .ok _ _ => elemAccess sid a 4 (2 * g) (2 * g) both

/-- Group `g` of a predicate register. -/
def setGroup (k : BitVec 256) (g x : Nat) : BitVec 256 :=
  BitVec.ofNat 256 (k.toNat - k.toNat / 16 ^ g % 16 * 16 ^ g + x % 16 * 16 ^ g)

/-- The header a VLDT uses: the snapshot it took when it checked it, for the whole instruction (03_numbers R97). -/
def tileSnapshot (sid : Nat) (e : VEntry) : VAct TileHdr := do
  match e.tile with
  | some h => return h
  | none =>
    let h ← elemAccess sid e.g1 10 0 e.start (fun w => hdrCheck w e.g1 .no)
    modify (fun s => (s.dataHit sid e.g1.toNat 32 false).modSt sid (fun t =>
      { t with vq := match t.vq with | [] => [] | x :: r => { x with tile := some h } :: r }))
    return h

/-- VLDT (R177). -/
def vecLoadTile (sid : Nat) (e : VEntry) (vd kx : Nat) : VAct Unit := do
  if e.vl = 0 then return ()
  let h ← tileSnapshot sid e
  let line := e.g2.toNat
  let esz := esizeOf h.efmt
  if h.lines ≤ line || decide (h.lineLen < e.vl) || (h.spar = 1 && (e.vl % 2 = 1 || decide (128 < e.vl))) || !e.fits esz then
    throw (.fault 0 xHdrShape e.g1 0)
  else if h.spar = 1 && kx = 0 then throw (.fault 0 xHdrMismatch e.g1 0)
  else if h.spar = 1 then
    forElems ((List.range (e.vl / 2)).filter (fun g => decide (e.start < 2 * g + 2))) (fun g => do
      let x ← indexGroup sid h line g
      forElems ([2 * g, 2 * g + 1].filter (fun i => decide (e.start ≤ i))) (fun i =>
        loadElem sid vd esz i (h.lineAddr line i) .useOnce)
      modify (fun s => s.modSt sid (fun t => t.kw kx (setGroup (t.kr kx) g x))))
  else
    forElems ((List.range e.vl).filter (fun i => decide (e.start ≤ i))) (fun i =>
      loadElem sid vd esz i (h.lineAddr line i) .useOnce)
  modify (fun s => s.modSt sid (fun t => t.vhw vd (h.shadow e.vl)))

/-- The header VSTT forms from a shadow header and a shape register (R178 step 3). -/
def tileForm (base : Word) (v : VHdr) (shape : Word) : TileHdr :=
  let h : TileHdr :=
    { base := base, efmt := v.efmt.toNat, slay := 0, sfmt := 0, spar := 0, order := v.order.toNat, flags := 0,
      rows := bits shape 15 0, cols := bits shape 31 16, pitch := 0, doff := 32, soff := 0, rid := bits shape 59 48 }
  { h with pitch := roundUp (h.lineLen * esizeOf h.efmt) 32 }

/-- VSTT (R178). -/
def vecStoreTile (sid : Nat) (e : VEntry) (vd : Nat) : VAct Unit := do
  checkRegs sid e vd none
  let v := ((← get).st sid).vhr vd
  let h := tileForm e.g1 v e.g2
  let line := bits e.g2 47 32
  if e.g1.toNat % 32 ≠ 0 then throw (.fault 0 xMisalign e.g1 0)
  else if v.slay != 0 || v.spar != 0 || (v.efmt = 0 && v.rawsz != 0) then regFault xHdrUnsup vd
  else if bits e.g2 63 60 ≠ 0 || h.rows = 0 || h.cols = 0 || decide (h.lines ≤ line) || decide (h.lineLen < e.vl) then
    throw (.fault 0 xHdrShape e.g1 0)
  else if !h.supported then throw (.fault 0 xHdrUnsup e.g1 0)
  else
    if e.start = 0 then
      elemAccess sid e.g1 5 0 0 (fun w => writeMem w e.g1 h.bytes .no)
      modify (fun s => s.dataHit sid e.g1.toNat 32 true)
    forElems ((List.range e.vl).filter (fun i => decide (e.start ≤ i))) (fun i =>
      storeElem sid vd (esizeOf h.efmt) i (h.lineAddr line i) .useOnce)

/-! ### Chunks and prefetch (R179, R180) -/

/-- VLDC (R179): each set chunk is acquired before an element of it is read. -/
def vecLoadChunk (sid : Nat) (e : VEntry) (vd kc : Nat) : VAct Unit := do
  if e.vl = 0 then return ()
  checkRegs sid e vd none
  let t := (← get).st sid
  let k := t.kr kc
  let esz := (t.vhr vd).esize
  let chunk := fun (i : Nat) => (e.g2.toNat + i * esz) / 1024
  let is := (List.range e.vl).filter (fun i => decide (e.start ≤ i) && decide (chunk i < 256) && k.getLsbD (chunk i))
  modify (fun s => (is.map chunk).eraseDups.foldl (fun s c =>
    s.invalidateRange (coreOfSid sid) (e.g1 + word (1024 * c)).toNat 1024) s)
  forElems is (fun i => loadElem sid vd esz i ((VForm.chunk e.g2).addr t e.g1 esz i) .useOnce)
  modify (fun s => s.modSt sid (fun t => t.vhw vd ((t.vhr vd).loaded e.vl)))

/-- VPF: requests for the lines it may read, in the domain of its issue (07_translation R196), leave the core (R180); each is translated,
by a walk where the TLB misses, and fetched by HOME_READ_RESPONSE. -/
def vecPrefetch (sid : Nat) (e : VEntry) (level : Nat) : VAct Unit := do
  let n := min e.g2.toNat 16384
  let lines := if n = 0 then [] else
    (List.range ((e.g1.toNat + n - 1) / 64 - e.g1.toNat / 64 + 1)).map (fun i => (e.g1.toNat / 64 + i) * 64)
  modify (fun s => lines.foldl (fun s a =>
    let may : Who → Acc Unit := fun w => do
      match ← placeAt w a with
      | .translated => checkRights w a needR
      | _ => throw (.perm 5)
    match may (s.entryWho sid) s with
    | .ok _ s' => s'.modCore (coreOfSid sid) (fun c => { c with fills := c.fills ++ [(a, level)] })
    | .error _ _ => s) s)

/-! ### Atomics and reductions at memory (R181 to R183) -/

/-- f(m, x) of VAMO's operation codes (R181), on elements of `eb` bits. -/
def vamoFn (op : Nat) (uns : Bool) (eb m x : Nat) : Nat :=
  match op with
  | 0 => (redOp 3 0 uns eb .rne m x).1
  | 1 => x
  | n + 2 => (redOp 3 (n + 1) uns eb .rne m x).1

/-- One read-modify-write of `n` bytes where the word is kept; the old value.  Behind another core's reservation, or what waits there,
the element joins what waits at the home slice; a reservation of its own core's has it performed on the held copy (R183, 10_sync
R282).  Its page is marked once it cannot fault any more (R184). -/
def atomicAt (w : Who) (ea : Word) (n op : Nat) (uns : Bool) (x : Nat) : Acc Nat := do
  match ← checkAccess w ea n needRW with
  | .translated =>
    let t ← translate w ea.toNat true .no
    let s ← get
    let pa := t.paOf (s.partitionOf w.core) ea.toNat
    let sh := 8 * (pa % 8)
    let new := fun (old : Nat) => word (vamoFn op uns (8 * n) old x % 2 ^ (8 * n) * 2 ^ sh)
    canMark w ea.toNat t .gather
    match s.heldBy w.core pa with
    | some r =>
      let old := r.value.toNat / 2 ^ sh % 2 ^ (8 * n)
      set (s.writeHeld pa r (byteMask pa n) (new old))
      markPage w t .gather
      return old
    | none =>
      if s.mustWait pa none then
        let q : PendReg := { pa := pa, mask := 0, data := 0, owner := none, key := t.key, tenant := w.tenant, act := .vamo w.sid n op uns x }
        set { s with pendRegs := s.pendRegs ++ [q] }
        throw .walker
      else
        slotGate (some w.tenant) pa
        let old := leNat (← homeRead pa n t.key)
        modify (fun s => s.registerHome (pa / 8 * 8) (byteMask pa n) (new old) none t.key w.tenant)
        markPage w t .gather
        return old
  | p =>
    let old := leNat (← loadBytes w p ea.toNat n .no)
    storeBytes w p ea.toNat (leBytes n (vamoFn op uns (8 * n) old x)) .no
    return old

/-- The page of an element whose value has come back from its home is marked, through the entry that translates it (R184). -/
def State.markBack (s : State) (w : Who) (ea : Nat) : State :=
  match s.peekPa w.core ea with
  | none => s
  | some (_, e) => match touch w e false .gather s with | .ok _ s' => s' | .error _ _ => s

/-- An element of the strand waits at its home slice. -/
def State.amoWaits (s : State) (sid : Nat) : Bool :=
  s.pendRegs.any (fun p => match p.act with | .vamo i _ _ _ _ => i = sid | _ => false)

/-- One element of VAMO: performed now, or, where it had to wait at its home, taken when it comes back, with the error it met there
where it met one (12_sagger R329). -/
def amoElem (sid : Nat) (ea : Word) (i n op : Nat) (uns : Bool) (x : Nat) : VAct Nat := do
  let s ← get
  let taken := s.modSt sid (fun t => { t with amoBack := none })
  match (s.st sid).amoBack with
  | some (.value old) =>
    set (taken.markBack (s.entryWho sid) ea.toNat)
    return old.toNat
  | some .ecc =>
    set taken
    throw (.fault 0 xEccfail ea i)
  | some .poison =>
    set taken
    throw (.fault 0 xPoison ea i)
  | none => if s.amoWaits sid then throw .again else elemAccess sid ea 5 i i (fun w => atomicAt w ea n op uns x)

/-- The formats of R181 and R182. -/
def VHdr.wideInt (h : VHdr) : Bool := h.efmt = 3 || (h.efmt = 0 && h.rawsz = 3)
def VHdr.reducible (h : VHdr) (op : Nat) (uns : Bool) : Bool :=
  h.wideInt || ((h.efmt = 6 || h.efmt = 7) && decide (op < 3) && !uns)

/-- The port an element waits at (04_strand R117): for translated memory the L1 or the cluster cache that holds the word, otherwise its
home slice; a scratchpad bank for the spaces of a core's window of its cluster and for every accumulator aperture (R175), a remote one for
the others of another cluster. -/
def State.portOf (s : State) (sid : Nat) (ea : Word) : Nat :=
  let core := coreOfSid sid
  let near := fun (c : Nat) => if c / 16 = core / 16 then 3 else 4
  match s.placeOf (s.who sid) ea.toNat with
  | some .translated =>
    if (match tfind (s.core core).l1 (ea.toNat / 8) with | some w => w.valid | none => false) then 0
    else
      match s.peekPa core ea.toNat with
      | some (pa, _) =>
        if (match tfind (s.cluster (clusterOfCore core)).cc (pa / 8) with | some w => w.valid | none => false) then 1 else 2
      | none => 2
  | some (.pad ga) => near (ga / 2 ^ 28 % 1024)
  | some (.acc _ _) => 3
  | some (.accHdr c _) => near c
  | some (.copyStatus c _) => near c
  | some (.cbDesc c _) => near c
  | some (.barrier cl _) => near (cl * 16)
  | none => 0

/-- VAMO (R181). -/
def vecAmo (sid : Nat) (e : VEntry) (vd idx mask : Nat) (uns : Bool) (op : Nat) : VAct Unit := do
  if e.vl = 0 then return ()
  checkRegs sid e vd (some idx)
  let t := (← get).st sid
  if !(t.vhr vd).wideInt then regFault xHdrUnsup vd
  else
    let esz := (t.vhr vd).esize
    let overdue := t.amoBack.isSome && decide (t.epLimit ≤ (t.ctl cEptime).toNat)
    forElems (e.todo (t.kr mask)) (fun i => do
      let s ← get
      let t := s.st sid
      let ea := e.g1 + t.indexOf idx i
      let x := t.el vd (8 * esz) i
      -- the limit was reached while an earlier element's value was on its way: the fault is taken now that it has filled vd (R185)
      if overdue && decide (e.start < i) && t.amoBack.isNone then throw (.fault (s.portOf sid ea) xEptimeout ea i)
      let old ← amoElem sid ea i esz op uns x
      modify (fun s => ((s.dataHit sid ea.toNat esz false).dataHit sid ea.toNat esz true).putElem sid vd (8 * esz) i (leBytes esz old)))
    modify (fun s => s.modSt sid (fun t => t.vhw vd { t.vhr vd with count := BitVec.ofNat 16 e.vl }))

/-- A VRDM element leaves the core: an update on its way to the word's home, or at once to a scratchpad word (R182). -/
def sendUpdate (w : Who) (ea : Word) (n op efmt : Nat) (uns : Bool) (x : Nat) : Acc Unit := do
  match ← checkAccess w ea n needRW with
  | .translated =>
    let t ← translate w ea.toNat true .gather
    modify (fun s => { s with updates := s.updates ++
      [{ pa := t.paOf (s.partitionOf w.core) ea.toNat, core := w.core, slot := slotOfSid w.sid, rid := t.rid, key := t.key,
         size := n, op := op, uns := uns, efmt := efmt, data := word x }] })
  | p =>
    let old := leNat (← loadBytes w p ea.toNat n .no)
    storeBytes w p ea.toNat (leBytes n (redOp efmt op uns (8 * n) .rne old x).1) .no

/-- VRDM (R182). -/
def vecRdm (sid : Nat) (e : VEntry) (vd idx mask : Nat) (uns : Bool) (op : Nat) : VAct Unit := do
  if e.vl = 0 then return ()
  checkRegs sid e vd (some idx)
  let t := (← get).st sid
  let h := t.vhr vd
  if !h.reducible op uns then regFault xHdrUnsup vd
  else
    let esz := h.esize
    forElems (e.todo (t.kr mask)) (fun i => do
      let ea := e.g1 + t.indexOf idx i
      elemAccess sid ea 5 i i (fun w => sendUpdate w ea esz op h.efmt.toNat uns (t.el vd (8 * esz) i))
      modify (fun s => (s.dataHit sid ea.toNat esz false).dataHit sid ea.toNat esz true))

/-- The 8-byte word an update makes of a value, at the place of its field. -/
def Update.newWord (u : Update) (sh : Nat) (v : Word) : Word :=
  let n := 8 * u.size
  word ((redOp u.efmt u.op u.uns n .rne (v.toNat / 2 ^ sh % 2 ^ n) u.data.toNat).1 * 2 ^ sh)

/-- An update is applied at the word's home.  The old value of a line stored under another key is a free value (12_sagger
R332). -/
def State.applyAtHome (s : State) (u : Update) : State :=
  let sh := 8 * (u.pa % 8)
  let s := match homeRead u.pa u.size u.key s with | .ok _ s' => s' | .error _ s' => s'
  let s := s.restamp u.pa u.key
  s.registerHome (u.pa / 8 * 8) (byteMask u.pa u.size) (u.newWord sh (s.homeWord (u.pa / 8 * 8))) none u.key (s.tenantOf u.core)

/-- An update reaches the word's home and is applied; behind another core's reservation, and behind what waits there, it waits, and its
own core's held copy takes it (R182, R183). -/
def State.applyUpdate (s : State) (u : Update) : State :=
  match s.heldBy u.core u.pa with
  | some r => s.writeHeld u.pa r (byteMask u.pa u.size) (u.newWord (8 * (u.pa % 8)) r.value)
  | none =>
    if s.mustWait u.pa none then
      let q : PendReg := { pa := u.pa, mask := 0, data := 0, owner := none, key := u.key, tenant := s.tenantOf u.core, act := .vrdm u }
      { s with pendRegs := s.pendRegs ++ [q] }
    else s.applyAtHome u

/-- VAMO_VRDM_ELEMENT_AT_HOME: update `idx` of those on their way arrives, in a slot of its tenant's (11_home R319).  The elements of one
strand on one word arrive in the order in which it sent them (R182). -/
def execVamoVrdmElementAtHome (idx : Nat) (s : State) : Host.Outcome State Fault Refusal :=
  match s.updates[idx]? with
  | none => .next s
  | some u =>
    if (s.updates.take idx).any (fun o => o.core = u.core && o.slot = u.slot && o.pa / 8 = u.pa / 8)
        || !s.slotOpen (some (s.tenantOf u.core)) u.pa then .next s
    else .next ({ s with updates := s.updates.eraseIdx idx }.applyUpdate u)

/-- The updates that no home has applied, those that wait behind a reservation among them. -/
def State.openUpdates (s : State) : List Update :=
  s.updates ++ s.pendRegs.filterMap (fun p => match p.act with | .vrdm u => some u | _ => none)

/-! ### The entry of a memory instruction -/

/-- The strand's VRDM updates that their homes have not applied (R187). -/
def State.updatesPending (s : State) (sid : Nat) : Bool := s.openUpdates.any (fun u => u.core * 8 + u.slot = sid)

/-- FENCE.VS and FENCE.VV complete once every older vector access has been performed (R188). -/
def vecFence (sid : Nat) : VAct Unit := do
  if (← get).updatesPending sid then throw .again else return ()

/-- What the oldest entry does when its instruction belongs to this chapter.  DESIGN CHOICE (log 83): R187 leaves a vector access free to
come before or after an older scalar store to the same byte; a scalar store is performed in its own step, so a younger vector access
comes after it. -/
def memEntry (sid : Nat) (e : VEntry) : VAct Unit :=
  match e.ins with
  | .vld vd km _ => vecLoad sid e .unit vd.toNat km.toNat
  | .vlds vd _ km _ => vecLoad sid e (.strided e.g2) vd.toNat km.toNat
  | .vldx vd idx km _ => vecLoad sid e (.indexed idx.toNat) vd.toNat km.toNat
  | .vldSl vd km _ => vecLoadSlice sid e vd.toNat km.toNat
  | .vst vd km _ => vecStore sid e .unit vd.toNat km.toNat
  | .vsts vd _ km _ => vecStore sid e (.strided e.g2) vd.toNat km.toNat
  | .vstx vd idx km _ => vecStore sid e (.indexed idx.toNat) vd.toNat km.toNat
  | .vstSl vd km _ => vecStoreSlice sid e vd.toNat km.toNat
  | .vldt vd _ km _ => vecLoadTile sid e vd.toNat km.toNat
  | .vstt vd _ _ => vecStoreTile sid e vd.toNat
  | .vldc vd _ km _ => vecLoadChunk sid e vd.toNat km.toNat
  | .vpf level _ _ => vecPrefetch sid e level.toNat
  | .vamo vd idx km uns op _ => vecAmo sid e vd.toNat idx.toNat km.toNat (uns = 1) op.toNat
  | .vrdm vd idx km uns op _ => vecRdm sid e vd.toNat idx.toNat km.toNat (uns = 1) op.toNat
  | .fenceVs => vecFence sid
  | .fenceVv => vecFence sid
  | _ => return ()

/-- What the oldest entry does: one that writes the chunk register of an unfinished copy does not start, nor start again after a fault
(09_copy R241). -/
def performEntry (sid : Nat) (e : VEntry) : VAct Unit := do
  if !e.begun && (← get).chunkReg sid (entryKDest e.ins) then throw .again
  else
    modify (fun s => (if e.begun then s else s.forgetWalks sid 1).modSt sid (fun t =>
      { t with vq := match t.vq with | [] => [] | x :: r => { x with begun := true } :: r }))
    let s ← get
    match arithEntry (s.st sid) e with
    | some (.ok t) => set (s.setSt sid t)
    | some (.error (code, n)) => vecFault code n
    | none => memEntry sid e

/-- VECTOR_ENTRY_COMPLETE: the sequencer performs the oldest entry of a strand's queue. -/
def execVectorEntryComplete (core slot : Nat) (s : State) : Host.Outcome State Fault Refusal :=
  .next (s.stepEntry (core * 8 + slot) (performEntry (core * 8 + slot)))

/-! ### The element-progress timer (05_vector R152) -/

/-- The mask of a memory instruction. -/
def memMask (i : Instr) : Nat :=
  match i with
  | .vld _ km _ => km.toNat
  | .vlds _ _ km _ => km.toNat
  | .vldx _ _ km _ => km.toNat
  | .vst _ km _ => km.toNat
  | .vsts _ _ km _ => km.toNat
  | .vstx _ _ km _ => km.toNat
  | .vamo _ _ km _ _ _ => km.toNat
  | .vrdm _ _ km _ _ _ => km.toNat
  | _ => 0

/-- The element the oldest entry stands at, and its address; none for an instruction that accesses no memory. -/
def State.stalledAt (s : State) (sid : Nat) (e : VEntry) : Option (Nat × Word) :=
  let t := s.st sid
  let i := ((e.todo (t.kr (memMask e.ins))).head?).getD e.start
  let form := fun (f : VForm) (vd : BitVec 5) => some (i, f.addr t e.g1 (t.vhr vd.toNat).esize i)
  match e.ins with
  | .vld vd _ _ => form .unit vd
  | .vlds vd _ _ _ => form (.strided e.g2) vd
  | .vldx vd idx _ _ => form (.indexed idx.toNat) vd
  | .vst vd _ _ => form .unit vd
  | .vsts vd _ _ _ => form (.strided e.g2) vd
  | .vstx vd idx _ _ => form (.indexed idx.toNat) vd
  | .vldt _ _ _ _ =>
    match e.tile with
    | some h => some (e.start, h.lineAddr e.g2.toNat e.start)
    | none => some (e.start, e.g1)
  | .vstt vd _ _ => some (e.start, (tileForm e.g1 (t.vhr vd.toNat) e.g2).lineAddr (bits e.g2 47 32) e.start)
  | .vldc vd _ _ _ => form (.chunk e.g2) vd
  | .vamo vd idx _ _ _ _ => form (.indexed idx.toNat) vd
  | .vrdm vd idx _ _ _ _ => form (.indexed idx.toNat) vd
  | _ => none

/-- EPTIMEOUT: the oldest entry's timer has reached its limit.  A VAMO element that is at its home lies below ctl.velem: the fault waits
until its value has filled vd (R185).  The timer of a strand that is HELD had reached the limit before (16_debug R412). -/
def execEptimeout (core slot : Nat) (s : State) : Host.Outcome State Fault Refusal :=
  let sid := core * 8 + slot
  let t := s.st sid
  match t.vq with
  | [] => .next s
  | e :: _ =>
    if t.runsEntry && decide (t.epLimit ≤ (t.ctl cEptime).toNat) && t.amoBack.isNone && !s.amoWaits sid then
      match s.stalledAt sid e with
      | some (i, ea) => .next (s.vectorFault sid (s.portOf sid ea) xEptimeout ea i)
      | none => .next s
    else .next s

end Sys2Proof.Machine
end

