-- ==== Sys2Proof/Machine/Mmu.lean ====
section
/-! DEFINITION. The translation instructions (07_translation R198, R205, R206) and the engine's own steps: fills of the PLB,
walks that waited, and the fault ring (R196, R197, R202). -/

namespace Sys2Proof.Machine

/-! ### Words of the engine commands

The instructions from the dispatcher's on are named to a trap by the word of their EC format (02_words R44), since their
constructors are past those the runtime builds. -/

/-- A word of the EC format. -/
def ecWord (major fn6 oxb : Nat) (a b c : BitVec 5) : Word :=
  word (2 * major + 1 + c.toNat * 2 ^ 8 + b.toNat * 2 ^ 13 + a.toNat * 2 ^ 18 + oxb % 8 * 2 ^ 23 + fn6 % 64 * 2 ^ 26)

/-- ILLEGAL for a word. -/
def illegalWord {α : Type} (w : Word) : Act α := trap 0 xIllegal w

/-- An EC instruction that needs supervisor mode; monitor mode. -/
def ecSupervisor (w : Word) : Act Unit := do
  if (← get).atSupervisor then return () else illegalWord w
def ecMonitor (w : Word) : Act Unit := do
  if (← get).atMonitor then return () else illegalWord w

/-- The end of the translated space. -/
abbrev spaceEnd : Nat := 0xF0000000000000

/-- A strand of this package in the form of ctl.strandid (04_strand R116): its core and slot. -/
def State.strandNamed (s : State) (x : Word) : Option Nat :=
  if bits x 63 23 = 0 && bits x 22 13 = s.pkg % 1024 && decide (bits x 6 3 < 10) && decide (bits x 2 0 ≤ 4) then
    some (bits x 12 0)
  else none

/-- Cores of the issuer's partition that hold any state. -/
def State.partitionCores (s : State) (core : Nat) : List Nat := (s.cores.map (·.1)).filter (fun c => s.samePartition core c)

/-- A core's replay captures are discarded. -/
def Core.dropReplays (c : Core) : Core := { c with strands := c.strands.map (fun (e : Nat × Strand) => (e.1, e.2.dropReplay)) }

/-! ### Invalidation (R198) -/

/-- PLBINV at one core. -/
def State.plbInvalidate (s : State) (pd : Option Nat) (core : Nat) : State :=
  s.modCore core (fun c => { c.dropReplays with
    plb := match pd with | none => [] | some d => c.plb.filter (fun e => e.pd ≠ d) })

/-- TLBINV at one core: the dirty words in the range go to their home slices, the lines leave the caches of the core, and
every translation that overlaps the range goes, those of finished walks among them. -/
def State.tlbInvalidate (s : State) (base len core : Nat) : State :=
  let inside := fun (va : Nat) => decide (base ≤ va ∧ va < base + len)
  let s := s.registerL1 core scP (fun va _ => inside va)
  let s := s.dropL1 core (fun va _ => inside va)
  let s := s.modCluster (clusterOfCore core) (fun cl => { cl with
    walkQ := cl.walkQ.map (fun q => if q.core = core && inside (q.page * 4096) then { q with res := none } else q) })
  s.modCore core (fun c => { c.dropReplays with
    tlb := c.tlb.filter (fun e => !decide (e.vbase < base + len ∧ base < e.vbase + 2 ^ e.lsize))
    icache := c.icache.filter (fun e => !inside e.1) })

/-- The frames a core reaches by translations of a range: those its TLB holds, and those its L1 lines were filled through. -/
def State.framesOf (s : State) (base len core : Nat) : List (Nat × Nat) :=
  let c := s.core core
  (c.tlb.filter (fun e => decide (e.vbase < base + len ∧ base < e.vbase + 2 ^ e.lsize))).map (fun e => (e.frame, e.lsize))
    ++ (c.l1.filter (fun e => decide (base ≤ e.1 * 8 ∧ e.1 * 8 < base + len))).map (fun e => (s.rawPa e.2.pa, 12))

/-- Every access to some frames has been performed (R199): nothing to them waits at a home slice, is on its way to one, asks for a
reservation or an atomic there, waits for its window or is being merged. -/
def State.framesClear (s : State) (frames : List (Nat × Nat)) : Bool :=
  let hit := fun (pa : Nat) => frames.any (fun f => s.pageHolds f pa)
  let asks := fun (t : Strand) => match t.wait with | .rsv pa _ _ _ _ => hit pa | _ => false
  !(s.cores.any (fun e => e.2.strands.any (fun x => asks x.2)) || s.pendRegs.any (fun p => hit p.pa) || s.updates.any (fun u => hit u.pa) || s.scOps.any (fun o => hit o.pa)
    || s.merges.any (fun m => hit m.pa))

/-- PLBINV. -/
def execPlbinv (a : BitVec 5) (s : State) : Host.Outcome State Fault Refusal :=
  runAct (do
    ecSupervisor (ecWord 0x72 0 0 a 0 0)
    let x := s.gr a
    if bits x 63 17 ≠ 0 then trap 5 xPerm x
    else
      waitUntil drained
      let pd := if bit x 16 then none else some (bits x 15 0)
      change (fun s => (s.partitionCores s.curCore).foldl (fun s c => s.plbInvalidate pd c) s)
      done 4 1) s

/-- TLBINV: the invalidation at every core of the partition; it completes once every access through a translation it discarded has been
performed (R198, R199). -/
def execTlbinv (b a : BitVec 5) (s : State) : Host.Outcome State Fault Refusal :=
  runAct (do
    ecSupervisor (ecWord 0x72 1 0 a b 0)
    let base := s.gr a
    let len := s.gr b
    if let some frames := s.underWay then
      flyUntil frames (fun s => s.framesClear frames)
      done 4 1
    else if len = 0 ∧ base ≠ 0 then trap 5 xPerm base
    else if base.toNat % 4096 ≠ 0 ∨ len.toNat % 4096 ≠ 0 then trap 0 xMisalign base
    else if spaceEnd < base.toNat + len.toNat then trap 5 xPerm (if spaceEnd < base.toNat then base else len)
    else
      waitUntil drained
      let n := if len = 0 then spaceEnd else len.toNat
      let cores := s.partitionCores s.curCore
      let frames := (cores.flatMap (s.framesOf base.toNat n)).dedup
      change (fun s => cores.foldl (fun s c => s.tlbInvalidate base.toNat n c) s)
      flyUntil frames (fun s => s.framesClear frames)
      done 4 1) s

/-! ### Wake (R201, R206) -/

/-- A dropped strand is woken: it resumes where its fault left it, its scalar stream awaiting a queued result as before (05_vector
R144); under HALT it is held, to go on at RESUME. -/
def Strand.wake (t : Strand) : Strand :=
  let t := { t with vq := t.vq.map VEntry.afresh, wait := if t.vq.any (fun e => awaited e.ins) then .vres else t.wait }
  if t.dbgHalted then { t with st := .held, heldFrom := .run } else { t with st := .run }

/-- The paused commands of a strand that has been woken go on (08_matrix R226, 09_copy R254, R267). -/
def Core.resumeCommands (c : Core) (slot : Nat) : Core :=
  { c with
    mq := c.mq.map (fun m => if m.slot = slot && m.phase = .paused then { m with phase := .performing } else m)
    copies := c.copies.map (fun (e : Nat × CopyCmd) =>
      (e.1, if e.2.slot = slot && e.2.state = .paused then
        { e.2 with state := if 1024 * e.2.done < e.2.extent then .moving else .followOn } else e.2)) }

/-- The same, of a strand by its name. -/
def State.resumeCommands (s : State) (sid : Nat) : State :=
  s.modCore (coreOfSid sid) (fun c => c.resumeCommands (slotOfSid sid))

/-- The parking slot whose instance a core's held entry for a tenant stands for (14_dispatch R377). -/
def State.heldSlot (s : State) (core tenant : Nat) : Option Nat :=
  ((s.core core).fwd.find? (fun f => f.tenant = tenant && f.held)).map (·.slotNo)

/-- PGWAKE of a strand: its status and the state after it.  A strand of a parked core, which the held entry stands for, resumes at unpark
(14_dispatch R377, R384).  The paused commands of one that is held after its wake go on at RESUME (R206, 08_matrix R237). -/
def State.pgwake (s : State) (sid tenant : Nat) : Nat × State :=
  let core := s.followFwd (coreOfSid sid) tenant
  match s.heldSlot core tenant with
  | some n =>
    let mine := fun (p : ParkedCore) => p.tenant = tenant && p.slotNo = n
    if s.disp.parked.any (fun p => mine p && (p.core.strand (slotOfSid sid)).st != .free) then
      (0, { s with disp := { s.disp with parked := s.disp.parked.map (fun p =>
        if mine p then { p with woken := slotOfSid sid :: p.woken } else p) } })
    else (1, s)
  | none =>
    let sid := core * 8 + slotOfSid sid
    let t := s.st sid
    if t.st ≠ .dropped then (1, s)
    else if t.status.saveinc then (2, s)
    else
      let s := s.setSt sid t.wake
      (0, if (s.st sid).st = .run then s.resumeCommands sid else s)

/-- PGWAKE. -/
def execPgwake (c a : BitVec 5) (s : State) : Host.Outcome State Fault Refusal :=
  runAct (do
    ecSupervisor (ecWord 0x72 2 0 a 0 c)
    let x := s.gr a
    match s.strandNamed x with
    | some sid =>
      if s.coreInTenant (coreOfSid sid) s.cur.tenant then
        let (code, s') := s.pgwake sid s.cur.tenant
        set s'
        doneWith c (word code) 4 1
      else trap 5 xPerm x
    | none => trap 5 xPerm x) s

/-! ### Looking at the tables (R206) -/

/-- PGQRY. -/
def execPgqry (c a : BitVec 5) (s : State) : Host.Outcome State Fault Refusal :=
  runAct (do
    ecSupervisor (ecWord 0x72 3 0 a 0 c)
    let va := s.gr a
    if spaceEnd ≤ va.toNat then trap 5 xPerm va
    else
      match ← access (fun w => walk w.core va.toNat) va 0 with
      | .leaf lo _ _ level => doneWith c (setBits lo 11 9 level) 4 1
      | .fault type level => doneWith c (word (type * 4096 + level * 512)) 4 1) s

/-- The leaves of a range from `va` on, up to the first page without a valid one: their virtual and physical addresses,
frames and sizes, and where the run of them ends. -/
def leavesOf (core : Nat) (fuel va stop : Nat) : Acc (List (Nat × Nat × Nat × Nat) × Nat) := do
  match fuel with
  | 0 => return ([], va)
  | n + 1 =>
    if stop ≤ va then return ([], va)
    else
      match ← walk core va with
      | .fault _ _ => return ([], va)
      | .leaf lo _ pa level =>
        let size := pageBits level
        let start := va / 2 ^ size * 2 ^ size
        let (l, v) ← leavesOf core n (start + 2 ^ size) stop
        return ((start, pa, bits lo 51 12 * 4096, size) :: l, v)

/-- A page is pinned or unpinned (R206). -/
def State.pinLeaf (s : State) (core : Nat) (pin : Bool) (l : Nat × Nat × Nat × Nat) : State :=
  let (va, pa, frame, _) := l
  let s := (if pin then s.pteUpdate pa frame [pteP] [] else s.pteUpdate pa frame [] [pteP]).2
  if pin then s.victimRemove core va else s

/-- PGPIN.  DESIGN CHOICE (log 93): R205 does not order its checks, nor say which operand ctl.tval holds where the range passes the end of
the space. -/
def execPgpin (c b a : BitVec 5) (s : State) : Host.Outcome State Fault Refusal :=
  runAct (do
    ecSupervisor (ecWord 0x72 4 0 a b c)
    let base := s.gr a
    let len := bits (s.gr b) 62 0
    if base.toNat % 4096 ≠ 0 then trap 0 xMisalign base
    else if len % 4096 ≠ 0 ∨ 2 ^ 30 < len then trap 5 xPerm (s.gr b)
    else if spaceEnd < base.toNat + len then trap 5 xPerm (if spaceEnd < base.toNat then base else s.gr b)
    else
      let (ls, v) ← access (fun w => leavesOf w.core (len / 4096) base.toNat (base.toNat + len)) base 0
      change (fun s => ls.foldl (fun s l => s.pinLeaf s.curCore (!bit (s.gr b) 63) l) s)
      doneWith c (word (min v (base.toNat + len) - base.toNat)) 4 1) s

/-! ### The engine's own steps -/

/-- PLB_FILL: the walker reads a domain's list for a core of which a strand has that domain, when the PLB lacks it. -/
def execPlbFill (core pd : Nat) (s : State) : Host.Outcome State Fault Refusal :=
  let c := s.core core
  if c.plb.any (fun p => p.pd = pd) || !(c.strands.any (fun e => e.2.st = .run && e.2.pd = pd)) then .next s
  else
    match plbFill core pd s with
    | .ok _ s' => .next s'
    | .error _ s' => .next s'

/-- Two misses are one walk's: for the same page in the same tables, and neither has an outcome (R197). -/
def State.sameWalk (s : State) (o q : WalkReq) : Bool :=
  o.page = q.page && o.res.isNone && q.res.isNone && (s.core o.core).ctl 0x100 = (s.core q.core).ctl 0x100

/-- A walk has ended: every access that joined it has its outcome, and a leaf stands in the TLB of every core of those, with A set (R194,
R197); a core whose tenant the leaf's key does not serve holds none (12_sagger R334). -/
def State.endWalk (s : State) (cluster : Nat) (q : WalkReq) (r : WalkRes) : State :=
  let mine := fun (o : WalkReq) => s.sameWalk o q
  let asked := (s.cluster cluster).walkQ.filter mine
  let (id, s) := s.fresh
  let s := s.modCluster cluster (fun cl => { cl with
    walkQ := cl.walkQ.map (fun o => if mine o then { o with res := some r, walk := id } else o) })
  match r with
  | .ended (.leaf lo hi pa level) =>
    let e := entryOf lo hi pa level (q.page * 4096)
    let s := (s.pteUpdate pa (bits lo 51 12 * 4096) [pteA] []).2
    asked.foldl (fun s o =>
      if s.keyServes (s.st o.sid).tenant e.key then s.modCore o.core (fun c => { c with tlb := tlbWith c.tlb e }) else s) s
  | _ => s

/-- The first of each walk among misses, in order of arrival. -/
def State.walksOf (s : State) (l : List WalkReq) : List WalkReq :=
  l.foldl (fun ws q => if ws.any (fun o => s.sameWalk o q) then ws else ws ++ [q]) []

/-- The walker slots that hold records which wait for the ring: one for each walk that produced any (R202). -/
def Cluster.heldSlots (cl : Cluster) : Nat := ((cl.recWait.map (·.walk)).dedup).length

/-- The walks in flight: of those asked for, the first in order of arrival, in the slots of the 8 that hold no record (R197, R202). -/
def State.walksInFlight (s : State) (cluster : Nat) : List WalkReq :=
  let cl := s.cluster cluster
  (s.walksOf (cl.walkQ.filter (fun q => q.res.isNone))).take (8 - cl.heldSlots)

/-- WALK_COMPLETE: a walk in flight of a cluster ends; which of them, the spec does not say: a free value (log 12). -/
def execWalkComplete (cluster : Nat) (s : State) : Host.Outcome State Fault Refusal :=
  let ws := s.walksInFlight cluster
  let (x, s) := s.draw
  match ws[x.toNat % ws.length]? with
  | none => .next s
  | some q =>
    match walk q.core (q.page * 4096) s with
    | .ok e s' => .next (s'.endWalk cluster q (.ended e))
    | .error .ecc s' => .next (s'.endWalk cluster q .ecc)
    | .error _ s' => .next (s'.endWalk cluster q .poison)

/-- The slot of the ring of a core that its next record takes (R202). -/
def Core.ringSlot (c : Core) : Nat :=
  let lsize := bits (c.ctl 0x109) 4 0
  bits (c.ctl 0x108) 51 0 / 2 ^ (5 + lsize) * 2 ^ (5 + lsize) + 32 * ((c.ctl 0x10A).toNat % 2 ^ lsize)

/-- A record is written to the ring of a holding core: its slot, then the head (R202). -/
def State.ringWrite (s : State) (core : Nat) (r : FaultRec) : State :=
  let head := ((s.core core).ctl 0x10A).toNat
  let base := (s.core core).ringSlot
  let bs := r.bytes s.pkg
  let s := s.clearCovered ((List.range 4).map (fun i => (base + 8 * i, (0xFF : BitVec 8)))) 0 (s.tenantOf core)
  let s := (List.range 4).foldl (fun s i =>
    s.arriveHome (base + 8 * i) 0xFF (word (leField bs (8 * i) 8)) none 0 (s.tenantOf core)) s
  s.modCore core (fun c => c.setCtl 0x10A (word ((head + 1) % 2 ^ 32)))

/-- The ring of a core takes another record.  DESIGN CHOICE (log 93): a ring whose size ctl.fqcfg has since made smaller than what it holds
is full. -/
def Core.ringRoom (c : Core) : Bool :=
  let lsize := bits (c.ctl 0x109) 4 0
  decide (4 ≤ lsize) && decide (((c.ctl 0x10A).toNat + 2 ^ 32 - (c.ctl 0x10B).toNat) % 2 ^ 32 < 2 ^ lsize)

/-- FAULT_RECORD_WRITE: the oldest record of the first cluster of the partition that has one waiting, or a save or load
record, enters the ring; while a word of its slot is reserved (10_sync R282), the record waits.  DESIGN CHOICE (log 93): R202 gives no
order among records that wait in several clusters, nor between those and save or load records. -/
def execFaultRecordWrite (core : Nat) (s : State) : Host.Outcome State Fault Refusal :=
  if !(s.isHolding core && (s.core core).ringRoom)
      || (List.range 4).any (fun i => (s.reserved ((s.core core).ringSlot + 8 * i)).isSome) then .next s
  else
    let p := s.partitionOf core
    match s.clusters.find? (fun e => p.mask.testBit (e.1 / 8) && !e.2.recWait.isEmpty) with
    | some (k, cl) =>
      match cl.recWait with
      | r :: rest => .next ((s.setCluster k { cl with recWait := rest }).ringWrite core r)
      | [] => .next s
    | none =>
      match s.cores.find? (fun e => p.mask.testBit (dieOfCore e.1) && e.2.saveRec.isSome) with
      | some (k, c) =>
        match c.saveRec with
        | some r => .next ((s.setCore k { c with saveRec := none }).ringWrite core r)
        | none => .next s
      | none => .next s

/-! ### Steps of a strand at its issue point -/

/-- INTERRUPT_ENTRY: the interrupt that is due is entered (04_strand R121). -/
def execInterruptEntry (core slot : Nat) (s : State) : Host.Outcome State Fault Refusal :=
  let sid := core * 8 + slot
  if (s.st sid).atIssue (s.cycleOf core) then
    match s.takeInterrupt sid with
    | some s' => .next s'
    | none => .next s
  else .next s

/-- TIMER_INTERRUPT: source 0 of a strand whose ctl.tcmp ctl.time has reached (R120). -/
def execTimerInterrupt (core slot : Nat) (s : State) : Host.Outcome State Fault Refusal :=
  let sid := core * 8 + slot
  if (s.st sid).st != .free && decide (((s.st sid).ctl cTcmp).toNat ≤ s.time) then .next (s.setPend sid 0) else .next s

/-- ASYNC_FAULT_TRAP: the oldest recorded fault of a strand is entered at its issue point (R439). -/
def execAsyncFaultTrap (core slot : Nat) (s : State) : Host.Outcome State Fault Refusal :=
  let sid := core * 8 + slot
  match (s.st sid).async with
  | .fault _ _ _ :: _ => match s.takeAsync sid with | some s' => .next s' | none => .next s
  | .vfault _ _ _ _ :: _ => match s.takeAsync sid with | some s' => .next s' | none => .next s
  | _ => .next s

/-- ASYNC_PAGE_FAULT_DROP: the oldest recorded drop of a strand takes effect at its issue point (R439). -/
def execAsyncPageFaultDrop (core slot : Nat) (s : State) : Host.Outcome State Fault Refusal :=
  let sid := core * 8 + slot
  match (s.st sid).async with
  | .drop _ :: _ => match s.takeAsync sid with | some s' => .next s' | none => .next s
  | _ => .next s

end Sys2Proof.Machine
end

