-- ==== Sys2Proof/Machine/Net.lean ====
section
/-! DEFINITION. The mesh: routers and the units at them, packets, their channels and hops, the membership check and the
replication of multicast responses (13_fabric R339 to R350), and the message of R354 as bytes. -/

namespace Sys2Proof.Machine

/-! ### Units -/

/-- The unit that serves the full/empty accesses of a scratchpad word: its owning core, or the bank of its die scratchpad. -/
def unitOfWord (ga : Nat) : Nat :=
  match ownerOf ga with
  | .core c => c
  | .die d => unitBank d (ga % 2 ^ 28 / 2 ^ 21 % 16)

/-! ### Packets -/

/-- The clusters of the package. -/
def allClusters : List Nat := List.range 64

/-- A tenant of the package, set; the die of its first cluster; two tenants are of one partition. -/
def State.tenantSet (s : State) (t : Nat) : Option Tenant := tfind s.disp.tenants t
def State.tenantDie (s : State) (t : Nat) : Nat :=
  match s.tenantSet t with
  | some r => (allClusters.find? r.holds).getD 0 / 8
  | none => 0
def State.sameTenantPartition (s : State) (a b : Nat) : Bool := (s.partitionOfDie (s.tenantDie a)).mask.testBit (s.tenantDie b)

/-- The membership group of a class (R342). -/
def PClass.coreGroup (c : PClass) : Bool := match c with | .core => true | .crsp => true | _ => false
def PClass.memoryGroup (c : PClass) : Bool := match c with | .req => true | .rsp => true | _ => false

/-- The row of the channel table of R343 that a class uses. -/
def PClass.row (c : PClass) : Nat := match c with | .req => 0 | .rsp => 0 | .core => 1 | .crsp => 1 | .msg => 2 | .ctrl => 3

/-- The dispatcher's reservation of a pair for a tenant in the core or the memory group (R349). -/
def State.pairOf (s : State) (tenant : Nat) (cls : PClass) : Option Nat :=
  match tfind s.fabric.vcres tenant with
  | some r =>
    if r.live && cls.coreGroup && r.core then some r.corePair
    else if r.live && cls.memoryGroup && r.memory then some r.memPair
    else none
  | none => none

/-- The first channel of a packet's pair or open set. -/
def State.channelBase (s : State) (cls : PClass) (tenant : Nat) : Nat :=
  match s.pairOf tenant cls with | some i => 4 + 2 * i | none => 0

/-- The channels a packet of a class may take in the adaptive way: those of its pair, or of the open set (R343). -/
def State.adaptiveChannels (s : State) (cls : PClass) (tenant : Nat) : List Nat :=
  match s.pairOf tenant cls with | some i => [5 + 2 * i] | none => [1, 2, 3]

/-- The channel of a packet that keeps to dimension order (R343): by the ends of its way within its pair or set, or the escape
channel. -/
def State.channelFor (s : State) (cls : PClass) (tenant src dst : Nat) : Nat :=
  let base := s.channelBase cls tenant
  match cls with
  | .req => base
  | .rsp => base
  | .ctrl => (src ^^^ dst) % 2
  | _ => base + (src ^^^ dst) % 2 + (if (s.pairOf tenant cls).isSome then 0 else 2 * (Config.channelSet src dst % 2))

/-- A packet enters the mesh at the router of its sender; its identity. -/
def State.sendPacket (s : State) (cls : PClass) (tenant src : Nat) (dsts : List Nat) (payload : Payload) (waiter : Option Nat) :
    Nat × State :=
  let (id, s) := s.fresh
  let (x, y) := routerOf src
  let escaped := match cls with | .rsp => true | _ => false
  let p : Packet :=
    { id := id, cls := cls, tenant := tenant, src := src, dsts := dsts, x := x, y := y,
      vc := s.channelFor cls tenant src (lget 0 dsts 0), waited := 0, escaped := escaped, hx := x, hy := y, payload := payload,
      waiter := waiter, fwd := false, sender := src, named := lget 0 dsts 0 }
  (id, { s with fabric := { s.fabric with packets := s.fabric.packets ++ [p] } })

def State.packet (s : State) (id : Nat) : Option Packet := s.fabric.packets.find? (fun p => p.id = id)
def State.setPacket (s : State) (p : Packet) : State :=
  { s with fabric := { s.fabric with packets := s.fabric.packets.map (fun q => if q.id = p.id then p else q) } }
def State.dropPacket (s : State) (id : Nat) : State :=
  { s with fabric := { s.fabric with packets := s.fabric.packets.filter (fun p => p.id ≠ id) } }

/-- No older packet of the same class between the same units stands at the same place: packets of a pair keep their order, but for
requests to memory and their responses (R346). -/
def State.inTurn (s : State) (p : Packet) : Bool :=
  p.cls.memoryGroup || !((s.fabric.packets.takeWhile (fun q => q.id ≠ p.id)).any (fun q =>
    q.cls = p.cls && q.src = p.src && lget 0 q.dsts 0 = lget 0 p.dsts 0 && q.x = p.x && q.y = p.y))

/-- A packet stands at the router of its destination. -/
def Packet.there (p : Packet) : Bool := (p.x, p.y) = routerOf (lget 0 p.dsts 0) || (16 ≤ p.x && 8192 ≤ lget 0 p.dsts 0)

/-! ### Channels and link cycles (R343, R349) -/

/-- A packet has come over a link and stands in a buffer of its router. -/
def Packet.buffered (p : Packet) : Bool := (p.hx, p.hy) != (p.x, p.y)

/-- Packets of a link's buffer for a channel of a class's row. -/
def State.inBuffer (s : State) (a b : Nat × Nat) (row vc : Nat) : List Packet :=
  s.fabric.packets.filter (fun q => q.buffered && (q.hx, q.hy) = a && (q.x, q.y) = b && q.cls.row = row && q.vc = vc)

/-- Packets at a router whose header flit has gone to a channel of the next. -/
def State.entering (s : State) (a b : Nat × Nat) (row vc : Nat) : List Packet :=
  s.fabric.packets.filter (fun q => (q.x, q.y) = a && q.ahead = some (b, vc) && q.cls.row = row)

/-- The credits of a channel of the link from one router to the next; none while a packet's data flit has still to follow its header
there. -/
def State.credits (s : State) (a b : Nat × Nat) (row vc : Nat) : Nat :=
  if (s.entering a b row vc).isEmpty then Config.channelDepth + 1 - (s.inBuffer a b row vc).length else 0

/-- A packet is the first of its channel's buffer that has still to go on: a channel keeps its order (R341). -/
def State.atHead (s : State) (p : Packet) : Bool :=
  s.inTurn p && !((s.inBuffer (p.hx, p.hy) (p.x, p.y) p.cls.row p.vc).takeWhile (fun q => q.id ≠ p.id)).any (fun q =>
    p.buffered && !q.there)

/-- Where a router stands in its row: I0 before the first, I1 after the last. -/
def column (x : Nat) : Nat := if x = 16 then 0 else if x = 17 then 17 else x + 1

/-- A link of the mesh: its router and direction, 0 to 3 for +x, −x, +y, −y. -/
def linkOf (a b : Nat × Nat) : Nat :=
  (a.2 * 32 + a.1) * 4
    + (if column a.1 < column b.1 then 0 else if column b.1 < column a.1 then 1 else if a.2 < b.2 then 2 else 3)

/-- The die of a router; the I/O dies are none of the eight. -/
def dieOfRouter (r : Nat × Nat) : Nat := if 16 ≤ r.1 then 8 else r.1 / 4 + 4 * (r.2 / 4)

/-- The flits of a packet (R341): a message and a line have a data flit behind the header (log 87). -/
def Payload.flits (p : Payload) : Nat :=
  match p with
  | .am _ _ => 2
  | .mb _ _ => 2
  | .fe _ => 1
  | .feCancel _ _ _ => 1
  | .line _ _ _ => 2

/-- A live reservation of a tenant covers a link: its core ports, every port of its partition (R349, R362). -/
def State.covers (s : State) (t : Nat) (r : VcRes) (a b : Nat × Nat) : Bool :=
  r.live && ((r.core && s.routerOfTenant a.1 a.2 t && s.routerOfTenant b.1 b.2 t)
    || (r.memory && (s.partitionOfDie (s.tenantDie t)).mask.testBit (dieOfRouter a)))

/-- The tenant whose reservation has a link's present cycle. -/
def State.cycleOwner (s : State) (a b : Nat × Nat) : Option Nat :=
  (s.fabric.vcres.find? (fun e => s.covers e.1 e.2 a b && e.2.mask.testBit (s.clock % 16))).map (·.1)

/-- A flit of a packet may cross a link in this cycle: no other has, and the cycle is its tenant's and it goes in the tenant's pair, or
the cycle is no one's and it goes in an open channel or in CTRL (R349). -/
def State.mayCross (s : State) (p : Packet) (a b : Nat × Nat) : Bool :=
  tfind s.fabric.crossed (linkOf a b) != some (s.clock + 1)
    && match s.cycleOwner a b with
      | some t => p.tenant = t && (s.pairOf t p.cls).isSome
      | none => (s.pairOf p.tenant p.cls).isNone

/-- A link carries a flit in this cycle. -/
def State.useLink (s : State) (a b : Nat × Nat) : State :=
  { s with fabric := { s.fabric with crossed := tput s.fabric.crossed (linkOf a b) (s.clock + 1) } }

/-- The last flit of a packet crosses a link: it stands in a channel's buffer behind the others there. -/
def State.cross (s : State) (p : Packet) (b : Nat × Nat) (vc : Nat) (escaped : Bool) : State :=
  let s := (s.dropPacket p.id).useLink (p.x, p.y) b
  let q := { p with x := b.1, y := b.2, hx := p.x, hy := p.y, vc := vc, waited := 0, escaped := escaped, ahead := none }
  { s with fabric := { s.fabric with packets := s.fabric.packets ++ [q] } }

/-- The header flit of a packet crosses a link; with no data flit behind it, the packet has crossed. -/
def State.crossHeader (s : State) (p : Packet) (b : Nat × Nat) (vc : Nat) (escaped : Bool) : State :=
  if p.payload.flits = 1 then s.cross p b vc escaped
  else (s.setPacket { p with ahead := some (b, vc), escaped := escaped }).useLink (p.x, p.y) b

/-- The data flit of a packet follows its header. -/
def State.crossData (s : State) (p : Packet) (b : Nat × Nat) (vc : Nat) : State :=
  if s.mayCross p (p.x, p.y) b then s.cross p b vc p.escaped else s

/-! ### The membership check (R347, R348) -/

/-- The die of the partition whose memory a packet may reach: its tenant's, or its sender's where the tenant is not set (log 96). -/
def State.memoryDie (s : State) (p : Packet) : Nat :=
  if (s.tenantSet p.tenant).isSome then s.tenantDie p.tenant else dieOfRouter (routerOf p.src)

/-- The bitmaps of a router's ports for the memory group admit a packet (R347). -/
def State.memoryPasses (s : State) (p : Packet) : Bool := (s.partitionOfDie (s.memoryDie p)).mask.testBit (dieOfRouter (p.x, p.y))

/-- The bitmap of the port towards a router admits a packet: of the core group where both routers are of the tenant's clusters, of the
memory group where the router is of the tenant's partition (R347). -/
def State.passes (s : State) (p : Packet) (nx : Nat × Nat) : Bool :=
  p.tenant = 127
    || (if p.cls.coreGroup then s.routerOfTenant p.x p.y p.tenant && s.routerOfTenant nx.1 nx.2 p.tenant
      else if p.cls.memoryGroup then s.memoryPasses p
      else true)

/-- The bitmap of the local port of a packet's destination admits it (R347): of the core group where the cluster there is its tenant's, or
no tenant's and its sender's own (log 96). -/
def State.localPasses (s : State) (p : Packet) : Bool :=
  p.tenant = 127
    || (if p.cls.coreGroup then
        (match s.clusterTenant (clusterOfCore (lget 0 p.dsts 0)) with
          | some t => t = p.tenant
          | none => clusterOfCore p.src = clusterOfCore (lget 0 p.dsts 0))
      else if p.cls.memoryGroup then s.memoryPasses p
      else true)

/-- An exact trap of a strand whose instruction is in flight: PERM, detail 5, at an address. -/
def State.trapInFlight (s : State) (sid detail code : Nat) (tval : Word) : State :=
  let pc := (s.st sid).pc
  (s.abandon sid).enter sid (causeWord false false false detail code) tval pc

/-- A full/empty access of a strand in flight fails with PERM, detail 5. -/
def State.failFe (s : State) (sid : Nat) : State :=
  match (s.st sid).wait with
  | .fe ea _ _ _ _ _ _ => s.trapInFlight sid 5 xPerm ea
  | _ => s

/-- A packet that fails the check is counted at its router and goes no further: the access that issued it fails with PERM, an MBSEND with
the identity of its target's core (log 24); a response, notice or active message is discarded with a service event, of a kind the
spec does not number (log 24). -/
def State.refusePacket (s : State) (p : Packet) : State :=
  let s := (s.refuseAt (p.x, p.y)).dropPacket p.id
  match p.payload with
  | .fe r => s.failFe r.sid
  | .feCancel sid _ _ => s.failFe sid
  | .mb _ _ =>
    match p.waiter with
    | some sid => s.trapInFlight sid 5 xPerm (s.coreId (lget 0 p.dsts 0))
    | none => s
  | _ =>
    let (k, s) := s.draw
    let s := s.svcEvent (bits k 7 0) 0 p.tenant 0
    match p.waiter with
    | some sid => s.finish0 sid
    | none => s

/-! ### Replication (R350) -/

/-- A line has come to a core: the CPYM commands of it that joined take it (09_copy R256). -/
def State.landLine (s : State) (core pa : Nat) (data : List Byte) (joined : List (Nat × Nat)) : State :=
  s.modCore core (fun c => { c with copies := c.copies.map (fun (e : Nat × CopyCmd) =>
    (e.1, if joined.contains (core, e.2.id) then { e.2 with lines := tput e.2.lines (pa / 64) data } else e.2)) })

/-- A multicast response at a router: local copies are delivered, and one copy leaves on each output another destination
needs, on the escape channels (R350), once each of these can take its copy.  One that fails the membership check is refused. -/
def State.spreadLine (s : State) (p : Packet) (pa : Nat) (data : List Byte) (joined : List (Nat × Nat)) : State :=
  let here := p.dsts.filter (fun d => routerOf d = (p.x, p.y))
  let rest := p.dsts.filter (fun d => routerOf d ≠ (p.x, p.y))
  let via := fun (d : Nat) => nextHop p.x p.y (routerOf d).1 (routerOf d).2
  let outs := (rest.map via).eraseDups
  let vc := s.channelBase p.cls p.tenant
  if outs.any (fun h => !s.passes p h) then s.refusePacket p
  else if outs.any (fun h => !s.mayCross p (p.x, p.y) h || s.credits (p.x, p.y) h p.cls.row vc = 0) then s
  else
    let s := here.foldl (fun s c => s.landLine c pa data joined) (s.dropPacket p.id)
    outs.foldl (fun s h =>
      let (id, s) := s.fresh
      let q := { p with id := id, dsts := rest.filter (fun d => via d = h), escaped := true, ahead := some (h, vc) }
      { s with fabric := { s.fabric with packets := s.fabric.packets ++ [q] } }.useLink (p.x, p.y) h) s

/-! ### The steps of a router -/

/-- The productive ports of a packet: the x port first (R344). -/
def productive (x y tx ty : Nat) : List (Nat × Nat) :=
  if 16 ≤ x || 16 ≤ tx then [nextHop x y tx ty]
  else (if x = tx then [] else [nextHop x y tx ty]) ++ (if y = ty then [] else [nextHop x y x ty])

/-- The adaptive outputs of a packet: each productive port with a free adaptive channel, that channel, and the port's credits. -/
def State.adaptiveOuts (s : State) (p : Packet) : List ((Nat × Nat) × Nat × Nat) :=
  let t := routerOf (lget 0 p.dsts 0)
  let cs := s.adaptiveChannels p.cls p.tenant
  (productive p.x p.y t.1 t.2).filterMap (fun b =>
    let free := cs.filter (fun c => decide (0 < s.credits (p.x, p.y) b p.cls.row c))
    match free with
    | [] => none
    | c :: _ => some (b, c, (cs.map (fun c => s.credits (p.x, p.y) b p.cls.row c)).foldl (· + ·) 0))

/-- A class whose packets are routed adaptively until they take an escape channel (R342, R344). -/
def Packet.adaptive (p : Packet) : Bool := p.cls.memoryGroup && !p.escaped

/-- Where a packet goes from its router, and in which channel: of the adaptive outputs the one with more credits, the x port on a tie
(R344); otherwise the dimension-ordered port, while its channel has a credit. -/
def State.output (s : State) (p : Packet) : Option ((Nat × Nat) × Nat) :=
  let t := routerOf (lget 0 p.dsts 0)
  if p.adaptive then
    match s.adaptiveOuts p with
    | [] => none
    | o :: r => let best := r.foldl (fun b o => if b.2.2 < o.2.2 then o else b) o; some (best.1, best.2.1)
  else
    let b := nextHop p.x p.y t.1 t.2
    let vc := s.channelFor p.cls p.tenant p.src (lget 0 p.dsts 0)
    if 0 < s.credits (p.x, p.y) b p.cls.row vc then some (b, vc) else none

/-- A packet takes one hop, flit by flit, where a channel and the link let it; one that the port's bitmap does not admit is refused. -/
def State.hop (s : State) (p : Packet) : State :=
  let t := routerOf (lget 0 p.dsts 0)
  match s.output p with
  | some (b, vc) =>
    if !s.passes p b then s.refusePacket p
    else if s.mayCross p (p.x, p.y) b then s.crossHeader p b vc p.escaped
    else s
  | none => if s.passes p (nextHop p.x p.y t.1 t.2) then s else s.refusePacket p

/-- One packet of the mesh moves on, in its turn. -/
def State.routePacket (s : State) (pkt : Nat) : State :=
  match s.packet pkt with
  | none => s
  | some p =>
    match p.ahead, p.payload with
    | some (b, vc), _ => s.crossData p b vc
    | none, .line pa data joined => if s.atHead p then s.spreadLine p pa data joined else s
    | none, _ => if p.there || !s.atHead p then s else s.hop p

/-- PACKET_ROUTE. -/
def execPacketRoute (pkt : Nat) (s : State) : Host.Outcome State Fault Refusal := .next (s.routePacket pkt)

/-- The flits of reservations that can cross in this cycle do: nothing else of the machine holds them up (R349). -/
def State.moveReserved (s : State) : State :=
  (s.fabric.packets.filter (fun p => (s.pairOf p.tenant p.cls).isSome)).foldl (fun s p => s.routePacket p.id) s

/-- esc_wait of a router (R345, R362): 64 until VCRES sets it. -/
def State.escWait (s : State) (x y : Nat) : Nat := tget 64 s.fabric.escWait (y * 16 + x)

/-- A packet at the head of an adaptive channel finds no free adaptive channel on any productive port (R345). -/
def State.blocked (s : State) (p : Packet) : Bool :=
  p.adaptive && p.ahead.isNone && !p.there && s.atHead p && (s.adaptiveOuts p).isEmpty

/-- ESCAPE_CHANNEL_MOVE: a packet that has been blocked at the head of an adaptive channel for esc_wait cycles goes on in the escape
channel of its dimension-ordered port, once that has a credit, and stays on escape channels (R345). -/
def execEscapeChannelMove (pkt : Nat) (s : State) : Host.Outcome State Fault Refusal :=
  match s.packet pkt with
  | none => .next s
  | some p =>
    let t := routerOf (lget 0 p.dsts 0)
    let b := nextHop p.x p.y t.1 t.2
    let vc := s.channelBase p.cls p.tenant
    if s.blocked p && decide (s.escWait p.x p.y ≤ p.waited) && decide (0 < s.credits (p.x, p.y) b p.cls.row vc) && s.passes p b
        && s.mayCross p (p.x, p.y) b then
      .next (s.crossHeader p b vc true)
    else .next s

/-! ### Forwarding on arrival (04_strand R35, 14_dispatch R377) -/

/-- What an operation of a tenant meets at a core: it is taken there, re-sent to a target, or refused by a held entry. -/
inductive Arrival where
  | here
  | onTo (core : Nat)
  | held
deriving DecidableEq, Repr

/-- The state of another core is on its way to this one: what arrives meanwhile waits, or is refused and sent again (log 89). -/
def State.receives (s : State) (core : Nat) : Bool :=
  s.disp.migrations.any (fun m => m.dst = core && (m.kind = 0 || m.kind = 2))

/-- The forwarding entry of a tenant at a core decides. -/
def State.arrival (s : State) (core tenant : Nat) : Arrival :=
  match (s.core core).fwd.find? (fun f => f.tenant = tenant) with
  | some f => if f.held then .held else .onTo f.target
  | none => if s.receives core then .held else .here

/-- A packet is re-sent by the old core to the target, in its order of arrival. -/
def State.resend (s : State) (p : Packet) (core target : Nat) : State :=
  let q := { p with
    src := core, dsts := [target], fwd := true, vc := s.channelFor p.cls p.tenant core target, waited := 0, hx := p.x, hy := p.y
    ahead := none }
  let s := s.dropPacket p.id
  { s with fabric := { s.fabric with packets := s.fabric.packets ++ [q] } }

/-- ctl.fecnt.fwdin of a core counts what came through a forwarding entry (10_sync R298). -/
def Core.countFwdin (c : Core) (fwd : Bool) : Core :=
  if fwd then c.setCtl 0x180 (setBits (c.ctl 0x180) 63 48 (bits (c.ctl 0x180) 63 48 + 1)) else c

/-! ### Messages as bytes (R354) -/

/-- The 64-byte payload of a message for another package. -/
def AmMsg.bytes (m : AmMsg) (target : Nat) : List Byte :=
  leBytes 1 m.index ++ leBytes 1 (b2n m.reply) ++ leBytes 3 m.sender ++ leBytes 1 m.tenant ++ leBytes 2 0
    ++ (List.range 6).flatMap (fun i => leBytes 8 (lget (0 : Word) m.args i).toNat) ++ leBytes 3 target ++ leBytes 5 0

/-- The message a payload carries, and its target's ctl.coreid. -/
def messageOf (bs : List Byte) : AmMsg × Nat :=
  ({ index := leField bs 0 1, reply := leField bs 1 1 % 2 = 1, sender := leField bs 2 3 % 2 ^ 23, tenant := leField bs 5 1 % 64,
     args := (List.range 6).map (fun i => word (leField bs (8 + 8 * i) 8)) }, leField bs 56 3 % 2 ^ 20)

end Sys2Proof.Machine
end

