-- ==== Sys2Proof/Machine/Message.lean ====
section
/-! DEFINITION. Active messages: AMSEND and AMRET (04_strand R137), arrival and the start of a handler (R134, R135), the
message switches of the I/O dies and UALink (13_fabric R353, R354). -/

namespace Sys2Proof.Machine

/-! ### Sending (R137, R353) -/

/-- A message takes its way: straight to its target in the sender's partition, its sender waiting for acceptance; otherwise
to the message switch at its end of the row, where it is accepted at once. -/
def State.sendAm (s : State) (sid : Nat) (m : AmMsg) (target : Nat) : State :=
  let core := coreOfSid sid
  let dst := target % 1024
  if target / 1024 = s.pkg % 1024 ∧ s.samePartition core dst = true then
    let (id, s) := s.sendPacket .msg m.tenant core [dst] (.am m target) (some sid)
    s.modSt sid (fun t => { t with wait := .send id })
  else
    let io := if (routerOf core).1 < 8 then 0 else 1
    let (_, s) := s.sendPacket .msg m.tenant core [unitIo io] (.am m target) none
    s.finish0 sid

/-- AMSEND. -/
def execAmsend (c b : BitVec 5) (oxb : BitVec 3) (s : State) : Host.Outcome State Fault Refusal :=
  runAct (do
    let t := s.gr c
    let reply := s.curSlot = 4
    if bits t 63 20 ≠ 0 ∨ 10 ≤ bits t 3 0 then trap 1 xAmfault t
    else if bits (s.gr b) 63 8 ≠ 0 then trap 2 xAmfault t
    else if reply ∧ (s.core s.curCore).amRun = some true then trap 3 xAmfault t
    else
      let m : AmMsg :=
        { index := bits (s.gr b) 7 0, sender := (s.strandId s.curSid).toNat, tenant := s.cur.tenant, reply := reply,
          args := (List.range 6).map (fun i => s.cur.oxr (oxb.toNat + i)) }
      change (fun s => s.sendAm s.curSid m (bits t 19 0))) s

/-- AMRET: once its commands have finished (08 R237, 09 R269) the running handler ends, and the message strand is idle: it leaves the rotation as FREE (log 25). -/
def execAmret (s : State) : Host.Outcome State Fault Refusal :=
  runAct (do
    if s.curSlot ≠ 4 then illegal .amret
    else
      waitUntil (fun s => drained s && s.settled s.curSid)
      done 4 1
      change (fun s =>
        let s := s.modCore s.curCore (fun c =>
          { c.setCtl cAmstat (setBits (c.ctl cAmstat) 15 0 (bits (c.ctl cAmstat) 15 0 + 1)) with amRun := none })
        (s.modCur (fun t => { t with st := .free, replay := {} })).settleLanes s.curSid)) s

/-! ### Arrival (R134) -/

/-- A queue of a core has room for a message of a class. -/
def Core.amRoom (c : Core) (reply : Bool) : Bool := decide ((c.amq.filter (fun m => m.reply = reply)).length < 16)

/-- AM_ARRIVAL: a message at its target's router enters its queue, follows a forwarding entry, or waits. -/
def execAmArrival (pkt : Nat) (s : State) : Host.Outcome State Fault Refusal :=
  match s.packet pkt with
  | none => .next s
  | some p =>
    match p.payload with
    | .am m _ =>
      let core := lget 0 p.dsts 0
      if !p.there || 1024 ≤ core || !s.inTurn p then .next s
      else
        match s.arrival core m.tenant with
        | .onTo target => .next (s.resend p core target)
        | .held => .next s
        | .here =>
          if !(s.core core).amRoom m.reply then .next s
          else
            let s := (s.dropPacket pkt).modCore core (fun c => { c with amq := c.amq ++ [m] })
            .next (match p.waiter with | some sid => s.finish0 sid | none => s)
    | _ => .next s

/-! ### Handlers (R135) -/

/-- A message is discarded and counted in ctl.amstat.rejected. -/
def Core.rejectAm (c : Core) : Core :=
  c.setCtl cAmstat (setBits (c.ctl cAmstat) 31 16 (min 0xFFFF (bits (c.ctl cAmstat) 31 16 + 1)))

/-- The core reads the table entry of an index: its two words, translated as the message strand's load would be.  DESIGN CHOICE (log 80):
R135 gives ctl.amtab no alignment; with a base that is not a multiple of 8 the entry's address is rounded down to one. -/
def amEntry (w : Who) (base : Word) (index : Nat) : Acc (Word × Word) := do
  let a := base.toNat + 16 * index
  if padBase ≤ a then throw (.perm 5)
  else
    let x ← loadWord w (a / 8 * 8) 0xFF .no
    let y ← loadWord w (a / 8 * 8 + 8) 0xFF .no
    return (x, y)

/-- The message strand as a handler begins. -/
def Strand.beginHandler (t : Strand) (m : AmMsg) (x y : Word) (cycle : Nat) : Strand :=
  let t := ((List.range 6).foldl (fun (t : Strand) i => t.wr (3 + i) (lget 0 m.args i)) t)
  let t := (t.wr 9 (word m.sender)).wr 10 (word (m.tenant * 2 ^ 16 + 2 ^ 8 * b2n m.reply + m.index))
  { t.setCtl cPd (word (bits y 15 0)) with
    st := .run, pc := x &&& ~~~1, wait := .none, readyAt := cycle + 1
    status := { t.status with mode := if bit y 16 then .supervisor else .task } }

/-- AM_HANDLER_START: the message strand, when it is idle, takes the oldest message: the handler begins, or the message is
discarded. -/
def execAmHandlerStart (core : Nat) (s : State) : Host.Outcome State Fault Refusal :=
  let c := s.core core
  let t := c.strand 4
  let sid := core * 8 + 4
  match c.amq with
  | [] => .next s
  | m :: rest =>
    if c.amRun.isSome || !(t.st = .free || t.st = .run) || c.moving then .next s
    else
      let reject := fun (s : State) => s.modCore core (fun c => { c.rejectAm with amq := rest })
      if (s.clusterTenant (clusterOfCore core)).isNone then .next (reject s)
      else
        match amEntry (s.who sid) (c.ctl cAmtab) m.index s with
        | .ok (x, y) s' =>
          if !bit x 0 || !(bit y 17 || decide (bits y 31 24 = m.tenant)) then .next (reject s')
          else
            let s' := s'.setSt sid ((s'.st sid).beginHandler m x y (s'.cycleOf core))
            .next (s'.modCore core (fun c => { c with amq := rest, amRun := some m.reply }))
        | .error .retry s' => .next s'
        | .error .walker s' => .next s'
        | .error _ s' => .next (reject s')

/-! ### The message switches (13_fabric R353) -/

def State.switch (s : State) (k : Nat) : Switch := tget {} s.fabric.switches k
def State.setSwitch (s : State) (k : Nat) (x : Switch) : State :=
  { s with fabric := { s.fabric with switches := tput s.fabric.switches k x } }

/-- A message is discarded at a switch: the count, and the diagnostic-log entry for its change. -/
def State.switchDiscard (s : State) (k : Nat) : State :=
  let w := s.switch k
  let n := w.discards + 1
  (s.setSwitch k { w with discards := n, logged := n }).diagEntry (leBytes 8 k ++ leBytes 8 n)

/-- The fixed port of a sender and target, from the set of a route: the spec does not say which (a free value). -/
def fixedPort (ports : List Nat) (sender target : Nat) : Nat :=
  lget 0 ports ((Config.freeValue (2 ^ 80 + sender * 2 ^ 20 + target)).toNat % ports.length)

/-- A core accepts messages from other packages: its tenant has remote set (R361). -/
def State.remoteAllowed (s : State) (core : Nat) : Bool :=
  coreExists core && (match s.clusterTenant (clusterOfCore core) with
    | some t => (match tfind s.disp.tenants t with | some x => x.remote | none => false)
    | none => false)

/-- A message at a switch: for this package it enters the buffer of the I/O die nearer its target; for another, it leaves on
its port, or is discarded where no route is set. -/
def State.atSwitch (s : State) (k : Nat) (p : Packet) (m : AmMsg) (target : Nat) : State :=
  if target / 1024 = s.pkg % 1024 then
    let core := target % 1024
    let k' := if (routerOf core).1 < 8 then 0 else 1
    let w := s.switch k'
    if 256 ≤ w.buffer.length then s
    else (s.dropPacket p.id).setSwitch k' { w with buffer := w.buffer ++ [{ p with dsts := [core], src := unitIo k' }] }
  else
    match tget [] (s.switch k).routes (target / 1024) with
    | [] => (s.dropPacket p.id).switchDiscard k
    | ports =>
      let s := s.dropPacket p.id
      { s with fabric := { s.fabric with sent := s.fabric.sent ++ [(fixedPort ports m.sender target, m.bytes target)] } }

/-- A buffered message enters the mesh at its I/O die, in its target's row, once its target's queue has room; the messages of
one pair keep their order. -/
def State.leaveSwitch (s : State) (k : Nat) (p : Packet) (m : AmMsg) (core : Nat) : State :=
  let w := s.switch k
  let older := (w.buffer.takeWhile (fun q => q.id ≠ p.id)).any (fun q => q.dsts = p.dsts &&
    (match q.payload with | .am m' _ => m'.sender = m.sender | _ => false))
  if older || !(s.core core).amRoom m.reply then s
  else
    let y := (routerOf core).2
    let q := { p with x := 16 + k, y := y, hx := 16 + k, hy := y, vc := s.channelFor .msg m.tenant (unitIo k) core }
    let s := s.setSwitch k { w with buffer := w.buffer.filter (fun q => q.id ≠ p.id) }
    { s with fabric := { s.fabric with packets := s.fabric.packets ++ [q] } }

/-- MSG_SWITCH_ARRIVAL: the switch of an I/O die handles a message that has come to it, or one in its buffer. -/
def execMsgSwitchArrival (pkt : Nat) (s : State) : Host.Outcome State Fault Refusal :=
  match s.packet pkt with
  | some p =>
    match p.payload with
    | .am m target => if 16 ≤ p.x && p.there && s.inTurn p then .next (s.atSwitch (p.x - 16) p m target) else .next s
    | _ => .next s
  | none =>
    match [0, 1].find? (fun k => (s.switch k).buffer.any (fun q => q.id = pkt)) with
    | none => .next s
    | some k =>
      match (s.switch k).buffer.find? (fun q => q.id = pkt) with
      | some p => match p.payload with | .am m _ => .next (s.leaveSwitch k p m (lget 0 p.dsts 0)) | _ => .next s
      | none => .next s

/-- UALINK_MESSAGE_RECEIVE: a message from another package comes in on a port (0 to 5 at I0, 6 to 11 at I1): delivered only to
a core whose tenant has remote set, otherwise discarded (R353). -/
def execUalinkMessageReceive (port : Nat) (data : List Byte) (s : State) : Host.Outcome State Fault Refusal :=
  if 12 ≤ port ∨ data.length ≠ 64 then .next s
  else
    let (m, target) := messageOf data
    let io := if port < 6 then 0 else 1
    let core := target % 1024
    if target / 1024 ≠ s.pkg % 1024 || !s.remoteAllowed core then .next (s.switchDiscard io)
    else
      let k := if (routerOf core).1 < 8 then 0 else 1
      let w := s.switch k
      if 256 ≤ w.buffer.length then .next s
      else
        let (id, s) := s.fresh
        let p : Packet :=
          { id := id, cls := .msg, tenant := m.tenant, src := unitIo k, dsts := [core], x := 16 + k, y := 0, vc := 0, waited := 0,
            escaped := false, hx := 16 + k, hy := 0, payload := .am m target, waiter := none, fwd := false }
        .next (s.setSwitch k { w with buffer := w.buffer ++ [p] })

/-- UALINK_REMOTE_REQUEST: a remote read, atomic or access to device memory receives an error response (R354). -/
def execUalinkRemoteRequest (port : Nat) (s : State) : Host.Outcome State Fault Refusal :=
  if port < 12 then .next { s with fabric := { s.fabric with ualinkErrors := s.fabric.ualinkErrors + 1 } } else .next s

end Sys2Proof.Machine
end

