-- ==== Sys2Proof/Machine/Order.lean ====
section
/-! DEFINITION. The memory model's instructions: ACQ, REL, FLUSHR and FENCE.A (11_home R306, R311, R312), the sequentially
consistent operations and their windows (R313, R314), and the steps of caches and home slices that move by themselves
(R301 to R304). -/

namespace Sys2Proof.Machine

/-! ### Acquire (R306, R316) -/

/-- Every host port's visible horizon has reached these stamps. -/
def State.portsReached (s : State) (stamps : List Nat) : Bool :=
  (List.range 4).all (fun p => decide (lget 0 stamps p ≤ (s.port p).horizonH))

/-- A strand's acquire is carried out and its instruction completes; at scope .s once the ports have reached the stamps they
had issued. -/
def State.acquireEnd (s : State) (sid scope rgn : Nat) : State :=
  let s := s.acquire (coreOfSid sid) scope rgn
  let stamps := (List.range 4).map (fun p => (s.port p).stamp)
  if scope = scS && !s.portsReached stamps then s.modSt sid (fun t => { t with wait := .acqs stamps rgn })
  else s.finish0 sid

/-- The acquires that waited for the host ports complete; what came to their core meanwhile is acquired with the rest, so that the
ports' writes are observed (R316). -/
def State.serveAcqs (s : State) : State :=
  s.liveSids.foldl (fun s sid =>
    match (s.st sid).wait with
    | .acqs stamps rgn => if s.portsReached stamps then (s.acquire (coreOfSid sid) scS rgn).finish0 sid else s
    | _ => s) s

/-- ACQ. -/
def execAcq (scope : BitVec 2) (region : BitVec 12) (s : State) : Host.Outcome State Fault Refusal :=
  runAct (do
    waitUntil drained
    change (fun s => s.acquireEnd s.curSid scope.toNat region.toNat)) s

/-! ### Release (R306, R311) -/

/-- VRDM updates of a strand to a region that their homes have not applied (06_vmem R189). -/
def State.updatesOf (s : State) (sid rgn : Nat) : Bool :=
  s.openUpdates.any (fun u => u.core * 8 + u.slot = sid && inRegion rgn u.rid)

/-- Messages of a strand on their way through this package. -/
def State.messagesOf (s : State) (sid : Nat) : Bool :=
  let id := (s.strandId sid).toNat
  let mine := fun (p : Packet) => match p.payload with | .am m _ => m.sender = id | .mb _ m => m.sender = id | _ => false
  s.fabric.packets.any mine || s.fabric.switches.any (fun w => w.2.buffer.any mine)

/-- The waits of rel before its registrations. -/
def State.relReady (s : State) (rgn : Nat) : Bool := drained s && !s.updatesOf s.curSid rgn

/-- rel is complete: its registrations are, and at scope .s the strand's messages have been accepted. -/
def State.relDone (s : State) (scope : Nat) : Bool := !s.releasePending s.curCore && !(scope = scS && s.messagesOf s.curSid)

/-- Registrations of the current strand, made once its waits are over and then completed: the whole of rel but for what it
registers. -/
def relWith (scope rgn : Nat) (register : State → State) : Act Unit := do
  match ← look State.underWay with
  | some _ => return ()
  | none =>
    waitUntil (fun s => s.relReady rgn)
    change register
  flyUntil [] (fun s => s.relDone scope)

/-- rel(scope, region) of the current strand: its waits, its registrations, and their completion. -/
def relAct (scope rgn : Nat) : Act Unit := relWith scope rgn (fun s => s.release s.curCore scope rgn)

/-- REL. -/
def execRel (scope : BitVec 2) (region : BitVec 12) (s : State) : Host.Outcome State Fault Refusal :=
  runAct (do
    relAct scope.toNat region.toNat
    done 4 1) s

/-- FLUSHR: a release, and every dirty word of the region in the cluster cache. -/
def execFlushr (scope : BitVec 2) (region : BitVec 12) (s : State) : Host.Outcome State Fault Refusal :=
  runAct (do
    relWith scope.toNat region.toNat (fun s =>
      (s.release s.curCore scope.toNat region.toNat).flushCc s.curCore scope.toNat region.toNat)
    done 4 1) s

/-- FENCE.A. -/
def execFenceA (s : State) : Host.Outcome State Fault Refusal :=
  runAct (do
    waitUntil drained
    change (fun s => s.fenceAliases s.curCore)
    done 4 1) s

/-! ### Sequentially consistent operations (R313, R314) -/

/-- Every older access of the current strand has been performed (06_vmem R187, R189). -/
def performedAll (s : State) : Bool := drained s && !s.updatesPending s.curSid

/-- The core's dirty bytes of a word are registered at its home slice. -/
def State.registerWord (s : State) (core pa : Nat) : State :=
  (s.registerL1 core scP (fun _ e => e.pa = pa)).registerCcWords (clusterOfCore core) (some core) (fun a w => a = pa && w.writer = core)

/-- A registration that a core has made of a word waits behind a reservation. -/
def State.wordPending (s : State) (core pa : Nat) : Bool :=
  s.pendRegs.any (fun p => p.pa = pa && p.act = .reg && (p.owner = some core || p.via = some core))

/-- A core's L1 copies of a word become invalid; their dirty bytes stay. -/
def Core.invalidateWord (c : Core) (pa : Nat) : Core :=
  { c with l1 := l1Live (c.l1.map (fun (e : Nat × L1Word) =>
      (e.1, if e.2.pa = pa then { e.2 with valid := false, own := false } else e.2))) }

/-- The counter of the notification network's cycles: that of its island (17_service R428). -/
def State.netCycle (s : State) : Nat := s.cyclesOf 767

/-- Operations of a core in the order in which it announces them: the first that became ready first, ties to the lowest slot. -/
def ScOp.before (a b : ScOp) : Bool := decide (a.readyT < b.readyT) || (decide (a.readyT = b.readyT) && decide (a.slot < b.slot))

/-- The ready operations of a core whose window has not ended take one window each, from the present one on (R314). -/
def State.assignWindows (s : State) (core : Nat) : State :=
  let now := s.netCycle / 16
  let mine := fun (o : ScOp) => o.core = core && (match o.window with | some w => decide (now ≤ w) | none => false)
  let place := fun (o : ScOp) => (s.scOps.filter (fun x => mine x && decide (x.id ≠ o.id) && x.before o)).length
  { s with scOps := s.scOps.map (fun o => if mine o then { o with window := some (now + place o) } else o) }

/-- Operations whose core's bytes of the word have been registered are ready (R313, R314). -/
def State.readySc (s : State) : State :=
  s.scOps.foldl (fun s o =>
    if o.window.isSome || s.wordPending o.core o.pa then s
    else
      let s := { s with scOps := s.scOps.map (fun (x : ScOp) =>
        if x.id = o.id then { x with readyT := s.netCycle, window := some (s.netCycle / 16) } else x) }
      s.assignWindows o.core) s

/-- An operation has issued: its core's bytes of the word go to its home, its L1 copy becomes invalid, and its strand waits. -/
def State.announce (s : State) (sid op : Nat) (ea : Word) (pa rd : Nat) (data : Word) (rid key : Nat) : State :=
  let core := coreOfSid sid
  let s := (s.registerWord core pa).modCore core (fun c => c.invalidateWord pa)
  let (id, s) := s.fresh
  let o : ScOp :=
    { id := id, core := core, slot := slotOfSid sid, op := op, ea := ea, pa := pa, rd := rd, data := data, rid := rid, key := key,
      readyT := 0, window := none }
  ({ s with scOps := s.scOps ++ [o] }.modSt sid (fun t => { t with wait := .sc id (op != 1) })).readySc

/-- One of the three: its checks in the order of R313, its waits, its announcement. -/
def scAct (op rd : Nat) (ea data : Word) (need : Need) : Act Unit := do
  if ea.toNat % 8 ≠ 0 then trap 0 xMisalign ea
  else if padBase ≤ ea.toNat then trap 5 xPerm ea
  else
    access (fun w => checkRights w ea.toNat need) ea 3
    let (pa, t) ← access (fun w => do
      let t ← translate w ea.toNat (op != 0) .no
      return (t.paOf ((← get).partitionOf w.core) ea.toNat, t)) ea 3
    waitUntil performedAll
    change (fun s =>
      let s := if op = 1 then s else s.dataHit s.curSid ea.toNat 8 false
      let s := if op = 0 then s else s.dataHit s.curSid ea.toNat 8 true
      s.announce s.curSid op ea pa rd data t.rid t.key)

/-- SCLD. -/
def execScld (rd rs1 : BitVec 6) (s : State) : Host.Outcome State Fault Refusal :=
  runAct (scAct 0 rd.toNat (s.gr rs1) 0 needSR) s

/-- SCST. -/
def execScst (rs1 rs2 : BitVec 6) (s : State) : Host.Outcome State Fault Refusal :=
  runAct (scAct 1 0 (s.gr rs1) (s.gr rs2) needSW) s

/-- SCSWP. -/
def execScswp (rd rs1 rs2 : BitVec 6) (s : State) : Host.Outcome State Fault Refusal :=
  runAct (scAct 2 rd.toNat (s.gr rs1) (s.gr rs2) needSRW) s

/-- The value an operation reads: that of its core's held copy, or of the home slice. -/
def State.scRead (s : State) (o : ScOp) : EStateM.Result AccErr State Word :=
  match s.heldBy o.core o.pa with
  | some r => .ok r.value s
  | none =>
    match homeRead o.pa 8 o.key s with
    | .ok bs s' => .ok (leWord bs) s'
    | .error e s' => .error e s'

/-- The write of an operation: its core's held copy, or a registration with owner none and the invalidation of every copy. -/
def State.scWrite (s : State) (o : ScOp) : State :=
  match s.heldBy o.core o.pa with
  | some r => s.writeHeld o.pa r 0xFF o.data
  | none =>
    let s := s.registerHome o.pa 0xFF o.data none o.key (s.tenantOf o.core)
    { s with
      cores := s.cores.map (fun (e : Nat × Core) => (e.1, e.2.invalidateWord o.pa))
      clusters := s.clusters.map (fun (e : Nat × Cluster) => (e.1, { e.2 with
        cc := match tfind e.2.cc (o.pa / 8) with
          | some w => tput e.2.cc (o.pa / 8) { w with valid := false }
          | none => e.2.cc })) }

/-- One announced operation is performed at its home slice. -/
def State.performSc (s : State) (o : ScOp) : State :=
  let sid := o.core * 8 + o.slot
  let s := s.modCore o.core (fun c => c.setCtl 0x1C2 (c.ctl 0x1C2 + 1))
  if o.op = 1 then (s.scWrite o).finish0 sid
  else
    match s.scRead o with
    | .ok x s' => (if o.op = 2 then s'.scWrite o else s').finish sid o.rd x
    | .error e s' => s'.orStop sid (fun s => s.trapInFlight sid 0 (if e = .ecc then xEccfail else xPoison) o.ea)

/-- The announced operations of a window, by ascending core. -/
def State.windowOps (s : State) (w : Nat) : List ScOp :=
  s.cores.flatMap (fun e => s.scOps.filter (fun o => o.core = e.1 && o.window = some w))

/-- The oldest window that is due, 48 cycles after it ended, is delivered: its operations are performed in their order. -/
def State.deliverWindow (s : State) : State :=
  match s.scOps.filterMap (·.window) with
  | [] => s
  | w0 :: ws =>
    let w := ws.foldl min w0
    if s.netCycle < 16 * (w + 1) + 48 then s
    else
      let ops := s.windowOps w
      let s := { s with scOps := s.scOps.filter (fun o => o.window ≠ some w) }
      ops.foldl (fun s o => s.performSc o) s

/-- SC_WINDOW_DELIVER. -/
def execScWindowDeliver (s : State) : Host.Outcome State Fault Refusal := .next s.deliverWindow

/-! ### Steps of the caches and the home slices -/

/-! ### What waited behind a reservation (10_sync R282, R285) -/

/-- The L1 copy of a word takes a value, valid with own = 1 (11_home R305); a sibling's dirty bytes stay over it. -/
def Core.takeValue (c : Core) (pa : Nat) (v : Word) : Core :=
  { c with l1 := c.l1.map (fun (e : Nat × L1Word) =>
      (e.1, if e.2.pa = pa then { e.2 with data := maskMerge v e.2.data e.2.dirty, valid := true, own := true } else e.2)) }

/-- f of R285 on values of `n` bits: the new value, or none where nothing is written. -/
def atomicFn (op n old b c : Nat) : Option Nat :=
  let so := sext old n
  let sb := sext b n
  match op with
  | 0 => some ((old + b) % 2 ^ n)
  | 1 => some b
  | 2 => if old = c ∧ b ≠ old then some b else none
  | 3 => some (if so ≤ sb then old else b)
  | 4 => some (if so ≤ sb then b else old)
  | 5 => some (min old b)
  | _ => some (max old b)

/-- ext(old): sign-extended, and zero-extended for the unsigned minimum and maximum. -/
def atomicExt (op n old : Nat) : Word := if op = 5 ∨ op = 6 then word old else wordI (sext old n)

/-- One atomic on the value of an 8-byte word: the old field, and the word's new bytes under their mask. -/
def atomicOnWord (op : Nat) (wide : Bool) (ea b c v : Word) : Nat × Option (BitVec 8 × Word) :=
  let n := if wide then 8 else 4
  let sh := 8 * (ea.toNat % 8)
  let old := v.toNat / 2 ^ sh % 2 ^ (8 * n)
  (old, (atomicFn op (8 * n) old (b.toNat % 2 ^ (8 * n)) (c.toNat % 2 ^ (8 * n))).map (fun x =>
    (byteMask ea.toNat n, word (x * 2 ^ sh))))

/-- An atomic is performed in the requesting core on the value the word's home holds, and the new value registered. -/
def State.atomicHome (s : State) (sid pa key : Nat) (ea : Word) (op : Nat) (wide : Bool) (b c v : Word) : Nat × State :=
  let core := coreOfSid sid
  let (old, w) := atomicOnWord op wide ea b c v
  match w with
  | none => (old, s)
  | some (mask, data) =>
    let s := s.registerHome pa mask data (some core) key (s.st sid).tenant
    (old, s.modCore core (fun k => k.takeValue pa (s.homeWord pa)))

/-- An atomic of a strand that waits in it is performed at the word's home; the strand's instruction completes, or meets the
word's error. -/
def State.atomicAtHome (s : State) (sid pa key : Nat) (ea : Word) (rd op : Nat) (wide : Bool) (b c : Word) : State :=
  match homeRead pa 8 key s with
  | .error e s' => s'.orStop sid (fun s => s.trapInFlight sid 0 (if e = AccErr.ecc then xEccfail else xPoison) ea)
  | .ok bs s' =>
    let (old, s') := s'.atomicHome sid pa key ea op wide b c (leWord bs)
    s'.finish sid rd (atomicExt op (if wide then 64 else 32) old)

/-- A VAMO element of a strand that waits at it is performed at the word's home; its old value, or the error it meets there, goes back
to the strand. -/
def State.vamoAtHome (s : State) (sid pa key tenant n op : Nat) (uns : Bool) (x : Nat) : State :=
  if !(match (s.st sid).vq with | e :: _ => (match e.ins with | .vamo _ _ _ _ _ _ => true | _ => false) | [] => false) then s
  else
    match homeRead pa n key s with
    | .error e s' => s'.modSt sid (fun t => { t with amoBack := some (if e = .ecc then .ecc else .poison) })
    | .ok bs s' =>
      let new := vamoFn op uns (8 * n) (leNat bs) x % 2 ^ (8 * n) * 2 ^ (8 * (pa % 8))
      (s'.registerHome (pa / 8 * 8) (byteMask pa n) (word new) none key tenant).modSt sid (fun t =>
        { t with amoBack := some (.value (word (leNat bs))) })

/-- A word of a copy is registered at its home slice; the issuing core's L1 copies of it become invalid (11_home R305). -/
def State.copyWord (s : State) (pa : Nat) (data : Word) (owner : Option Nat) (key tenant : Nat) : State :=
  let s := s.registerHome pa 0xFF data owner key tenant
  match owner with
  | some c => s.modCore c (fun k => k.invalidateWord pa)
  | none => s

/-- A word of the atom is reserved, or accesses of one wait: a copy's write of the atom waits, so that no read finds it half done (09_copy
R270). -/
def State.atomBusy (s : State) (pa : Nat) : Bool :=
  (List.range 4).any (fun i => let a := pa / 32 * 32 + 8 * i; (s.reserved a).isSome || s.wordQueued a)

/-- What waits is a copy's word of whose atom another is reserved, or is the older access's that waits for it. -/
def State.atomWaits (s : State) (p : PendReg) : Bool :=
  match p.act with
  | .copy _ => (List.range 4).any (fun i =>
      let a := p.pa / 32 * 32 + 8 * i
      let older := match s.pendRegs.find? (fun q => q.pa / 8 = a / 8) with | some q => q.act != p.act | none => false
      a != p.pa && ((s.reserved a).isSome || older))
  | _ => false

/-- What waited behind a reservation is performed (10_sync R282).  A registration's notices go out as part of it; a copy's words leave
its core's L1 copy invalid (11_home R305). -/
def State.performPending (s : State) (p : PendReg) : State :=
  match p.act with
  | .reg => (s.registerHome p.pa p.mask p.data p.owner p.key p.tenant p.owner p.via).readySc
  | .copy id =>
    -- an atom is written whole (09_copy R270)
    let rest := s.pendRegs.filter (fun q => q.act = .copy id && q.pa / 32 = p.pa / 32)
    let s := { s with pendRegs := s.pendRegs.filter (fun q => !rest.contains q) }
    let s := s.clearCovered ((p :: rest).map (fun q => (q.pa, q.mask))) p.key p.tenant
    (p :: rest).foldl (fun s q => s.copyWord q.pa q.data q.owner q.key q.tenant) s
  | .vrdm u => s.applyAtHome u
  | .vamo sid n op uns x => s.vamoAtHome sid p.pa p.key p.tenant n op uns x
  | .atomic sid =>
    match (s.st sid).wait with
    | .rsv pa key ea _ (.atomic rd op wide b c) => s.atomicAtHome sid pa key ea rd op wide b c
    | _ => s

/-- All that waited behind a word's reservation is performed in order of arrival (10_sync R282), at most `fuel` of it. -/
def State.serveFirst (fuel : Nat) (s : State) (pa : Nat) : State :=
  match fuel with
  | 0 => s
  | n + 1 =>
    match s.pendRegs.find? (fun p => p.pa / 8 = pa / 8) with
    | none => s
    | some p => if s.atomWaits p then s else ({ s with pendRegs := s.pendRegs.erase p }.performPending p).serveFirst n pa

/-- All that waited behind a word's reservation is performed. -/
def State.servePending (s : State) (pa : Nat) : State := s.serveFirst s.pendRegs.length pa

/-- Whose slots a waiting access uses at its home slice: its tenant's, or a host's (11_home R319). -/
def PendReg.slotUser (p : PendReg) : Option Nat :=
  match p.owner with | some c => if c < 1024 then some p.tenant else none | none => some p.tenant

/-- REGISTRATION: what waited is performed once no reservation holds its word, the older accesses of the word first, in a slot of its
tenant's (R319). -/
def execRegistration (idx : Nat) (s : State) : Host.Outcome State Fault Refusal :=
  match s.pendRegs[idx]? with
  | none => .next s
  | some p =>
    if (s.reserved p.pa).isSome || s.atomWaits p || (s.pendRegs.take idx).any (fun q => q.pa / 8 = p.pa / 8) || !s.slotOpen p.slotUser p.pa then .next s
    else .next ({ s with pendRegs := s.pendRegs.eraseIdx idx }.performPending p)

/-- REVOCATION_NOTICE: a notice on its way reaches its core's queue, or is discarded and counted there (R304). -/
def execRevocationNotice (idx : Nat) (s : State) : Host.Outcome State Fault Refusal :=
  match s.notices[idx]? with
  | none => .next s
  | some n => .next ({ s with notices := s.notices.eraseIdx idx }.pushNotice n.core n.pa)

/-- The fill of a line on its way to a core's L1 or cluster cache, translated as any access is (07_translation R197). -/
def fillLine (w : Who) (va level : Nat) : Acc Unit :=
  (List.range 8).forM (fun i => do
    let a := va + 8 * i
    let t ← translate w a false .no
    let held := match tfind ((← get).core w.core).l1 (a / 8) with | some e => e.valid | none => false
    if level = 0 then (if held then pure () else discard (fillWord w a t))
    else discard (ccWord w.core w.tenant (t.paOf ((← get).partitionOf w.core) a) t.rid t.key))

/-- HOME_READ_RESPONSE: the oldest line on its way fills the core's L1 or its cluster cache, once its walk has ended and in a slot of its
tenant's (R319); one that fails fills nothing; `victim` names the line that
makes room, 2 x line for the L1 and 2 x line + 1 for the cluster cache, or 0 for none (log 14). -/
def execHomeReadResponse (core victim : Nat) (s : State) : Host.Outcome State Fault Refusal :=
  if !coreExists core then .next s
  else
    let s := if victim = 0 then s
      else if victim % 2 = 0 then s.evictL1 core (victim / 2)
      else s.evictCc (clusterOfCore core) (victim / 2)
    match (s.core core).fills with
    | [] => .next s
    | (va, level) :: r =>
      match fillLine { s.who (core * 8 + 4) with stream := 3 } va level s with
      | .error .walker s' => .next s'
      | .error _ s' => .next (s'.modCore core (fun c => { c with fills := r }))
      | .ok _ s' => .next (s'.modCore core (fun c => { c with fills := r }))

end Sys2Proof.Machine
end

