-- ==== Sys2Proof/Machine/Sync.lean ====
section
/-! DEFINITION. The synchronisation engine: full/empty accesses (10_sync R271 to R278), reservations (R279 to R284), atomics
(R285, R286), barriers (R287 to R291) and mailboxes (R293 to R296). -/

namespace Sys2Proof.Machine

/-! ### Full/empty accesses (R273 to R276) -/

/-- The condition of an access on the word's bit (R274). -/
def FeKind.holds (k : FeKind) (full : Bool) : Bool :=
  match k with
  | .ldfe => full
  | .ldff => full
  | .stfe => !full
  | .stff => true

/-- It reads; it writes. -/
def FeKind.loads (k : FeKind) : Bool := match k with | .ldfe => true | .ldff => true | _ => false

/-- The effect of an access whose condition holds: the value read, and the state. -/
def State.fePerform (s : State) (r : FeReq) : Word × State :=
  let x := leWord (mread s.mem r.addr 8)
  match r.kind with
  | .ldfe => (x, s.setFull r.addr false)
  | .ldff => (x, s)
  | .stfe => (0, { s.padMend r.addr 8 with mem := mwrite s.mem r.addr (leBytes 8 r.data.toNat) }.setFull r.addr true)
  | .stff => (0, { s.padMend r.addr 8 with mem := mwrite s.mem r.addr (leBytes 8 r.data.toNat) }.setFull r.addr true)

/-- The owner performs a request and answers its strand, whose instruction completes; a load of a word whose SRAM has failed traps, the
word's bit as it was (02_words R71). -/
def State.feServe (s : State) (r : FeReq) : State :=
  match (s.st r.sid).wait with
  | .fe ea _ rd _ _ _ _ =>
    if r.kind.loads && s.padFlawed r.addr 8 then s.orStop r.sid (fun s => s.trapInFlight r.sid 0 xEccfail ea)
    else
      let (x, s) := s.fePerform r
      s.finish r.sid (if r.kind.loads then rd else 0) x
  | _ => (s.fePerform r).2

/-- The parked entries of a word that can proceed, oldest first, until none can (R276). -/
def State.feDrain (fuel : Nat) (s : State) (o : Owner) (ga : Nat) : State :=
  match fuel with
  | 0 => s
  | n + 1 =>
    match (s.parkedAt o).find? (fun r => r.addr = ga && r.kind.holds (s.isFull ga)) with
    | none => s
    | some r => ((s.setParked o ((s.parkedAt o).filter (fun q => q.sid ≠ r.sid))).feServe r).feDrain n o ga

/-- A field of ctl.fecnt of a core counts one more, wrapping (R298). -/
def State.feCount (s : State) (o : Owner) (hi lo : Nat) : State :=
  match o with
  | .core c => s.modCore c (fun k => k.setCtl 0x180 (setBits (k.ctl 0x180) hi lo (bits (k.ctl 0x180) hi lo + 1)))
  | .die _ => s

/-- The strand of a full/empty access is told that it was refused, or that it is parked: its lanes return. -/
def State.feRefused (s : State) (sid : Nat) (b : Bool) : State :=
  match (s.st sid).wait with
  | .fe ea k rd d n _ c => (s.modSt sid (fun t => { t with wait := .fe ea k rd d n b c })).settleLanes sid
  | _ => s

/-- A request reaches the word's owner: it is performed, parked, or refused (R276). -/
def State.feAtOwner (s : State) (o : Owner) (r : FeReq) : State :=
  if r.kind.holds (s.isFull r.addr) then (s.feServe r).feDrain (s.parkedAt o).length o r.addr
  else if (s.parkedAt o).length < o.room then (s.setParked o (s.parkedAt o ++ [r])).feRefused r.sid false
  else (s.feCount o 47 32).feRefused r.sid true

/-- A core-scratchpad word of one core under another core's number: where migration has taken it. -/
def rebase (ga core target : Nat) : Nat :=
  if ga % 2 ^ 28 < 0x80000 ∧ ga / 2 ^ 28 % 1024 = core then ga - core * 2 ^ 28 + target * 2 ^ 28 else ga

/-- A strand's access is sent to the owner: performed there at once when that is its own core, otherwise by a packet. -/
def State.feSend (s : State) (sid : Nat) (r : FeReq) : State :=
  match ownerOf r.addr with
  | .core c =>
    if c = coreOfSid sid then s.feAtOwner (.core c) r
    else (s.sendPacket .core r.tenant (coreOfSid sid) [c] (.fe r) none).2
  | .die _ => (s.sendPacket .req r.tenant (coreOfSid sid) [unitOfWord r.addr] (.fe r) none).2

/-- A full/empty access issues: its timer starts, with the limit in force (R277); one that still waits for older accesses (R275) has
issued before. -/
def Strand.startFe (t : Strand) : Strand := if t.wait = .poll then t else { t with feTimer := 0, feLimit := (t.ctl cFewait).toNat }

/-- An access of the current strand: the checks of R273, the waits of R275, and the sending, under a number of its own. -/
def feAct (kind : FeKind) (rd : Nat) (ea data : Word) : Act Unit := do
  change (fun s => s.modCur Strand.startFe)
  let s ← get
  let w := s.who s.curSid
  if ea.toNat % 8 ≠ 0 then trap 0 xMisalign ea
  else
    match s.placeOf w ea.toNat with
    | some (.pad ga) =>
      access (fun w => checkRights w ea.toNat (if kind.loads then needSR else needSW)) ea 3
      access (fun w => mayEnter w (.pad ga)) ea 3
      waitUntil (fun s => if kind.loads then drained s else performedAll s)
      change (fun s =>
        let (n, s) := s.fresh
        let s := s.modCur (fun t => { t with wait := .fe ea kind rd data n false false })
        let s := s.dataHit s.curSid ea.toNat 8 (!kind.loads)
        s.feSend s.curSid { sid := s.curSid, tenant := s.cur.tenant, addr := ga, kind := kind, data := data, acc := n })
    | _ => trap 5 xPerm ea

/-- LDFE. -/
def execLdfe (rd rs1 : BitVec 6) (s : State) : Host.Outcome State Fault Refusal :=
  runAct (feAct .ldfe rd.toNat (s.gr rs1) 0) s

/-- LDFF. -/
def execLdff (rd rs1 : BitVec 6) (s : State) : Host.Outcome State Fault Refusal :=
  runAct (feAct .ldff rd.toNat (s.gr rs1) 0) s

/-- STFE. -/
def execStfe (rs1 rs2 : BitVec 6) (s : State) : Host.Outcome State Fault Refusal :=
  runAct (feAct .stfe 0 (s.gr rs1) (s.gr rs2)) s

/-- STFF. -/
def execStff (rs1 rs2 : BitVec 6) (s : State) : Host.Outcome State Fault Refusal :=
  runAct (feAct .stff 0 (s.gr rs1) (s.gr rs2)) s

/-- A refused access is issued again at its strand's turn, under its number; its timer goes on (R276, R277). -/
def State.feReissue (s : State) (sid : Nat) : State :=
  let t := s.st sid
  match t.wait with
  | .fe ea k rd d n true c =>
    match s.placeOf (s.who sid) ea.toNat with
    | some (.pad ga) =>
      let s := s.setSt sid { t with wait := .fe ea k rd d n false c }
      s.feSend sid { sid := sid, tenant := t.tenant, addr := ga, kind := k, data := d, acc := n }
    | _ => s
  | _ => s

/-- FE_ACCESS_ARRIVE: a request reaches its owner, or a core whose forwarding entry passes it on or, held, refuses it. -/
def execFeAccessArrive (pkt : Nat) (s : State) : Host.Outcome State Fault Refusal :=
  match s.packet pkt with
  | none => .next s
  | some p =>
    match p.payload with
    | .fe r =>
      if !p.there || !s.inTurn p then .next s
      else if !s.localPasses p then .next (s.refusePacket p)
      else
        let u := lget 0 p.dsts 0
        if 1024 ≤ u then .next ((s.dropPacket pkt).feAtOwner (ownerOf r.addr) r)
        else
          match (if r.addr % 2 ^ 28 < 0x80000 then s.arrival u r.tenant else .here) with
          | .held => .next ((s.dropPacket pkt).feRefused r.sid true)
          | .onTo c => .next (s.resend { p with payload := .fe { r with addr := rebase r.addr u c } } u c)
          | .here => .next (((s.dropPacket pkt).modCore u (fun c => c.countFwdin p.fwd)).feAtOwner (ownerOf r.addr) r)
    | _ => .next s

/-! ### Time-outs and cancels (R277, R278) -/

/-- The trap FETIMEOUT of a strand whose access is out of the owner's table. -/
def State.feTrap (s : State) (sid : Nat) : State :=
  match (s.st sid).wait with
  | .fe ea _ _ _ _ _ _ => s.orStop sid (fun s => s.trapInFlight sid 0 xFetimeout ea)
  | _ => s

/-- A cancel of an access, by its number, at the owner: an entry still there, or with an owner that is parked, is removed and counted, and
its strand traps; an access that has been performed has completed; one that was refused traps; for one that is on its way again another
cancel can be sent. -/
def State.feCancelAt (s : State) (sid n : Nat) : State :=
  let mine := fun (r : FeReq) => decide (r.sid = sid) && decide (r.acc = n)
  match s.cores.find? (fun e => e.2.parked.any mine) with
  | some e => (s.modCore e.1 (fun c => c.cancelFe mine)).feTrap sid
  | none =>
    match s.dies.find? (fun e => e.2.parked.any mine) with
    | some e => (s.modDie e.1 (fun d => { d with parked := d.parked.filter (fun r => !mine r) })).feTrap sid
    | none =>
      if s.disp.parked.any (fun p => p.core.parked.any mine) then
        ({ s with disp := { s.disp with
          parked := s.disp.parked.map (fun (p : ParkedCore) => { p with core := p.core.cancelFe mine }) } }).feTrap sid
      else
        match (s.st sid).wait with
        | .fe ea k rd d m refused _ =>
          if m ≠ n then s
          else if refused then s.feTrap sid
          else s.modSt sid (fun t => { t with wait := .fe ea k rd d m false false })
        | _ => s

/-- FETIMEOUT: a strand's access has been timed to its limit: refused, it traps at once; parked, its cancel goes to the
owner.  The timer of a strand that is HELD had reached it before (16_debug R412). -/
def execFetimeout (core slot : Nat) (s : State) : Host.Outcome State Fault Refusal :=
  let sid := core * 8 + slot
  let t := s.st sid
  match t.wait with
  | .fe ea k rd d n refused cancelled =>
    if (t.st != .run && t.st != .held) || t.feLimit = 0 || decide (t.feTimer < t.feLimit) then .next s
    else if refused then .next (s.feTrap sid)
    else if cancelled then .next s
    else
      match s.placeOf (s.who sid) ea.toNat with
      | some (.pad ga) =>
        let s := s.setSt sid { t with wait := .fe ea k rd d n false true }
        if ownerOf ga = .core core then .next (s.feCancelAt sid n)
        else
          let cls : PClass := match ownerOf ga with | .core _ => .core | .die _ => .req
          .next (s.sendPacket cls t.tenant core [unitOfWord ga] (.feCancel sid ga n) none).2
      | _ => .next s
  | _ => .next s

/-- FE_CANCEL: a cancel reaches the owner; a forwarding entry passes it on. -/
def execFeCancel (pkt : Nat) (s : State) : Host.Outcome State Fault Refusal :=
  match s.packet pkt with
  | none => .next s
  | some p =>
    match p.payload with
    | .feCancel sid ga n =>
      if !p.there || !s.inTurn p then .next s
      else if !s.localPasses p then .next (s.refusePacket p)
      else
        let u := lget 0 p.dsts 0
        match (if u < 1024 ∧ ga % 2 ^ 28 < 0x80000 then s.arrival u p.tenant else .here) with
        | .onTo c => .next (s.resend { p with payload := .feCancel sid (rebase ga u c) n } u c)
        | _ => .next ((s.dropPacket pkt).feCancelAt sid n)
    | _ => .next s

/-! ### Reservations (R280 to R283) -/

/-- The reserved words of a home slice, and the requests that wait there, atomics among them (R280). -/
def State.rsvWords (s : State) (pa : Nat) : List (Nat × Resv) := s.resvs.filter (fun e => s.sliceOf (e.1 * 8) = s.sliceOf pa)
def State.rsvQueued (s : State) (pa : Nat) : Nat :=
  ((s.rsvWords pa).map (fun e => e.2.queue.length)).foldl (· + ·) 0
    + (s.pendRegs.filter (fun p => decide (s.sliceOf p.pa = s.sliceOf pa) && (match p.act with | .atomic _ => true | _ => false))).length

/-- A grant reaches a strand that is to hold the word: rd, ctl.rsvhold, and the acquire (R281). -/
def State.rsvHold (s : State) (sid pa : Nat) (ea : Word) (rd scope region : Nat) (v : Word) : State :=
  let r := match tfind s.resvs (pa / 8) with | some r => r.queue | none => []
  let s := { s with resvs := tput s.resvs (pa / 8) { holder := coreOfSid sid, sid := sid, value := v, queue := r, grantTo := none } }
  let s := s.modSt sid (fun t => (t.wr rd v).setCtl cRsvhold (word (bits ea 55 3 * 8 + 2 * scope + 1)))
  s.acquireEnd sid scope region

/-- A request for a word that no reservation holds is served: with its value as the home slice holds it, or the error of that read. -/
def State.rsvServe (s : State) (sid pa key : Nat) (ea : Word) (use : RsvUse) : State :=
  match use with
  | .atomic rd op wide b c => s.atomicAtHome sid pa key ea rd op wide b c
  | .hold rd scope region =>
    match homeRead pa 8 key s with
    | .error e s' => s'.orStop sid (fun s => s.trapInFlight sid 0 (if e = AccErr.ecc then xEccfail else xPoison) ea)
    | .ok bs s' => s'.rsvHold sid pa ea rd scope region (leWord bs)

/-- The word's home slice serves a request for a word that is not reserved, and for which nothing waits: it has table space for it
(R280), and a slot of the tenant's (11_home R319). -/
def State.rsvFree (s : State) (sid pa : Nat) : Bool :=
  !s.mustWait pa none && decide ((s.rsvWords pa).length < 64) && s.slotOpen (some (s.st sid).tenant) pa

/-- A request reaches the home slice: granted at once, or refused for want of table space; behind a holder a reservation joins
the word's queue, an atomic what waits to be performed at the RLS, or its own core's held copy (R281, R282). -/
def State.rsvArrive (s : State) (sid pa key : Nat) (ea : Word) (use : RsvUse) : State :=
  let asked := fun (s : State) => s.modSt sid (fun t => { t with wait := .rsv pa key ea true use })
  match s.reserved pa with
  | none => if s.rsvFree sid pa then s.rsvServe sid pa key ea use else s
  | some r =>
    match use with
    | .hold _ _ _ =>
      if s.rsvQueued pa < 256 then asked { s with resvs := tput s.resvs (pa / 8) { r with queue := r.queue ++ [sid] } } else s
    | .atomic rd op wide b c =>
      if (s.heldBy (coreOfSid sid) pa).isSome then
        let (old, w) := atomicOnWord op wide ea b c r.value
        (match w with | some (m, x) => s.writeHeld pa r m x | none => s).finish sid rd (atomicExt op (if wide then 64 else 32) old)
      else if s.rsvQueued pa < 256 then
        let q : PendReg := { pa := pa, mask := 0, data := 0, owner := none, key := key, tenant := (s.st sid).tenant, act := .atomic sid }
        asked { s with pendRegs := s.pendRegs ++ [q] }
      else s

/-- RSV_REQUEST: the request of a strand arrives at the word's home slice; a refused one is sent again (R280, R281). -/
def execRsvRequest (core slot : Nat) (s : State) : Host.Outcome State Fault Refusal :=
  let sid := core * 8 + slot
  match (s.st sid).wait with
  | .rsv pa key ea false use => if (s.st sid).st = .run then .next (s.rsvArrive sid pa key ea use) else .next s
  | _ => .next s

/-- An access of the holding core that came to the home slice while the grant was on its way is performed on the held copy (R282). -/
def State.performHeld (s : State) (core : Nat) (p : PendReg) : State :=
  match s.reserved p.pa with
  | none => s
  | some r =>
    match p.act with
    | .reg => (s.writeHeld p.pa r p.mask p.data).settleCc core p.pa p.mask p.data
    | .copy _ => s
    | .atomic sid =>
      match (s.st sid).wait with
      | .rsv _ _ ea _ (.atomic rd op wide b c) =>
        let (old, w) := atomicOnWord op wide ea b c r.value
        (match w with | some (m, x) => s.writeHeld p.pa r m x | none => s).finish sid rd (atomicExt op (if wide then 64 else 32) old)
      | _ => s
    | .vamo sid n op uns x =>
      let sh := 8 * (p.pa % 8)
      let old := r.value.toNat / 2 ^ sh % 2 ^ (8 * n)
      (s.writeHeld p.pa r (byteMask p.pa n) (word (vamoFn op uns (8 * n) old x % 2 ^ (8 * n) * 2 ^ sh))).modSt sid (fun t =>
        { t with amoBack := some (.value (word old)) })
    | .vrdm u => s.writeHeld u.pa r (byteMask u.pa u.size) (u.newWord (8 * (u.pa % 8)) r.value)

/-- What waits is an access of a core, to be performed on the copy it holds: a store it registered, an atomic, or an element. -/
def PendReg.ofCore (p : PendReg) (core : Nat) : Bool :=
  match p.act with
  | .reg => p.owner = some core
  | .copy _ => false
  | .atomic sid => coreOfSid sid = core
  | .vamo sid _ _ _ _ => coreOfSid sid = core
  | .vrdm u => u.core = core

/-- The held copy takes its core's own accesses of the word that came to the home slice while the grant was on its way, in their order
(R282). -/
def State.takeOwn (s : State) (core pa : Nat) : State :=
  let mine := fun (p : PendReg) => p.pa / 8 = pa / 8 && p.ofCore core
  (s.pendRegs.filter mine).foldl (fun s p => s.performHeld core p) { s with pendRegs := s.pendRegs.filter (fun p => !mine p) }

/-- RSV_GRANT: the word handed to a queued strand reaches it with the released value (R283). -/
def execRsvGrant (core slot : Nat) (s : State) : Host.Outcome State Fault Refusal :=
  let sid := core * 8 + slot
  match (s.st sid).wait with
  | .rsv pa _ ea _ (.hold rd scope region) =>
    match s.reserved pa with
    | some r =>
      if r.grantTo = some sid then
        let s := s.takeOwn core pa
        let v := match s.reserved pa with | some x => x.value | none => r.value
        .next (s.rsvHold sid pa ea rd scope region v)
      else .next s
    | none => .next s
  | _ => .next s

/-- RSV: its checks, the registration of the core's own bytes of the word (log 28), and the request. -/
def execRsv (rd rs1 rs2 : BitVec 6) (scope : BitVec 2) (s : State) : Host.Outcome State Fault Refusal :=
  runAct (do
    let ea := s.gr rs1
    let rgn := s.gr rs2
    if ea.toNat % 8 ≠ 0 then trap 0 xMisalign ea
    else if padBase ≤ ea.toNat then trap 5 xPerm ea
    else if 4095 < rgn.toNat then trap 1 xSyncarg rgn
    else
      access (fun w => checkRights w ea.toNat needSRW) ea 3
      if bit (s.cur.ctl cRsvhold) 0 then trap 1 xSyncarg ea
      else
        let (pa, key) ← access (fun w => do
          let t ← translate w ea.toNat true .no
          return (t.paOf ((← get).partitionOf w.core) ea.toNat, t.key)) ea 3
        waitUntil drained
        change (fun s =>
          let s := (s.registerWord s.curCore pa).dataHit s.curSid ea.toNat 8 false
          s.modCur (fun t => { t with wait := .rsv pa key ea false (.hold rd.toNat scope.toNat rgn.toNat) }))) s

/-- The word a strand holds.  Nothing but its own RLS ends that: a trap, a drop and a debug halt leave the reservation in place, a CTXSAVE
of the strand returns 1, and a migration of its core waits (R284). -/
def State.heldWord (s : State) (sid : Nat) : Option (Nat × Resv) :=
  (s.resvs.find? (fun e => e.2.sid = sid && e.2.grantTo = none)).map (fun e => (e.1 * 8, e.2))

/-- The held copy becomes the word's value; what waited at its home is performed; the word passes on (R282, R283). -/
def State.rsvRelease (s : State) (sid pa : Nat) (v : Word) : State :=
  let core := coreOfSid sid
  let s := s.registerHome pa 0xFF v (some core) (tget (0, 0) s.lineKey (pa / 64)).1 (s.st sid).tenant
  let s := s.modCore core (fun c => c.takeValue pa v)
  let s := (s.servePending pa).handOn pa
  s.modSt sid (fun t => t.setCtl cRsvhold 0)

/-- RLS. -/
def execRls (rs1 rs2 : BitVec 6) (scope : BitVec 2) (s : State) : Host.Outcome State Fault Refusal :=
  runAct (do
    let ea := s.gr rs1
    let rgn := s.gr rs2
    let h := s.cur.ctl cRsvhold
    if !bit h 0 || ea.toNat != bits h 55 3 * 8 || decide (4095 < rgn.toNat) then trap 1 xSyncarg ea
    else
      waitUntil performedAll
      relAct scope.toNat rgn.toNat
      change (fun s =>
        match s.heldWord s.curSid with
        | some (pa, r) => s.rsvRelease s.curSid pa r.value
        | none => s.modCur (fun t => t.setCtl cRsvhold 0))
      done 4 1) s

/-! ### Atomics (R285, R286) -/

/-- An atomic: its checks and waits; on translated memory at once where the word is free and its slice takes the request, or held by the
core itself, otherwise behind the earlier holders; elsewhere at the memory that holds the word. -/
def atomicAct (op : Nat) (wide : Bool) (rd : BitVec 6) (ea b c : Word) : Act Unit := do
  let n := if wide then 8 else 4
  let p ← access (fun w => checkAccess w ea n needSRW) ea 3
  match p with
  | .translated =>
    let (pa, key) ← access (fun w => do
      let t ← translate w ea.toNat true .no
      return (t.paOf ((← get).partitionOf w.core) ea.toNat / 8 * 8, t.key)) ea 3
    waitUntil performedAll
    change (fun s => ((s.dataHit s.curSid ea.toNat n false).dataHit s.curSid ea.toNat n true))
    let s ← get
    match s.heldBy s.curCore pa with
    | some r =>
      let (old, w) := atomicOnWord op wide ea b c r.value
      change (fun s => match w with | some (m, x) => s.writeHeld pa r m x | none => s)
      doneWith rd (atomicExt op (8 * n) old) 4 1
    | none =>
      change (fun s =>
        let s := (s.registerWord s.curCore pa).modCur (fun t => { t with wait := .rsv pa key ea false (.atomic rd.toNat op wide b c) })
        if s.rsvFree s.curSid pa then s.rsvServe s.curSid pa key ea (.atomic rd.toNat op wide b c) else s)
  | p =>
    waitUntil performedAll
    let old ← access (fun w => do
      let old := leNat (← loadBytes w p ea.toNat n .no)
      let () ← match atomicFn op (8 * n) old (b.toNat % 2 ^ (8 * n)) (c.toNat % 2 ^ (8 * n)) with
        | some x => storeBytes w p ea.toNat (leBytes n x) .no
        | none => pure ()
      pure old) ea 3
    change (fun s => ((s.dataHit s.curSid ea.toNat n false).dataHit s.curSid ea.toNat n true))
    doneWith rd (atomicExt op (8 * n) old) 4 1

/-- AADD. -/
def execAadd (rd rs1 rs2 : BitVec 6) (wide : BitVec 1) (_scope : BitVec 2) (s : State) : Host.Outcome State Fault Refusal :=
  runAct (atomicAct 0 (wide = 1) rd (s.gr rs1) (s.gr rs2) (s.gr rd)) s

/-- ASWP. -/
def execAswp (rd rs1 rs2 : BitVec 6) (wide : BitVec 1) (_scope : BitVec 2) (s : State) : Host.Outcome State Fault Refusal :=
  runAct (atomicAct 1 (wide = 1) rd (s.gr rs1) (s.gr rs2) (s.gr rd)) s

/-- ACAS: the comparand is rd's old value. -/
def execAcas (rd rs1 rs2 : BitVec 6) (wide : BitVec 1) (_scope : BitVec 2) (s : State) : Host.Outcome State Fault Refusal :=
  runAct (atomicAct 2 (wide = 1) rd (s.gr rs1) (s.gr rs2) (s.gr rd)) s

/-- AMIN, signed. -/
def execAminSigned (rd rs1 rs2 : BitVec 6) (wide : BitVec 1) (_scope : BitVec 2) (s : State) : Host.Outcome State Fault Refusal :=
  runAct (atomicAct 3 (wide = 1) rd (s.gr rs1) (s.gr rs2) (s.gr rd)) s

/-- AMAX, signed. -/
def execAmaxSigned (rd rs1 rs2 : BitVec 6) (wide : BitVec 1) (_scope : BitVec 2) (s : State) : Host.Outcome State Fault Refusal :=
  runAct (atomicAct 4 (wide = 1) rd (s.gr rs1) (s.gr rs2) (s.gr rd)) s

/-- AMIN, unsigned. -/
def execAminUnsigned (rd rs1 rs2 : BitVec 6) (wide : BitVec 1) (_scope : BitVec 2) (s : State) : Host.Outcome State Fault Refusal :=
  runAct (atomicAct 5 (wide = 1) rd (s.gr rs1) (s.gr rs2) (s.gr rd)) s

/-- AMAX, unsigned. -/
def execAmaxUnsigned (rd rs1 rs2 : BitVec 6) (wide : BitVec 1) (_scope : BitVec 2) (s : State) : Host.Outcome State Fault Refusal :=
  runAct (atomicAct 6 (wide = 1) rd (s.gr rs1) (s.gr rs2) (s.gr rd)) s

/-! ### Barriers (R288 to R291) -/

/-- The barrier register a current strand's instruction names: that of its cluster. -/
def State.curBar (s : State) (n : Nat) : Barrier := (s.cluster (clusterOfCore s.curCore)).bar n
def State.setCurBar (s : State) (n : Nat) (b : Barrier) : State :=
  s.modCluster (clusterOfCore s.curCore) (fun c => { c with bars := tput c.bars n b })

/-- Every strand waiting at a barrier completes its BWAIT with a status. -/
def State.releaseWaiters (s : State) (ws : List Nat) (status : Nat) : State :=
  ws.foldl (fun s sid =>
    match (s.st sid).wait with
    | .bwait _ rd => s.finish sid rd (word status)
    | _ => s) s

/-- BINIT. -/
def execBinit (c a : BitVec 5) (s : State) : Host.Outcome State Fault Refusal :=
  runAct (do
    let n := s.gr a
    if n = 0 ∨ 65535 < n.toNat then trap 2 xSyncarg n
    else
      let b := s.curBar c.toNat
      change (fun s => (s.setCurBar c.toNat { b with
        valid := true, expected := BitVec.ofNat 16 n.toNat, arrived := 0, waiters := [] }).releaseWaiters b.waiters 1)
      done 4 1) s

/-- BFREE. -/
def execBfree (c : BitVec 5) (s : State) : Host.Outcome State Fault Refusal :=
  runAct (do
    let b := s.curBar c.toNat
    change (fun s => (s.setCurBar c.toNat { b with valid := false, arrived := 0, waiters := [] }).releaseWaiters b.waiters 1)
    done 4 1) s

/-- BARV. -/
def execBarv (c a : BitVec 5) (s : State) : Host.Outcome State Fault Refusal :=
  runAct (do
    waitUntil performedAll
    let b := s.curBar c.toNat
    if !b.valid then doneWith a 0xFFFFFFFFFFFFFFFF 4 1
    else
      if b.arrived + 1 = b.expected then
        change (fun s => (s.setCurBar c.toNat { b with arrived := 0, gen := b.gen + 1, waiters := [] }).releaseWaiters b.waiters 0)
      else change (fun s => s.setCurBar c.toNat { b with arrived := b.arrived + 1 })
      doneWith a (b.gen.setWidth 64) 4 1) s

/-- BWAIT. -/
def execBwait (c b a : BitVec 5) (s : State) : Host.Outcome State Fault Refusal :=
  runAct (do
    let r := s.curBar c.toNat
    if !r.valid then doneWith a 2 4 1
    else if r.gen.toNat ≠ bits (s.gr b) 15 0 then doneWith a 0 4 1
    else
      change (fun s =>
        let s := s.setCurBar c.toNat { r with waiters := r.waiters ++ [s.curSid] }
        (s.modCur (fun t => { t with wait := .bwait c.toNat a.toNat })).settleLanes s.curSid)) s

/-! ### Mailboxes (R293 to R296) -/

/-- A mailbox of a core, and with other messages in it. -/
def Core.mbox (c : Core) (p : Nat) : List MbMsg := if p = 0 then c.mbHi else c.mbLo
def Core.setMbox (c : Core) (p : Nat) (l : List MbMsg) : Core := if p = 0 then { c with mbHi := l } else { c with mbLo := l }

/-- The mailbox a priority chooses: 0, 1, or the high one when it is not empty. -/
def Core.mbChoice (c : Core) (p : Nat) : Nat := if p = 2 then (if c.mbHi.isEmpty then 1 else 0) else p

/-- MBSEND. -/
def execMbsend (c b a : BitVec 5) (s : State) : Host.Outcome State Fault Refusal :=
  runAct (do
    let t := s.gr b
    let ea := s.gr a
    if bits t 63 20 ≠ 0 || decide (10 ≤ bits t 3 0) || bits t 19 10 ≠ s.pkg % 1024 || !s.coreInTenant (bits t 9 0) s.cur.tenant then
      trap 3 xSyncarg t
    else
      let bs ← access (fun w => readMem w ea 64 .no) ea 0
      change (fun s =>
        let s := s.dataHit s.curSid ea.toNat 64 false
        let m : MbMsg := { sender := (s.strandId s.curSid).toNat, data := bs }
        let (id, s) := s.sendPacket .core s.cur.tenant s.curCore [bits t 9 0] (.mb c.toNat m) (some s.curSid)
        s.modCur (fun t => { t with wait := .send id }))) s

/-- A message is taken from a mailbox: its bytes are written as one store of the receiving strand, its sender reported. -/
def State.mbTake (s : State) (sid p : Nat) (dst : Word) (rd : Nat) : Option State :=
  let core := coreOfSid sid
  let c := s.core core
  let q := c.mbChoice p
  match c.mbox q with
  | [] => none
  | m :: rest =>
    match writeMem (s.who sid) dst m.data .no s with
    | .ok _ s' =>
      let s' := (s'.modCore core (fun c => c.setMbox q rest)).dataHit sid dst.toNat 64 true
      some (s'.finish sid rd (word (q * 2 ^ 32 + m.sender % 2 ^ 23)))
    | .error _ _ => none

/-- The strands that wait in MBRECV take what their priorities accept, in the order in which they began to wait.  One whose
destination no longer accepts the store issues its MBRECV again. -/
def State.mbServe (s : State) (core : Nat) : State :=
  (s.core core).mbWait.foldl (fun s k =>
    let sid := core * 8 + k
    match (s.st sid).wait with
    | .mbrecv p dst rd =>
      let c := s.core core
      if (c.mbox (c.mbChoice p)).isEmpty then s
      else
        let s := s.modCore core (fun c => { c with mbWait := c.mbWait.filter (· ≠ k) })
        match s.mbTake sid p dst rd with
        | some s' => s'
        | none => s.modSt sid (fun t => { t with wait := .again })
    | _ => s) s

/-- MAILBOX_ARRIVAL: a message reaches its mailbox, follows a forwarding entry, or waits; its sender completes on acceptance
(R293, R295). -/
def execMailboxArrival (pkt : Nat) (s : State) : Host.Outcome State Fault Refusal :=
  match s.packet pkt with
  | none => .next s
  | some p =>
    match p.payload with
    | .mb q m =>
      let core := lget 0 p.dsts 0
      if !p.there || !s.inTurn p then .next s
      else if !s.localPasses p then .next (s.refusePacket p)
      else
        match s.arrival core p.tenant with
        | .onTo c => .next (s.resend p core c)
        | .held => .next s
        | .here =>
          if 16 ≤ ((s.core core).mbox q).length then .next s
          else
            let s := (s.dropPacket pkt).modCore core (fun c => (c.countFwdin p.fwd).setMbox q (c.mbox q ++ [m]))
            let s := s.raiseSource core (q + 1)
            let s := match p.waiter with | some sid => s.finish0 sid | none => s
            .next (s.mbServe core)
    | _ => .next s

/-- MBRECV: the destination is checked before any message is taken. -/
def execMbrecv (c b a : BitVec 5) (s : State) : Host.Outcome State Fault Refusal :=
  runAct (do
    let dst := s.gr a
    access (fun w => probeStore w dst 64) dst 1
    change (fun s =>
      let k := s.core s.curCore
      if (k.mbox (k.mbChoice c.toNat)).isEmpty then
        let s := s.modCore s.curCore (fun k => { k with mbWait := k.mbWait ++ [s.curSlot] })
        (s.modCur (fun t => { t with wait := .mbrecv c.toNat dst b.toNat })).settleLanes s.curSid
      else
        match s.mbTake s.curSid c.toNat dst b.toNat with
        | some s' => s'
        | none => s.stall)) s

/-- MBPEEK. -/
def execMbpeek (c b : BitVec 5) (s : State) : Host.Outcome State Fault Refusal :=
  runAct (do
    let k := s.core s.curCore
    let p := c.toNat
    let n := if p = 2 then k.mbHi.length + k.mbLo.length else (k.mbox p).length
    let sender := match k.mbox (k.mbChoice p) with | m :: _ => m.sender % 2 ^ 23 | [] => 0
    doneWith b (word (n % 32 + 2 ^ 8 * sender)) 4 1) s

end Sys2Proof.Machine
end

