-- ==== Sys2Proof/Machine/Matrix.lean ====
section
/-! DEFINITION. The matrix unit (08_matrix): its queue and header changes (R209, R212, R213), register outer products (R218,
R219), streamed multiply-accumulates (R220 to R226), the other commands (R227 to R234), and faults after acceptance (R235). -/

namespace Sys2Proof.Machine

/-! ### What a command leaves in the header when it is accepted (R213) -/

/-- Both sides of the pending pair none (03_numbers R100). -/
def AccHdr.noPair (h : AccHdr) : AccHdr :=
  { h with rslay := 0, rsfmt := 0, rbase := 0, arow := 0, cslay := 0, csfmt := 0, cbase := 0, bcol := 0 }

/-- The result efmt of operands: INT32 for INT8, otherwise binary32. -/
def resultFmt (efmt : Nat) : BitVec 8 := if efmt = 1 then 3 else 6

/-- The result efmt taken by an accumulator that holds none. -/
def AccHdr.take (h : AccHdr) (e : BitVec 8) : AccHdr := if h.efmt = 0 then { h with efmt := e } else h

/-- The header after a command's acceptance (R213, R219, R222, R228, R229, R231, R232). -/
def MKind.accept (k : MKind) (h : AccHdr) : AccHdr :=
  match k with
  | .mzero => { h.noPair with efmt := 0 }
  | .mhdr i =>
    { h with efmt := i.efmt, rslay := i.rslay, rsfmt := i.rsfmt, rbase := i.rbase, arow := i.arow, cslay := i.cslay,
             csfmt := i.csfmt, cbase := i.cbase, bcol := i.bcol }
  | .mop _ _ _ _ _ ha _ _ => h.take (resultFmt ha.efmt.toNat)
  | .mmas _ a b arow bcol _ _ _ _ =>
    let h := h.take (resultFmt a.efmt)
    let h := if a.slay = 0 then h
      else { h with rslay := BitVec.ofNat 4 a.slay, rsfmt := BitVec.ofNat 4 a.sfmt, rbase := BitVec.ofNat 56 a.base.toNat,
                    arow := BitVec.ofNat 16 arow }
    if b.slay = 0 then h
    else { h with cslay := BitVec.ofNat 4 b.slay, csfmt := BitVec.ofNat 4 b.sfmt, cbase := BitVec.ofNat 56 b.base.toNat,
                  bcol := BitVec.ofNat 16 bcol }
  | .mwr _ _ e => { h with efmt := e }
  | .mld t _ _ _ _ => { h.noPair with efmt := BitVec.ofNat 8 t.efmt }

/-! ### The queue and the lock bits (R209, R212) -/

def Core.setAcc (c : Core) (n : Nat) (h : AccHdr) : Core := { c with accHdr := tput c.accHdr n h }

/-- An accepted command, or the follow-on of a copy, names an accumulator. -/
def Core.accBusy (c : Core) (n : Nat) : Bool :=
  c.mq.any (fun m => m.acc = n) || c.copies.any (fun e => match e.2.follow with | some f => f.acc = n | none => false)

/-- The lock bits as R209 has them. -/
def Core.relock (c : Core) : Core :=
  [0, 1, 2, 3].foldl (fun c n =>
    let h := c.accHeader n
    if h.lock = c.accBusy n then c else c.setAcc n { h with lock := c.accBusy n }) c

/-- A command or a follow-on has not finished. -/
def Core.unfinished (c : Core) (id : Nat) : Bool := c.mq.any (fun m => m.id = id) || c.copies.any (fun e => e.2.id = id && e.2.follow.isSome)

/-- A strand's MWAIT completes once all it waits for has finished (R233). -/
def State.mwaitDone (s : State) (sid : Nat) : State :=
  let t := s.st sid
  match t.wait with
  | .mwait cmds copies =>
    let left := (cmds ++ copies).filter (s.core (coreOfSid sid)).unfinished
    if left.isEmpty && t.async.isEmpty then s.finish0 sid else s
  | _ => s

/-- The lock bits of a core settle, and the MWAITs that they held complete. -/
def State.settleMatrix (s : State) (core : Nat) : State :=
  (List.range 5).foldl (fun s k => s.mwaitDone (core * 8 + k)) (s.modCore core Core.relock)

/-- The queue has a free entry (R212). -/
def Core.mqRoom (c : Core) : Bool := decide (c.mq.length < 8)

/-- The strand a matrix or copy command is charged to, as its accesses have it. -/
def State.engineWho (s : State) (core slot pd : Nat) : Who := { s.who (core * 8 + slot) with pd := pd, stream := 2 }

/-- A command is accepted: it takes an entry, changes the header and sets the lock (R209, R212, R213). -/
def State.acceptMatrix (s : State) (sid acc major id : Nat) (k : MKind) : State :=
  (s.forgetWalks sid 2).modCore (coreOfSid sid) (fun c =>
    let h := c.accHeader acc
    let m : MCmd := { id := id, slot := slotOfSid sid, acc := acc, kind := k, phase := .queued, pd := (s.st sid).pd,
                      major := major, before := h }
    ({ c with mq := c.mq ++ [m] }.setAcc acc (k.accept h)).relock)

/-- A follow-on of the strand that is still to come names the accumulator: a later command of the strand is held (R254). -/
def State.followHolds (s : State) (acc : Nat) : Bool :=
  (s.core s.curCore).copies.any (fun e => e.2.slot = s.curSlot && match e.2.follow with | some f => f.acc = acc | none => false)

/-- A matrix instruction exists on this core and names an accumulator (R59, R216). -/
def needAcc (acc : BitVec 5) (i : Instr) : Act Unit := require (fun s => !isStreamCore s.curCore && decide (acc.toNat < 4)) i

/-- A queued command waits for its turn to be accepted: an entry, and no follow-on of its own strand before it. -/
def needEntry (acc : BitVec 5) : Act Unit :=
  waitUntil (fun s => (s.core s.curCore).mqRoom && !s.followHolds acc.toNat)

/-- The queued command of the current instruction is accepted, and the instruction completes. -/
def queueMatrix (acc : BitVec 5) (major : Nat) (k : MKind) : Act Unit := do
  let (id, s) := (← get).fresh
  set (s.acceptMatrix s.curSid acc.toNat major id k)
  done 4 1

/-- A header fault at issue with a register reference (R217). -/
def headerTrap {α : Type} (code : Nat) (ref : Word) : Act α := trap 0 code ref

/-! ### Operand formats (R218, 03_numbers R103) -/

/-- A 16-bit float, INT8 or binary8: a format some row of R218 accepts. -/
def matrixFmt (e : Nat) : Bool := e = 1 || e = 4 || e = 5 || binary8Code e

/-- Two operand formats pair (R103). -/
def matrixPair (a b : Nat) : Bool := if binary8Code a then binary8Code b else matrixFmt a && a = b

/-- The matrix units of a die in reduced service accept only bfloat16 (R218, 17_service R424). -/
def State.reducedAt (s : State) (core : Nat) : Bool := !(s.die (dieOfCore core)).full

/-- A register operand's format: the order and sparsity its row asks for, and the efmts of the row; the cause otherwise. -/
def operandCause (h : VHdr) (order spar : Nat) (ok : Nat → Bool) : Option Nat :=
  let e := h.efmt.toNat
  if h.slay ≠ 0 ∨ matrixFmt e = false then some xHdrUnsup
  else if h.order.toNat = order ∧ h.spar.toNat = spar ∧ ok e = true then none
  else some xHdrMismatch

/-- The formats of the three outer products: va's efmts, order and sparsity; vb's. -/
def mopWide (e : Nat) : Bool := e = 1 || e = 4 || e = 5
def mopNarrow (e : Nat) : Bool := e = 1 || binary8Code e

/-- Checks 1 to 5 of R218, and the index groups of MOPS (R219): the cause and its register reference.  For .sat with a floating result the
reference is the accumulator's (DEDUCED, log 54). -/
def mopCause (s : State) (fn acc va vb : Nat) (sat : Bool) : Option (Nat × Word) :=
  let t := s.cur
  let m := t.mvl
  let ha := t.vhr va
  let hb := t.vhr vb
  let ea := ha.efmt.toNat
  let eb := hb.efmt.toNat
  let ca := if fn = 0 then operandCause ha 0 0 mopWide else if fn = 1 then operandCause ha 2 0 mopNarrow else operandCause ha 0 1 mopNarrow
  let cb := if fn = 0 then operandCause hb 0 0 mopWide else operandCause hb 2 0 mopNarrow
  let acch := (s.core s.curCore).accHeader acc
  let res := resultFmt ea
  if m = 0 then some (xHdrShape, accRef acc)
  else if ca.isSome then some (ca.getD 0, vecRef va)
  else if cb.isSome then some (cb.getD 0, vecRef vb)
  else if matrixPair ea eb = false then some (xHdrMismatch, vecRef vb)
  else if acch.efmt ≠ 0 ∧ acch.efmt ≠ res then some (xHdrMismatch, accRef acc)
  else if sat ∧ res = 6 then some (xHdrUnsup, accRef acc)
  else if s.reducedAt s.curCore ∧ ea ≠ 5 then some (xHdrUnsup, vecRef va)
  else if fn = 2 ∧ (List.range m).any (fun i => let g := (t.kr va).toNat / 2 ^ (4 * i) % 16; decide (g / 4 ≤ g % 4)) then
    some (xHdrUnsup, vecRef va)
  else none

/-- The three register outer products: they wait for the older entries that write a register they read (R217): va, vb and, for MOPS, the
predicate register numbered as va. -/
def mopAct (fn : Nat) (c b a : BitVec 5) (sat : BitVec 1) (i : Instr) : Act Unit := do
  needAcc c i
  waitUntil (noOlder (fun j =>
    entryVDest j = some a.toNat || entryVDest j = some b.toNat || (fn = 2 && a.toNat != 0 && entryKDest j = a.toNat)))
  needEntry c
  let s ← get
  let t := s.cur
  match mopCause s fn c.toNat a.toNat b.toNat (sat = 1) with
  | some (code, ref) => headerTrap code ref
  | none => queueMatrix c 0x59 (.mop fn (sat = 1) t.mvl (t.vr a.toNat) (t.vr b.toNat) (t.vhr a.toNat) (t.vhr b.toNat) (t.kr a.toNat))

/-- MOP. -/
def execMop (c b a : BitVec 5) (sat : BitVec 1) (s : State) : Host.Outcome State Fault Refusal :=
  runAct (mopAct 0 c b a sat (.mop c b a sat)) s

/-- MOPD. -/
def execMopd (c b a : BitVec 5) (sat : BitVec 1) (s : State) : Host.Outcome State Fault Refusal :=
  runAct (mopAct 1 c b a sat (.mopd c b a sat)) s

/-- MOPS. -/
def execMops (c b a : BitVec 5) (sat : BitVec 1) (s : State) : Host.Outcome State Fault Refusal :=
  runAct (mopAct 2 c b a sat (.mops c b a sat)) s

/-! ### Cells and steps (R219, R89) -/

/-- step: one exact increment applied to a cell. -/
def cellStep (int sat : Bool) (cell : Nat) (x : FVal) : Nat :=
  if int then
    match x with
    | .fin d =>
      let v := sext cell 32 + (d.toInt .rtz).1
      if sat then wrapI (clampInt true 32 v) 32 else wrapI v 32
    | _ => cell
  else (fmtF.add .rne (fmtF.val cell) x).1

/-- The exact sum of products. -/
def exactSum (ps : List (FVal × FVal)) : FVal :=
  match ps with
  | [] => .fin { neg := false, m := 0, e := 0 }
  | p :: r => r.foldl (fun s q => (s.add (q.1.mul q.2).1 false).1) (p.1.mul p.2).1

/-- A row of an accumulator, and a core with one replaced. -/
def Core.accRow (c : Core) (acc i : Nat) : BitVec 2048 := tget 0 c.acc (acc * 64 + i)
def Core.setAccRow (c : Core) (acc i : Nat) (x : BitVec 2048) : Core := { c with acc := tput c.acc (acc * 64 + i) x }

/-- The window cells of an accumulator take one increment each: `sums i j` in order of the steps within a k-row group. -/
def Core.applyStep (c : Core) (acc m n : Nat) (int sat : Bool) (sums : Nat → Nat → List FVal) : Core :=
  (List.range m).foldl (fun c i =>
    let row := c.accRow acc i
    c.setAccRow acc i ((List.range n).foldl (fun r j =>
      setElem r 32 j ((sums i j).foldl (cellStep int sat) (elemAt row 32 j))) row)) c

/-- The element of a register operand of MOPD or of MOPS' second operand: index x and pair or group member p (R218). -/
def pairElem (e : Nat) (v : BitVec 2048) (x p : Nat) : FVal := elemVal e (elemAt v 8 (4 * (x / 2) + 2 * p + x % 2))
def quadElem (e : Nat) (v : BitVec 2048) (j q : Nat) : FVal := elemVal e (elemAt v 8 (128 * (q / 2) + 4 * (j / 2) + 2 * (q % 2) + j % 2))

/-- The increments of an outer product (R219). -/
def mopSum (fn : Nat) (va vb : BitVec 2048) (ha hb : VHdr) (kx : BitVec 256) (i j : Nat) : List FVal :=
  let ea := ha.efmt.toNat
  let eb := hb.efmt.toNat
  match fn with
  | 0 =>
    let w := 8 * esizeOf ea
    [exactSum [(elemVal ea (elemAt va w i), elemVal eb (elemAt vb w j))]]
  | 1 => [exactSum [(pairElem ea va i 0, pairElem eb vb j 0), (pairElem ea va i 1, pairElem eb vb j 1)]]
  | _ =>
    let g := kx.toNat / 2 ^ (4 * i) % 16
    [exactSum [(elemVal ea (elemAt va 8 (2 * i)), quadElem eb vb j (g % 4)), (elemVal ea (elemAt va 8 (2 * i + 1)), quadElem eb vb j (g / 4))]]

/-- ctl.mkcnt counts k-steps (R211, R215). -/
def Core.countSteps (c : Core) (n : Nat) : Core := c.setCtl 0x302 (c.ctl 0x302 + word n)

/-! ### Checks of MMAS and MLD (R221, R229), shared with the copy engine's follow-ons (09_copy R254) -/

/-- The window of R220. -/
structure MWindow where
  arow : Nat
  bcol : Nat
  kbase : Nat
  kcount : Nat
  m : Nat
  n : Nat
  zero : Bool
deriving DecidableEq, Repr

/-- The window two ox values give. -/
def windowOf (x0 x1 : Word) : MWindow :=
  { arow := bits x0 15 0, bcol := bits x0 31 16, kbase := bits x0 47 32, kcount := bits x0 63 48, m := bits x1 7 0,
    n := bits x1 15 8, zero := bits x1 63 16 = 0 }

/-- m and n are 1 to 64, and the reserved bits are 0. -/
def MWindow.sized (x : MWindow) : Bool := x.zero && decide (1 ≤ x.m ∧ x.m ≤ 64 ∧ 1 ≤ x.n ∧ x.n ≤ 64)

/-- A side of the pending pair that an operation sets is compared with the accumulator's (R104, R221). -/
def sideClash (slay sfmt base org : Nat) (hslay hsfmt hbase horg : Nat) : Option Nat :=
  if slay = 0 ∨ hslay = 0 then none
  else if slay ≠ hslay ∨ sfmt ≠ hsfmt ∨ base ≠ hbase then some xHdrMismatch
  else if org ≠ horg then some xHdrShape
  else none

/-- Checks 2 to 5 of R221 on headers A and B: the cause and its tile base or reference. -/
def mmasCause (s : State) (core acc : Nat) (a b : TileHdr) (x : MWindow) (sat : Bool) : Option (Nat × Word) :=
  let ab := a.base
  let bb := b.base
  let eight := fun (e : Nat) => e = 1 || binary8Code e
  let h := (s.core core).accHeader acc
  let row := sideClash a.slay a.sfmt ab.toNat x.arow h.rslay.toNat h.rsfmt.toNat h.rbase.toNat h.arow.toNat
  let col := sideClash b.slay b.sfmt bb.toNat x.bcol h.cslay.toNat h.csfmt.toNat h.cbase.toNat h.bcol.toNat
  let res := resultFmt a.efmt
  if !x.sized || x.kcount = 0 then some (xHdrShape, ab)
  else if a.rows < x.arow + x.m ∨ a.cols < x.kbase + x.kcount then some (xHdrShape, ab)
  else if b.rows < x.kbase + x.kcount ∨ b.cols < x.bcol + x.n then some (xHdrShape, bb)
  else if (eight a.efmt || eight b.efmt) && (x.kbase % 2 = 1 || x.kcount % 2 = 1) then
    some (xHdrShape, if eight a.efmt then ab else bb)
  else if a.spar = 1 ∧ (x.kbase % 4 ≠ 0 ∨ x.kcount % 4 ≠ 0) then some (xHdrShape, ab)
  else if matrixFmt a.efmt = false then some (xHdrMismatch, ab)
  else if matrixPair a.efmt b.efmt = false then some (xHdrMismatch, bb)
  else if binary8Code a.efmt ∧ a.spar = 0 ∧ a.order ≠ 2 then some (xHdrMismatch, ab)
  else if binary8Code b.efmt ∧ b.spar = 0 ∧ b.order ≠ 2 then some (xHdrMismatch, bb)
  else if b.spar = 1 then some (xHdrUnsup, bb)
  else if 3 ≤ a.slay then some (xHdrUnsup, ab)
  else if b.slay = 2 ∨ b.slay = 4 then some (xHdrUnsup, bb)
  else if row = some xHdrMismatch then some (xHdrMismatch, ab)
  else if col = some xHdrMismatch then some (xHdrMismatch, bb)
  else if row.isSome then some (xHdrShape, ab)
  else if col.isSome then some (xHdrShape, bb)
  else if h.efmt ≠ 0 ∧ h.efmt ≠ res then some (xHdrMismatch, accRef acc)
  else if sat ∧ res = 6 then some (xHdrUnsup, accRef acc)
  else if s.reducedAt core ∧ a.efmt ≠ 5 then some (xHdrUnsup, ab)
  else none

/-- A computation whose failed access names the address it met. -/
abbrev EAcc (α : Type) := EStateM (AccErr × Word) State α

/-- An access at an address. -/
def atAddr {α : Type} (ea : Word) (a : Acc α) : EAcc α := fun s =>
  match a s with
  | .ok x s' => .ok x s'
  | .error e s' => .error (e, ea) s'

/-- Accesses of the current scalar instruction, each at an address of its own; as `access`, one that fails leaves no trace while older
vector entries are in the queue (R34). -/
def accessEach {α : Type} (a : Who → EAcc α) (kind : Nat) : Act α := do
  let s ← get
  match a (s.who s.curSid) s with
  | .ok x s' => set s'; return x
  | .error (e, ea) s' =>
    if e.final && !drained s then stall
    else
      set s'
      failed e ea kind

/-- An MMAS checked in full: R221. -/
def mmasPlan (w : Who) (acc : Nat) (ab bb x0 x1 : Word) (sat : Bool) : EAcc MKind := do
  let a ← atAddr ab (hdrCheck w ab .no)
  let b ← atAddr bb (hdrCheck w bb .no)
  let x := windowOf x0 x1
  match mmasCause (← get) w.core acc a b x sat with
  | some (code, ref) => atAddr ref (hdrFault code ref)
  | none => return .mmas sat a b x.arow x.bcol x.kbase x.kcount x.m x.n

/-- An MLD checked in full: R229. -/
def mldPlan (w : Who) (base x0 x1 : Word) : Acc MKind := do
  let t ← hdrCheck w base .no
  let x := windowOf x0 x1
  if (t.efmt ≠ 3 ∧ t.efmt ≠ 6) ∨ t.spar ≠ 0 ∨ t.slay ≠ 0 then hdrFault xHdrUnsup base
  else if !x.sized || x.kbase ≠ 0 || x.kcount ≠ 0 || decide (t.rows < x.arow + x.m) || decide (t.cols < x.bcol + x.n) then
    hdrFault xHdrShape base
  else return .mld t x.arow x.bcol x.m x.n

/-- MMAS. -/
def execMmas (c b a : BitVec 5) (oxb : BitVec 3) (sat : BitVec 1) (s : State) : Host.Outcome State Fault Refusal :=
  runAct (do
    needAcc c (.mmas c b a oxb sat)
    needEntry c
    let k ← accessEach (fun w => mmasPlan w c.toNat (s.gr a) (s.gr b) (s.xo oxb 0) (s.xo oxb 1) (sat = 1)) 10
    queueMatrix c 0x5A k) s

/-- MLD. -/
def execMld (c a : BitVec 5) (oxb : BitVec 3) (s : State) : Host.Outcome State Fault Refusal :=
  runAct (do
    needAcc c (.mld c a oxb)
    needEntry c
    let k ← access (fun w => mldPlan w (s.gr a) (s.xo oxb 0) (s.xo oxb 1)) (s.gr a) 10
    queueMatrix c 0x5C k) s

/-- MZERO. -/
def execMzero (c : BitVec 5) (s : State) : Host.Outcome State Fault Refusal :=
  runAct (do
    needAcc c (.mzero c)
    needEntry c
    queueMatrix c 0x58 .mzero) s

/-- An accumulator-header image as MHDR checks it (R232). -/
def imageOf (bs : List Byte) : Option AccHdr :=
  let x := leNat bs
  let f := fun (hi lo : Nat) => x / 2 ^ lo % 2 ^ (hi - lo + 1)
  let efmt := f 7 0
  let rside := f 47 44 = 0 && f 119 64 = 0 && f 191 176 = 0
  let cside := f 55 52 = 0 && f 175 120 = 0 && f 207 192 = 0
  let rslay := f 43 40
  let cslay := f 51 48
  if (efmt = 0 || efmt = 3 || efmt = 6) && f 23 16 = 64 && f 31 24 = 64
      && f 15 9 = 0 && f 39 32 = 0 && f 63 56 = 0 && f 255 240 = 0
      && decide (rslay ≤ 2) && (cslay = 0 || cslay = 1 || cslay = 3) && decide (f 47 44 ≤ 1) && decide (f 55 52 ≤ 1)
      && (rslay != 0 || rside) && (cslay != 0 || cside) then
    some { efmt := BitVec.ofNat 8 efmt, rslay := BitVec.ofNat 4 rslay, rsfmt := BitVec.ofNat 4 (f 47 44),
           cslay := BitVec.ofNat 4 cslay, csfmt := BitVec.ofNat 4 (f 55 52), rbase := BitVec.ofNat 56 (f 119 64),
           cbase := BitVec.ofNat 56 (f 175 120), arow := BitVec.ofNat 16 (f 191 176), bcol := BitVec.ofNat 16 (f 207 192) }
  else none

/-- MHDR. -/
def execMhdr (c a : BitVec 5) (s : State) : Host.Outcome State Fault Refusal :=
  runAct (do
    needAcc c (.mhdr c a)
    needEntry c
    let base := s.gr a
    let bs ← access (fun w => readMem w base 32 .no) base 10
    match imageOf bs with
    | some h => queueMatrix c 0x58 (.mhdr h)
    | none => headerTrap xHdrUnsup base) s

/-- MWR. -/
def execMwr (c b a : BitVec 5) (s : State) : Host.Outcome State Fault Refusal :=
  runAct (do
    needAcc b (.mwr c b a)
    waitUntil (noOlder (fun j => entryVDest j = some c.toNat))
    needEntry b
    let s ← get
    let r := (s.gr a).toNat
    let h := s.cur.vhr c.toNat
    let acch := (s.core s.curCore).accHeader b.toNat
    if 63 < r then headerTrap xHdrShape (accRef b.toNat)
    else if h.efmt ≠ 3 ∧ h.efmt ≠ 6 then headerTrap xHdrUnsup (vecRef c.toNat)
    else if acch.efmt ≠ 0 ∧ acch.efmt ≠ h.efmt then headerTrap xHdrMismatch (accRef b.toNat)
    else queueMatrix b 0x5B (.mwr r (s.cur.vr c.toNat) h.efmt)) s

/-- MWAIT. -/
def execMwait (c : BitVec 5) (s : State) : Host.Outcome State Fault Refusal :=
  runAct (do
    needAcc c (.mwait c)
    let k := (← get).core s.curCore
    let cmds := (k.mq.filter (fun m => m.acc = c.toNat)).map (·.id)
    let copies := (k.copies.filter (fun e => match e.2.follow with | some f => f.acc = c.toNat | none => false)).map (fun e => e.2.id)
    if (cmds ++ copies).isEmpty then done 4 1
    else change (fun s => s.modCur (fun t => { t with wait := .mwait cmds copies }))) s

/-- MPRG. -/
def execMprg (c d : BitVec 5) (s : State) : Host.Outcome State Fault Refusal :=
  runAct (do
    needAcc c (.mprg c d)
    let k := (← get).core s.curCore
    let h := k.accHeader c.toNat
    let streams := fun (m : MCmd) => match m.kind with | .mmas _ _ _ _ _ _ _ _ _ => true | .mld _ _ _ _ _ => true | _ => false
    let on := k.mq.any (fun m => m.acc = c.toNat && streams m && (m.phase = .performing || m.phase = .paused))
    let stop := k.mq.any (fun m => m.acc = c.toNat && streams m && m.phase = .paused)
    doneWith d (word (h.progress.toNat + 2 ^ 16 * h.consumed.toNat + 2 ^ 32 * b2n h.lock + 2 ^ 33 * b2n on + 2 ^ 34 * b2n stop)) 4 1) s

/-! ### Scales at the way out (R104, R227) -/

/-- One scale of a tile's scale area, by its index. -/
def readScale (t : TileHdr) (sfmt idx : Nat) : Act FVal := do
  let off := t.soff + idx * scaleSize sfmt
  let a := t.base + word off
  let bs ← access (fun w => readMem w (a &&& ~~~31) 32 .no) a 6
  return scaleVal sfmt (leField bs (a.toNat % 32) (scaleSize sfmt))

/-- A side's scales for `n` consecutive rows or columns from an origin; none where the side is none. -/
def sideScales (base slay sfmt org n : Nat) : Act (Option (List FVal)) := do
  if slay = 0 then return none
  else
    let t ← access (fun w => hdrCheck w (word base) .no) (word base) 10
    if slay = 1 then
      let x ← readScale t sfmt 0
      return some (List.replicate n x)
    else
      let xs ← (List.range n).mapM (fun i => readScale t sfmt (org + i))
      return some xs

/-- 1, the missing side's contribution. -/
def oneVal : FVal := .fin (dyInt 1)

/-- The value of a cell as its accumulator's efmt has it.  DESIGN CHOICE (log 95): with efmt 0x00, which MHDR can leave beside a pending
pair, the cell is read as binary32; R227 gives it no format there. -/
def cellVal (efmt : BitVec 8) (x : Nat) : FVal := if efmt = 3 then .fin (dyInt (sext x 32)) else fmtF.val x

/-- rne32 of a cell's value times both scales, one rounding. -/
def scaledCell (efmt : BitVec 8) (x : Nat) (sa sb : FVal) : Nat := rne32 (((cellVal efmt x).mul sa).1.mul sb).1

/-- The scales of R227 for rows from `r` and columns from 0: none where the accumulator has no pending pair. -/
def pendingScales (h : AccHdr) (r rows cols : Nat) : Act (Option (List FVal × List FVal)) := do
  let ra ← sideScales h.rbase.toNat h.rslay.toNat h.rsfmt.toNat (h.arow.toNat + r) rows
  let ca ← sideScales h.cbase.toNat h.cslay.toNat h.csfmt.toNat h.bcol.toNat cols
  match ra, ca with
  | none, none => return none
  | a, b => return some (a.getD (List.replicate rows oneVal), b.getD (List.replicate cols oneVal))

/-- MRD.  It reads no vector register; it writes vd behind the older entries that name it, since those have the values of program order
(05_vector R143). -/
def execMrd (c b a : BitVec 5) (s : State) : Host.Outcome State Fault Refusal :=
  runAct (do
    needAcc b (.mrd c b a)
    waitUntil (noOlder (fun j => (entryVNames j).contains c.toNat))
    let s ← get
    let r := (s.gr a).toNat
    if 63 < r then headerTrap xHdrShape (accRef b.toNat)
    else
      waitUntil (fun s => !((s.core s.curCore).accHeader b.toNat).lock)
      let h := (s.core s.curCore).accHeader b.toNat
      let row := (s.core s.curCore).accRow b.toNat r
      let p ← pendingScales h r 1 64
      let v : BitVec 2048 := match p with
        | none => row
        | some (ra, ca) => (List.range 64).foldl (fun v j =>
            setElem v 32 j (scaledCell h.efmt (elemAt row 32 j) (lget oneVal ra 0) (lget oneVal ca j))) row
      let vh : VHdr := { efmt := if p.isSome then 6 else h.efmt, rawsz := if p.isNone && h.efmt = 0 then 2 else 0, count := 64 }
      change (fun s => (s.modCur (fun t => (t.vw c.toNat v).vhw c.toNat vh)).complete 4 1)) s

/-! ### MST (R230) -/

/-- A target code R57 assigns. -/
def targetAssigned (t : Nat) : Bool := t = 0x3F || (decide (t / 8 ≤ 4) && t % 8 != 0)

/-- The landing-format register of a bank (09_copy R250). -/
def Core.landing (c : Core) (bank : Nat) : Word := tget 0 c.lfmt bank

/-- The bank of the current core's own scratchpad that an address lies in. -/
def State.ownBank (s : State) (ea : Word) : Option Nat :=
  match s.placeOf (s.who s.curSid) ea.toNat with
  | some (.pad ga) => if ga / 2 ^ 28 % 1024 = s.curCore ∧ ga % 2 ^ 28 < 0x80000 then some (ga % 2 ^ 28 / 0x8000) else none
  | _ => none

/-- The element format MST stores in; 0 where .q has none. -/
def State.mstTarget (s : State) (t : Nat) (ga : Word) : Nat :=
  if t = 0x3F then
    match s.ownBank ga with
    | some b => bits ((s.core s.curCore).landing b) 7 0
    | none => 0
  else targetFmt t

/-- The destination header of MST. -/
def mstHdr (base : Word) (efmt rows cols rid : Nat) : TileHdr :=
  { base := base, efmt := efmt, slay := 0, sfmt := 0, spar := 0, order := 0, flags := 0, rows := rows, cols := cols,
    pitch := roundUp (cols * esizeOf efmt) 32, doff := 32, soff := 0, rid := rid }

/-- MST's checks 1 to 5: the cause and its value. -/
def mstCause (s : State) (acc : Nat) (ga gb x0 x1 x2 : Word) : Option (Nat × Word) :=
  let t := bits x2 5 0
  let rm := bits x2 7 6
  let e := s.mstTarget t ga
  let h := (s.core s.curCore).accHeader acc
  let x := windowOf x0 x1
  let rows := bits gb 15 0
  let cols := bits gb 31 16
  if ga.toNat % 32 ≠ 0 then some (xMisalign, ga)
  else if !targetAssigned t || (bits x2 10 8 != 0 && rm != 3) || bits x2 63 11 != 0 || e = 0 || (rm = 3 && decide (e ≤ 3)) then
    some (xHdrUnsup, ga)
  else if h.efmt = 0 ∨ (h.efmt = 3 ∧ rm = 3) then some (xHdrUnsup, accRef acc)
  else if bits gb 47 32 != 0 || bits gb 63 60 != 0 || rows = 0 || cols = 0 || !x.sized || decide (rows < x.arow + x.m)
      || decide (cols < x.bcol + x.n) || x.kbase != 0 || x.kcount != 0 then some (xHdrShape, ga)
  else if !(mstHdr ga e rows cols (bits gb 59 48)).supported then some (xHdrUnsup, ga)
  else none

/-- The pages of `n` bytes from an address are translated and checked before any byte is written. -/
def probePages (a : Word) (n : Nat) : Act Unit := do
  let first := a.toNat / 4096
  forEach (List.range ((a.toNat + n - 1) / 4096 - first + 1)) (fun i => do
    let ea := if i = 0 then a else word ((first + i) * 4096)
    access (fun w => do
      match ← checkAccess w ea 1 needW with
      | .acc c off => if (((← get).core c).accHeader (off / 0x4000)).lock then throw .retry else return ()
      | _ => probeStore w ea 1) ea 1)

/-- One value narrowed for MST: its code and the new carry (R83, R85, R77). -/
def mstNarrow (e rm : Nat) (v : FVal) (carry : Nat) : Nat × Nat :=
  if rm = 3 then
    let (y, c, _) := efStep e v carry
    (y, c)
  else ((cvtTo e (nmodeOf rm) v).1, carry)

/-- The rows of an accumulator's window narrowed, the carry running along the rows: the codes and the last carry. -/
def mstCodes (e rm carry : Nat) (vals : List FVal) : List Nat × Nat :=
  vals.foldl (fun (r : List Nat × Nat) v =>
    let (y, c) := mstNarrow e rm v r.2
    (r.1 ++ [y], c)) ([], carry)

/-- MST. -/
def execMst (c b a : BitVec 5) (oxb : BitVec 3) (s : State) : Host.Outcome State Fault Refusal :=
  runAct (do
    needAcc c (.mst c b a oxb)
    let ga := s.gr a
    let gb := s.gr b
    let x2 := s.xo oxb 2
    let rm := bits x2 7 6
    if rm = 3 then waitUntil (noOlder (fun j => entryCarry j = some (bits x2 9 8))) else pure ()
    let s ← get
    match mstCause s c.toNat ga gb (s.xo oxb 0) (s.xo oxb 1) x2 with
    | some (code, v) => trap 0 code v
    | none =>
      waitUntil (fun s => !((s.core s.curCore).accHeader c.toNat).lock)
      let x := windowOf (s.xo oxb 0) (s.xo oxb 1)
      let e := s.mstTarget (bits x2 5 0) ga
      let sz := esizeOf e
      let t := mstHdr ga e (bits gb 15 0) (bits gb 31 16) (bits gb 59 48)
      let at_ := fun (i : Nat) => ga + word (t.offset (x.arow + i) x.bcol)
      probePages ga 32
      forEach (List.range x.m) (fun i => probePages (at_ i) (x.n * sz))
      let k := (← get).core s.curCore
      let h := k.accHeader c.toNat
      let p ← pendingScales h 0 x.m x.n
      let val := fun (i j : Nat) =>
        let cell := elemAt (k.accRow c.toNat i) 32 j
        match p with
        | none => cellVal h.efmt cell
        | some (ra, ca) => fmtF.val (scaledCell h.efmt cell (lget oneVal ra i) (lget oneVal ca j))
      let efc := bits x2 9 8
      let carry := if bit x2 10 then 0 else (s.cur.efcr efc).toNat
      let vals := (List.range x.m).flatMap (fun i => (List.range x.n).map (fun j => val i j))
      let (codes, last) := mstCodes e rm carry vals
      access (fun w => writeMem w ga t.bytes .no) ga 1
      forEach (List.range x.m) (fun i =>
        forEach (List.range x.n) (fun j =>
          let ea := at_ i + word (j * sz)
          access (fun w => writeMem w ea (leBytes sz (lget 0 codes (i * x.n + j))) .no) ea 1))
      if rm = 3 then change (fun s => s.modCur (fun t => t.efcw efc (BitVec.ofNat 32 last))) else pure ()
      done 4 1) s

/-! ### Faults after acceptance (R235) -/

/-- Commands of a slot that satisfy a test are discarded; the headers become what those that stay would leave (R235). -/
def Core.discard (c : Core) (hit : MCmd → Bool) : Core :=
  -- each accumulator's header is rebuilt from the first discarded command on
  let fix := fun (c : Core) (n : Nat) =>
    match c.mq.find? (fun m => m.acc = n && hit m) with
    | none => c
    | some d =>
      let old := c.accHeader n
      let start := { d.before with lock := old.lock, progress := old.progress, consumed := old.consumed }
      let later := (c.mq.dropWhile (fun m => m.id ≠ d.id)).filter (fun m => m.acc = n && !hit m)
      let (h, ms) := later.foldl (fun (r : AccHdr × List MCmd) m => (m.kind.accept r.1, r.2 ++ [{ m with before := r.1 }])) (start, [])
      { c.setAcc n h with mq := c.mq.map (fun m => match ms.find? (fun x => x.id = m.id) with | some x => x | none => m) }
  let c := [0, 1, 2, 3].foldl fix c
  { c with mq := c.mq.filter (fun m => !hit m) }

/-- ctl.mfault (R211). -/
def mfaultWord (progress major code disc acc : Nat) : Word :=
  word (acc % 4 + 4 + 256 * min disc 7 + 2 ^ 16 * (code % 256) + 2 ^ 24 * (major % 256) + 2 ^ 32 * (progress % 65536))

/-- A fault of a matrix command: the record, the younger commands of the strand discarded, and the trap to be taken (R235,
R236).  `younger` tells which accepted commands those are. -/
def State.matrixFault (s : State) (sid acc major code detail : Nat) (tval : Word) (progress : Nat) (younger : MCmd → Bool) : State :=
  let core := coreOfSid sid
  let n := ((s.core core).mq.filter younger).length
  let s := s.modCore core (fun c => c.discard younger)
  let s := s.modSt sid (fun t =>
    { t.setCtl 0x301 (mfaultWord progress major code n acc) with async := t.async ++ [.fault code detail tval] })
  s.settleMatrix core

/-- The cause, detail and value of a failed access of an engine. -/
def AccErr.asCause (e : AccErr) (ea : Word) : Nat × Nat × Word :=
  match e with
  | .misalign => (xMisalign, 0, ea)
  | .perm d => (xPerm, d, ea)
  | .ecc => (xEccfail, 0, ea)
  | .poison => (xPoison, 0, ea)
  | .other d c v => (c, d, v.getD ea)
  | _ => (xPerm, 5, ea)

/-- A page fault of a queued command: it pauses at its progress, and its strand is to be dropped (R226). -/
def State.pauseMatrix (s : State) (core : Nat) (m : MCmd) (va type level walk : Nat) : State :=
  let sid := core * 8 + m.slot
  let h := (s.core core).accHeader m.acc
  let rec_ := s.faultRec sid va type 6 level h.progress.toNat walk
  let s := s.modCore core (fun c =>
    { c.setAcc m.acc { h with consumed := h.progress } with
      mq := c.mq.map (fun x => if x.id = m.id then { x with phase := .paused } else x) })
  s.modSt sid (fun t => { t with async := t.async ++ [.drop rec_] })

/-! ### Performing (R214, R222, R225, R229) -/

/-- The phase of the command being performed. -/
def Core.setPhase (c : Core) (id : Nat) (p : MPhase) : Core :=
  { c with mq := c.mq.map (fun x => if x.id = id then { x with phase := p } else x) }

/-- The rows of an accumulator zeroed. -/
def Core.zeroAcc (c : Core) (acc : Nat) : Core := { c with acc := c.acc.filter (fun e => e.1 / 64 ≠ acc) }

/-- MATRIX_CMD_PERFORM: the oldest accepted command starts to be performed; all but MMAS and MLD are performed whole. -/
def execMatrixCmdPerform (core : Nat) (s : State) : Host.Outcome State Fault Refusal :=
  let c := s.core core
  match c.mq with
  | [] => .next s
  | m :: _ =>
    if m.phase ≠ .queued then .next s
    else
      let h := c.accHeader m.acc
      let zeroed := c.setAcc m.acc { h with progress := 0, consumed := 0 }
      .next (s.setCore core (match m.kind with
        | .mzero => (zeroed.zeroAcc m.acc).setPhase m.id .done
        | .mhdr _ => c.setPhase m.id .done
        | .mop fn sat n va vb ha hb kx =>
          ((c.applyStep m.acc n n (ha.efmt = 1) sat (mopSum fn va vb ha hb kx)).countSteps (2 ^ fn)).setPhase m.id .done
        | .mwr r v _ => (c.setAccRow m.acc r v).setPhase m.id .done
        | .mmas _ _ _ _ _ _ _ _ _ => zeroed.setPhase m.id .performing
        | .mld _ _ _ _ _ => zeroed.setPhase m.id .performing))

/-- One element of a tile operand, read as part of its atom (R223). -/
def tileElem (w : Who) (t : TileHdr) (i j : Nat) : EAcc FVal := fun s =>
  let sz := esizeOf t.efmt
  let a := t.base + word (t.offset i j)
  match readMem w (a &&& ~~~31) 32 .useOnce s with
  | .ok bs s' => .ok (elemVal t.efmt (leField bs (a.toNat % 32) sz)) s'
  | .error e s' => .error (e, a) s'

/-- The two indices of a group of a 2:4 tile's row; a group that is not ascending is HDR_UNSUP (R222). -/
def tileGroup (w : Who) (t : TileHdr) (i g : Nat) : EAcc (Nat × Nat) := fun s =>
  let a := t.base + word (t.groupByte i g)
  match readMem w (a &&& ~~~31) 32 .useOnce s with
  | .ok bs s' =>
    let (q0, q1) := groupOf (leField bs (a.toNat % 32) 1) g
    if q0 < q1 then .ok (q0, q1) s' else .error (.other 0 xHdrUnsup (some t.base), t.base) s'
  | .error e s' => .error (e, a) s'

/-- Elements of a tile operand by their places. -/
def tileElems (w : Who) (t : TileHdr) (ps : List (Nat × Nat)) : EAcc (List FVal) :=
  ps.mapM (fun p => tileElem w t p.1 p.2)

/-- One step of an MMAS from k-row k: its width and the increments of each window cell (R222). -/
def mmasStep (w : Who) (a b : TileHdr) (arow bcol kbase k m n : Nat) : EAcc (Nat × List (List (List FVal))) := do
  let zero := oneVal
  let cell := fun (xs : List FVal) (i : Nat) => lget zero xs i
  if a.spar = 1 then
    let g := (kbase + k) / 4
    let qs ← (List.range m).mapM (fun i => tileGroup w a (arow + i) g)
    let as ← tileElems w a ((List.range m).flatMap (fun i => [(arow + i, 2 * g), (arow + i, 2 * g + 1)]))
    let bs ← tileElems w b ((List.range 4).flatMap (fun q => (List.range n).map (fun j => (kbase + k + q, bcol + j))))
    let pair := fun (i j : Nat) =>
      let (q0, q1) := lget (0, 0) qs i
      let p := (cell as (2 * i), cell bs (q0 * n + j))
      let r := (cell as (2 * i + 1), cell bs (q1 * n + j))
      if esizeOf a.efmt = 1 then [exactSum [p, r]] else [exactSum [p], exactSum [r]]
    return (4, (List.range m).map (fun i => (List.range n).map (fun j => pair i j)))
  else
    let v := if esizeOf a.efmt = 1 then 2 else 1
    let as ← tileElems w a ((List.range m).flatMap (fun i => (List.range v).map (fun p => (arow + i, kbase + k + p))))
    let bs ← tileElems w b ((List.range v).flatMap (fun p => (List.range n).map (fun j => (kbase + k + p, bcol + j))))
    return (v, (List.range m).map (fun i => (List.range n).map (fun j =>
      [exactSum ((List.range v).map (fun p => (cell as (v * i + p), cell bs (p * n + j))))])))

/-- A row of an MLD's tile (R229). -/
def mldRow (w : Who) (t : TileHdr) (row bcol n : Nat) : EAcc (List Nat) := fun s =>
  (List.range n).foldl (fun (r : EStateM.Result (AccErr × Word) State (List Nat)) j =>
    match r with
    | .error e s => .error e s
    | .ok xs s =>
      let a := t.base + word (t.offset row (bcol + j))
      match readMem w (a &&& ~~~31) 32 .useOnce s with
      | .ok bs s' => .ok (xs ++ [leField bs (a.toNat % 32) 4]) s'
      | .error e s' => .error (e, a) s') (.ok [] s)

/-- The command being performed meets a failed read. -/
def State.matrixStop (s : State) (core : Nat) (m : MCmd) (e : AccErr) (ea : Word) : State :=
  match e with
  | .retry => s
  | .walker => s
  | .page t l n => s.pauseMatrix core m ea.toNat t l n
  | e =>
    let (code, detail, tval) := e.asCause ea
    let progress := ((s.core core).accHeader m.acc).progress.toNat
    let s := s.modCore core (fun c => { c with mq := c.mq.filter (fun x => x.id ≠ m.id) })
    s.matrixFault (core * 8 + m.slot) m.acc m.major code detail tval progress (fun x => x.slot = m.slot)

/-- MMAS_KROW_APPLY: one step of the MMAS, or one row of the MLD, that is being performed.  DESIGN CHOICE (log 95): each k-row is read in
the step that applies it, so that consumed is always progress; R223 lets the pipes read up to 16 k-rows ahead. -/
def execMmasKrowApply (core : Nat) (s : State) : Host.Outcome State Fault Refusal :=
  let c := s.core core
  match c.mq with
  | [] => .next s
  | m :: _ =>
    if m.phase ≠ .performing then .next s
    else
      let w := s.engineWho core m.slot m.pd
      let h := c.accHeader m.acc
      let k := h.progress.toNat
      let advance := fun (c : Core) (n last : Nat) =>
        let p := BitVec.ofNat 16 (k + n)
        let c := c.setAcc m.acc { c.accHeader m.acc with progress := p, consumed := p }
        if last ≤ k + n then c.setPhase m.id .done else c
      match m.kind with
      | .mmas sat a b arow bcol kbase kcount rows cols =>
        match mmasStep w a b arow bcol kbase k rows cols s with
        | .ok (n, sums) s' =>
          let sum := fun (i j : Nat) => lget [] (lget [] sums i) j
          .next (s'.modCore core (fun c =>
            advance ((c.applyStep m.acc rows cols (a.efmt = 1) sat sum).countSteps n) n kcount))
        | .error (e, ea) s' => .next (s'.matrixStop core m e ea)
      | .mld t arow bcol rows cols =>
        match mldRow w t (arow + k) bcol cols s with
        | .ok xs s' =>
          .next (s'.modCore core (fun c =>
            let row := (List.range cols).foldl (fun r j => setElem r 32 j (lget 0 xs j)) (c.accRow m.acc k)
            advance (c.setAccRow m.acc k row) 1 rows))
        | .error (e, ea) s' => .next (s'.matrixStop core m e ea)
      | _ => .next s

/-- MATRIX_CMD_FINISH: the performed command leaves the queue, and the lock clears when none that names the accumulator
remains (R209). -/
def execMatrixCmdFinish (core : Nat) (s : State) : Host.Outcome State Fault Refusal :=
  match (s.core core).mq with
  | m :: r => if m.phase = .done then .next ((s.modCore core (fun c => { c with mq := r })).settleMatrix core) else .next s
  | [] => .next s

/-! ### A held command (R212) -/

/-- The command a strand has in flight, which an engine holds. -/
def State.heldCommand (s : State) (sid : Nat) : Option Instr :=
  let t := s.st sid
  if t.st = .run && t.wait = .poll then t.flying else none

/-- MATRIX_CMD_ACCEPT: a held command is offered to the unit again, and accepted when an entry is free. -/
def execMatrixCmdAccept (core slot : Nat) (s : State) : Host.Outcome State Fault Refusal :=
  let s' := { s with curCore := core, curSlot := slot }
  match s.heldCommand (core * 8 + slot) with
  | some (.mzero c) => execMzero c s'
  | some (.mhdr c a) => execMhdr c a s'
  | some (.mop c b a sat) => execMop c b a sat s'
  | some (.mopd c b a sat) => execMopd c b a sat s'
  | some (.mops c b a sat) => execMops c b a sat s'
  | some (.mmas c b a oxb sat) => execMmas c b a oxb sat s'
  | some (.mwr c b a) => execMwr c b a s'
  | some (.mld c a oxb) => execMld c a oxb s'
  | _ => .next s

end Sys2Proof.Machine
end

