-- ==== Sys2Proof/Machine/Copy.lean ====
section
/-! DEFINITION. The copy engine (09_copy): copy commands and their checks (R238 to R245), the move of a chunk with its
registration, conversion and faults (R246 to R252, R267, R268), follow-ons (R253, R254), masked multicast reads (R255, R256),
row streams (R257, R258), circular buffers (R259 to R262), and the waits and snapshots (R263, R264). -/

namespace Sys2Proof.Machine

/-! ### Circular buffers (R259 to R262) -/

def Core.cb (c : Core) (n : Nat) : CbDesc := tget {} c.cbs n
def Core.setCb (c : Core) (n : Nat) (d : CbDesc) : Core := { c with cbs := tput c.cbs n d }

/-- The address of a slot, and its size. -/
def CbDesc.slotSize (d : CbDesc) : Nat := 64 * d.ssize
def CbDesc.slotAddr (d : CbDesc) (s : Nat) : Word := d.base + word (s * d.slotSize)

/-- A producer takes the next slot: the slot and the descriptor (R261). -/
def CbDesc.takeFree (d : CbDesc) (holder : Nat) : Nat × CbDesc :=
  (d.phead, { d with free := d.free - 1, phead := (d.phead + 1) % d.nslots, maxocc := max d.maxocc (d.nslots - (d.free - 1)),
                     pheld := d.pheld ++ [(d.phead, holder, false)] })

/-- A consumer takes the next slot. -/
def CbDesc.takeFilled (d : CbDesc) (holder : Nat) : Nat × CbDesc :=
  (d.chead, { d with filled := d.filled - 1, chead := (d.chead + 1) % d.nslots, cheld := d.cheld ++ [(d.chead, holder, false)] })

/-- The slots at the head of a ring that are done leave it: how many, and what stays (R262). -/
def doneRun (l : List (Nat × Nat × Bool)) : Nat × List (Nat × Nat × Bool) :=
  ((l.takeWhile (fun e => e.2.2)).length, l.dropWhile (fun e => e.2.2))

/-- filled and free grow over the longest runs of done slots. -/
def CbDesc.settle (d : CbDesc) : CbDesc :=
  let (p, pl) := doneRun d.pheld
  let (c, cl) := doneRun d.cheld
  { d with filled := d.filled + p, free := d.free + c, pheld := pl, cheld := cl }

/-- The oldest slot a holder holds, not done yet, marked done; none where it holds none. -/
def markDone (holder : Nat) (l : List (Nat × Nat × Bool)) : Option (Nat × List (Nat × Nat × Bool)) :=
  match l with
  | [] => none
  | e :: r =>
    if e.2.1 = holder && !e.2.2 then some (e.1, (e.1, e.2.1, true) :: r)
    else (markDone holder r).map (fun x => (x.1, e :: x.2))

/-- A strand's CBACQ completes with a slot; a consumer acquires it (R261). -/
def State.cbGive (s : State) (sid : Nat) (producer : Bool) (d : CbDesc) (slot rd : Nat) : State :=
  let a := d.slotAddr slot
  let s := if producer then s else s.invalidateRange (coreOfSid sid) a.toNat d.slotSize
  s.finish sid rd a

/-- The waiting strand at the head of a role's order takes a slot that has come; the engine's productions take theirs by
COPY_SLOT_TAKE. -/
def State.cbServeOne (s : State) (core n : Nat) : State :=
  let d := (s.core core).cb n
  let rdOf := fun (k : Nat) => match (s.st (core * 8 + k)).wait with | .cbacq _ _ rd => rd | _ => 0
  match d.pwait, d.cwait with
  | k :: r, _ =>
    if 0 < d.free && decide (k < 16) then
      let (slot, d') := d.takeFree k
      (s.modCore core (fun c => c.setCb n { d' with pwait := r })).cbGive (core * 8 + k) true d' slot (rdOf k)
    else consumers d rdOf
  | [], _ => consumers d rdOf
where
  /-- The same of the consumers. -/
  consumers (d : CbDesc) (rdOf : Nat → Nat) : State :=
    match d.cwait with
    | k :: r =>
      if 0 < d.filled then
        let (slot, d') := d.takeFilled k
        (s.modCore core (fun c => c.setCb n { d' with cwait := r })).cbGive (core * 8 + k) false d' slot (rdOf k)
      else s
    | [] => s

/-- All that can be served are: at most ten strand roles wait on a buffer. -/
def State.cbServe (s : State) (core n : Nat) : State := (List.range 10).foldl (fun s _ => s.cbServeOne core n) s

/-- A production that took a slot is done with it (R262, R268); one that still waits leaves the order. -/
def State.cbProduced (s : State) (core ent : Nat) (k : CopyCmd) : State :=
  if !k.cbv then s
  else
    (s.modCore core (fun c =>
      let d := c.cb k.cb
      let d := match markDone (16 + ent) d.pheld with | some (_, l) => { d with pheld := l } | none => d
      c.setCb k.cb { d with pwait := d.pwait.filter (· ≠ 16 + ent) }.settle)).cbServe core k.cb

/-! ### The control word and the extent (R244, R246, R250, R251) -/

/-- Lines of a tile and their bytes under a format (R250, R251). -/
def TileHdr.convLen (h : TileHdr) : Nat := match h.order with | 0 => h.cols | 1 => h.rows | _ => 2 * h.cols

/-- The header a conversion lands (R251). -/
def TileHdr.converted (h : TileHdr) (efmt : Nat) (base : Word) : TileHdr :=
  let order := if esizeOf h.efmt = 1 ∧ esizeOf efmt = 1 then h.order else 0
  let t := { h with base := base, efmt := efmt, order := order, slay := 0, sfmt := 0, spar := 0, soff := 0, flags := 2, doff := 32 }
  { t with pitch := roundUp (t.convLen * esizeOf efmt) 32 }

/-- The copy extent of a conversion (R246). -/
def TileHdr.convExtent (h : TileHdr) : Nat := 32 + h.lines * h.pitch

/-- The bank of a core's own scratchpad an address lies in. -/
def State.bankFor (s : State) (w : Who) (ea : Word) : Option Nat :=
  match s.placeOf w ea.toNat with
  | some (.pad ga) => if ga / 2 ^ 28 % 1024 = w.core ∧ ga % 2 ^ 28 < 0x80000 then some (ga % 2 ^ 28 / 0x8000) else none
  | _ => none

/-- The space of R20 an address lies in. -/
def spaceOf (a : Nat) : Nat := if a < padBase then 0 else if a < 0xF4000000000000 then 1 else if a < selfBase then 2 else 3

/-- A range wraps or leaves its space.  DESIGN CHOICE (log 94): an address outside R20's spaces belongs to the last of them here, so that
a base with bits [63:56] set wraps (CPARG), before R20's PERM is looked for. -/
def rangeLeaves (a n : Nat) : Bool := decide (2 ^ 56 < a + n) || spaceOf a != spaceOf (a + n - 1)

/-- The lowest address of a range that fails the address-space rules or lacks a right, with the detail (R245 step 5).
Spaces and segments change at multiples of 64 only.  Whether a router lets the accesses pass is found when they are made (13_fabric
R348). -/
def rangeFault (w : Who) (a n : Nat) (need : Need) : Acc (Option (Nat × Nat)) := go ((n + 63) / 64 + 1) a
where
  /-- From an address on, 64-byte block by block. -/
  go (fuel x : Nat) : Acc (Option (Nat × Nat)) :=
    match fuel with
    | 0 => return none
    | k + 1 => fun s =>
      if a + n ≤ x then .ok none s
      else
        match (do let p ← placeAt w x; checkRights w x need; return p : Acc Place) s with
        | .error (.perm d) s' => .ok (some (x, d)) s'
        | .error e s' => .error e s'
        | .ok p s' =>
          if need.w && p.readOnly then .ok (some (x, 1)) s' else go k (x / 64 * 64 + 64) s'

/-- CPARG (R243). -/
def cparg {α : Type} (detail : Nat) (v : Word) : Act α := trap detail xCparg v

/-- The cores a multicast set names (R255). -/
def msetCores (x : Word) : List Nat :=
  (List.range 40).filterMap (fun i => if bit x i then some (bits x 45 43 * 128 + (bits x 42 40 + i / 10) * 16 + i % 10) else none)

/-- The multicast set of a CPYM is as R255 has it. -/
def State.msetOk (s : State) (x : Word) : Bool :=
  bits x 63 46 = 0 && (List.range 40).all (fun i => !bit x i || decide (bits x 42 40 + i / 10 < 8))
    && (msetCores x).contains s.curCore && (msetCores x).all (fun c => s.coreInTenant c s.cur.tenant)

/-- A follow-on from its four values (R253): none where the value is one the chapter rejects, with the offending word. -/
def followOf (kind : Nat) (f0 f1 f2 f3 : Word) : Except Word (Option FollowOn) :=
  let k := bits f0 1 0
  if bits f0 63 6 ≠ 0 ∨ k = 2 ∨ (k = 3 ∧ kind ≠ 2) then .error f0
  else if k = 3 then .ok none
  else if k = 1 ∧ (bit f0 2 ∨ bit f0 5) then .error f0
  else if k = 1 ∧ f1 ≠ 0 then .error f1
  else .ok (some { kind := k, sat := bit f0 2, acc := bits f0 4 3, role := bits f0 5 5, other := f1, w0 := f2, w1 := f3 })

/-- A place in the core or die scratchpad: where CPYS moves to and from (R257). -/
def isScratch (s : State) (w : Who) (ea : Word) : Bool :=
  match s.placeOf w ea.toNat with
  | some (.pad ga) => ga / 2 ^ 28 % 16 = 15 || decide (ga % 2 ^ 28 < 0x80000)
  | _ => false

/-- The limits of a control word for a kind of copy (R244, R255, R257). -/
def ctlOk (s : State) (kind : Nat) (x src dst : Word) (bzero : Bool) : Bool :=
  let len := bits x 18 0
  let tile := bit x 19
  let scope := bits x 21 20
  let cbv := bit x 22
  let w := s.who s.curSid
  bits x 63 29 = 0 && (if tile then len = 0 else decide (8 ≤ len ∧ len ≤ 262144) && len % 8 = 0)
    && (!cbv || (scope = 0 && bzero)) && (cbv || bits x 25 23 = 0)
    && (kind = 3 || (bits x 27 26 = 0 && !bit x 28))
    && (kind != 2 || (decide (src.toNat < padBase) && (s.bankFor w dst).isSome && !cbv))
    && (kind != 3 || (!tile && decide (2 ≤ scope) && len % 1024 = 0
        && (if bit x 28 then isScratch s w src && decide (dst.toNat < padBase) else decide (src.toNat < padBase) && isScratch s w dst)))

/-! ### Issue and acceptance (R239, R245, R247, R249) -/

/-- The lowest free entry of the command table. -/
def Core.freeCopy (c : Core) : Option Nat := firstBelow 16 (fun e => (tfind c.copies e).isNone)

/-- A virtual range names a physical word that its core's caches hold. -/
def State.rangeNames (s : State) (core a n pa : Nat) : Bool :=
  ((List.range ((a + n - 1) / 64 - a / 64 + 1)).map (fun i => a / 64 + i)).any (fun l =>
    match s.peekPa core (l * 64) with
    | some (p, _) => p / 64 = pa / 64 && decide (a ≤ l * 64 + pa % 64 + 7 ∧ l * 64 + pa % 64 < a + n)
    | none => false)

/-- Dirty words of the core under a virtual range are registered as REL at the scope would (R247): with those of its L1 the words that
the caches evicted from there, so that every store of the strand is seen (log 34). -/
def State.copySourceOut (s : State) (core scope a n : Nat) : State :=
  let s := s.registerL1 core scope (fun va _ => decide (a ≤ va + 7 ∧ va < a + n))
  if scope = scC then s
  else s.registerCcWords (clusterOfCore core) (some core) (fun pa w => w.writer = core && s.rangeNames core a n pa)

/-- Bits 0 to n - 1 of a chunk register cleared. -/
def clearLow (k : BitVec 256) (n : Nat) : BitVec 256 := k &&& ~~~(BitVec.ofNat 256 (2 ^ n - 1))

/-- The command is accepted into its entry (R239, R247, R249, R254, R262). -/
def State.acceptCopy (s : State) (ent : Nat) (k : CopyCmd) : State :=
  let core := s.curCore
  let (id, s) := s.fresh
  let s := if k.src.toNat < padBase then s.copySourceOut core (if k.kind = 2 then scP else k.scope) k.src.toNat
      (match k.hdr with | some h => h.span | none => k.extent) else s
  let s := if k.kc = 0 then s else s.modCur (fun t => t.kw k.kc (clearLow (t.kr k.kc) (ceilDiv k.extent 1024)))
  let s := (s.forgetWalks (core * 8 + k.slot) 2).modCore core (fun c =>
    let k := { k with id := id }
    if k.cbv then
      let d := c.cb k.cb
      if d.free = 0 || !d.pwait.isEmpty then
        { c.setCb k.cb { d with pwait := d.pwait ++ [16 + ent], pstall := d.pstall + 1 } with
          copies := tput c.copies ent { k with dst := 0, state := .waiting } }
      else
        let (slot, d') := d.takeFree (16 + ent)
        { c.setCb k.cb d' with copies := tput c.copies ent { k with dst := d.slotAddr slot, state := .moving } }
    else { c with copies := tput c.copies ent { k with state := .moving } })
  s.settleMatrix core

/-- Waits before a copy command is accepted: older vector entries that read or write its chunk register, a free entry, no unfinished
command of the strand on that register (R239). -/
def copyWaits (kc : Nat) : Act Unit := do
  if kc = 0 then pure () else waitUntil (noOlder (fun i => (entryKNames i).contains kc))
  waitUntil (fun s => (s.core s.curCore).freeCopy.isSome && !s.chunkReg s.curSid kc)

/-- Step 1 of R245: the control word, the buffer, the multicast set and the follow-on; the follow-on that stands. -/
def copyWords (s : State) (kind : Nat) (src dst : Word) (bzero : Bool) (oxb : BitVec 3) : Act (Option FollowOn) := do
  let x := s.xo oxb 0
  if !ctlOk s kind x src dst bzero then cparg 1 x
  else if bit x 22 && !((s.core s.curCore).cb (bits x 25 23)).valid then cparg 6 x
  else if kind = 2 && !s.msetOk (s.xo oxb 1) then cparg 2 (s.xo oxb 1)
  else if kind = 1 || kind = 2 then
    let o := kind
    match followOf kind (s.xo oxb o) (s.xo oxb (o + 1)) (s.xo oxb (o + 2)) (s.xo oxb (o + 3)) with
    | .error v => cparg 3 v
    | .ok none => return none
    | .ok (some f) => if isStreamCore s.curCore || bit x 22 then cparg 3 (s.xo oxb o) else return some f
  else return none

/-- Steps 3 of R245: the source header and the conversion it lands under (R251): header, target and rounding, bank. -/
def copyHeader (src dst : Word) : Act (TileHdr × Option (Nat × Nat × Nat)) := do
  let h ← access (fun w => hdrCheck w src .no) src 10
  let s ← get
  match s.bankFor (s.who s.curSid) dst with
  | none => return (h, none)
  | some b =>
    let l := (s.core s.curCore).landing b
    let e := bits l 7 0
    if e = 0 then return (h, none)
    else if h.efmt = 0 || (bits l 9 8 = 3 && isInt h.efmt) || !(h.converted e dst).supported then headerTrap xHdrUnsup src
    else return (h, some (e, bits l 9 8, b))

/-- The four copy commands.  DESIGN CHOICE (log 94): with cbv = 1 the bank whose landing format converts is the one of the buffer's base;
R251 does not say which slot's address counts. -/
def copyAct (kind : Nat) (c b a : BitVec 5) (oxb : BitVec 3) : Act Unit := do
  copyWaits c.toNat
  let s ← get
  let x := s.xo oxb 0
  let d := (s.core s.curCore).cb (bits x 25 23)
  let cbv := bit x 22
  let src := s.gr a
  let dst := if cbv then d.base else s.gr b
  let follow ← copyWords s kind src dst (b = 0) oxb
  let tile := bit x 19
  let al := if tile then 32 else 8
  if src.toNat % al ≠ 0 then trap 0 xMisalign src
  else if dst.toNat % al ≠ 0 then trap 0 xMisalign dst
  else
    let (hdr, conv) ← (if tile then do
        let r ← copyHeader src dst
        return (some r.1, r.2)
      else return (none, none) : Act (Option TileHdr × Option (Nat × Nat × Nat)))
    let srcLen := match hdr with | some h => h.span | none => bits x 18 0
    let extent := match hdr, conv with
      | some h, some (e, _, _) => (h.converted e dst).convExtent
      | _, _ => srcLen
    let dstLen := if cbv then d.nslots * d.slotSize else extent
    let sn := src.toNat
    let dn := dst.toNat
    if 262144 < extent || rangeLeaves sn srcLen || rangeLeaves dn dstLen || (decide (sn < dn + dstLen) && decide (dn < sn + srcLen))
        || (cbv && decide (d.slotSize < extent)) then cparg 4 src
    else
      let f ← access (fun w => rangeFault w sn srcLen needR) src 0
      let g ← access (fun w => rangeFault w dn dstLen needW) dst 1
      let bad := match f, g with
        | none, y => y
        | x, none => x
        | some x, some y => if x.1 ≤ y.1 then some x else some y
      match bad with
      | some (ea, detail) => trap detail xPerm (word ea)
      | none =>
        let s ← get
        let k : CopyCmd :=
          { id := 0, slot := s.curSlot, kind := kind, src := src, dst := dst, extent := extent, kc := c.toNat,
            scope := if cbv then d.scope else bits x 21 20, cbv := cbv, cb := bits x 25 23, rs := bits x 27 26, dir := bit x 28,
            tile := tile, hdr := hdr, conv := conv, follow := follow, mset := if kind = 2 then s.xo oxb 1 else 0,
            state := .moving, done := 0, lines := [], pd := s.cur.pd }
        set (s.acceptCopy ((s.core s.curCore).freeCopy.getD 0) k)
        done 4 1

/-- CPY. -/
def execCpy (c b a : BitVec 5) (oxb : BitVec 3) (s : State) : Host.Outcome State Fault Refusal := runAct (copyAct 0 c b a oxb) s

/-- CPYF. -/
def execCpyf (c b a : BitVec 5) (oxb : BitVec 3) (s : State) : Host.Outcome State Fault Refusal := runAct (copyAct 1 c b a oxb) s

/-- CPYM. -/
def execCpym (c b a : BitVec 5) (oxb : BitVec 3) (s : State) : Host.Outcome State Fault Refusal := runAct (copyAct 2 c b a oxb) s

/-- CPYS. -/
def execCpys (c b a : BitVec 5) (oxb : BitVec 3) (s : State) : Host.Outcome State Fault Refusal := runAct (copyAct 3 c b a oxb) s

/-! ### Reading the source (R247, R255, R256) -/

/-- The mark of a line that a CPYM has not received: not a cause, its address as the value. -/
def lineMissing (va : Nat) : AccErr := .other 0 0 (some (word va))

/-- A translated word of a CPYM's source, from the lines received. -/
def multicastWord (w : Who) (k : CopyCmd) (va : Nat) : Acc (List Byte) := do
  let t ← translate w va false .useOnce
  let pa := t.paOf ((← get).partitionOf w.core) va
  if (← get).wordPending w.core (pa / 8 * 8) then throw .walker
  match tfind k.lines (pa / 64) with
  | none => throw (lineMissing va)
  | some bs => if bs.isEmpty then throw .poison else if bs.length = 1 then throw .ecc else return (bs.drop (pa % 64 / 8 * 8)).take 8

/-- The word at an aligned source address, at the command's scope point.  One that the core's own registration has still to reach is read
after it, so that the copy sees every earlier store of its strand (R247). -/
def copyReadWord (w : Who) (k : CopyCmd) (va : Nat) : EAcc (List Byte) := atAddr (word va) do
  match ← placeAt w va with
  | .translated =>
    if k.kind = 2 then multicastWord w k va
    else
      let t ← translate w va false .useOnce
      let pa := t.paOf ((← get).partitionOf w.core) va
      if k.scope = scC then return leBytes 8 (← ccWord w.core w.tenant pa t.rid t.key).toNat
      else
        if (← get).wordPending w.core (pa / 8 * 8) then throw .walker
        slotGate (some w.tenant) pa
        homeRead pa 8 t.key
  | p =>
    mayEnter w p
    loadBytes w p va 8 .no

/-- The bytes of the source range. -/
def CopyCmd.srcLen (k : CopyCmd) : Nat := match k.hdr with | some h => h.span | none => k.extent

/-- What an accepted command keeps changes. -/
def Core.modCopy (c : Core) (id : Nat) (f : CopyCmd → CopyCmd) : Core :=
  { c with copies := c.copies.map (fun e => if e.2.id = id then (e.1, f e.2) else e) }

/-- The words of a source range that share a word's atom, the word itself first. -/
def CopyCmd.atomWords (k : CopyCmd) (va : Nat) : List Nat :=
  va :: ((List.range 4).map (fun i => va / 32 * 32 + 8 * i)).filter (fun x =>
    x != va && decide (k.src.toNat < x + 8 ∧ x < k.src.toNat + k.srcLen))

/-- A word of the source.  The words of its atom are read with it and kept for the chunks that use them, so that the copy has the old or
the new value of each atom (R270). -/
def copySourceWord (w : Who) (k : CopyCmd) (va : Nat) : EAcc (List Byte) := do
  let held := ((← get).core w.core).copies.flatMap (fun e => if e.2.id = k.id then e.2.held else [])
  match tfind held (va / 8) with
  | some bs => return bs
  | none =>
    let ws ← (k.atomWords va).mapM (fun x => do return (x / 8, ← copyReadWord w k x))
    modify (fun s => s.modCore w.core (fun c => c.modCopy k.id (fun k => { k with held := k.held ++ ws })))
    return tget [] ws (va / 8)

/-- `n` bytes of the source from any address. -/
def copyRead (w : Who) (k : CopyCmd) (a n : Nat) : EAcc (List Byte) :=
  if n = 0 then return []
  else do
    let ws ← (List.range ((a + n - 1) / 8 - a / 8 + 1)).mapM (fun i => copySourceWord w k ((a / 8 + i) * 8))
    return ((ws.flatMap id).drop (a % 8)).take n

/-- The value of a logical element of the source tile, scaled (R92, R93, R252).  DESIGN CHOICE (log 94): in a column that the indices do
not name the value is +0 whatever the scale, as R252's prose has it; its loop multiplies every element by the scale. -/
def copyElem (w : Who) (k : CopyCmd) (h : TileHdr) (i j : Nat) : EAcc FVal := do
  let base := k.src.toNat
  let sz := esizeOf h.efmt
  let stored ← (if h.spar = 1 then do
      let g := j / 4
      let b ← copyRead w k (base + h.groupByte i g) 1
      let (q0, q1) := groupOf (leNat b) g
      if q1 ≤ q0 then throw (.other 0 xHdrUnsup (some k.src), k.src)
      else return (if j % 4 = q0 then some (2 * g) else if j % 4 = q1 then some (2 * g + 1) else none)
    else return some j : EAcc (Option Nat))
  match stored with
  | none => return .fin { neg := false, m := 0, e := 0 }
  | some p =>
    let v := elemVal h.efmt (leNat (← copyRead w k (base + h.offset i p) sz))
    if h.slay = 0 then return fmtF.val (rne32 v)
    else
      let n := scaleSize h.sfmt
      let x ← copyRead w k (base + h.soff + h.scaleIndex i j * n) n
      return fmtF.val (rne32 (v.mul (scaleVal h.sfmt (leNat x))).1)

/-- The logical element at place `p` of line `l` of a converted tile. -/
def TileHdr.elemAtPlace (t : TileHdr) (l p : Nat) : Nat × Nat :=
  match t.order with
  | 0 => (l, p)
  | 1 => (p, l)
  | _ => (2 * l + p / 2 % 2, 2 * (p / 4) + p % 2)

/-- The lines of a tile as its order has them (R177). -/
def TileHdr.convPlaces (t : TileHdr) (lo hi : Nat) : List (Nat × Nat × Nat) :=
  let sz := esizeOf t.efmt
  let first := (lo - 32) / t.pitch
  let last := min t.lines ((hi - 32 + t.pitch - 1) / t.pitch)
  (List.range (last - first)).flatMap (fun d =>
    let l := first + d
    (List.range t.convLen).filterMap (fun p =>
      let o := 32 + l * t.pitch + p * sz
      if lo ≤ o ∧ o < hi then some (o, l, p) else none))

/-- The bytes a conversion writes of a chunk, by destination offset, and the carry after it (R252). -/
def convertChunk (w : Who) (k : CopyCmd) (h t : TileHdr) (rm carry lo hi : Nat) : EAcc (List (Nat × List Byte) × Nat) := do
  let start : List (Nat × List Byte) := if lo = 0 then [(0, t.bytes)] else []
  (t.convPlaces (max lo 32) hi).foldlM (fun (r : List (Nat × List Byte) × Nat) e => do
    let (i, j) := t.elemAtPlace e.2.1 e.2.2
    let v ← copyElem w k h i j
    let (y, c) := mstNarrow t.efmt rm v r.2
    return (r.1 ++ [(e.1, leBytes (esizeOf t.efmt) y)], c)) (start, carry)

/-! ### Writing a chunk (R248) -/

/-- Where the destination words of a chunk lie: those of translated memory with their lines, found before any is written. -/
def copyTargets (w : Who) (base n : Nat) : EAcc (List (Nat × Option (Nat × TlbEntry))) :=
  (List.range (n / 8)).mapM (fun i => atAddr (word (base + 8 * i)) do
    let va := base + 8 * i
    match ← placeAt w va with
    | .translated =>
      let t ← translate w va true .no
      return (va, some (t.paOf ((← get).partitionOf w.core) va, t))
    | p =>
      mayEnter w p
      return (va, none))

/-- The destination words whose atoms hold a reserved word or one that accesses wait for: their registrations wait at their home slices (10_sync R282). -/
def State.targetsHeld (s : State) (scope : Nat) (ts : List (Nat × Option (Nat × TlbEntry))) : List Nat :=
  if scope = scC then [] else ts.filterMap (fun e => match e.2 with
    | some (pa, _) => if s.atomBusy pa then some pa else none
    | none => none)

/-- Words of a command's chunk still wait there. -/
def State.copyWaits (s : State) (k : CopyCmd) : Bool := s.pendRegs.any (fun p => p.act = .copy k.id && k.late.contains p.pa)

/-- One translated destination word is written and registered at the command's scope point; the core's own L1 copies of it become
invalid (11_home R305). -/
def State.copyPut (s : State) (w : Who) (id scope pa : Nat) (t : TlbEntry) (x : Word) : State :=
  if scope = scC then
    (s.registerCc w.core { pa := pa, rid := t.rid, key := t.key, valid := false, own := false, dirty := 0xFF, data := x }).modCore w.core
      (fun c => c.invalidateWord pa)
  else if s.atomBusy pa then
    s.addPending { pa := pa, mask := 0xFF, data := x, owner := some w.core, key := t.key, tenant := w.tenant, act := .copy id }
  else s.copyWord pa x (some w.core) t.key w.tenant

/-- Bytes of the destination outside translated memory are stored. -/
def copyByte (w : Who) (va : Nat) (bs : List Byte) : EAcc Unit :=
  atAddr (word va) do
    let p ← placeAt w va
    mayEnter w p
    storeBytes w p va bs .no

/-- A chunk's bytes are written in order. -/
def copyStore (w : Who) (id scope : Nat) (ts : List (Nat × Option (Nat × TlbEntry))) (bs : List Byte) : EAcc Unit := do
  let mapped := ts.filterMap (·.2)
  match mapped with
  | [] => pure ()
  | (_, t) :: _ =>
    if scope = scC then pure () else modify (fun s =>
      s.clearCovered ((mapped.filter (fun p => !s.atomBusy p.1)).map (fun p => (p.1, (0xFF : BitVec 8)))) t.key w.tenant)
  (List.range ts.length).forM (fun i => do
    let x := (bs.drop (8 * i)).take 8
    match lget (0, none) ts i with
    | (_, some (pa, t)) => modify (fun s => s.copyPut w id scope pa t (leWord x))
    | (va, none) => copyByte w va x)

/-! ### Row streams (R257, R258, 12_sagger R325) -/

/-- The page of a CPYS as it is first translated: its mode, its end and its bank, which the stream holds from then on; the rows the command
names are locked in the Sagger from here (12_sagger R325), and the bank's row is open (R330). -/
def rowStart (w : Who) (k : CopyCmd) : EAcc Unit := atAddr (if k.dir then k.dst else k.src) do
  let va := (if k.dir then k.dst else k.src).toNat
  let t ← translate w va k.dir (if k.dir then .no else .useOnce)
  let s ← get
  if !t.im || decide (t.page + 2 ^ t.leafBits < va + k.extent) then throw (.other 1 xCparg (some (word va)))
  else
    let pa := t.paOf (s.partitionOf w.core) va
    let bank := s.bankOf pa
    let first := (s.channelOf pa).2.2 / 256
    let named := (List.range ((va % 1024 + k.extent + 1023) / 1024)).map (fun i => first + i)
    let keep := fun (r : RowStream) =>
      set (s.modCore w.core (fun c => { c with rows := tput c.rows k.rs { r with rows := (r.rows ++ named).dedup } }))
    match tfind (s.core w.core).rows k.rs with
    | some r => if r.bank = some bank then keep r else throw (.other 5 xCparg (some (word va)))
    | none =>
      keep { bank := some bank, opener := k.slot }
      modify (fun s => s.modDie bank.1 (fun d => { d with openBanks := tmod [] d.openBanks bank.2.1 (fun l =>
        if l.contains bank.2.2 then l else bank.2.2 :: l) }))

/-- A stream closes: it holds its bank and the locks of its rows no longer (R258, 12_sagger R325). -/
def State.closeRow (s : State) (core rs : Nat) : State := s.modCore core (fun c => { c with rows := tdel c.rows rs })

/-- The streams a strand opened close (R258). -/
def State.closeRowsOf (s : State) (sid : Nat) : State :=
  [0, 1, 2, 3].foldl (fun s rs =>
    match tfind (s.core (coreOfSid sid)).rows rs with
    | some r => if r.opener = slotOfSid sid then s.closeRow (coreOfSid sid) rs else s
    | none => s) s

/-! ### Faults after acceptance (R267, R268) -/

/-- ctl.cpfault (R266). -/
def cpfaultWord (chunk code disc cmd : Nat) : Word :=
  word (4 + 8 * (cmd % 4) + 256 * min disc 15 + 2 ^ 16 * (code % 256) + 2 ^ 24 * (chunk % 512))

/-- A command of a core leaves the table: its slot is done, the lock and the waits on it settle. -/
def State.copyGone (s : State) (core ent : Nat) (k : CopyCmd) : State :=
  let s := s.modCore core (fun c => { c with copies := tdel c.copies ent })
  (s.cbProduced core ent k).settleMatrix core

/-- A fault ends a command and stops every younger one of its strand (R268).  It is recorded first: the strand's own MWAIT on a follow-on
that goes is left for the trap (R439). -/
def State.copyFault (s : State) (core ent : Nat) (k : CopyCmd) (code detail : Nat) (tval : Word) : State :=
  let younger := (s.core core).copies.filter (fun e => e.2.slot = k.slot && decide (k.id < e.2.id))
  let s := s.modSt (core * 8 + k.slot) (fun t =>
    { t.setCtl 0x140 (cpfaultWord k.done code younger.length k.kind) with async := t.async ++ [.fault code detail tval] })
  younger.foldl (fun s e => s.copyGone core e.1 e.2) (s.copyGone core ent k)

/-- A page fault pauses a command at its first chunk not registered (R267). -/
def State.copyPause (s : State) (core : Nat) (k : CopyCmd) (va type level walk kind progress : Nat) : State :=
  let sid := core * 8 + k.slot
  let rec_ := s.faultRec sid va type kind level progress walk
  let s := s.modCore core (fun c => c.modCopy k.id (fun k => { k with state := .paused }))
  s.modSt sid (fun t => { t with async := t.async ++ [.drop rec_] })

/-! ### The move (R240, R248, R249) -/

/-- Where the bytes that a chunk's step writes begin: at an atom of the destination, so that no atom is written in two steps (R270). -/
def CopyCmd.cut (k : CopyCmd) (c : Nat) : Nat :=
  if c = 0 then 0 else min k.extent (roundUp (k.dst.toNat + 1024 * c) 32 - k.dst.toNat)

/-- What a chunk writes, its source read in full and every destination page translated. -/
def chunkWork (w : Who) (k : CopyCmd) (carry : Nat) :
    EAcc (List (Nat × Option (Nat × TlbEntry)) × List Byte × List (Nat × List Byte) × Nat) := do
  let lo := k.cut k.done
  let hi := k.cut (k.done + 1)
  let dst := k.dst.toNat
  match k.hdr, k.conv with
  | some h, some (e, rm, _) =>
    let (ps, c) ← convertChunk w k h (h.converted e k.dst) rm carry lo hi
    return ([], [], ps, c)
  | _, _ =>
    if k.kind = 3 then rowStart w k else pure ()
    let bs ← copyRead w k (k.src.toNat + lo) (hi - lo)
    let ts ← copyTargets w (dst + lo) (hi - lo)
    return (ts, bs, [], carry)

/-- The chunk is registered: its bit, the count, and the end of the command (R248, R249, R252, R254, R262). -/
def State.chunkDone (s : State) (core ent : Nat) (k : CopyCmd) (carry : Nat) : State :=
  let n := min k.extent (1024 * k.done + 1024) - 1024 * k.done
  let sid := core * 8 + k.slot
  let s := if k.kc = 0 then s else s.modSt sid (fun t => t.kw k.kc (t.kr k.kc ||| BitVec.ofNat 256 (2 ^ k.done)))
  let s := s.modCore core (fun c =>
    let c := c.setCtl 0x142 (c.ctl 0x142 + word n)
    match k.conv with
    | some (_, _, b) => { c with lfmt := tput c.lfmt b (setBits (c.landing b) 63 32 carry) }
    | none => c)
  -- of a conversion any chunk may use any atom
  let used := if k.conv.isSome then 0 else k.src.toNat + k.cut (k.done + 1)
  let k' := { k with done := k.done + 1, state := .moving, lines := [], held := k.held.filter (fun e => decide (used < 8 * e.1 + 8)) }
  if 1024 * k'.done < k'.extent then s.modCore core (fun c => { c with copies := tput c.copies ent k' })
  else if k.follow.isSome then s.modCore core (fun c => { c with copies := tput c.copies ent { k' with state := .followOn } })
  else s.copyGone core ent k'

/-- A step of the engine met a failed access. -/
def State.copyStop (s : State) (core ent : Nat) (k : CopyCmd) (e : AccErr) (ea : Word) : State :=
  match e with
  | .retry => s
  | .walker => s
  | .page t l n => s.copyPause core k ea.toNat t l n 7 k.done
  | .other 0 0 _ => s
  | e =>
    let (code, detail, tval) := e.asCause ea
    s.copyFault core ent k code detail tval

/-- The charged strand of a command, as its accesses see it. -/
def State.copyWho (s : State) (core : Nat) (k : CopyCmd) : Who := s.engineWho core k.slot k.pd

/-- COPY_CHUNK_REGISTER: the next chunk of a command is read, written and registered; one with words that wait behind a
reservation is registered when they have been performed. -/
def execCopyChunkRegister (core ent : Nat) (s : State) : Host.Outcome State Fault Refusal :=
  let c := s.core core
  match tfind c.copies ent with
  | none => .next s
  | some k =>
    if k.state ≠ .moving ∨ c.copyTurn k = false then .next s
    else
      let w := s.copyWho core k
      let carry := match k.conv with | some (_, _, b) => bits (c.landing b) 63 32 | none => 0
      if k.late ≠ [] then
        if s.copyWaits k then .next s else .next (s.chunkDone core ent { k with late := [] } carry)
      else
        match chunkWork w k carry s with
        | .error (e, ea) s' => .next (s'.copyStop core ent k e ea)
        | .ok (ts, bs, ps, carry') s' =>
          let r := match k.conv with
            | some _ => ps.forM (fun (p : Nat × List Byte) => copyByte w (k.dst.toNat + p.1) p.2)
            | none => copyStore w k.id k.scope ts bs
          match r s' with
          | .ok _ s'' =>
            match s'.targetsHeld k.scope ts with
            | [] => .next (s''.chunkDone core ent (tget k (s''.core core).copies ent) carry')
            | l => .next (s''.modCore core (fun c => c.modCopy k.id (fun k => { k with late := l })))
          | .error (e, ea) s'' => .next (s''.copyStop core ent k e ea)

/-- COPY_SLOT_TAKE: a production takes its slot when it is first in the order and a slot is free (R262). -/
def execCopySlotTake (core ent : Nat) (s : State) : Host.Outcome State Fault Refusal :=
  let c := s.core core
  match tfind c.copies ent with
  | none => .next s
  | some k =>
    let d := c.cb k.cb
    if k.cbv && k.state = .waiting && d.pwait.head? = some (16 + ent) && decide (0 < d.free) then
      let (slot, d') := d.takeFree (16 + ent)
      let s := s.setCore core { c.setCb k.cb { d' with pwait := d.pwait.drop 1 } with
        copies := tput c.copies ent { k with dst := d.slotAddr slot, state := .moving } }
      .next (s.cbServe core k.cb)
    else .next s

/-! ### Follow-ons (R254) -/

/-- The core is halted for debug: its unit accepts no follow-on (08_matrix R237). -/
def State.coreHalted (s : State) (core : Nat) : Bool := s.halts.any (fun h => h.1 = s.tenantOf core)

/-- COPY_FOLLOWON_ISSUE: the follow-on is issued once the copy has landed and the queue has room; its checks are made then. -/
def execCopyFollowonIssue (core ent : Nat) (s : State) : Host.Outcome State Fault Refusal :=
  let c := s.core core
  match tfind c.copies ent with
  | none => .next s
  | some k =>
    match k.follow with
    | none => .next s
    | some f =>
      if k.state ≠ .followOn ∨ c.mqRoom = false ∨ s.coreHalted core then .next s
      else
        let sid := core * 8 + k.slot
        let w := s.copyWho core k
        let plan := if f.kind = 1 then atAddr k.dst (mldPlan w k.dst f.w0 f.w1)
          else if f.role = 0 then mmasPlan w f.acc k.dst f.other f.w0 f.w1 f.sat
          else mmasPlan w f.acc f.other k.dst f.w0 f.w1 f.sat
        let leave := fun (s : State) => s.modCore core (fun c => { c with copies := tdel c.copies ent })
        match plan s with
        | .ok m s' =>
          -- the command goes on under the copy's identity, so that MWAIT follows it (R233)
          let s' := (leave s').acceptMatrix sid f.acc 0x60 k.id m
          .next ((s'.modCore core (fun c => { c with mq := c.mq.map (fun x => if x.id = k.id then { x with pd := k.pd } else x) })).settleMatrix core)
        | .error (.retry, _) s' => .next s'
        | .error (.walker, _) s' => .next s'
        | .error (.page t l n, ea) s' => .next (s'.copyPause core k ea.toNat t l n 10 0)
        | .error (e, ea) s' =>
          let (code, detail, tval) := e.asCause ea
          .next ((leave s').matrixFault sid f.acc 0x60 code detail tval 0
            (fun m => m.slot = k.slot && decide (k.id < m.id) && m.phase = .queued))

/-! ### Multicast reads (R256) -/

/-- A merge entry is closed: every core of its set has joined, 64 cycles have passed since it opened, or a write to the line has come
(R256). -/
def Merge.closed (m : Merge) (clock : Nat) : Bool :=
  (msetCores m.mset).all (fun c => m.joined.any (fun j => j.1 = c)) || decide (m.opened + 64 ≤ clock) || m.taken.isSome

/-- MERGE_REQUEST: the next line a CPYM of the core needs reaches its home slice, and joins the open entry of its set and
tenant or opens one. -/
def execMergeRequest (core ent : Nat) (s : State) : Host.Outcome State Fault Refusal :=
  let c := s.core core
  match tfind c.copies ent with
  | none => .next s
  | some k =>
    let waiting := s.merges.any (fun m => m.joined.contains (core, k.id)) || s.fabric.packets.any (fun p =>
      match p.payload with | .line _ _ j => j.contains (core, k.id) | _ => false)
    if k.kind ≠ 2 ∨ k.state ≠ .moving ∨ waiting then .next s
    else
      let w := s.copyWho core k
      let carry := match k.conv with | some (_, _, b) => bits (c.landing b) 63 32 | none => 0
      match chunkWork w k carry s with
      | .error (.other 0 0 _, va) _ =>
        match translate w va.toNat false .useOnce s with
        | .ok t s' =>
          let pa := t.paOf (s'.partitionOf core) va.toNat / 64 * 64
          let same := fun (m : Merge) => m.pa = pa && msetCores m.mset = msetCores k.mset && m.tenant = w.tenant && !m.closed s'.clock
          if s'.merges.any same then
            .next { s' with merges := s'.merges.map (fun m => if same m then { m with joined := m.joined ++ [(core, k.id)] } else m) }
          else
            .next { s' with merges := s'.merges ++ [{ pa := pa, mset := k.mset, tenant := w.tenant, joined := [(core, k.id)],
                                                       opened := s'.clock, key := t.key, taken := none }] }
        | .error e s' => .next (s'.copyStop core ent k e va)
      | .error (.walker, _) s' => .next s'
      | _ => .next s

/-- MERGE_ENTRY_CLOSE: a closed entry's line, read once, in a slot of its tenant's, goes to every core that joined. -/
def execMergeEntryClose (idx : Nat) (s : State) : Host.Outcome State Fault Refusal :=
  match s.merges[idx]? with
  | none => .next s
  | some m =>
    if !m.closed s.clock || (m.taken.isNone && !s.slotOpen (some m.tenant) m.pa) then .next s
    else
      let (bs, s) := match m.taken with | some bs => (bs, s) | none => s.mergeRead m.pa m.key
      let (d, sl) := s.sliceOf m.pa
      let s := { s with merges := s.merges.eraseIdx idx }
      .next (s.sendPacket .rsp m.tenant (unitSlice d sl) ((m.joined.map (·.1)).eraseDups) (.line m.pa bs m.joined) none).2

/-! ### The other instructions -/

/-- ROWCLS. -/
def execRowcls (c : BitVec 5) (s : State) : Host.Outcome State Fault Refusal :=
  runAct (do
    require (fun _ => decide (c.toNat < 4)) (.rowcls c)
    waitUntil (fun s => !(s.core s.curCore).copies.any (fun e => e.2.kind = 3 && e.2.rs = c.toNat))
    change (fun s => s.closeRow s.curCore c.toNat)
    done 4 1) s

/-- A copy command of the current strand that a chunk register selects: all of them for k0 (R263, R264). -/
def State.myCopies (s : State) (kc : Nat) : List CopyCmd :=
  ((s.core s.curCore).copies.map (·.2)).filter (fun k => k.slot = s.curSlot && (kc = 0 || k.kc = kc))

/-- CPWAIT. -/
def execCpwait (c : BitVec 5) (s : State) : Host.Outcome State Fault Refusal :=
  runAct (do
    waitUntil (fun s => (s.myCopies c.toNat).isEmpty && s.cur.async.isEmpty)
    done 4 1) s

/-- CPQRY. -/
def execCpqry (c d : BitVec 5) (s : State) : Host.Outcome State Fault Refusal :=
  let ks := s.myCopies c.toNat
  let oldest := ks.foldl (fun (o : Option CopyCmd) k => match o with | some x => if x.id < k.id then some x else some k | none => some k) none
  let slotless := ks.any (fun k => k.cbv && k.state = .waiting)
  s.putReg d (word (ks.length + 32 * b2n (ks.any (fun k => k.state = .paused)) + 64 * b2n slotless
    + 128 * b2n (bit (s.cur.ctl 0x140) 2) + 256 * (match oldest with | some k => k.done | none => 0))) 4 1

/-- A geometry word of CBINIT (R260). -/
def geometryOk (x : Word) : Bool :=
  decide (1 ≤ bits x 10 0 ∧ bits x 10 0 ≤ 1024) && bits x 15 11 = 0 && decide (1 ≤ bits x 22 16 ∧ bits x 22 16 ≤ 64) && !bit x 23
    && bits x 63 26 = 0

/-- The descriptor CBINIT leaves; the waiting strands complete with the reset value. -/
def State.cbReset (s : State) (n : Nat) (d : CbDesc) : State :=
  let core := s.curCore
  let old := (s.core core).cb n
  let s := s.modCore core (fun c => c.setCb n d)
  ((old.pwait ++ old.cwait).filter (· < 5)).foldl (fun s k =>
    match (s.st (core * 8 + k)).wait with
    | .cbacq _ _ rd => s.finish (core * 8 + k) rd (BitVec.allOnes 64)
    | _ => s) s

/-- CBINIT. -/
def execCbinit (c b a : BitVec 5) (s : State) : Host.Outcome State Fault Refusal :=
  runAct (do
    let n := c.toNat
    require (fun _ => decide (n < 8)) (.cbinit c b a)
    let x := s.gr b
    let base := s.gr a
    let size := 64 * bits x 10 0 * bits x 22 16
    let idle := waitUntil (fun s => !(s.core s.curCore).copies.any (fun e => e.2.cbv && e.2.cb = n))
    if x = 0 then
      idle
      change (fun s => s.cbReset n { (s.core s.curCore).cb n with valid := false, pheld := [], cheld := [], pwait := [], cwait := [] })
      done 4 1
    else if !geometryOk x then cparg 6 x
    else if base.toNat % 64 ≠ 0 then trap 0 xMisalign base
    else
      match ← access (fun w => rangeFault w base.toNat size needRW) base 1 with
      | some (ea, detail) => trap detail xPerm (word ea)
      | none =>
        idle
        change (fun s => s.cbReset n { valid := true, base := base, ssize := bits x 10 0, nslots := bits x 22 16, scope := bits x 25 24,
                                       free := bits x 22 16 })
        done 4 1) s

/-- CBACQ. -/
def execCbacq (c role d : BitVec 5) (s : State) : Host.Outcome State Fault Refusal :=
  runAct (do
    let n := c.toNat
    require (fun _ => decide (n < 8) && decide (role.toNat < 2)) (.cbacq c role d)
    let b := (s.core s.curCore).cb n
    let wait := fun (b' : CbDesc) =>
      change (fun s => ((s.modCore s.curCore (fun k => k.setCb n b')).modCur (fun t =>
        { t with wait := .cbacq n (role = 1) d.toNat })).settleLanes s.curSid)
    if !b.valid then doneWith d (BitVec.allOnes 64) 4 1
    else if role = 1 then
      if b.free = 0 || !b.pwait.isEmpty then wait { b with pstall := b.pstall + 1, pwait := b.pwait ++ [s.curSlot] }
      else
        let (slot, b') := b.takeFree s.curSlot
        change (fun s => (s.modCore s.curCore (fun k => k.setCb n b')).cbGive s.curSid true b' slot d.toNat)
    else
      if b.filled = 0 || !b.cwait.isEmpty then wait { b with cstall := b.cstall + 1, cwait := b.cwait ++ [s.curSlot] }
      else
        let (slot, b') := b.takeFilled s.curSlot
        change (fun s => (s.modCore s.curCore (fun k => k.setCb n b')).cbGive s.curSid false b' slot d.toNat)) s

/-- A producer's slot is released: this core's dirty words of it are registered at the descriptor's scope, as a REL limited to it would
(R262). -/
def State.releaseSlot (s : State) (scope a n : Nat) : State :=
  let core := s.curCore
  if padBase ≤ a then s
  else
    let s := s.copySourceOut core scope a n
    if scope = scC then s.takeCowner core (fun pa _ => s.rangeNames core a n pa) else s

/-- A descriptor's slots held in a role. -/
def CbDesc.held (d : CbDesc) (producer : Bool) : List (Nat × Nat × Bool) := if producer then d.pheld else d.cheld

/-- The oldest slot a strand holds in a role is done (R262). -/
def State.cbDone (s : State) (n : Nat) (producer : Bool) : State :=
  match markDone s.curSlot (((s.core s.curCore).cb n).held producer) with
  | none => s
  | some (_, l) =>
    (s.modCore s.curCore (fun k =>
      let b := k.cb n
      k.setCb n (if producer then { b with pheld := l } else { b with cheld := l }).settle)).cbServe s.curCore n

/-- CBREL. -/
def execCbrel (c role : BitVec 5) (s : State) : Host.Outcome State Fault Refusal :=
  runAct (do
    let n := c.toNat
    let producer : Bool := role = 1
    require (fun _ => decide (n < 8) && decide (role.toNat < 2)) (.cbrel c role)
    let b := (s.core s.curCore).cb n
    match s.underWay with
    | some _ => return ()
    | none =>
      waitUntil performedAll
      match markDone s.curSlot (b.held producer) with
      | none => cparg 6 (word n)
      | some (slot, _) => change (fun s => if producer then s.releaseSlot b.scope (b.slotAddr slot).toNat b.slotSize else s)
    flyUntil [] (fun s => !producer || s.relDone b.scope)
    change (fun s => s.cbDone n producer)
    done 4 1) s

/-- A landing-format value that LFMT accepts (R250). -/
def landingOk (x : Word) : Bool :=
  let e := bits x 7 0
  let g := e / 16
  let p := e % 16
  (e = 0 || decide (1 ≤ e ∧ e ≤ 7) || (decide (1 ≤ g ∧ g ≤ 4) && decide (1 ≤ p ∧ p ≤ 7))) && !(bits x 9 8 = 3 && isInt e)
    && bits x 31 12 = 0 && !bit x 10

/-- LFMT. -/
def execLfmt (c d a : BitVec 5) (s : State) : Host.Outcome State Fault Refusal :=
  runAct (do
    let b := c.toNat
    require (fun _ => decide (b < 16)) (.lfmt c d a)
    let x := s.gr a
    if !landingOk x then headerTrap xHdrUnsup x
    else
      waitUntil (fun s => !(s.core s.curCore).copies.any (fun e => match e.2.conv with | some (_, _, k) => k = b | none => false))
      let old := ((← get).core s.curCore).landing b
      if bit x 11 then pure ()
      else change (fun s => s.modCore s.curCore (fun k => { k with lfmt := tput k.lfmt b x }))
      doneWith d old 4 1) s

/-- COPY_CMD_ACCEPT: a held copy command is offered to the engine again. -/
def execCopyCmdAccept (core slot : Nat) (s : State) : Host.Outcome State Fault Refusal :=
  let s' := { s with curCore := core, curSlot := slot }
  match s.heldCommand (core * 8 + slot) with
  | some (.cpy c b a oxb) => execCpy c b a oxb s'
  | some (.cpyf c b a oxb) => execCpyf c b a oxb s'
  | some (.cpym c b a oxb) => execCpym c b a oxb s'
  | some (.cpys c b a oxb) => execCpys c b a oxb s'
  | _ => .next s

end Sys2Proof.Machine
end

