-- ==== Sys2Proof/Machine/Sagger.lean ====
section
/-! DEFINITION. The Sagger's writebacks, the channel slots and their instructions (12_sagger R327, R330, R331, R336 to R338). -/

namespace Sys2Proof.Machine

/-! ### Lines written back -/

/-- A line whose bytes have gone to HBM4: it is clean, and nothing older lies under it. -/
def SagLine.clean (l : SagLine) : SagLine := { l with dirty := false, old := none, bad := [] }

/-- Pages hold a line of a partition's memory, or of its copy of a host window. -/
def State.inPages (s : State) (p : Partition) (pages : List (Nat × Nat)) (pa : Nat) : Bool :=
  (!isHostCell pa || pa / 2 ^ 60 = p.first + 1) && pages.any (fun f => s.pageHolds f pa)

/-- The home slices' lines of a selection are dealt with, one by one. -/
def State.eachL2 (s : State) (hit : Nat → Bool) (f : State → L2Line → State) : State :=
  ((s.dies.flatMap (fun e => e.2.l2.flatMap (·.2))).filter (fun x => hit x.pa)).foldl f s

/-- Dirty lines of a selection go to HBM4: the home slices' into the Saggers, and the Saggers' into the writeback buffers, while these
have room. -/
def State.flushRound (s : State) (hit : Nat → Bool) : State :=
  let s := s.eachL2 hit (fun s x => match x.under with
    | some m => (s.saggerWrite x m).l2Put { x with under := none }
    | none => s)
  s.dies.foldl (fun s e =>
    let out := (e.2.sagger.filter (fun l => l.dirty && hit l.pa)).take (64 - e.2.writeback.length)
    (s.setDie e.1 { e.2 with
      sagger := e.2.sagger.map (fun l => if out.contains l then l.clean else l)
      writeback := e.2.writeback ++ writebacksOf out }).leaveSagger out) s

/-- No line of a selection is dirty, or on its way to HBM4. -/
def State.flushed (s : State) (hit : Nat → Bool) : Bool :=
  s.dies.all (fun e =>
    e.2.l2.all (fun u => u.2.all (fun x => !(x.under.isSome && hit x.pa))) && e.2.sagger.all (fun l => !(l.dirty && hit l.pa))
      && e.2.writeback.all (fun w => !hit w.1) && e.2.spillWait.all (fun q => !hit q.line.pa))

/-- Lines of a selection that are clean leave the home slices and the Saggers. -/
def State.flushDrop (s : State) (hit : Nat → Bool) : State :=
  let s := s.eachL2 hit (fun s x => if x.under.isNone then s.l2Evict x else s)
  { s with dies := s.dies.map (fun (e : Nat × Die) =>
      (e.1, { e.2 with sagger := e.2.sagger.filter (fun l => l.dirty || !hit l.pa) })) }

/-- Counter of a die as MSCFL's query names it (R337). -/
def State.saggerCounter (s : State) (d k : Nat) : Nat :=
  match k with
  | 5 => (s.partitionOfDie d).rb
  | 6 => ((s.die d).sagger.filter (fun l => l.way ≠ 15 && decide (l.blocks < 4))).length
  | _ => tget 0 (s.die d).counters k

/-- MSCFL. -/
def execMscfl (c b a : BitVec 5) (s : State) : Host.Outcome State Fault Refusal :=
  runAct (do
    ecSupervisor (ecWord 0x73 0 0 a b c)
    let x := s.gr a
    let y := s.gr b
    let mode := bits y 63 62
    let len := bits y 61 0
    if mode = 3 then trap 5 xPerm y
    else if mode = 2 then
      let d := bits x 2 0
      let k := bits x 7 4
      if bits x 63 8 ≠ 0 ∨ bit x 3 ∨ 6 < k ∨ !(s.partitionOf s.curCore).mask.testBit d then trap 5 xPerm x
      else doneWith c (word (s.saggerCounter d k)) 4 1
    else if x.toNat % 4096 ≠ 0 then trap 0 xMisalign x
    else if len % 4096 ≠ 0 ∨ 2 ^ 30 < len then trap 5 xPerm y
    else if spaceEnd < x.toNat + len then trap 5 xPerm (if spaceEnd < x.toNat then x else y)
    else
      match s.underWay with
      | some ((n, _) :: pages) => flushPages mode c n pages
      | _ =>
        let (ls, v) ← access (fun w => leavesOf w.core (len / 4096) x.toNat (x.toNat + len)) x 0
        flushPages mode c (min v (x.toNat + len) - x.toNat) (ls.map (fun l => (l.2.2.1, l.2.2.2)))) s
where
  /-- A round of the writes; MSCFL completes when every line of the pages has reached HBM4, with the bytes walked, which its wait holds
  before the pages. -/
  flushPages (mode : Nat) (c : BitVec 5) (n : Nat) (pages : List (Nat × Nat)) : Act Unit := do
    let hit := fun (s : State) => s.inPages (s.partitionOf s.curCore) pages
    change (fun s => s.flushRound (hit s))
    flyUntil ((n, 0) :: pages) (fun s => s.flushed (hit s))
    if mode = 1 then change (fun s => s.flushDrop (hit s)) else pure ()
    doneWith c (word n) 4 1

/-! ### Channel slots (R330, R331, R338) -/

/-- A channel's map with a mask given to a tenant, whose other slots open. -/
def Die.giveSlots (d : Die) (ch tenant mask : Nat) : Die :=
  { d with chanSlots := (List.range 64).foldl (fun t k =>
      if mask.testBit k then tput t (ch * 64 + k) tenant
      else if tfind t (ch * 64 + k) = some tenant then tdel t (ch * 64 + k) else t) d.chanSlots }

/-- HBMSLOT. -/
def execHbmslot (c b a : BitVec 5) (s : State) : Host.Outcome State Fault Refusal :=
  runAct (do
    ecMonitor (ecWord 0x73 1 0 a b c)
    let x := s.gr a
    let y := s.gr b
    let d := bits x 2 0
    let tenant := bits x 15 10
    if bits x 63 17 ≠ 0 ∨ !(s.partitionOf s.curCore).mask.testBit d then trap 5 xPerm x
    else
      let die := s.die d
      if !bit x 16 then doneWith c (word (die.slotMask (if bit x 9 then 0 else bits x 8 3) tenant)) 4 1
      else if bit y 0 then trap 5 xPerm y
      else
        let chans := if bit x 9 then List.range 64 else [bits x 8 3]
        let taken := chans.any (fun ch => (List.range 64).any (fun k => bit y k && match die.slotTenant ch k with
          | some t => t ≠ tenant
          | none => false))
        if taken then doneWith c 1 4 1
        else
          change (fun s => s.modDie d (fun die => chans.foldl (fun die ch => die.giveSlots ch tenant y.toNat) die))
          doneWith c 0 4 1) s

/-- Up to `n` writebacks of a list that may issue leave it. -/
def takeWritebacks (n : Nat) (ok : Nat × Nat → Bool) (l : List (Nat × Nat)) : List (Nat × Nat) :=
  match l with
  | [] => []
  | w :: r => if 0 < n && ok w then takeWritebacks (n - 1) ok r else w :: takeWritebacks n ok r

/-- CHANNEL_SLOT_BOUNDARY: a channel enters the present slot of 32 cycles: every bank closes but those row streams hold, and
writebacks of the channel issue. -/
def execChannelSlotBoundary (chan : Nat) (s : State) : Host.Outcome State Fault Refusal :=
  let d := chan / 64
  let ch := chan % 64
  let die := s.die d
  let k := s.clock / 32 % 64
  if 8 ≤ d ∨ tget 0 die.chanNow ch = k then .next s
  else
    let held := fun (b : Nat) => s.cores.any (fun e => e.2.rows.any (fun r => r.2.bank = some (d, ch, b)))
    let mine := fun (w : Nat × Nat) => let c := s.channelOf w.1; c.1 = d && c.2.1 = ch && die.mayIssue ch k (some w.2) && !s.bankBusy (some w.2) (s.bankOf w.1)
    .next (s.setDie d { die with
      chanNow := tput die.chanNow ch k
      openBanks := tput die.openBanks ch ((tget [] die.openBanks ch).filter held)
      writeback := takeWritebacks 11 mine die.writeback })

/-- SPILL_WRITEBACK_DONE: the former occupant of a spill way has reached DRAM, and the write that waited for it places its line there,
which is counted (R327); where another write waits for that line to go, its writeback begins. -/
def execSpillWritebackDone (die : Nat) (s : State) : Host.Outcome State Fault Refusal :=
  let d := s.die die
  let gone := fun (q : SpillReq) => !(d.writeback.any (fun w => w.1 = q.occ)) && !(d.spillWait.any (fun r => r.line.pa = q.occ))
  match d.spillWait.find? gone with
  | none => .next s
  | some q =>
    let idx := (s.saggerSet q.line.pa).2
    let next := d.spillWait.any (fun r => r.occ = q.line.pa)
    let pool := d.sagger.filter (fun l => l.way ≠ 15 || (s.saggerSet l.pa).2 ≠ idx)
    let s := (s.setDie die { d with
      sagger := if next then pool else pool ++ [q.line]
      writeback := d.writeback ++ (if next then writebacksOf [q.line] else [])
      spillWait := d.spillWait.filter (fun r => r.line.pa ≠ q.line.pa) }).countDie die 0
    .next (if next then s.leaveSagger [q.line] else s)

end Sys2Proof.Machine
end

