-- ==== Sys2Proof/Machine/Fabric.lean ====
section
/-! DEFINITION. Tenants' rectangles and channel reservations (13_fabric R349, R360 to R362), link frames, and the loss of the
source of device time (R359). -/

namespace Sys2Proof.Machine

/-! ### TENSET (R361) -/

/-- A rectangle lies within one partition (01_engines R29, R30). -/
def State.onePartition (s : State) (t : Tenant) : Bool :=
  s.disp.partitions.any (fun p => allClusters.all (fun cl => !t.holds cl || p.mask.testBit (cl / 8)))

/-- TENSET set: its status, and the state after it. -/
def State.placeTenant (s : State) (t : Nat) (r : Tenant) : Nat × State :=
  if (s.tenantSet t).isSome then (1, s)
  else if s.disp.tenants.any (fun e => allClusters.any (fun cl => e.2.holds cl && r.holds cl)) then (2, s)
  else if !s.onePartition r then (3, s)
  else
    -- the message strands of the tenant's cores are its (04_strand R135)
    let cores := (allClusters.filter r.holds).flatMap coresOfCluster
    (0, cores.foldl (fun s c => s.modSt (c * 8 + 4) (fun x => x.setCtl cTenant (word t)))
      { s with disp := { s.disp with tenants := tput s.disp.tenants t r } })

/-- The cores of a tenant that hold any state. -/
def State.coresOfTenant (s : State) (t : Nat) : List Nat := (s.cores.map (·.1)).filter (fun c => s.coreInTenant c t)

/-- Some strand on a core of a tenant is not FREE. -/
def State.tenantBusy (s : State) (t : Nat) : Bool :=
  (s.coresOfTenant t).any (fun c => (List.range 5).any (fun k => (s.st (c * 8 + k)).st != .free))

/-- A tenant's bits are cleared and its reservations freed. -/
def State.clearTenant (s : State) (t : Nat) : State :=
  { s with
    disp := { s.disp with tenants := tdel s.disp.tenants t }
    fabric := { s.fabric with vcres := tdel s.fabric.vcres t } }

/-- A tenant's word as TENSET gives it. -/
def Tenant.toWord (t : Tenant) : Word :=
  word (t.x0 + 2 ^ 4 * t.x1 + 2 ^ 8 * t.y0 + 2 ^ 10 * t.y1 + 2 ^ 12 * b2n t.remote)

/-- The rectangle a word describes; none where a field is out of bounds. -/
def tenantOfWord (x : Word) : Option Tenant :=
  let t : Tenant := { x0 := bits x 3 0, x1 := bits x 7 4, y0 := bits x 9 8, y1 := bits x 11 10, remote := bit x 12 }
  if bits x 63 13 = 0 ∧ t.x0 ≤ t.x1 ∧ t.y0 ≤ t.y1 then some t else none

/-- TENSET. -/
def execTenset (c b a : BitVec 5) (s : State) : Host.Outcome State Fault Refusal :=
  runAct (do
    ecMonitor (ecWord 0x73 2 0 a b c)
    let x := s.gr a
    let y := s.gr b
    let t := bits x 5 0
    let op := bits x 9 8
    if bits x 7 6 ≠ 0 ∨ bits x 63 10 ≠ 0 ∨ op = 3 then trap 5 xPerm x
    else if op = 0 then
      match tenantOfWord y with
      | none => trap 5 xPerm y
      | some r =>
        let (code, s') := (← get).placeTenant t r
        set s'
        doneWith c (word code) 4 1
    else if y ≠ 0 then trap 5 xPerm y
    else if op = 1 then
      if (s.tenantSet t).isNone then doneWith c 1 4 1
      else if s.tenantBusy t then doneWith c 2 4 1
      else
        waitUntil (fun s => !s.fabric.packets.any (fun p => p.tenant = t))
        change (fun s => s.clearTenant t)
        doneWith c 0 4 1
    else
      doneWith c (match s.tenantSet t with | some r => setBit r.toWord 63 true | none => 0) 4 1) s

/-! ### VCRES (R362) -/

/-- The reservations of the other tenants of a tenant's partition: only these share ports with it. -/
def State.otherRes (s : State) (t : Nat) : List (Nat × VcRes) :=
  s.fabric.vcres.filter (fun e => e.1 ≠ t && s.sameTenantPartition t e.1)

/-- No packet occupies a pair on the ports that a reservation of a tenant covers, as a freed pair becomes (R362): its core ports, or every
port of its partition. -/
def State.pairClear (s : State) (t : Nat) (core : Bool) (i : Nat) : Bool :=
  !s.fabric.packets.any (fun p =>
    (p.vc / 2 = 2 + i || (match p.ahead with | some (_, vc) => vc / 2 = 2 + i | none => false))
      && (if core then p.cls.coreGroup && s.routerOfTenant p.x p.y t
        else p.cls.memoryGroup && (s.partitionOfDie (s.tenantDie t)).mask.testBit (dieOfRouter (p.x, p.y))))

/-- The lowest pair index of a group that is free on every port covered.  Core ports of two tenants never coincide, and the
memory group covers every port of the partition. -/
def State.freePair (s : State) (t : Nat) (core : Bool) : Option Nat :=
  [0, 1].find? (fun i => s.pairClear t core i && (core || !(s.otherRes t).any (fun e => e.2.memory && e.2.memPair = i)))

/-- A mask meets another reservation's on some covered port. -/
def State.maskMeets (s : State) (t mask : Nat) (memory : Bool) : Bool :=
  (s.otherRes t).any (fun e => (memory || e.2.memory) && (e.2.mask &&& mask) != 0)

/-- VCRES reserve: its status, and the state after it. -/
def State.reservePairs (s : State) (t : Nat) (y : Word) : Nat × State :=
  let mask := bits y 15 0
  let core := bit y 16
  let memory := bit y 17
  let cp := if core then s.freePair t true else some 0
  let mp := if memory then s.freePair t false else some 0
  if (s.tenantSet t).isNone then (3, s)
  else if (tfind s.fabric.vcres t).isSome then (1, s)
  else
    match cp, mp with
    | some i, some j =>
      if s.maskMeets t mask memory then (4, s)
      else
        let r : VcRes := { mask := mask, core := core, memory := memory, corePair := i, memPair := j, live := false, frame := s.clock / 16 }
        (0, { s with fabric := { s.fabric with vcres := tput s.fabric.vcres t r } })
    | _, _ => (2, s)

/-- A reservation as VCRES query gives it. -/
def VcRes.toWord (r : VcRes) : Word :=
  word (r.mask + 2 ^ 16 * b2n r.core + 2 ^ 17 * b2n r.memory + 2 ^ 18 * (if r.core then r.corePair else 0)
    + 2 ^ 19 * (if r.memory then r.memPair else 0))

/-- The routers of a partition's dies. -/
def Partition.routers (p : Partition) : List (Nat × Nat) :=
  p.dies.flatMap (fun d => (List.range 16).map (fun i => ((dieCorner d).1 + i % 4, (dieCorner d).2 + i / 4)))

/-- VCRES. -/
def execVcres (c b a : BitVec 5) (s : State) : Host.Outcome State Fault Refusal :=
  runAct (do
    ecMonitor (ecWord 0x73 3 0 a b c)
    let x := s.gr a
    let y := s.gr b
    let t := bits x 5 0
    let op := bits x 9 8
    if bits x 7 6 ≠ 0 ∨ bits x 63 10 ≠ 0 ∨ (op = 3 ∧ t ≠ 0) then trap 5 xPerm x
    else if op = 0 then
      if bits y 63 18 ≠ 0 ∨ bit y 0 ∨ bits y 15 0 = 0 ∨ bits y 17 16 = 0 then trap 5 xPerm y
      else
        let (code, s') := (← get).reservePairs t y
        set s'
        doneWith c (word code) 4 1
    else if op = 3 then
      if bits y 63 10 ≠ 0 ∨ y = 0 then trap 5 xPerm y
      else
        let p := s.partitionOf s.curCore
        let (x0, y0) := dieCorner p.first
        change (fun s => { s with fabric := { s.fabric with
          escWait := p.routers.foldl (fun l r => tput l (r.2 * 16 + r.1) y.toNat) s.fabric.escWait } })
        doneWith c (word (s.escWait x0 y0)) 4 1
    else if y ≠ 0 then trap 5 xPerm y
    else if op = 1 then
      if (tfind s.fabric.vcres t).isNone then doneWith c 1 4 1
      else
        change (fun s => { s with fabric := { s.fabric with vcres := tdel s.fabric.vcres t } })
        doneWith c 0 4 1
    else
      doneWith c (match tfind s.fabric.vcres t with | some r => r.toWord | none => 0) 4 1) s

/-- LINK_FRAME_BOUNDARY: reservations made in an earlier frame of 16 cycles take effect (R349, R362). -/
def execLinkFrameBoundary (s : State) : Host.Outcome State Fault Refusal :=
  .next { s with fabric := { s.fabric with vcres := s.fabric.vcres.map (fun (e : Nat × VcRes) =>
    (e.1, { e.2 with live := e.2.live || decide (e.2.frame < s.clock / 16) })) } }

/-! ### Device time (R359) -/

/-- TIME_SYNC_LOSS: ctl.time runs on at its last rate, and the holdover is reported. -/
def execTimeSyncLoss (s : State) : Host.Outcome State Fault Refusal :=
  .next ({ s with devTime := { s.devTime with holdover := true, pps := false } }.svcEvent 5 0 0 0)

end Sys2Proof.Machine
end

