-- ==== Sys2Proof/Machine/Ctx.lean ====
section
/-! DEFINITION. The saved image of a strand, and CTXSAVE and CTXLOAD (04_strand R132, R133, 14_dispatch R370). -/

namespace Sys2Proof.Machine

/-! ### The layout (R133) -/

/-- The control registers of a save area after ctl.status, in their order. -/
def savedCtls : List Nat :=
  [cCause, cEpc, cTval, cTvec, cVepc, cVelem, cScratch, cIenable, cIpend, cTcmp, cMepc, cMcause, cMtval, cMtvec, cMscratch,
   cFflags, cFrm, cVl, cGrant, cMvl, cEplimit, cFewait, cStripaddr, cStripord, cPd, cInstret, cTenant, 0x2C0, 0x2C1, 0x240]

/-- A shadow header as a word (03_numbers R99). -/
def VHdr.toWord (h : VHdr) : Word :=
  word (h.efmt.toNat + 2 ^ 8 * h.slay.toNat + 2 ^ 12 * h.sfmt.toNat + 2 ^ 16 * h.spar.toNat + 2 ^ 20 * h.order.toNat
    + 2 ^ 24 * h.rawsz.toNat + 2 ^ 32 * h.count.toNat)

/-- The shadow header a word gives. -/
def vhdrOf (x : Word) : VHdr :=
  { efmt := BitVec.ofNat 8 (bits x 7 0), slay := BitVec.ofNat 4 (bits x 11 8), sfmt := BitVec.ofNat 4 (bits x 15 12),
    spar := BitVec.ofNat 4 (bits x 19 16), order := BitVec.ofNat 4 (bits x 23 20), rawsz := BitVec.ofNat 2 (bits x 25 24),
    count := BitVec.ofNat 16 (bits x 47 32) }

/-- A hold-buffer entry: 128 bytes. -/
def VEntry.image (e : VEntry) : List Byte :=
  leBytes 8 e.pc.toNat ++ leBytes 4 (wordOf e.ins).toNat ++ leBytes 4 1 ++ leBytes 8 e.vl
    ++ leBytes 8 (e.frm.toNat + 8 * (e.grant % 8) + 256 * e.lfmt.toNat)
    ++ (List.range 8).flatMap (fun i => leBytes 8 (lget (0 : Word) e.ox i).toNat)
    ++ leBytes 8 e.g1.toNat ++ leBytes 8 e.g2.toNat ++ leBytes 16 0

/-- The vector-stream instruction of a saved word. -/
def savedInstr (w : Nat) : Option Instr :=
  if w / 2 % 128 = 0x40 then none
  else
    match checked (decodeVectorForm w) with
    | .ok i => some i
    | .error _ =>
      match checked (decodeMajor34 w) with
      | .ok .fenceSv => some .fenceSv
      | .ok .fenceVs => some .fenceVs
      | .ok .fenceVv => some .fenceVv
      | _ => none

/-- The entry 128 bytes give, under the strand's domain (log 86): none where the slot is not valid. -/
def entryOfBytes (pd : Nat) (bs : List Byte) : Option VEntry :=
  let f := leField bs 24 8
  if leField bs 12 1 % 2 = 0 then none
  else (savedInstr (leField bs 8 4)).map (fun i =>
    { pc := word (leField bs 0 8) &&& ~~~1, ins := i, ox := (List.range 8).map (fun n => word (leField bs (32 + 8 * n) 8)),
      g1 := word (leField bs 96 8), g2 := word (leField bs 104 8), vl := leField bs 16 8, frm := BitVec.ofNat 3 f,
      grant := f / 8 % 8, lfmt := BitVec.ofNat 8 (f / 256), start := 0, pd := pd })

/-- The header of a save area. -/
def Strand.imageHead (t : Strand) (slot : Nat) : List Byte :=
  leBytes 4 0x1DC70001 ++ leBytes 4 12480
    ++ leBytes 8 (slot % 8 + 8 * b2n (t.st = .dropped) + 16 * b2n t.status.vhold)
    ++ leBytes 8 t.pc.toNat ++ leBytes 40 0

/-- The 12,480 bytes of a strand.  Entries of a queue that stopped with the strand are saved in the hold buffer. -/
def Strand.image (t : Strand) (slot : Nat) : List Byte :=
  let held := t.hold ++ t.vq
  t.imageHead slot
    ++ leBytes 8 ({ t.status with saveinc := false }).toWord.toNat
    ++ savedCtls.flatMap (fun n => leBytes 8 (t.ctl n).toNat) ++ leBytes 8 0
    ++ (List.range 64).flatMap (fun n => leBytes 8 (t.rd n).toNat)
    ++ (List.range 8).flatMap (fun n => leBytes 8 (t.oxr n).toNat)
    ++ (List.range 4).flatMap (fun n => leBytes 4 (t.efcr n).toNat) ++ leBytes 48 0
    ++ (List.range 32).flatMap (fun n => leBytes 8 (t.vhr n).toWord.toNat)
    ++ (List.range 32).flatMap (fun n => leBytes 32 (t.kr n).toNat)
    ++ (List.range 16).flatMap (fun n => match held[n]? with | some e => e.image | none => leBytes 128 0)
    ++ (List.range 32).flatMap (fun n => leBytes 256 (t.vr n).toNat)

/-- The strand an image gives, in RUN at its resume address; bits that a register holds as zero stay zero (log 39).  Entries of a queue
that a drop stopped, for which ctl.status shows no hold, return to the queue, the first at ctl.velem, so that the access that failed is
issued again (R132); a result the scalar stream awaits of them keeps it waiting (05_vector R144). -/
def strandOfImage (bs : List Byte) : Strand :=
  let w := fun (lo : Nat) => word (leField bs lo 8)
  let cr := (savedCtls.zip (List.range 30)).map (fun (e : Nat × Nat) => (e.1, w (0x48 + 8 * e.2) &&& ctlMask e.1))
  let st := { Status.ofWord (w 0x40) with vhold := bit (w 8) 4, saveinc := false }
  let held := (List.range 16).filterMap (fun n => entryOfBytes (leField bs (0x48 + 8 * 24) 2) ((bs.drop (0x8C0 + 128 * n)).take 128))
  let velem := leField bs (0x48 + 8 * 5) 8
  let t : Strand :=
    { st := .run
      pc := w 0x10 &&& ~~~1
      status := st
      g := tputs [] ((List.range 63).map (fun n => (n + 1, w (0x148 + 8 * n))))
      ox := tputs [] ((List.range 8).map (fun n => (n, w (0x340 + 8 * n))))
      efc := tputs [] ((List.range 4).map (fun n => (n, BitVec.ofNat 32 (leField bs (0x380 + 4 * n) 4))))
      vh := tputs [] ((List.range 32).map (fun n => (n, vhdrOf (w (0x3C0 + 8 * n)))))
      k := tputs [] ((List.range 31).map (fun n => (n + 1, BitVec.ofNat 256 (leField bs (0x4E0 + 32 * n) 32))))
      v := tputs [] ((List.range 32).map (fun n => (n, BitVec.ofNat 2048 (leField bs (0x10C0 + 256 * n) 256))))
      cr := tputs [] cr }
  if st.vhold then { t with hold := held }
  else { t with
    vq := match held with | [] => [] | e :: r => { e with start := velem } :: r
    wait := if held.any (fun e => awaited e.ins) then .vres else .none }

/-! ### CTXSAVE (R132) -/

/-- A strand holds a reservation: CTXSAVE of it returns 1, and a migration of its core waits (10_sync R284). -/
def State.holdsResv (s : State) (sid : Nat) : Bool := bit ((s.st sid).ctl cRsvhold) 0

/-- CTXSAVE of a strand would return 1. -/
def State.saveBusy (s : State) (sid : Nat) : Bool :=
  s.matrixPending sid || s.copyPending sid || (slotOfSid sid = 4 && (s.core (coreOfSid sid)).amRun.isSome) || s.holdsResv sid
    || (s.core (coreOfSid sid)).saveRec.isSome

/-- The strand can be held: its instruction in flight waits without effect, or for its own vector queue. -/
def Strand.holdable (t : Strand) : Bool := (t.abandonable || t.wait = .vres) && t.async.isEmpty

/-- A wait of a strand that is to be saved is withdrawn, a parked full/empty access with it; the resume address names it (R132). -/
def State.withdrawWait (s : State) (sid : Nat) : State := if (s.st sid).wait = .vres then s else s.abandon sid

/-- A running strand is held at its issue point (R106). -/
def State.holdStrand (s : State) (sid : Nat) : State :=
  ((s.withdrawWait sid).modSt sid (fun t => { t with st := .held, heldFrom := .run, replay := {} })).settleLanes sid

/-- A CTXSAVE that turns out busy lets its target go on. -/
def State.unholdStrand (s : State) (sid : Nat) : State :=
  s.modSt sid (fun t => if t.st = .held && !t.dbgHalted && !t.bpStop && t.heldFrom = .run then { t with st := .run } else t)

/-- The trap entries of a strand that wait for its issue point are completed (R132 step 2). -/
def State.enterPending (s : State) (sid : Nat) : State :=
  (s.st sid).async.foldl (fun s a =>
    match a with
    | .fault code detail tval => s.enter sid (causeWord false true false detail code) tval (s.st sid).pc
    | .vfault cause tval vepc velem =>
      (s.modSt sid (fun t => (t.setCtl cVepc vepc).setCtl cVelem velem)).enter sid cause tval (s.st sid).pc
    | .drop _ => s) (s.modSt sid (fun t => { t with async := [] }))

/-- The save slots are written in ascending order, word by word; where one fails, which word and how. -/
def saveSlots (w : Who) (area : Word) (k : Nat) (slots : List (List Byte)) : EStateM (Nat × AccErr) State Unit :=
  match slots with
  | [] => return ()
  | b :: r => do
    writeWords w area (8 * k) (List.range 8) b
    saveSlots w area (k + 1) r
where
  /-- Words of a slot from word `n` of the area on. -/
  writeWords (w : Who) (area : Word) (n : Nat) (is : List Nat) (b : List Byte) : EStateM (Nat × AccErr) State Unit :=
    match is with
    | [] => return ()
    | i :: is => do
      match writeMem w (area + word (8 * (n + i))) ((b.drop (8 * i)).take 8) .no (← get) with
      | .ok _ s' => set s'
      | .error e s' =>
        set s'
        throw (n + i, e)
      writeWords w area n is b

/-- A list of bytes in runs of 64. -/
def runs64 (n : Nat) (bs : List Byte) : List (List Byte) :=
  match n with
  | 0 => []
  | n + 1 => bs.take 64 :: runs64 n (bs.drop 64)

/-- The record of a save or load fault at word `n` of an area: type 4, level 7, the word's address, its slot as the progress
(07_translation R200). -/
def State.saveFault (s : State) (sid tenant kind n : Nat) (area : Word) : FaultRec :=
  { va := area + word (8 * n), sid := sid, tenant := tenant, type := 4, kind := kind, level := 7, progress := n / 8, time := word s.time }

/-- A member that is saved stays a member, under its save area (14_dispatch R370). -/
def State.memberSaved (s : State) (sid area : Nat) : State :=
  match (s.st sid).node with
  | none => s
  | some n =>
    { s with disp := { s.disp with
        nodes := s.disp.nodes.map (fun x => if x.id = n then
          { x with members := x.members.map (fun m => if m = (sid, 0) then (area, 1) else m) } else x)
        saved := (area, n, (s.st sid).farm) :: s.disp.saved.filter (fun e => e.1 ≠ area || e.2.1 ≠ n) } }

/-- A strand leaves its slot: the slot is FREE, its registers as they were, its lane clusters returned, nothing of it goes on. -/
def State.freeStrand (s : State) (sid : Nat) : State :=
  s.dropLanes sid (fun t => { t with
    st := .free, wait := .none, flying := none, moves := [], async := [], vq := [], hold := [], lanes := [], replay := {}, node := none
    farm := none, saveFail := false, dbgHalted := false, bpStop := false, bpArmed := none
    status := { t.status with saveinc := false, vhold := false } })

/-- CTXSAVE. -/
def execCtxsave (rd rs1 rs2 : BitVec 6) (s : State) : Host.Outcome State Fault Refusal :=
  runAct (do
    needSupervisor (.ctxsave rd rs1 rs2)
    let area := s.gr rs1
    let x := s.gr rs2
    let sid := s.curCore * 8 + bits x 2 0
    let t := s.st sid
    if area.toNat % 64 ≠ 0 then trap 0 xMisalign area
    else if bits x 63 3 ≠ 0 ∨ 4 < bits x 2 0 ∨ bits x 2 0 = s.curSlot ∨ t.st = .free then doneWith rd 3 4 1
    else if s.saveBusy sid then
      change (fun s => s.unholdStrand sid)
      doneWith rd 1 4 1
    else
      if t.st = .run then
        waitUntil (fun s => (s.st sid).holdable)
        change (fun s => s.holdStrand sid)
      else change (fun s => s.withdrawWait sid)
      waitUntil (fun s => !((s.st sid).st = .held && !(s.st sid).vq.isEmpty))
      change (fun s => s.enterPending sid)
      let s ← get
      let w := s.who s.curSid
      match saveSlots w area 0 (runs64 195 ((s.st sid).image (slotOfSid sid))) s with
      | .ok _ s' =>
        set (s'.copySourceOut s.curCore scP area.toNat 12480)
        waitUntil (fun s => !s.releasePending s.curCore)
        change (fun s => ((s.closeRowsOf sid).memberSaved sid area.toNat).freeStrand sid)
        doneWith rd 0 4 1
      | .error (k, e) s' =>
        set s'
        match e with
        | .retry => stall
        | .walker => failed .walker (area + word (8 * k)) 8
        | _ =>
          change (fun s =>
            let rec_ := s.saveFault sid (s.st sid).tenant 8 k area
            let s := (s.modSt sid (fun t => { t with
              st := .dropped, saveFail := true, status := { t.status with saveinc := true } })).settleLanes sid
            s.modCore s.curCore (fun c => { c with saveRec := some rec_ }))
          doneWith rd 2 4 1) s

/-! ### CTXLOAD (R132) -/

/-- The save slots are read in ascending order, word by word; where one fails, which word and how. -/
def loadSlots (w : Who) (area : Word) (ks : List Nat) : EStateM (Nat × AccErr) State (List Byte) :=
  match ks with
  | [] => return []
  | k :: r => do
    let b ← readWords w area (8 * k) (List.range 8)
    return b ++ (← loadSlots w area r)
where
  /-- Words of a slot from word `n` of the area on. -/
  readWords (w : Who) (area : Word) (n : Nat) (is : List Nat) : EStateM (Nat × AccErr) State (List Byte) :=
    match is with
    | [] => return []
    | i :: is => do
      let b ← (match readMem w (area + word (8 * (n + i))) 8 .no (← get) with
        | .ok b s' => do
          set s'
          return b
        | .error e s' => do
          set s'
          throw (n + i, e))
      return b ++ (← readWords w area n is)

/-- The loaded strand becomes the member its area was (14_dispatch R370). -/
def State.memberLoaded (s : State) (sid area : Nat) : State :=
  let tenant := (s.st sid).tenant
  match s.disp.saved.find? (fun e => e.1 = area && s.disp.nodes.any (fun n => n.id = e.2.1 && n.tenant = tenant)) with
  | none => s
  | some (_, n, seat) =>
    let join := fun (x : Node) => if x.id = n then
      { x with members := x.members.map (fun m => if m = (area, 1) then (sid, 0) else m) } else x
    let d := { s.disp with
      nodes := s.disp.nodes.map join
      saved := s.disp.saved.filter (fun e => e.1 ≠ area || e.2.1 ≠ n) }
    { s with disp := d }.modSt sid (fun t => { t with node := some n, farm := seat })

/-- An area's header is as R132 asks, and its saved ctl.tenant, in slot 4, is the core's tenant. -/
def headOk (bs : List Byte) : Bool := leField bs 0 4 = 0x1DC70001 && leField bs 4 4 = 12480
def State.tenantOk (s : State) (core : Nat) (slot4 : List Byte) : Bool :=
  s.clusterTenant (clusterOfCore core) = some (leField slot4 (0x48 + 8 * 26 - 0x100) 8 % 64)

/-- An area as CTXLOAD reads it: the header, the tenant, then all of it; none where one of the first two is not as R132 asks. -/
def loadArea (w : Who) (core : Nat) (area : Word) : EStateM (Nat × AccErr) State (Option (List Byte)) := do
  if !headOk (← loadSlots w area [0]) then return none
  else if !(← get).tenantOk core (← loadSlots w area [4]) then return none
  else return some (← loadSlots w area (List.range 195))

/-- CTXLOAD. -/
def execCtxload (rd rs1 rs2 : BitVec 6) (s : State) : Host.Outcome State Fault Refusal :=
  runAct (do
    needSupervisor (.ctxload rd rs1 rs2)
    let area := s.gr rs1
    let x := s.gr rs2
    let core := s.curCore
    let sid := core * 8 + bits x 2 0
    if area.toNat % 64 ≠ 0 then trap 0 xMisalign area
    else if bits x 63 3 ≠ 0 ∨ 4 < bits x 2 0 ∨ bits x 2 0 = s.curSlot then doneWith rd 3 4 1
    else if (s.st sid).st ≠ .free ∨ (s.core core).saveRec.isSome then doneWith rd 1 4 1
    else
      waitUntil drained
      change (fun s => s.acquire core scP 0)
      let s ← get
      match loadArea (s.who s.curSid) core area s with
      | .ok none s' =>
        set s'
        doneWith rd 3 4 1
      | .ok (some bs) s' =>
        set s'
        change (fun s =>
          let t := { strandOfImage bs with readyAt := s.cycleOf core + 1, slip := [(6, word (s.cycleOf core))] }
          (s.setSt sid t).memberLoaded sid area.toNat)
        doneWith rd 0 4 1
      | .error (k, e) s' =>
        set s'
        match e with
        | .retry => stall
        | .walker => failed .walker (area + word (8 * k)) 9
        | _ =>
          change (fun s => s.modCore core (fun c => { c with
            saveRec := some (s.saveFault sid s.cur.tenant 9 k area) }))
          doneWith rd 2 4 1) s

end Sys2Proof.Machine
end

