-- ==== Sys2Proof/Machine/Pool.lean ====
section
/-! DEFINITION. The dispatcher's ready pool: node records and their checks (14_dispatch R363, R364), the states of nodes
(R366), placement (R367 to R369), completion (R370, R371), and the launches of the firing table (R373). -/

namespace Sys2Proof.Machine

/-! ### Tenant descriptors (R374) -/

/-- A tenant's descriptor. -/
structure Descr where
  tvec : Word
  mtvec : Word
  pd : Nat
  ports : Nat
  valid : Bool
  area : Word
  slots : Nat
deriving DecidableEq, Repr

/-- A descriptor as the dispatcher reads it from the table at ctl.dtab; none where the read fails. -/
def State.descr (s : State) (t : Nat) : Option Descr × State :=
  match homeRead ((s.pctl 0x2C8).toNat + 64 * t) 64 0 s with
  | .error _ s' => (none, s')
  | .ok bs s' =>
    (some { tvec := word (leField bs 0 8), mtvec := word (leField bs 8 8), pd := leField bs 16 2, ports := leField bs 18 1 % 16,
            valid := (leField bs 18 1).testBit 7, area := word (leField bs 24 8), slots := min 4096 (leField bs 32 2) }, s')

/-! ### Node records (R363, R364) -/

/-- A node record. -/
structure NodeRec where
  entry : Word
  succ : Word
  key : Word
  preds : Nat
  tenant : Nat
  prio : Nat
  cls : Nat
  strands : Nat
  zero : Nat
  ops : List Word
deriving DecidableEq, Repr

/-- The record 64 bytes hold. -/
def recordOf (bs : List Byte) : NodeRec :=
  { entry := word (leField bs 0 8), succ := word (leField bs 8 8), key := word (leField bs 16 8), preds := leField bs 24 2,
    tenant := leField bs 26 1 % 64, prio := leField bs 26 1 / 64, cls := leField bs 27 1 % 4, strands := leField bs 27 1 / 4 % 8,
    zero := leField bs 27 1 / 32 + leField bs 28 4, ops := (List.range 4).map (fun i => word (leField bs (32 + 8 * i) 8)) }

/-- The count, strip and participants of a farm's second word (R363). -/
def farmCount (x : Word) : Nat := bits x 31 0
def farmStrip (x : Word) : Nat := bits x 47 32
def farmParts (x : Word) : Nat := bits x 57 48 + 1

/-- A farm word is outside its limits. -/
def farmBad (x : Word) : Bool := farmCount x = 0 || farmStrip x = 0 || bits x 63 58 != 0

/-- An operand word breaks R363. -/
def operandBad (x : Word) : Bool := bits x 63 58 != 0 || (bits x 57 56 = 0 && bits x 55 0 != 0)

/-- Check 1 of R364. -/
def NodeRec.malformed (r : NodeRec) : Bool :=
  let ops := if r.strands = 0 then r.ops.take 2 else r.ops
  r.zero != 0 || bits r.key 63 56 != 0 || bit r.entry 0 || r.cls = 3 || decide (4 < r.strands) || ops.any operandBad
    || (r.strands = 0 && farmBad (lget 0 r.ops 3))

/-- The node of a tenant that has a key. -/
def State.nodeByKey (s : State) (tenant key : Nat) : Option Node :=
  s.disp.nodes.find? (fun n => n.tenant = tenant && n.key = some key)

def State.node (s : State) (id : Nat) : Option Node := s.disp.nodes.find? (fun n => n.id = id)
def State.setNode (s : State) (n : Node) : State :=
  { s with disp := { s.disp with nodes := s.disp.nodes.map (fun x => if x.id = n.id then n else x) } }

/-- The checks of R364 in their order: the result code.  `issuer` is the tenant of a GSUB, `port` the aperture. -/
def State.checkRecord (s : State) (r : NodeRec) (key : Option Nat) (issuer port : Option Nat) : Nat × State :=
  if r.malformed then (2, s)
  else
    let (d, s) := s.descr r.tenant
    let okD := match d with
      | some d => d.valid && (match port with | some p => d.ports.testBit p | none => true)
      | none => false
    let okT := (s.tenantSet r.tenant).isSome && (match issuer with | some t => t = r.tenant | none => true)
    if !(okD && okT) then (3, s)
    else if (match key with | some k => (s.nodeByKey r.tenant k).isSome | none => false) then (4, s)
    else if 8192 ≤ s.disp.nodes.length then (1, s)
    else (0, s)

/-! ### States of a node (R366) -/

/-- A node becomes READY, behind those that were. -/
def State.makeReady (s : State) (n : Node) (front : Bool) : State :=
  let s := { s with disp := { s.disp with readyCount := s.disp.readyCount + 1 } }
  s.setNode { n with state := .ready, ready := s.disp.readyCount, front := front }

/-- A record enters the pool: its node's identity. -/
def State.enterNode (s : State) (r : NodeRec) (key : Option Nat) (front : Bool) : Nat × State :=
  let (id, s) := s.fresh
  let x := lget 0 r.ops 3
  let n : Node :=
    { id := id, key := key, tenant := r.tenant, prio := r.prio, cls := r.cls, strands := r.strands, entry := r.entry, succ := r.succ,
      preds := if front then 0 else r.preds, ops := r.ops, state := .waiting, ready := 0, front := false, waits := 0
      toPlace := if r.strands = 0 then (List.range (farmParts x)).map (fun i => (0, i, r.entry, r.cls)) else []
      members := [] }
  let s := { s with disp := { s.disp with nodes := s.disp.nodes ++ [n] } }
  (id, if n.preds = 0 then s.makeReady n front else s)

/-- A successor's predecessor has completed (R381): the node's count, or the count of decrements that found none. -/
def State.decrement (s : State) (tenant key : Nat) : State :=
  match s.nodeByKey tenant key with
  | some n =>
    if n.state = .waiting then
      let n := { n with preds := n.preds - 1 }
      if n.preds = 0 then s.makeReady n false else s.setNode n
    else { s with disp := { s.disp with orphan := s.disp.orphan + 1 } }
  | none => { s with disp := { s.disp with orphan := s.disp.orphan + 1 } }

/-! ### Where a node fits (R367) -/

/-- The class asked of a core, and the slots. -/
def Node.needs (n : Node) : Nat × Nat := match n.toPlace with | (_, _, _, c) :: _ => (c, 1) | [] => (n.cls, n.strands)

/-- A core is of a class. -/
def coreOfClass (core cls : Nat) : Bool := cls = 2 || (cls = 1) = isStreamCore core

/-- The compute slots of a core in state FREE, those that placement can take (R367, log 88). -/
def State.freeSlots (s : State) (core : Nat) : List Nat :=
  (List.range 4).filter (fun k => (s.st (core * 8 + k)).st = .free)

/-- A core holds a forwarding entry for a tenant. -/
def Core.forwards (c : Core) (tenant : Nat) : Bool := c.fwd.any (fun f => f.tenant = tenant)

/-- A node fits on a core. -/
def State.fits (s : State) (n : Node) (core : Nat) : Bool :=
  let (cls, need) := n.needs
  s.coreInTenant core n.tenant && coreOfClass core cls && decide (need ≤ (s.freeSlots core).length)
    && !(s.core core).forwards n.tenant && !(s.core core).moving && s.halts.isEmpty

/-- The farm table has a free handle, if the node needs one. -/
def State.handleFree (s : State) (n : Node) : Bool :=
  match n.toPlace with
  | (0, _, _, _) :: _ => decide (s.disp.farms.length < 256)
  | _ => true

/-- The router of the unit that holds an operand's first byte; none where it adds nothing. -/
def State.operandRouter (s : State) (core addr : Nat) : Option (Nat × Nat) :=
  -- a strand slot that no strand has: no strand's renaming of cores applies (01_engines R35)
  match s.placeOf { core := core, sid := core * 8 + 7, pd := 0, tenant := 0, mode := .monitor } addr with
  | some .translated =>
    match walk core addr s with
    | .ok (.leaf lo hi pa l) _ =>
      let e := entryOf lo hi pa l addr
      let (d, u) := s.sliceOf (e.paOf (s.partitionOf core) addr)
      some (routerOf (unitSlice d u))
    | _ => none
  | some _ =>
    if selfBase ≤ addr then none
    else
      let u := addr / 2 ^ 28 % 1024
      some (routerOf (if u % 16 = 15 then unitBank (u / 128) (addr % 2 ^ 28 / 2 ^ 21 % 16) else u))
  | none => none

/-- The cost of a node on a core. -/
def State.placeCost (s : State) (n : Node) (core : Nat) : Nat :=
  ((if n.strands = 0 then n.ops.take 2 else n.ops).map (fun x =>
    let w := match bits x 57 56 with | 0 => 0 | 1 => 1 | _ => 2
    if w = 0 then 0
    else match s.operandRouter core (bits x 55 0) with
      | some r => w * hops (routerOf core) r
      | none => 0)).foldl (· + ·) 0

/-- Participants of a farm on a core. -/
def State.seatsOn (s : State) (n : Node) (handle core : Nat) : Nat :=
  (n.members.filter (fun m => m.2 = 0 && coreOfSid m.1 = core
    && (match (s.st m.1).farm with | some f => f.farm = handle | none => false))).length

/-- The core a node is placed on: fewest participants of its farm, least cost, lowest ctl.coreid. -/
def State.bestCore (s : State) (n : Node) : Option Nat :=
  let cores := if s.handleFree n then allCores.filter (s.fits n) else []
  let score : Nat → Nat × Nat := fun c => match n.toPlace with
    | (h, _, _, _) :: _ => (if h = 0 then 0 else s.seatsOn n h c, s.placeCost n c)
    | [] => (0, s.placeCost n c)
  cores.foldl (fun (b : Option Nat) c => match b with
    | none => some c
    | some x => if (score c).1 < (score x).1 ∨ ((score c).1 = (score x).1 ∧ (score c).2 < (score x).2) then some c else b) none

/-! ### Starting a strand (R369) -/

/-- The strand as placement makes it: its first SETVL has strip ordinal 0 (05_vector R139). -/
def newStrand (n : Node) (d : Descr) (entry : Word) (idx handle cycle : Nat) (seat : Option FarmSeat) : Strand :=
  let key := n.key.getD 0
  let op := fun (i : Nat) => if n.strands = 0 ∧ 2 ≤ i then (0 : Word) else word (bits (lget 0 n.ops i) 55 0)
  let t : Strand :=
    { st := .run, pc := entry, status := { mode := .task }, readyAt := cycle + 1, node := some n.id, farm := seat
      slip := [(6, word cycle)]
      cr := tputs [] [(cTenant, word n.tenant), (cPd, word d.pd), (cTvec, d.tvec &&& ~~~1),
        (cMtvec, d.mtvec &&& ~~~1), (0x2C0, word (2 ^ 63 + key)),
        (cStripord, 0xFFFFFFFFFFFFFFFF)] }
  ((((((t.wr 3 (word key)).wr 4 (word idx)).wr 5 (op 0)).wr 6 (op 1)).wr 7 (op 2)).wr 8 (op 3)).wr 9 (word handle)

/-- A strand of a node starts in a slot; its core first acquires at package scope. -/
def State.startStrand (s : State) (sid : Nat) (n : Node) (d : Descr) (entry : Word) (idx handle : Nat) (seat : Option FarmSeat) :
    State :=
  (s.setSt sid (newStrand n d entry idx handle (s.cycleOf (coreOfSid sid)) seat)).acquire (coreOfSid sid) scP 0

/-- The lowest free farm handle. -/
def State.newHandle (s : State) : Nat := ((List.range 256).map (· + 1)).find? (fun h => (tfind s.disp.farms h).isNone) |>.getD 0

/-- One farm participant, the first of those that wait, is placed. -/
def State.placeSeat (s : State) (n : Node) (d : Descr) (core : Nat) : State :=
  match n.toPlace with
  | [] => s
  | (h0, idx, entry, cls) :: rest =>
    let h := if h0 = 0 then s.newHandle else h0
    let x := lget 0 n.ops 3
    let farm : Farm :=
      { node := n.id, base := lget 0 n.ops 2, count := farmCount x, strip := farmStrip x, parts := farmParts x, next := 0, ended := [] }
    let s := if h0 = 0 then { s with disp := { s.disp with farms := tput s.disp.farms h farm } } else s
    let sid := core * 8 + lget 0 (s.freeSlots core) 0
    let rest := if h0 = 0 then rest.map (fun p => (if p.1 = 0 then h else p.1, p.2)) else rest
    let _ := cls
    let n := { n with state := .running, toPlace := rest, members := n.members ++ [(sid, 0)] }
    (s.setNode n).startStrand sid n d entry idx h (some { farm := h, part := idx, ended := false })

/-- A plain node's strands take the lowest free slots of its core. -/
def State.placeNode (s : State) (n : Node) (d : Descr) (core : Nat) : State :=
  let sids := ((s.freeSlots core).take n.strands).map (fun k => core * 8 + k)
  let n := { n with state := .running, members := sids.map (fun i => (i, 0)) }
  (sids.zip (List.range sids.length)).foldl (fun s e => s.startStrand e.1 n d n.entry e.2 0 none) (s.setNode n)

/-! ### A placement decision (R368) -/

/-- Nodes that can be placed: READY ones, and RUNNING ones with participants still to place. -/
def State.placeable (s : State) : List Node :=
  s.disp.nodes.filter (fun n => n.state = .ready || (n.state = .running && !n.toPlace.isEmpty))

/-- A node was READY before another; a firing instance goes ahead of every other (R373). -/
def Node.before (a b : Node) : Bool :=
  if a.front && b.front then decide (b.ready < a.ready)
  else if a.front != b.front then a.front
  else decide (a.ready < b.ready)

/-- The first of a list by an order. -/
def firstBy (lt : Node → Node → Bool) (l : List Node) : Option Node :=
  l.foldl (fun b n => match b with | none => some n | some x => if lt n x then some n else b) none

/-- The node a decision takes at a priority, among those that fit: the oldest overdue one, or the first of the next tenant
in the round. -/
def State.chooseNode (s : State) (p : Nat) (fitting : List Node) : Option (Node × Bool) :=
  match firstBy (fun a b => decide (a.ready < b.ready)) (fitting.filter (fun n => decide (4096 ≤ n.waits))) with
  | some n => some (n, true)
  | none =>
    let last := tget 63 s.disp.served p
    match ((List.range 64).map (fun i => (last + 1 + i) % 64)).find? (fun t => fitting.any (fun n => n.tenant = t)) with
    | some t => (firstBy Node.before (fitting.filter (fun n => n.tenant = t))).map (fun n => (n, false))
    | none => none

/-- The chosen node is placed, and those of its priority that fitted wait one decision more. -/
def State.decide_ (s : State) (p : Nat) (fitting : List Node) (n : Node) (overdue : Bool) : State :=
  match s.bestCore n, s.descr n.tenant with
  | some core, (some d, s) =>
    let others := fitting.filter (fun x => x.id ≠ n.id)
    let s := others.foldl (fun s x => s.setNode { x with waits := x.waits + 1 }) s
    let s := if overdue then s else { s with disp := { s.disp with served := tput s.disp.served p n.tenant } }
    if n.toPlace.isEmpty then s.placeNode n d core else s.placeSeat n d core
  | _, (_, s) => s

/-- The priorities from 3 down: the first at which some node fits. -/
def State.decideFrom (s : State) (ps : List Nat) : State :=
  match ps with
  | [] => s
  | p :: r =>
    let fitting := s.placeable.filter (fun n => n.prio = p && (s.bestCore n).isSome)
    match s.chooseNode p fitting with
    | some (n, overdue) => s.decide_ p fitting n overdue
    | none => s.decideFrom r

/-- PLACEMENT_DECISION: at most one every 16 cycles. -/
def execPlacementDecision (s : State) : Host.Outcome State Fault Refusal :=
  if s.clock < s.disp.decideAt then .next s
  else .next ({ s with disp := { s.disp with decideAt := s.clock + 16 } }.decideFrom [3, 2, 1, 0])

/-! ### The firing table (R373) -/

/-- The strand on whose behalf the dispatcher reads for a tenant: under the tenant's domain, through its lowest core. -/
def State.tenantWho (s : State) (t : Nat) (d : Descr) : Who :=
  let core := (allCores.find? (fun c => s.coreInTenant c t)).getD 0
  { core := core, sid := core * 8, pd := d.pd, tenant := t, mode := .task }

/-- The page of an address for the dispatcher, whose walk is made in the step that needs it. -/
def walkNow (w : Who) (ea : Nat) : Acc TlbEntry := do
  match ← walk w.core ea with
  | .fault t l => throw (.page t l 0)
  | .leaf lo hi pa level => useLeaf w ea lo hi pa level

/-- 64 bytes as their home slice, or the scratchpad that holds them, has them. -/
def readHome (w : Who) (p : Place) (ea n : Nat) : Acc (List Byte) := do
  match p with
  | .translated =>
    let t ← walkNow w ea
    homeRead (t.paOf ((← get).partitionOf w.core) ea) n t.key
  | p => loadBytes w p ea n .no

/-- A firing entry launches its record: an anonymous node, READY ahead of the others of its tenant and priority. -/
def State.launch (s : State) (idx : Nat) (e : FireEntry) : State :=
  let fail := fun (s : State) (code : Nat) =>
    { s with disp := { s.disp with firing := tput s.disp.firing idx { e with last := code, skip := e.skip + 1 } } }
  match s.descr e.tenant with
  | (none, s) => fail s 3
  | (some d, s) =>
    let w := s.tenantWho e.tenant d
    let read : Acc (List Byte) := do
      let p ← checkAccess w e.record 64 needR
      readHome w p e.record.toNat 64
    match read s with
    | .error _ s => fail s 5
    | .ok bs s =>
      let r := recordOf bs
      let (code, s) := s.checkRecord r none none none
      if code ≠ 0 then fail s code
      else
        let (id, s) := s.enterNode r none true
        { s with disp := { s.disp with firing := tput s.disp.firing idx { e with last := 0, inst := some id } } }

/-! ### Completion (R370, R381) -/

/-- The strands that wait for a node acquire and go on. -/
def State.serveGwaits (s : State) (id : Nat) : State :=
  s.liveSids.foldl (fun s sid =>
    match (s.st sid).wait with
    | .gwait n rd => if n = id then (s.acquire (coreOfSid sid) scP 0).finish sid rd 0 else s
    | _ => s) s

/-- The firing entry whose running instance has completed: a pending one is launched. -/
def State.instanceDone (s : State) (id : Nat) : State :=
  s.disp.firing.foldl (fun s f =>
    if f.2.inst = some id then
      let e := { f.2 with inst := none, pending := false }
      let s := { s with disp := { s.disp with firing := tput s.disp.firing f.1 e } }
      if f.2.pending && (s.tenantSet e.tenant).isSome then s.launch f.1 e else s
    else s) s

/-- A node completes: its successors, its removal, its farms' handles, those who waited for it. -/
def State.completeNode (s : State) (n : Node) (keys : List Nat) : State :=
  let s := keys.foldl (fun s k => s.decrement n.tenant k) s
  let d := { s.disp with
    nodes := s.disp.nodes.filter (fun x => x.id ≠ n.id)
    farms := s.disp.farms.filter (fun f => f.2.node ≠ n.id)
    saved := s.disp.saved.filter (fun e => e.2.1 ≠ n.id) }
  ({ s with disp := d }.serveGwaits n.id).instanceDone n.id

end Sys2Proof.Machine
end

