-- ==== Sys2Proof/Machine/Migrate.lean ====
section
/-! DEFINITION. Live migration and parking (14_dispatch R376 to R378), MIGR (R384), and the step that moves a core's state. -/

namespace Sys2Proof.Machine

/-! ### Starting (R376, R384) -/

/-- A core holds a strand of a tenant. -/
def State.holdsStrand (s : State) (core tenant : Nat) : Bool :=
  (List.range 4).any (fun k => let t := s.st (core * 8 + k); t.st != .free && t.tenant = tenant)

/-- A core can take the state of another of its class. -/
def State.canHost (s : State) (tenant : Nat) (stream : Bool) (core : Nat) : Bool :=
  let c := s.core core
  s.coreInTenant core tenant && isStreamCore core = stream && (List.range 5).all (fun k => (c.strand k).st = .free)
    && c.amq.isEmpty && c.mbHi.isEmpty && c.mbLo.isEmpty && c.parked.isEmpty && c.copies.isEmpty && c.mq.isEmpty
    && !c.forwards tenant && !c.moving && s.halts.isEmpty

/-- The target a word names, or the lowest core that can be one. -/
def State.chooseTarget (s : State) (tenant : Nat) (stream : Bool) (x : Word) : Option Nat :=
  if x = 0 then allCores.find? (s.canHost tenant stream)
  else if bits x 63 20 = 0 && bits x 19 10 = s.pkg % 1024 && s.canHost tenant stream (bits x 9 0) then some (bits x 9 0)
  else none

/-- A strand of a core whose CTXSAVE has failed (04_strand R132). -/
def State.saveincOn (s : State) (core : Nat) : Bool := (List.range 5).any (fun k => (s.st (core * 8 + k)).status.saveinc)

/-- A migration enters the dispatcher's list: its identity. -/
def State.beginMigration (s : State) (src dst tenant kind slotNo : Nat) : Nat × State :=
  let (id, s) := s.fresh
  let m : Migration := { id := id, src := src, dst := dst, tenant := tenant, kind := kind, slotNo := slotNo }
  let s := if kind = 2 then s else s.modCore src (fun c => { c with moving := true })
  let s := if kind = 1 then s else s.modCore dst (fun c => { c with moving := true })
  (id, { s with disp := { s.disp with migrations := s.disp.migrations ++ [m] } })

/-- Migration: the result code, or the identity of the one begun. -/
def State.startMigrate (s : State) (tenant src : Nat) (target : Word) : Except Nat (Nat × State) :=
  if !s.holdsStrand src tenant then .error 1
  else
    match (if (s.core src).moving then none else s.chooseTarget tenant (isStreamCore src) target) with
    | none => .error 2
    | some dst =>
      if 8 ≤ (s.core src).fwd.length then .error 3
      else if s.saveincOn src then .error 4
      else .ok (s.beginMigration src dst tenant 0 0)

/-- The lowest free parking slot of a tenant. -/
def State.freeParkSlot (s : State) (tenant slots : Nat) : Option Nat :=
  firstBelow slots (fun n => !s.disp.parked.any (fun p => p.tenant = tenant && p.slotNo = n)
    && !s.disp.migrations.any (fun m => m.kind = 1 && m.tenant = tenant && m.slotNo = n))

/-- Parking: the result code, or the identity of the one begun. -/
def State.startPark (s : State) (tenant src : Nat) : Except Nat (Nat × State) :=
  let slots := match (s.descr tenant).1 with | some d => d.slots | none => 0
  if !s.holdsStrand src tenant || (s.core src).moving then .error 1
  else if 8 ≤ (s.core src).fwd.length then .error 3
  else if s.saveincOn src then .error 4
  else
    match s.freeParkSlot tenant slots with
    | none => .error 5
    | some n => .ok (s.beginMigration src 0 tenant 1 n)

/-! ### Holding the strands (R376 steps 1 and 2) -/

/-- A strand waits for a migration. -/
def Wait.forMigration (w : Wait) : Bool := match w with | .migr _ _ => true | _ => false

/-- A compute strand of a moving core is held at its issue point, unless it holds a reservation. -/
def State.holdMoving (s : State) (sid : Nat) : State :=
  let t := s.st sid
  if t.st ≠ .run ∨ s.holdsResv sid then s
  else if t.wait.forMigration then s.modSt sid (fun t => { t with st := .held, heldFrom := .run })
  else if t.holdable then s.holdStrand sid
  else s

/-- Every condition of step 2 holds, and nothing of the core is under way in its old name. -/
def State.canMove (s : State) (m : Migration) : Bool :=
  let c := s.core m.src
  (List.range 4).all (fun k => let t := c.strand k; t.st != .run && !(t.st = .held && !t.vq.isEmpty))
    && c.mq.isEmpty && !c.copies.any (fun e => decide (2 ≤ e.2.kind) || !e.2.late.isEmpty) && !(List.range 5).any (fun k => s.holdsResv (m.src * 8 + k))
    && c.amRun.isNone
    && (m.kind = 1 || clusterOfCore m.src = clusterOfCore m.dst || !(s.cluster (clusterOfCore m.src)).bars.any (fun b => b.2.valid))
    && !s.openUpdates.any (fun u => u.core = m.src) && !s.saveincOn m.src

/-! ### What is carried (R376 step 3) -/

/-- A byte of a core's scratchpad is carried: its bank is set in ctl.spalloc. -/
def carries (banks base a : Nat) : Bool := decide (base ≤ a ∧ a < base + 0x80000) && banks.testBit ((a - base) / 0x8000)

/-- The state of a core as it leaves it. -/
def State.bundle (s : State) (tenant slotNo src : Nat) : ParkedCore :=
  let c := s.core src
  let banks := bits (c.ctl 0x2C3) 15 0
  let base := s.padAddr src 0
  { tenant := tenant, slotNo := slotNo, src := src, core := c,
    mem := (s.mem.filter (fun e => carries banks base e.1)).map (fun e => (e.1 - base, e.2)),
    full := (s.full.filter (fun a => carries banks base a)).map (fun a => a - base), woken := [] }

/-- A strand as it goes on at its new core: one the move held runs again; its element-progress timer reads 0 (05_vector R141). -/
def Strand.moved (t : Strand) (cycle : Nat) : Strand :=
  let st := if t.st = .held && !t.dbgHalted && !t.bpStop && t.heldFrom = .run then .run else t.st
  { t.noLanes.setCtl cEptime 0 with
    st := st, replay := {}, readyAt := cycle + 1, slip := [(6, word cycle)], issued := false, loadOut := false }

/-- A strand moved from one core to another: the addresses that named the old core's scratchpad name the new one's for it (R35). -/
def Strand.renamed (t : Strand) (src dst : Nat) : Strand :=
  let older := (t.moves.map (fun m => (m.1, if m.2 = src then dst else m.2))).filter (fun m => m.1 ≠ src && m.1 ≠ m.2)
  { t with moves := if src = dst then older else (src, dst) :: older }

/-- The old core when its state has left: its caches as 11_home R305 leaves them, its row streams closed (09_copy R269), its strands and
engines empty, and no accumulator locked (08_matrix R209). -/
def State.vacate (s : State) (src : Nat) : State :=
  let s := (List.range 5).foldl (fun s k => (s.leaveWalks (src * 8 + k)).dropLanes (src * 8 + k) Strand.noLanes) s
  let s := s.modCluster (clusterOfCore src) (fun cl => { cl with laneOrder := cl.laneOrder.filter (fun r => r.core ≠ src) })
  let c := s.core src
  let t4 : Strand := { cr := tputs [] [(cTenant, (c.strand 4).ctl cTenant)] }
  s.setCore src { c with
    strands := [(4, t4)], l1 := [], rvq := [], rvqOvf := false, fills := [], copies := [], cbs := [], rows := [], mbHi := [], mbLo := []
    mbWait := [], amq := [], amRun := none, parked := c.parked.filter (fun r => 0x80000 ≤ r.addr % 2 ^ 28), moving := false }.relock

/-- Parked requests for a core's own scratchpad go with it, under its new number. -/
def movedRequests (l : List FeReq) (src dst : Nat) : List FeReq :=
  (l.filter (fun r => decide (r.addr % 2 ^ 28 < 0x80000))).map (fun r => { r with addr := rebase r.addr src dst })

/-- The carried state arrives at its new core, whose own caches are first released and then empty; what its queues hold already stands behind
what has come. -/
def State.land (s : State) (b : ParkedCore) (dst : Nat) : State :=
  let s := s.release dst scP 0
  let c := b.core
  let d := s.core dst
  let cycle := s.cycleOf dst
  let banks := bits (c.ctl 0x2C3) 15 0
  let base := s.padAddr dst 0
  let strands := (List.range 5).map (fun k => (k, ((c.strand k).moved cycle).renamed b.src dst))
  let cr := [cAmtab, cIroute0, cIroute1, 0x2C3].foldl (fun (x : Core) n => x.setCtl n (c.ctl n)) d
  let s := s.setCore dst { cr with
    strands := strands, acc := c.acc, accHdr := c.accHdr, copies := c.copies, lfmt := c.lfmt, cbs := c.cbs, mbHi := c.mbHi ++ d.mbHi
    mbLo := c.mbLo ++ d.mbLo, amq := c.amq ++ d.amq, parked := d.parked ++ movedRequests c.parked b.src dst, l1 := [], rvq := [], rvqOvf := false, moving := false }
  let kept := s.mem.filter (fun e => !carries banks base e.1)
  { s with
    mem := b.mem.foldl (fun m e => mput m (base + e.1) e.2) kept
    full := s.full.filter (fun a => !carries banks base a) ++ b.full.map (fun a => base + a) }

/-! ### Names that change -/

/-- Members of nodes take other names. -/
def State.renameMembers (s : State) (f : Nat → Nat × Nat → Nat × Nat) : State :=
  { s with disp := { s.disp with
      nodes := s.disp.nodes.map (fun (n : Node) => { n with members := n.members.map (f n.tenant) }) } }

/-- Breakpoints and armed captures keep the strand that set them. -/
def State.renameSetters (s : State) (src dst : Nat) : State :=
  let name := fun (x : Nat) => if coreOfSid x = src then dst * 8 + slotOfSid x else x
  { s with cores := s.cores.map (fun (e : Nat × Core) => (e.1, { e.2 with
      strands := e.2.strands.map (fun (t : Nat × Strand) => (t.1, { t.2 with brkBy := name t.2.brkBy }))
      bps := e.2.bps.map (fun (b : Nat × Breakpoint) => (b.1, { b.2 with setter := name b.2.setter })) })) }

/-- The forwarding entries for a tenant that name a core name its target instead (R377). -/
def State.retarget (s : State) (tenant src dst : Nat) : State :=
  { s with cores := s.cores.map (fun (e : Nat × Core) => (e.1, { e.2 with
      fwd := e.2.fwd.map (fun (f : FwdEntry) => if f.tenant = tenant && !f.held && f.target = src then { f with target := dst } else f) })) }

/-- A core installs a forwarding entry. -/
def State.addForward (s : State) (core : Nat) (f : FwdEntry) : State := s.modCore core (fun c => { c with fwd := c.fwd ++ [f] })

/-- The strand that commanded a migration goes on. -/
def State.finishMigration (s : State) (id code : Nat) : State :=
  let s := s.liveSids.foldl (fun s sid =>
    match (s.st sid).wait with
    | .migr i rd => if i = id then s.finish sid rd (word code) else s
    | _ => s) s
  { s with disp := { s.disp with migrations := s.disp.migrations.filter (fun m => m.id ≠ id) } }

/-! ### Migration (R376 steps 3 to 6) -/

def State.migrateNow (s : State) (m : Migration) : State :=
  let s := s.finishMigration m.id 0
  let b := s.bundle m.tenant 0 m.src
  let s := (s.vacate m.src).land b m.dst
  let s := s.retarget m.tenant m.src m.dst
  let s := s.addForward m.src { tenant := m.tenant, target := m.dst, held := false }
  let s := s.renameSetters m.src m.dst
  s.renameMembers (fun _ x => if x.2 = 0 && coreOfSid x.1 = m.src then (m.dst * 8 + slotOfSid x.1, 0) else x)

/-- A core's state moves to the spare that takes its number (17_service R426): no name changes and nothing is forwarded; of
the scratchpad only the banks in ctl.spalloc move, the others hold what a scratchpad holds after reset. -/
def State.retireNow (s : State) (m : Migration) : State :=
  let s := s.finishMigration m.id 0
  let b := s.bundle m.tenant 0 m.src
  let s := (s.vacate m.src).land b m.src
  let base := s.padAddr m.src 0
  let banks := bits (b.core.ctl 0x2C3) 15 0
  let lost := fun (a : Nat) => decide (base ≤ a ∧ a < base + 0x80000) && !carries banks base a
  let s := { s with mem := s.mem.filter (fun e => !lost e.1), full := s.full.filter (fun a => !lost a)
                    flawed := s.flawed.filter (fun a => !decide (base ≤ a ∧ a < base + 0x80000)) }
  s.unitRetired 3 m.src

/-! ### Parking (R378) -/

/-- The strands a bundle holds, as a mask. -/
def ParkedCore.mask (b : ParkedCore) : Nat :=
  ((List.range 5).map (fun k => if (b.core.strand k).st = .free then 0 else 2 ^ k)).foldl (· + ·) 0

/-- The key of the node of its lowest strand. -/
def State.bundleKey (s : State) (b : ParkedCore) : Nat :=
  match (List.range 4).find? (fun k => (b.core.strand k).node.isSome) with
  | some k => (((b.core.strand k).node.bind s.node).bind (·.key)).getD 0
  | none => 0

/-- A queued message as 128 bytes: message, sender, order word. -/
def queuedImage (bs : List Byte) (sender order : Nat) : List Byte :=
  (bs ++ leBytes 64 0).take 64 ++ leBytes 8 sender ++ leBytes 8 order ++ leBytes 48 0

/-- Sixteen queued messages. -/
def queueImage (l : List (List Byte × Nat × Nat)) : List Byte :=
  (List.range 16).flatMap (fun i => match l[i]? with | some (b, x, o) => queuedImage b x o | none => leBytes 128 0)

/-- The contents of a parking slot, by offset. -/
def State.slotAreas (s : State) (b : ParkedCore) : List (Nat × List Byte) :=
  let c := b.core
  let am := (c.amq.zip (List.range c.amq.length)).map (fun e => (e.1.reply, (e.1.bytes b.src, e.1.sender, e.2)))
  let mb := fun (l : List MbMsg) => (l.zip (List.range l.length)).map (fun e => (e.1.data, e.1.sender, e.2))
  let fe := fun (r : FeReq) => leBytes 8 r.addr ++ leBytes 8 (s.strandId r.sid).toNat
    ++ leBytes 8 (match r.kind with | .ldfe => 0 | .ldff => 1 | _ => 2) ++ leBytes 8 r.data.toNat
  [(0, leBytes 4 0x1DC700FA ++ leBytes 4 ((s.coreId b.src).toNat + 2 ^ 24 * b.mask) ++ leBytes 8 (s.bundleKey b) ++ leBytes 48 0),
   (0x40, (List.range 5).flatMap (fun k => (c.strand k).image k)),
   (0x10000, (List.range 256).flatMap (fun r => leBytes 256 (tget (0 : BitVec 2048) c.acc r).toNat)),
   (0x20000, (List.range 4).flatMap (fun n => (c.accHeader n).bytes)),
   (0x21000, (List.range 16).flatMap (fun n => copyBytes (s.copyCode b.src) (tfind c.copies n))),
   (0x21400, (List.range 16).flatMap (fun n => leBytes 8 (tget (0 : Word) c.lfmt n).toNat)),
   (0x21800, (List.range 8).flatMap (fun n => (tget ({} : CbDesc) c.cbs n).bytes)),
   (0x22000, (List.range 8192).map (fun i =>
      BitVec.ofNat 8 (((List.range 8).map (fun k => if b.full.contains (8 * (8 * i + k)) then 2 ^ k else 0)).foldl (· + ·) 0))),
   (0x24000, queueImage (mb c.mbHi) ++ queueImage (mb c.mbLo)
      ++ queueImage ((am.filter (fun e => !e.1)).map (·.2)) ++ queueImage ((am.filter (fun e => e.1)).map (·.2))),
   (0x26000, (List.range 64).flatMap (fun i => match (c.parked.filter (fun r => decide (r.addr % 2 ^ 28 < 0x80000)))[i]? with
      | some r => fe r | none => leBytes 32 0))]
  ++ ((List.range 16).filter (fun n => (c.ctl 0x2C3).toNat.testBit n)).map (fun n =>
      (0x80000 + 0x8000 * n, (List.range 0x8000).map (fun i => tget (0 : Byte) b.mem (0x8000 * n + i))))

/-- An atom of a parking slot is written at its home, whole, so that it is poisoned no longer (12_sagger R329); where no leaf names it, it
is lost. -/
def State.putSlotAtom (s : State) (w : Who) (va : Nat) (bs : List Byte) : State :=
  let page : Acc TlbEntry := do
    let t ← walkNow w va
    return (← touch w t true .no).getD t
  match page s with
  | .ok t s' =>
    let pa := t.paOf (s'.partitionOf w.core) va
    let s' := s'.clearCovered ((List.range 4).map (fun i => (pa + 8 * i, (0xFF : BitVec 8)))) t.key w.tenant
    (List.range 4).foldl (fun s i => s.arriveHome (pa + 8 * i) 0xFF (word (leField bs (8 * i) 8)) none t.key w.tenant) s'
  | .error _ s' => s'

/-- The slot is written, area by area: each is whole atoms. -/
def State.writeSlot (s : State) (w : Who) (base : Nat) (areas : List (Nat × List Byte)) : State :=
  areas.foldl (fun s a =>
    (List.range (a.2.length / 32)).foldl (fun s i => s.putSlotAtom w (base + a.1 + 32 * i) ((a.2.drop (32 * i)).take 32)) s) s

/-- The core's state has left for its slot: a held entry stands at the source. -/
def State.parkNow (s : State) (m : Migration) : State :=
  let s := s.finishMigration m.id 0
  let b := s.bundle m.tenant m.slotNo m.src
  let s := s.vacate m.src
  let (d, s) := s.descr m.tenant
  let s := match d with
    | some d => s.writeSlot (s.tenantWho m.tenant d) (d.area.toNat + 2 ^ 20 * m.slotNo) (s.slotAreas b)
    | none => s
  let s := s.addForward m.src { tenant := m.tenant, target := m.src, held := true, slotNo := m.slotNo }
  let s := { s with disp := { s.disp with parked := s.disp.parked ++ [b] } }
  let ids := ((List.range 4).filterMap (fun k => (b.core.strand k).node))
  let s := s.renameMembers (fun _ x => if x.2 = 0 && coreOfSid x.1 = m.src then (m.slotNo * 8 + slotOfSid x.1, 2) else x)
  { s with disp := { s.disp with
      nodes := s.disp.nodes.map (fun (n : Node) => if ids.contains n.id then { n with state := .parked } else n) } }

/-! ### Unparking (R384) -/

/-- The header of a slot passes the check: magic and key. -/
def State.slotOk (s : State) (b : ParkedCore) : Bool :=
  match (s.descr b.tenant).1 with
  | none => false
  | some d =>
    let w := s.tenantWho b.tenant d
    match readHome w .translated (d.area.toNat + 2 ^ 20 * b.slotNo) 16 s with
    | .ok bs _ => leField bs 0 4 = 0x1DC700FA && leField bs 8 8 = s.bundleKey b
    | .error _ _ => false

/-- Unparking: the result code, or the identity of the one begun. -/
def State.startUnpark (s : State) (tenant slotNo : Nat) (target : Word) : Except Nat (Nat × State) :=
  match s.disp.parked.find? (fun p => p.tenant = tenant && p.slotNo = slotNo) with
  | none => .error 6
  | some b =>
    if !s.slotOk b || s.disp.migrations.any (fun m => m.kind = 2 && m.tenant = tenant && m.slotNo = slotNo) then .error 6
    else
      match s.chooseTarget tenant (isStreamCore b.src) target with
      | none => .error 2
      | some dst => .ok (s.beginMigration b.src dst tenant 2 slotNo)

/-- A parked core resumes: its strands at the target, the held entry forwarding to it, those woken in RUN. -/
def State.unparkNow (s : State) (m : Migration) : State :=
  match s.disp.parked.find? (fun p => p.tenant = m.tenant && p.slotNo = m.slotNo) with
  | none => s.finishMigration m.id 6
  | some b =>
    let s := s.land b m.dst
    let s := b.woken.foldl (fun s k =>
      if (s.st (m.dst * 8 + k)).st = .run then s
      else (s.modSt (m.dst * 8 + k) Strand.wake).resumeCommands (m.dst * 8 + k)) s
    let s := (s.retarget m.tenant b.src m.dst).modCore b.src (fun c => { c with
      fwd := c.fwd.map (fun (f : FwdEntry) => if f.tenant = m.tenant && f.held && f.slotNo = m.slotNo then { f with held := false, target := m.dst } else f) })
    let s := s.renameSetters b.src m.dst
    let s := s.renameMembers (fun t x => if t = m.tenant && x.2 = 2 && x.1 / 8 = m.slotNo then (m.dst * 8 + x.1 % 8, 0) else x)
    let d := { s.disp with
      parked := s.disp.parked.filter (fun p => p.tenant ≠ m.tenant || p.slotNo ≠ m.slotNo)
      nodes := s.disp.nodes.map (fun (n : Node) =>
        if n.state = .parked && !n.members.any (fun x => x.2 = 2) then { n with state := .running } else n) }
    { s with disp := d }.finishMigration m.id 0

/-- A strand whose CTXSAVE has failed since the move began keeps its core where it is (04_strand R132): the move ends with result 4, and
the strands it had held run on. -/
def State.giveUpMove (s : State) (m : Migration) : State :=
  let s := s.finishMigration m.id 4
  let s := s.modCore m.src (fun c => { c with moving := false })
  let s := if m.kind = 1 then s else s.modCore m.dst (fun c => { c with moving := false })
  (List.range 4).foldl (fun s k => s.unholdStrand (m.src * 8 + k)) s

/-- MIGRATION_TRANSFER: a migration or parking goes on: strands are held, and once nothing stands in the way the state
moves. -/
def execMigrationTransfer (idx : Nat) (s : State) : Host.Outcome State Fault Refusal :=
  match s.disp.migrations[idx]? with
  | none => .next s
  | some m =>
    if m.kind = 2 then .next (s.unparkNow m)
    else if m.kind < 2 ∧ s.saveincOn m.src then .next (s.giveUpMove m)
    else
      let s := (List.range 4).foldl (fun s k => s.holdMoving (m.src * 8 + k)) s
      if !s.canMove m then .next s
      else
        let s := s.release m.src scP 0
        if s.releasePending m.src then .next s
        else .next (if m.kind = 0 then s.migrateNow m else if m.kind = 3 then s.retireNow m else s.parkNow m)

/-! ### MIGR (R384) -/

/-- The current strand waits for what it commanded, or has the code that refused it. -/
def migrating (c : BitVec 5) (r : Except Nat (Nat × State)) : Act Unit := do
  match r with
  | .error code => doneWith c (word code) 4 1
  | .ok (id, s) => set (s.modCur (fun t => { t with wait := .migr id c.toNat }))

/-- MIGR. -/
def execMigr (c b a : BitVec 5) (s : State) : Host.Outcome State Fault Refusal :=
  runAct (do
    ecSupervisor (ecWord 0x6A 1 0 a b c)
    let x := s.gr a
    let tenant := s.cur.tenant
    let op := bits x 21 20
    let src := bits x 9 0
    let slots := match (s.descr tenant).1 with | some d => d.slots | none => 0
    if bits x 63 22 ≠ 0 ∨ (op = 2 ∧ bits x 19 16 ≠ 0) then trap 4 xGrapharg x
    else if op = 2 then
      if slots ≤ bits x 15 0 then trap 4 xGrapharg x
      else migrating c (s.startUnpark tenant (bits x 15 0) (s.gr b))
    else if bits x 19 10 ≠ s.pkg % 1024 ∨ !s.coreInTenant src tenant then trap 4 xGrapharg x
    else if op = 0 then migrating c (s.startMigrate tenant src (s.gr b))
    else if op = 1 then migrating c (s.startPark tenant src)
    else if (s.core src).forwards tenant then
      change (fun s => s.modCore src (fun k => { k with fwd := k.fwd.filter (fun f => f.tenant ≠ tenant) }))
      doneWith c 0 4 1
    else doneWith c 1 4 1) s

end Sys2Proof.Machine
end

