-- ==== Sys2Proof/Machine/Dispatcher.lean ====
section
/-! DEFINITION. The dispatcher's instructions on nodes, farms and the firing table (14_dispatch R379 to R383), the steps of the
firing table (R373), and the disciplining of device time, whose forward step the table passes over (13_fabric R359). -/

namespace Sys2Proof.Machine

/-! ### GSUB, GDEP, GWAIT, GDONE (R381) -/

/-- GSUB. -/
def execGsub (c a : BitVec 5) (s : State) : Host.Outcome State Fault Refusal :=
  runAct (do
    let ea := s.gr a
    if ea.toNat % 64 ≠ 0 then trap 0 xMisalign ea
    else
      let p ← access (fun w => do
        let p ← checkAccess w ea 64 needR
        let () ← match p with
          | .translated => do let _ ← translate w ea.toNat false .no
          | _ => pure ()
        pure p) ea 0
      relAct scP 0
      let bs ← access (fun w => readHome w p ea.toNat 64) ea 0
      let r := recordOf bs
      let key := if r.key = 0 then ea.toNat else r.key.toNat
      let s ← get
      let (code, s) := s.checkRecord r (some key) (some s.cur.tenant) none
      set (if code = 0 then (s.enterNode r (some key) false).2 else s)
      doneWith c (word code) 4 1) s

/-- The WAITING node of the current strand's tenant that has a key. -/
def State.waitingNode (s : State) (key : Word) : Option Node :=
  match s.nodeByKey s.cur.tenant key.toNat with
  | some n => if n.state = .waiting then some n else none
  | none => none

/-- GDEP. -/
def execGdep (c b a : BitVec 5) (s : State) : Host.Outcome State Fault Refusal :=
  runAct (do
    let key := s.gr a
    let y := s.gr b
    let d := sext (bits y 31 0) 32
    if key = 0 then trap 1 xGrapharg key
    else if wordI d ≠ y then trap 1 xGrapharg y
    else
      match s.waitingNode key with
      | none => doneWith c 0xFFFFFFFFFFFFFFFF 4 1
      | some n =>
        if (n.preds : Int) + d < 0 ∨ 65535 < (n.preds : Int) + d then doneWith c 0xFFFFFFFFFFFFFFFE 4 1
        else
          if d < 0 then relAct scP 0 else pure ()
          let k := ((n.preds : Int) + d).toNat
          let n := { n with preds := k }
          change (fun s => if k = 0 then s.makeReady n false else s.setNode n)
          doneWith c (word k) 4 1) s

/-- GWAIT. -/
def execGwait (c a : BitVec 5) (s : State) : Host.Outcome State Fault Refusal :=
  runAct (do
    match s.nodeByKey s.cur.tenant (s.gr a).toNat with
    | none => doneWith c 1 4 1
    | some n => change (fun s => s.modCur (fun t => { t with wait := .gwait n.id c.toNat }))) s

/-- The keys of a successor list: 8-byte words up to a zero one, at most 255. -/
def succKeys (w : Who) (fuel : Nat) (ea : Word) : EStateM (Word × AccErr) State (List Nat) :=
  match fuel with
  | 0 => return []
  | n + 1 => do
    let s ← get
    match readMem w ea 8 .no s with
    | .error e s' =>
      set s'
      throw (ea, e)
    | .ok bs s' =>
      set s'
      let k := leNat bs
      if k = 0 then return []
      else return k :: (← succKeys w n (ea + 8))

/-- The strand is the last member of its node, whose participants have all been placed. -/
def State.lastMember (s : State) (sid : Nat) : Option Node :=
  match (s.st sid).node.bind s.node with
  | some n => if n.members = [(sid, 0)] && n.toPlace.isEmpty then some n else none
  | none => none

/-- A member leaves its node. -/
def State.leaveNode (s : State) (sid : Nat) : State :=
  match (s.st sid).node.bind s.node with
  | some n => s.setNode { n with members := n.members.filter (fun m => m ≠ (sid, 0)) }
  | none => s

/-- GDONE. -/
def execGdone (s : State) : Host.Outcome State Fault Refusal :=
  runAct (do
    if s.curSlot = 4 then illegalWord (ecWord 0x68 2 0 0 0 0)
    else
      waitUntil (fun s => s.settled s.curSid)
      change (fun s => s.closeRowsOf s.curSid)
      relAct scP 0
      let s ← get
      match s.lastMember s.curSid with
      | some n =>
        let keys ← (do
          if n.succ = 0 then pure []
          else
            match succKeys (s.who s.curSid) 255 n.succ s with
            | .ok ks s' =>
              set s'
              pure ks
            | .error (ea, e) s' =>
              set s'
              failed e ea 0)
        done 4 1
        change (fun s => (s.freeStrand s.curSid).completeNode n keys)
      | none =>
        done 4 1
        change (fun s => (s.leaveNode s.curSid).freeStrand s.curSid)) s

/-! ### Strip farms (R372, R382) -/

/-- A farm of the table. -/
def State.farm (s : State) (h : Nat) : Option Farm := tfind s.disp.farms h
def State.setFarm (s : State) (h : Nat) (f : Farm) : State := { s with disp := { s.disp with farms := tput s.disp.farms h f } }

/-- SFDECL. -/
def execSfdecl (c a : BitVec 5) (oxb : BitVec 3) (s : State) : Host.Outcome State Fault Refusal :=
  runAct (do
    let entry := s.gr a
    let x := s.xo oxb 1
    match s.cur.node.bind s.node with
    | none => trap 2 xGrapharg entry
    | some n =>
      if farmBad x then trap 2 xGrapharg x
      else if bit entry 0 then trap 2 xGrapharg entry
      else if 256 ≤ s.disp.farms.length then doneWith c 0 4 1
      else
        let h := s.newHandle
        let cls := b2n (isStreamCore s.curCore)
        let f : Farm := { node := n.id, base := s.xo oxb 0, count := farmCount x, strip := farmStrip x, parts := farmParts x, next := 0, ended := [] }
        let more := (List.range (f.parts - 1)).map (fun i => (h, i + 1, entry, cls))
        change (fun s => ((s.setFarm h f).setNode { n with toPlace := n.toPlace ++ more }).modCur (fun t =>
          { t with farm := some { farm := h, part := 0, ended := false } }))
        doneWith c (word h) 4 1) s

/-- SFNEXT: handle 0 means the farm whose participant the strand is. -/
def execSfnext (c b a : BitVec 5) (s : State) : Host.Outcome State Fault Refusal :=
  runAct (do
    let x := s.gr a
    let own := match s.cur.farm with | some p => p.farm | none => 0
    let h := if x = 0 then own else x.toNat
    match s.farm h, s.cur.node with
    | some f, some n =>
      if f.node ≠ n then trap 2 xGrapharg x
      else
        let o := f.next
        change (fun s => s.setFarm h { f with next := o + 1 })
        if f.count ≤ o * f.strip then
          change (fun s => s.gw b 0)
          doneWith c 0xFFFFFFFFFFFFFFFF 4 1
        else
          change (fun s => (s.gw b (word (o * 65536 + min f.strip (f.count - o * f.strip)))).modCur (fun t => t.setCtl 0x2C1 (word o)))
          doneWith c (f.base + word (o * f.strip)) 4 1
    | _, _ => trap 2 xGrapharg x) s

/-- The ordinals a farm has handed out. -/
def Farm.handedOut (f : Farm) : Nat := min f.next (ceilDiv f.count f.strip)

/-- Every participant has issued SFEND: those that wait go on. -/
def State.serveSfend (s : State) (h : Nat) (f : Farm) : State :=
  s.liveSids.foldl (fun s sid =>
    match (s.st sid).wait, (s.st sid).farm with
    | .sfend rd, some p => if p.farm = h then s.finish sid rd (word f.handedOut) else s
    | _, _ => s) s

/-- SFEND. -/
def execSfend (c a : BitVec 5) (s : State) : Host.Outcome State Fault Refusal :=
  runAct (do
    let x := s.gr a
    match s.cur.farm with
    | none => trap 2 xGrapharg x
    | some p =>
      match s.farm p.farm with
      | none => trap 2 xGrapharg x
      | some f =>
        if x.toNat ≠ p.farm ∨ p.ended then trap 2 xGrapharg x
        else
          let f := { f with ended := p.part :: f.ended }
          change (fun s =>
            let s := (s.setFarm p.farm f).modCur (fun t => { t with farm := some { p with ended := true }, wait := .sfend c.toNat })
            if f.parts ≤ f.ended.length then s.serveSfend p.farm f else s)) s

/-! ### The firing table (R373, R383) -/

/-- The slot of device time. -/
def State.timeSlot (s : State) : Nat := s.time / 10000

/-- A firing entry as query gives it. -/
def FireEntry.toWord (e : FireEntry) : Word :=
  word (e.skip.toNat + 2 ^ 32 * b2n e.valid + 2 ^ 33 * b2n e.inst.isSome + 2 ^ 34 * b2n e.pending + 2 ^ 35 * (e.rule % 4)
    + 2 ^ 37 * (e.last % 8) + 2 ^ 40 * min e.evfail 255)

/-- The firing table with one entry in it changed. -/
def State.setFiring (s : State) (idx : Nat) (e : FireEntry) : State :=
  { s with disp := { s.disp with firing := tput s.disp.firing idx e } }

/-- FTSET. -/
def execFtset (c b a : BitVec 5) (oxb : BitVec 3) (s : State) : Host.Outcome State Fault Refusal :=
  runAct (do
    ecSupervisor (ecWord 0x6A 0 oxb.toNat a b c)
    let x := s.gr a
    let idx := bits x 7 0
    let op := bits x 9 8
    let tenant := s.cur.tenant
    let cur := tfind s.disp.firing idx
    let put := fun (s : State) (e : FireEntry) => s.setFiring idx e
    if bits x 63 10 ≠ 0 ∨ op = 3 then trap 3 xGrapharg x
    else if op = 0 then
      let y := s.xo oxb 1
      let first := (s.xo oxb 0).toNat
      let other := match cur with | some e => e.valid && e.tenant != tenant | none => false
      if (s.gr b).toNat % 64 ≠ 0 then trap 0 xMisalign (s.gr b)
      else if bits y 33 32 = 3 ∨ bits y 63 34 ≠ 0 then trap 3 xGrapharg y
      else if other then doneWith c 1 4 1
      else if first ≤ s.timeSlot then doneWith c 2 4 1
      else
        change (fun s => put s
          { valid := true, tenant := tenant, record := s.gr b, next := first, period := bits y 31 0, rule := bits y 33 32, inst := none,
            pending := false, skip := 0, evfail := 0, last := 0 })
        doneWith c 0 4 1
    else if op = 1 then
      match cur with
      | some e =>
        if e.valid && e.tenant = tenant then
          change (fun s => put s { e with valid := false })
          doneWith c 0 4 1
        else doneWith c 1 4 1
      | none => doneWith c 1 4 1
    else
      doneWith c (match cur with | some e => if e.tenant = tenant then e.toWord else 0 | none => 0) 4 1) s

/-- The running instance of an entry is parked: every core its members run on; none when one of them cannot be. -/
def State.evict (s : State) (e : FireEntry) : Option State :=
  match e.inst.bind s.node with
  | none => none
  | some n =>
    let cores := ((n.members.filter (fun m => m.2 = 0)).map (fun m => coreOfSid m.1)).eraseDups
    cores.foldl (fun (r : Option State) c => match r with
      | some s => (match s.startPark e.tenant c with | .ok (_, s') => some s' | .error _ => none)
      | none => none) (some s)

/-- An entry whose slot has come acts (R373); its next slot is already set. -/
def State.fire (s : State) (idx : Nat) (e : FireEntry) : State :=
  let put := fun (s : State) (e : FireEntry) => s.setFiring idx e
  let busy := match e.inst.bind s.node with | some n => n.state = .running || n.state = .parked | none => false
  if !busy then s.launch idx e
  else if e.rule = 0 then put s { e with skip := e.skip + 1 }
  else if e.rule = 1 then put s (if e.pending then { e with skip := e.skip + 1 } else { e with pending := true })
  else
    match s.evict e with
    | some s => s.launch idx e
    | none => put s { e with evfail := e.evfail + 1, skip := e.skip + 1 }

/-- A valid entry whose next slot is this one acts while its tenant is placed, and its next slot moves on by the period; an
entry that fires once is valid no longer. -/
def State.fireAt (s : State) (idx slot : Nat) : State :=
  match tfind s.disp.firing idx with
  | none => s
  | some e =>
    if !e.valid || e.next ≠ slot then s
    else
      let e' := { e with next := e.next + e.period, valid := e.period ≠ 0 }
      let s := s.setFiring idx e'
      if (s.tenantSet e.tenant).isSome then s.fire idx e' else s

/-- The earliest slot that has come in which a valid entry of the firing table is still to act. -/
def State.dueSlot (s : State) : Option Nat :=
  s.disp.firing.foldl (fun r f =>
    if f.2.valid && f.2.next ≤ s.timeSlot then some (match r with | some n => min n f.2.next | none => f.2.next) else r) none

/-- The boundary of a slot: every valid entry with that slot as its next acts, in ascending index order. -/
def State.fireSlot (s : State) (slot : Nat) : State :=
  (s.disp.firing.map (·.1)).foldl (fun s i => s.fireAt i slot) { s with disp := { s.disp with lastSlot := slot } }

/-- FIRING_SLOT_BOUNDARY: the earliest boundary that ctl.time has reached and the dispatcher has not served. -/
def execFiringSlotBoundary (s : State) : Host.Outcome State Fault Refusal :=
  match s.dueSlot with
  | none => .next s
  | some n => .next (s.fireSlot n)

/-! ### Device time (13_fabric R359, R373) -/

/-- The slots of an entry from its next one up to a slot. -/
def FireEntry.upTo (e : FireEntry) (slot : Nat) : Nat :=
  if !e.valid || slot < e.next then 0 else if e.period = 0 then 1 else (slot - e.next) / e.period + 1

/-- Every boundary ctl.time has reached is served. -/
def State.fireDue (s : State) : Nat → State
  | 0 => s
  | n + 1 => match s.dueSlot with | none => s | some k => (s.fireSlot k).fireDue n

/-- A step of ctl.time up to a slot passed over the slots of an entry: its skip count takes each of them, and its next slot is
the first future one. -/
def FireEntry.pass (e : FireEntry) (slot : Nat) : FireEntry :=
  let k := e.upTo slot
  if k = 0 then e
  else { e with skip := e.skip + BitVec.ofNat 32 k, next := e.next + k * e.period, valid := e.period ≠ 0 }

/-- ctl.time makes one forward step; the boundaries reached before it have been served, those it goes past are skipped. -/
def State.stepTime (s : State) (t : Nat) : State :=
  let s := s.fireDue (s.disp.firing.foldl (fun n f => n + f.2.upTo s.timeSlot) 0)
  let s := { s with devTime := { s.devTime with base := t, mark := s.clock, ppb := 0, offset := 0, holdover := false } }
  { s with disp := { s.disp with firing := s.disp.firing.map (fun f => (f.1, f.2.pass s.timeSlot)) } }

/-- The offset of ctl.time against the disciplining source is removed: above 1 ms by one forward step with its event,
otherwise by a slew of at most 100 ppm, whose rate the spec leaves open.  The count never decreases. -/
def State.discipline (s : State) (off : Int) : State :=
  if !s.devTime.running then s
  else
    let now := s.time
    if 1000000 < off then
      (s.stepTime (now + off).toNat).svcEvent 6 0 0 0
    else
      let (x, s) := s.draw
      let rate : Int := if off = 0 then 0 else if 0 < off then (x.toNat % 100000 : Nat) + 1 else -((x.toNat % 100000 : Nat) + 1)
      { s with devTime := { s.devTime with base := now, mark := s.clock, ppb := rate, offset := off, holdover := false } }

/-- PTP_MESSAGE_RECEIVE: an exchange has given the time of the transmitter; with 1PPS present it supplies the seconds
alone. -/
def execPtpMessageReceive (seconds nanos : Nat) (s : State) : Host.Outcome State Fault Refusal :=
  let off : Int := (seconds * 1000000000 + nanos : Nat) - (s.time : Int)
  .next (s.discipline (if s.devTime.pps then (off + 500000000) / 1000000000 * 1000000000 else off))

/-- PPS_EDGE: the rising edge sets the phase of the second. -/
def execPpsEdge (s : State) : Host.Outcome State Fault Refusal :=
  let sub := s.time % 1000000000
  let s := { s with devTime := { s.devTime with pps := true } }
  .next (s.discipline (if sub < 500000000 then -(sub : Int) else (1000000000 - sub : Nat)))

end Sys2Proof.Machine
end

