-- ==== Sys2Proof/Machine/Tenancy.lean ====
section
/-! DEFINITION. The commands of ctl.dcmd: partitions, tenants, reservations and host windows (14_dispatch R375). -/

namespace Sys2Proof.Machine

/-! ### Partitions (01_engines R29) -/

/-- The permitted sets of dies. -/
def permittedDies : List Nat := [1, 2, 4, 8, 16, 32, 64, 128, 0x03, 0x0C, 0x30, 0xC0, 0x33, 0xCC, 0xFF]

/-- The partition a mask names. -/
def State.partitionNamed (s : State) (mask : Nat) : Option Partition := s.disp.partitions.find? (fun p => p.mask = mask)

/-- A tenant is placed on some die of a mask. -/
def State.tenantOn (s : State) (mask : Nat) : Bool :=
  s.disp.tenants.any (fun t => allClusters.any (fun cl => t.2.holds cl && mask.testBit (cl / 8)))

/-- PCREATE. -/
def State.pcreate (s : State) (x : Word) : Nat × State :=
  let mask := bits x 7 0
  let rb := bits x 12 8
  if !permittedDies.contains mask then (1, s)
  else if (List.range 8).any (fun d => mask.testBit d && ((s.die d).absent || s.disp.partitions.any (fun p => p.mask.testBit d))) then (2, s)
  else if 16 < rb then (3, s)
  else (0, { s with disp := { s.disp with partitions := s.disp.partitions ++ [{ mask := mask, rb := 4096 * rb, windows := 0 }] } })

/-- The home slices of a partition give up their copies of the lines of some host windows, whose writes have all gone to the
host as posted host writes (13_fabric R358). -/
def State.dropWindows (s : State) (p : Partition) (ports : Nat) : State :=
  let held := p.dies.flatMap (fun d => (s.die d).l2.flatMap (·.2))
  (held.filter (fun x => isHostCell x.pa && ports.testBit (x.pa / 2 ^ 48 % 4))).foldl State.l2Evict s

/-- PDISSOLVE: every window is withdrawn with the partition. -/
def State.pdissolve (s : State) (x : Word) : Nat × State :=
  let mask := bits x 7 0
  match s.partitionNamed mask with
  | none => (1, s)
  | some p =>
    if s.tenantOn mask then (2, s)
    else
      let s := s.dropWindows p p.windows
      (0, { s with disp := { s.disp with partitions := s.disp.partitions.filter (fun p => p.mask ≠ mask) } })

/-- HWGRANT: the partition's granted windows become the ports named; it gives up its copies of the others. -/
def State.hwgrant (s : State) (x : Word) : Nat × State :=
  let mask := bits x 7 0
  let ports := bits x 11 8
  match s.partitionNamed mask with
  | none => (1, s)
  | some p =>
    if s.tenantOn mask && (p.windows &&& ports) != p.windows then (2, s)
    else
      let s := s.dropWindows p (p.windows ^^^ (p.windows &&& ports))
      (0, { s with disp := { s.disp with
        partitions := s.disp.partitions.map (fun q => if q.mask = mask then { q with windows := ports } else q) } })

/-! ### Reservations (R32, R375) -/

/-- The partition a placed tenant lies in. -/
def State.partitionOfTenant (s : State) (t : Nat) : Partition := s.partitionOfDie (s.tenantDie t)

/-- The islands of a reservation: core and cluster islands, and the uncore islands of its dies. -/
def State.resIslands (s : State) (t : Nat) (whole : Bool) : List Nat :=
  let p := s.partitionOfTenant t
  let cls := allClusters.filter (fun cl =>
    if whole then p.mask.testBit (cl / 8) else match s.tenantSet t with | some r => r.holds cl | none => false)
  let dies := (List.range 8).filter (fun d => cls.any (fun cl => cl / 8 = d))
  cls.flatMap (fun cl => (List.range 10).map (fun i => 10 * cl + i)) ++ cls.map (fun cl => 640 + cl)
    ++ dies.flatMap (fun d => (List.range 7).map (fun u => 704 + 7 * d + u))

/-- Islands are locked or unlocked at the points they have. -/
def State.lockIslands (s : State) (is : List Nat) (b : Bool) : State :=
  is.foldl (fun s i => { s with svc := { s.svc with islands := tput s.svc.islands i { s.island i with locked := b } } }) s

/-- The islands that a tenant's reservation locks are unlocked, but for those that another's, on the same die, still holds (17_service
R429). -/
def State.unlockIslands (s : State) (t : Nat) (is : List Nat) : State :=
  let others := (s.disp.dets.filter (fun e => e.1 ≠ t && e.2.locked)).flatMap (fun e => s.resIslands e.1 e.2.whole)
  s.lockIslands (is.filter (fun i => !others.contains i)) false

/-- The slice slots open on every active slice of a partition, and the channel slots free on every active channel. -/
def State.openSliceSlots (s : State) (p : Partition) : List Nat :=
  (List.range 64).filter (fun k => p.dies.all (fun d => (List.range 31).all (fun u => (tfind (s.die d).sliceSlots (u * 64 + k)).isNone)))
def State.openChanSlots (s : State) (p : Partition) : List Nat :=
  (List.range 64).filter (fun k => k != 0 && p.dies.all (fun d => (List.range 63).all (fun c => ((s.die d).slotTenant c k).isNone)))

/-- Slots written into the maps of a partition. -/
def State.giveResSlots (s : State) (p : Partition) (t : Nat) (ss cs : List Nat) : State :=
  p.dies.foldl (fun s d => s.modDie d (fun x => { x with
    sliceSlots := (List.range 31).foldl (fun m u => ss.foldl (fun m k => tput m (u * 64 + k) t) m) x.sliceSlots
    chanSlots := (List.range 63).foldl (fun m c => cs.foldl (fun m k => tput m (c * 64 + k) t) m) x.chanSlots })) s

/-- The slots of a tenant return to open use. -/
def State.clearSlots (s : State) (t : Nat) : State :=
  { s with dies := s.dies.map (fun (e : Nat × Die) => (e.1, { e.2 with
      sliceSlots := e.2.sliceSlots.filter (fun m => m.2 ≠ t), chanSlots := e.2.chanSlots.filter (fun m => m.2 ≠ t) })) }

/-- VCRES reserve with the mask and the pair bits of a RESERVE (R375): none where the fabric refuses it. -/
def State.reserveFabric (s : State) (t mask pairs : Nat) : Option State :=
  if mask = 0 ∨ mask % 2 = 1 ∨ pairs = 0 then none
  else match s.reservePairs t (word (mask + 2 ^ 16 * pairs)) with
    | (0, s') => some s'
    | (_, _) => none

/-- RESERVE.  The form of a whole partition names no slots; with no pair bit it asks nothing of the fabric. -/
def State.reserve (s : State) (x : Word) : Nat × State :=
  let t := bits x 5 0
  let ns := bits x 11 6
  let nc := bits x 17 12
  let mask := bits x 33 18
  let pairs := bits x 35 34
  let lock := bit x 36
  let whole := bit x 37
  let p := s.partitionOfTenant t
  let ends := fun (s : State) =>
    let s := { s with disp := { s.disp with dets := tput s.disp.dets t { whole := whole, ns := ns, nc := nc, locked := lock } } }
    if lock then s.lockIslands (s.resIslands t whole) true else s
  if (tfind s.disp.dets t).isSome then (1, s)
  else if whole then
    if ns ≠ 0 ∨ nc ≠ 0 ∨ s.disp.tenants.any (fun e => e.1 ≠ t && p.mask.testBit (s.tenantDie e.1)) then (4, s)
    else if (s.tenantSet t).isNone then (3, s)
    else
      match (if pairs = 0 then some s else s.reserveFabric t mask pairs) with
      | some s' => (0, ends s')
      | none => (3, s)
  else if ns = 0 ∨ nc = 0 ∨ pairs = 0 then (5, s)
  else
    let ss := (s.openSliceSlots p).take ns
    let cs := (s.openChanSlots p).take nc
    if ss.length < ns ∨ cs.length < nc then (2, s)
    else
      match s.reserveFabric t mask pairs with
      | some s' => (0, ends (s'.giveResSlots p t ss cs))
      | none => (3, s)

/-- A tenant's reservation ends. -/
def State.endReservation (s : State) (t : Nat) (r : DetRes) : State :=
  let s := if r.locked then s.unlockIslands t (s.resIslands t r.whole) else s
  { s.clearSlots t with
    disp := { s.disp with dets := tdel s.disp.dets t }
    fabric := { s.fabric with vcres := tdel s.fabric.vcres t } }

/-- RELEASE. -/
def State.releaseRes (s : State) (x : Word) : Nat × State :=
  match tfind s.disp.dets (bits x 5 0) with
  | none => (1, s)
  | some r => (0, s.endReservation (bits x 5 0) r)

/-! ### Tenants -/

/-- TPLACE. -/
def State.tplace (s : State) (x : Word) : Nat × State :=
  let t := bits x 5 0
  match tenantOfWord (word (bits x 24 12)) with
  | none => (3, s)
  | some r =>
    match s.placeTenant t r with
    | (0, s') =>
      match s.descr t with
      | (some d, _) => if d.valid then (0, s') else (4, s)
      | (none, _) => (4, s)
    | (code, _) => (code, s)

/-- TREMOVE of a tenant that nothing holds. -/
def State.removeTenant (s : State) (t : Nat) : State :=
  let s := match tfind s.disp.dets t with | some r => s.endReservation t r | none => s
  let d := { s.disp with
    firing := s.disp.firing.filter (fun e => e.2.tenant ≠ t)
    parked := s.disp.parked.filter (fun p => p.tenant ≠ t) }
  let s := { s with
    disp := d
    cores := s.cores.map (fun (e : Nat × Core) => (e.1, { e.2 with fwd := e.2.fwd.filter (fun f => f.tenant ≠ t) }))
    -- the sequence engines close its slots (15_sequence R387)
    dies := s.dies.map (fun (e : Nat × Die) => (e.1, { e.2 with seqs := e.2.seqs.filter (fun q => q.2.owner ≠ t) })) }
  s.clearTenant t

/-- TREMOVE; nothing while a packet of the tenant is in the mesh (13_fabric R361). -/
def State.tremove (s : State) (x : Word) : Option (Nat × State) :=
  let t := bits x 5 0
  if (s.tenantSet t).isNone then some (1, s)
  else if s.disp.nodes.any (fun n => n.tenant = t) || s.tenantBusy t then some (2, s)
  else if s.fabric.packets.any (fun p => p.tenant = t) then none
  else some (0, s.removeTenant t)

/-! ### A command (R375) -/

/-- A command of ctl.dcmd with ctl.darg: the state with its result in ctl.dres; none while it has to wait.  A code that names
no command does nothing. -/
def State.dcmd (s : State) (op : Nat) : Option State :=
  let x := s.pctl 0x2C9
  let put := fun (r : Nat × State) => some (r.2.setPctl 0x2CB (word r.1))
  match op with
  | 1 => put (s.pcreate x)
  | 2 => put (s.pdissolve x)
  | 3 => put (s.tplace x)
  | 4 => (s.tremove x).bind put
  | 5 => put (s.reserve x)
  | 6 => put (s.releaseRes x)
  | 7 => put (s.hwgrant x)
  | _ => some s

/-- The step of a command; one that has to wait changes nothing. -/
def dcmdStep (op : Nat) (s : State) : Host.Outcome State Fault Refusal := .next ((s.dcmd op).getD s)

/-- PCREATE. -/
def execPcreate (s : State) : Host.Outcome State Fault Refusal := dcmdStep 1 s
/-- PDISSOLVE. -/
def execPdissolve (s : State) : Host.Outcome State Fault Refusal := dcmdStep 2 s
/-- TPLACE. -/
def execTplace (s : State) : Host.Outcome State Fault Refusal := dcmdStep 3 s
/-- TREMOVE. -/
def execTremove (s : State) : Host.Outcome State Fault Refusal := dcmdStep 4 s
/-- RESERVE. -/
def execReserve (s : State) : Host.Outcome State Fault Refusal := dcmdStep 5 s
/-- RELEASE. -/
def execRelease (s : State) : Host.Outcome State Fault Refusal := dcmdStep 6 s
/-- HWGRANT. -/
def execHwgrant (s : State) : Host.Outcome State Fault Refusal := dcmdStep 7 s

end Sys2Proof.Machine
end

