-- ==== Sys2Proof/Machine/Sequence.lean ====
section
/-! DEFINITION. The sequence engine: slots and handles (15_sequence R386 to R388), results (R390, R391), sampling (R394 to
R396), appending and drafts (R397), watch tables (R398 to R400), and creating, iterating and inspecting slots (R401 to
R403). -/

namespace Sys2Proof.Machine

/-! ### Slots (R386 to R388) -/

/-- A slot by its die and number. -/
def State.seq (s : State) (d k : Nat) : Option SeqSlot := tfind (s.die d).seqs k
def State.setSeq (s : State) (d k : Nat) (x : SeqSlot) : State := s.modDie d (fun e => { e with seqs := tput e.seqs k x })

/-- The handle of a slot. -/
def seqHandle (d k : Nat) : Nat := 1 + 512 * d + k

/-- A slot as SQFORK makes it from a descriptor. -/
def newSeq (owner : Nat) (tag : Word) (ring log2cap : Nat) : SeqSlot :=
  { stopped := false, owner := owner, tag := tag, ring := ring, log2cap := log2cap, position := 0, history := List.replicate 8 0,
    draft := [], total := 0, cls := List.replicate 4 0, provisional := 0, watch := [], supp := 0, suppcnt := 0, stopRec := 0,
    notify := 0, forkRep := 0, parent := 0, forkPos := 0, iteration := 0, acted := false }

/-- The slot a handle names for the current strand (R386). -/
def State.seqNamed (s : State) (h : Nat) : Option (Nat × Nat × SeqSlot) :=
  let d := (h - 1) / 512
  let k := (h - 1) % 512
  if h = 0 ∨ 4096 < h ∨ !(s.partitionOf s.curCore).mask.testBit d then none
  else
    match s.seq d k with
    | some x => if x.owner = s.cur.tenant then some (d, k, x) else none
    | none => none

/-- The global scratchpad address of a die-scratchpad offset. -/
def State.dieAddr (s : State) (d off : Nat) : Nat := padBase + s.pkg * 2 ^ 38 + (d * 128 + 15) * 2 ^ 28 + off

/-- The word of the ring that a position occupies. -/
def State.ringAddr (s : State) (d : Nat) (x : SeqSlot) (p : BitVec 32) : Nat :=
  s.dieAddr d (x.ring + 4 * ((p - 1).toNat % 2 ^ x.log2cap))

/-- The lowest FREE slot of a die. -/
def State.freeSeq (s : State) (d : Nat) : Option Nat := firstBelow 512 (fun k => (s.seq d k).isNone)

/-! ### Results (R390, R391) -/

/-- SEQARG. -/
def seqarg {α : Type} (detail : Nat) (v : Word) : Act α := trap detail xSeqarg v

/-- A failure. -/
def seqFail (c : BitVec 5) (code : Nat) : Act Unit := doneWith c (word (2 ^ 63 + code)) 4 1

/-- A success: the value, whether an action ran, whether the slot is STOPPED at completion. -/
def seqDone (c : BitVec 5) (v : Nat) (acted : Bool) (d k : Nat) : Act Unit := do
  let stopped := match (← get).seq d k with | some x => x.stopped | none => false
  doneWith c (word (v % 2 ^ 32 + 2 ^ 32 * b2n acted + 2 ^ 33 * b2n stopped)) 4 1

/-- The handle operand and the slot it names, for the instructions that go on with it. -/
def withSlot (c : BitVec 5) (h : Word) (f : Nat → Nat → SeqSlot → Act Unit) : Act Unit := do
  if bits h 63 13 ≠ 0 then seqarg 1 h
  else
    waitUntil drained
    match (← get).seqNamed h.toNat with
    | none => seqFail c 1
    | some (d, k, x) => f d k x

/-! ### Watch entries (R398) -/

/-- A slot's watch entry. -/
def SeqSlot.entry (x : SeqSlot) (e : Nat) : WatchImage := tget (List.replicate 128 0) x.watch e

/-- Fields of an image. -/
def wEn (i : WatchImage) : Bool := leField i 0 1 % 2 = 1
def wBudget (i : WatchImage) : Bool := leField i 0 1 / 2 % 2 = 1
def wAction (i : WatchImage) : Nat := leField i 0 1 / 4 % 4
def wSel (i : WatchImage) : Nat := leField i 1 1
def wCount (i : WatchImage) : Nat := leField i 2 1
def wThreshold (i : WatchImage) : Nat := leField i 8 4
def wTarget (i : WatchImage) : Word := word (leField i 16 8)
def wPattern (i : WatchImage) : List (BitVec 32) := (List.range 8).map (fun n => BitVec.ofNat 32 (leField i (32 + 4 * n) 4))
def wForced (i : WatchImage) : List (BitVec 32) := (List.range 8).map (fun n => BitVec.ofNat 32 (leField i (64 + 4 * n) 4))

/-- The wildcard. -/
def wildcard : BitVec 32 := 0xFFFFFFFF

/-- The fields every image holds as zero. -/
def wZeros (i : WatchImage) : Bool :=
  leField i 0 1 / 16 = 0 && leField i 3 5 = 0 && leField i 12 4 = 0 && leField i 24 8 = 0 && leField i 96 32 = 0

/-- The rules of an enabled image, but for those on its target and child ring. -/
def wRules (i : WatchImage) : Bool :=
  let n := if wBudget i then 0 else wSel i
  (if wBudget i then decide (wSel i ≤ 4) && decide (1 ≤ wThreshold i) else decide (1 ≤ wSel i ∧ wSel i ≤ 8) && wThreshold i = 0)
    && ((wPattern i).drop n).all (· = 0)
    && (if wAction i = 2 then decide (1 ≤ wCount i ∧ wCount i ≤ 8) else wCount i = 0)
    && ((wForced i).drop (wCount i)).all (· = 0) && ((wForced i).take (wCount i)).all (· ≠ wildcard)
    && (wAction i = 1 || wAction i = 3 || wTarget i = 0)

/-- The target of NOTIFY and the child ring of FORK, as WSET checks them. -/
def State.wTargetOk (s : State) (x : SeqSlot) (i : WatchImage) : Bool :=
  match wAction i with
  | 1 => (wTarget i).toNat % 64 = 0 && decide ((wTarget i).toNat + 4 * 2 ^ x.log2cap ≤ 2 ^ 25)
  | 3 => match s.strandNamed (wTarget i) with
    | some sid => s.coreInTenant (coreOfSid sid) s.cur.tenant
    | none => false
  | _ => true

/-! ### Appending (R389, R399, R400) -/

/-- The generator's mixing function (R396). -/
def mix (x : Word) : Word :=
  let x := (x ^^^ (x >>> 31)) * 0xD6E8FEB86659FD93
  let x := (x ^^^ (x >>> 27)) * 0xA5CB3A7F1C4E9B27
  x ^^^ (x >>> 33)

/-- A saturating increment. -/
def satInc (x : BitVec 32) : BitVec 32 := if x = 0xFFFFFFFF then x else x + 1

/-- The class of a token for a tenant (R389). -/
def State.tokenClass (s : State) (tenant : Nat) (x : BitVec 32) : Nat :=
  let n := x.toNat % 128
  bits (tget (0 : Word) s.tcr (tenant * 1024 + 0x200 + n / 32)) (2 * (n % 32) + 1) (2 * (n % 32))

/-- A token is confirmed: position, ring word, history, counters. -/
def State.confirm (s : State) (d k : Nat) (x : SeqSlot) (tok : BitVec 32) : SeqSlot × State :=
  let c := s.tokenClass x.owner tok
  let x := { x with
    position := x.position + 1, history := x.history.drop 1 ++ [tok], total := satInc x.total
    cls := x.cls.set c (satInc (lget 0 x.cls c)) }
  (x, { s with mem := mwrite s.mem (s.ringAddr d x x.position) (leBytes 4 tok.toNat) }.setSeq d k x)

/-- cond(e) after a token took a slot from `old` to `x`. -/
def watchHolds (old x : SeqSlot) (i : WatchImage) : Bool :=
  wEn i &&
    (if wBudget i then
      let pick := fun (y : SeqSlot) => if wSel i = 0 then y.total else lget 0 y.cls (wSel i - 1)
      pick old != pick x && (pick x).toNat = wThreshold i
    else
      let n := wSel i
      decide (n ≤ x.total.toNat) && (List.range n).all (fun j =>
        lget 0 (wPattern i) j = wildcard || lget 0 (wPattern i) j = lget 0 x.history (8 - n + j)))

/-- A stop record (R399), a notify register (R400). -/
def stopWord (entry code : Nat) (p : BitVec 32) : Word := word (2 ^ 63 + 2 ^ 36 * code + 2 ^ 32 * entry + p.toNat)
def notifyWord (ovr : Bool) (entry : Nat) (p : BitVec 32) : Word := word (2 ^ 63 + 2 ^ 62 * b2n ovr + 2 ^ 32 * entry + p.toNat)

/-- A child of a slot: what it takes, with its ring. -/
def SeqSlot.child (x : SeqSlot) (handle ring : Nat) : SeqSlot :=
  { x with
    stopped := false, tag := mix (x.tag ^^^ x.position.setWidth 64), ring := ring, draft := [], provisional := 0, supp := 0, suppcnt := 0
    stopRec := 0, notify := 0, forkRep := 0, parent := handle, forkPos := x.position, iteration := 0, acted := false }

/-- The fork report. -/
def forkWord (handle : Nat) : BitVec 32 := BitVec.ofNat 32 (2 ^ 31 + handle)

/-- The action of an entry that runs, but for the tokens of an INJECT. -/
def State.watchAct (s : State) (d k : Nat) (x : SeqSlot) (e : Nat) (i : WatchImage) : State :=
  match wAction i with
  | 0 => s.setSeq d k { x with stopped := true, stopRec := stopWord e xWatchstop x.position }
  | 1 =>
    match s.freeSeq d with
    | none => s.setSeq d k { x with stopped := true, stopRec := stopWord e xForkfull x.position }
    | some n =>
      (s.setSeq d n (x.child (seqHandle d k) ((wTarget i).toNat % 2 ^ 25))).setSeq d k { x with forkRep := forkWord (seqHandle d n) }
  | 2 => s.setSeq d k x
  | _ =>
    let s := s.setSeq d k { x with notify := notifyWord (bit x.notify 63) e x.position }
    match s.strandNamed (wTarget i) with
    | some sid => if s.coreInTenant (coreOfSid sid) x.owner then s.setPend sid 32 else s
    | none => s

/-- append_unit: whether an action ran, and the state.  `fuel` bounds the tokens: at most 16, and 8 for each of the 16
injections a chain holds. -/
def State.appendUnit (fuel : Nat) (s : State) (d k : Nat) (toks : List (BitVec 32)) (chain : List Nat) : Bool × State :=
  match fuel, toks with
  | 0, _ => (false, s)
  | _, [] => (false, s)
  | n + 1, tok :: rest =>
    match s.seq d k with
    | none => (false, s)
    | some old =>
      let (x, s) := s.confirm d k old tok
      match (List.range 16).filter (fun e => !chain.contains e && watchHolds old x (x.entry e)) with
      | [] => s.appendUnit n d k rest chain
      | e :: others =>
        let m := BitVec.ofNat 16 ((others.map (fun o => 2 ^ o)).foldl (· + ·) 0)
        let x := { x with supp := x.supp ||| m, suppcnt := x.suppcnt + BitVec.ofNat 32 others.length, acted := true }
        let i := x.entry e
        let s := s.watchAct d k x e i
        let stopped := match s.seq d k with | some y => y.stopped | none => true
        if stopped then (true, s)
        else if wAction i = 2 then (true, (s.appendUnit n d k ((wForced i).take (wCount i)) (e :: chain)).2)
        else (true, (s.appendUnit n d k rest chain).2)

/-- The unit of an instruction. -/
def State.appendAll (s : State) (d k : Nat) (toks : List (BitVec 32)) : Bool × State := s.appendUnit 160 d k toks []

/-! ### Append instructions (R397) -/

/-- A token operand. -/
def tokenOf (x : Word) : Option (BitVec 32) := if bits x 63 32 ≠ 0 ∨ x = 0xFFFFFFFF then none else some (x.setWidth 32)

/-- TKAPP. -/
def execTkapp (c b a : BitVec 5) (s : State) : Host.Outcome State Fault Refusal :=
  runAct (withSlot c (s.gr b) (fun d k x => do
    match tokenOf (s.gr a) with
    | none => seqarg 2 (s.gr a)
    | some tok =>
      if x.stopped then seqFail c 2
      else if !x.draft.isEmpty then seqFail c 3
      else
        let (acted, s') := (← get).appendAll d k [tok]
        set s'
        seqDone c (match s'.seq d k with | some y => y.position.toNat | none => 0) acted d k)) s

/-- TKDRAFT. -/
def execTkdraft (c b a : BitVec 5) (s : State) : Host.Outcome State Fault Refusal :=
  runAct (withSlot c (s.gr b) (fun d k x => do
    match tokenOf (s.gr a) with
    | none => seqarg 2 (s.gr a)
    | some tok =>
      if x.stopped then seqFail c 2
      else if 16 ≤ x.draft.length then seqFail c 3
      else
        change (fun s => s.setSeq d k { x with draft := x.draft ++ [tok], provisional := x.provisional + 1 })
        seqDone c (x.draft.length + 1) false d k)) s

/-- TKCONF. -/
def execTkconf (c b a : BitVec 5) (s : State) : Host.Outcome State Fault Refusal :=
  runAct (withSlot c (s.gr b) (fun d k x => do
    let n := (s.gr a).toNat
    if 16 < n then seqarg 6 (s.gr a)
    else if x.stopped then seqFail c 2
    else if x.draft.length < n then seqFail c 3
    else
      change (fun s => s.setSeq d k { x with draft := [], provisional := 0 })
      let (acted, s') := (← get).appendAll d k (x.draft.take n)
      set s'
      seqDone c (match s'.seq d k with | some y => y.position.toNat | none => 0) acted d k)) s

/-! ### Sampling (R394 to R396) -/

/-- The rank of a binary32 code: NaN below every number, zeros alike. -/
def rank32 (x : Nat) : Int :=
  match fmtF.val x with
  | .nan _ => -(2 ^ 40)
  | _ => if x / 2 ^ 31 % 2 = 1 then -(x % 2 ^ 31 : Nat) else (x % 2 ^ 31 : Nat)

/-- The token with the greatest key, the lowest of equals. -/
def greatest (l : List (Nat × Nat)) : Nat :=
  (l.foldl (fun (b : Option (Nat × Nat)) e => match b with
    | none => some e
    | some x => if rank32 x.2 < rank32 e.2 then some e else b) none).elim 0 (·.1)

/-- The top-k tokens by logit, or all. -/
def topTokens (l : List (Nat × Nat)) (k : Nat) : List (Nat × Nat) :=
  if k = 0 ∨ l.length ≤ k then l
  else l.filter (fun e => decide ((l.filter (fun o =>
    decide (rank32 e.2 < rank32 o.2 ∨ (rank32 e.2 = rank32 o.2 ∧ o.1 < e.1)))).length < k))

/-- binary32 arithmetic of the selection: log2 and the product with LN2, by RNE. -/
def log32 (v : FVal) : Nat := (fmtF.log2 .rne v).1
def timesLn2 (x : Nat) : Nat := (fmtF.mul .rne (fmtF.val x) (fmtF.val 0x3F317218)).1

/-- The Gumbel noise of a token. -/
def gumbel (h : Word) (i : Nat) : Nat :=
  let r := mix (h ^^^ word i)
  let u : Dy := { neg := false, m := 2 * bits r 63 41 + 1, e := -24 }
  let b := timesLn2 (log32 (.fin u))
  timesLn2 (log32 (fmtF.val b).opp) ^^^ 0x80000000

/-- The selection of R396 from the logits as binary32 codes, by token. -/
def selectToken (logits : List (Nat × Nat)) (t topk : Nat) (seed tag : Word) (p : BitVec 32) : Nat :=
  let c := topTokens logits topk
  if t % 2 ^ 31 = 0 then greatest c
  else
    let h := mix (mix (mix (seed ^^^ 0x7C159E3A0B6D4F21) ^^^ tag) ^^^ p.setWidth 64)
    greatest (c.map (fun e => (e.1, add32 (fmtF.div .rne (fmtF.val e.2) (fmtF.val t)).1 (gumbel h e.1))))

/-- The temperature and the reserved field are as R395 asks. -/
def sampleOk (x : Word) : Bool :=
  bits x 63 48 = 0 && (bits x 30 0 = 0 || (bits x 31 0 < 0x7F800000 && !bit x 31))

/-- The logits of a tile, widened to binary32, by token, read on from those that have been read, at most `fuel` of them: what has then been
read, and the failure that ended it. -/
def readLogits (w : Who) (t : TileHdr) (fuel : Nat) (got : List Nat) (s : State) : List Nat × Option (AccErr × Word) × State :=
  match fuel with
  | 0 => (got, none, s)
  | n + 1 =>
    let i := got.length
    let a := t.base + word (t.offset (i / t.cols) (i % t.cols))
    match readMem w a (esizeOf t.efmt) .no s with
    | .error e s' => (got, some (e, a), s')
    | .ok bs s' => readLogits w t n (got ++ [if t.efmt = 6 then leNat bs else leNat bs * 65536]) s'

/-- The header of a SAMPLE's tile, with what an earlier part of the same SAMPLE has read of the tile: a walk that it waits for does not
make it begin again (R394). -/
def sampleTile (base : Word) : Act (TileHdr × List Nat) := do
  let s ← get
  match (if s.cur.inFlight then s.cur.sampled else none) with
  | some r => return r
  | none => return (← access (fun w => hdrCheck w base .no) base 10, [])

/-- SAMPLE and SAMPLE.draft. -/
def sampleAct (draft : Bool) (c b a : BitVec 5) (oxb : BitVec 3) : Act Unit := do
  let s ← get
  let x0 := s.xo oxb 0
  let base := s.gr a
  let hd := s.gr b
  if bits hd 63 13 ≠ 0 then seqarg 1 hd
  else if !sampleOk x0 then seqarg 5 x0
  else
    waitUntil drained
    let (t, got) ← sampleTile base
    if (t.efmt ≠ 5 ∧ t.efmt ≠ 6) ∨ t.slay ≠ 0 ∨ t.spar ≠ 0 then headerTrap xHdrUnsup base
    else if 2 ^ 24 < t.rows * t.cols then headerTrap xHdrShape base
    else
      match (← get).seqNamed hd.toNat with
      | none => seqFail c 1
      | some (d, k, x) =>
        if (if draft then decide (16 ≤ x.draft.length) else !x.draft.isEmpty) then seqFail c 3
        else if x.stopped then seqFail c 2
        else
          let s ← get
          match readLogits (s.who s.curSid) t (t.rows * t.cols - got.length) got s with
          | (got', some (e, ea), s') =>
            set (s'.modCur (fun u => { u with sampled := some (t, got') }))
            failed e ea 0
          | (logits, none, s') =>
            let p := x.position + 1 + (if draft then BitVec.ofNat 32 x.draft.length else 0)
            let tok := selectToken (logits.zipIdx.map (fun e => (e.2, e.1))) (bits x0 31 0) (bits x0 47 32) (s.xo oxb 1) x.tag p
            let s' := s'.modCur (fun u => { u with sampled := none })
            if draft then
              set (s'.setSeq d k { x with draft := x.draft ++ [BitVec.ofNat 32 tok], provisional := x.provisional + 1 })
              seqDone c tok false d k
            else
              let (acted, s'') := s'.appendAll d k [BitVec.ofNat 32 tok]
              set s''
              seqDone c tok acted d k

/-- SAMPLE. -/
def execSample (c b a : BitVec 5) (oxb : BitVec 3) (s : State) : Host.Outcome State Fault Refusal := runAct (sampleAct false c b a oxb) s

/-- SAMPLE.draft. -/
def execSampleDraft (c b a : BitVec 5) (oxb : BitVec 3) (s : State) : Host.Outcome State Fault Refusal :=
  runAct (sampleAct true c b a oxb) s

/-! ### WSET and WGET (R398) -/

/-- The slot and entry a selector names. -/
def withEntry (c : BitVec 5) (x : Word) (f : Nat → Nat → SeqSlot → Nat → Act Unit) : Act Unit := do
  if bits x 63 20 ≠ 0 ∨ bits x 15 13 ≠ 0 then seqarg 1 x
  else
    waitUntil drained
    match (← get).seqNamed (bits x 12 0) with
    | none => seqFail c 1
    | some (d, k, y) => f d k y (bits x 19 16)

/-- WSET. -/
def execWset (c b a : BitVec 5) (s : State) : Host.Outcome State Fault Refusal :=
  runAct (withEntry c (s.gr b) (fun d k x e => do
    let ea := s.gr a
    let i ← access (fun w => readMem w ea 128 .no) ea 0
    if !wZeros i || (wEn i && !(wRules i && (← get).wTargetOk x i)) then seqarg 3 ea
    else
      let lack ← access (fun w => do
        if wEn i && wAction i = 1 then rangeFault w ((← get).dieAddr d (wTarget i).toNat) (4 * 2 ^ x.log2cap) needW
        else return none) ea 0
      match lack with
      | some (at_, detail) => trap detail xPerm (word at_)
      | none =>
        change (fun s => s.setSeq d k { x with watch := tput x.watch e i })
        seqDone c 0 false d k)) s

/-- A store of several 64-byte parts as one (02_words R71): the checks of all of them come first, and a right that one lacks is
lacked at the address of the store; then the pages of those whose line the L1 does not hold are translated; then all are written, or
none. -/
def storeParts (w : Who) (ea : Word) (parts : List (List Byte)) : EAcc Unit := do
  let ps := parts.zipIdx.map (fun e => (ea + word (64 * e.2), e.1))
  let onPage := fun (p : Word) => if p.toNat / 4096 = ea.toNat / 4096 then ea else p
  ps.forM (fun p => atAddr ea (discard (checkStore w p.1 64)))
  ps.forM (fun p => atAddr (onPage p.1) (probeStore w p.1 64))
  fun s => match ps.forM (fun p => atAddr ea (writeMem w p.1 p.2 .no)) s with
    | .ok _ s' => .ok () s'
    | .error e _ => .error e s

/-- WGET. -/
def execWget (c b a : BitVec 5) (s : State) : Host.Outcome State Fault Refusal :=
  runAct (withEntry c (s.gr b) (fun d k x e => do
    let ea := s.gr a
    if ea.toNat % 128 ≠ 0 then trap 0 xMisalign ea
    else
      accessEach (fun w => storeParts w ea [(x.entry e).take 64, (x.entry e).drop 64]) 1
      seqDone c 0 false d k)) s

/-! ### SQFORK, SQSTAT, SQITER (R401 to R403) -/

/-- A descriptor of SQFORK: tag, ring offset and log2cap, when its fields are as R401 asks. -/
def seqDescr (bs : List Byte) : Option (Word × Nat × Nat) :=
  let ring := leField bs 8 8
  let cap := leField bs 16 1
  if leField bs 17 47 = 0 ∧ ring < 2 ^ 25 ∧ ring % 64 = 0 ∧ 4 ≤ cap ∧ cap ≤ 20 ∧ ring + 4 * 2 ^ cap ≤ 2 ^ 25 then
    some (word (leField bs 0 8), ring, cap)
  else none

/-- SQFORK from a descriptor. -/
def forkNew (c : BitVec 5) (ea : Word) : Act Unit := do
  let bs ← access (fun w => readMem w ea 64 .no) ea 0
  let d := dieOfCore (← get).curCore
  match seqDescr bs with
  | none => seqarg 4 ea
  | some (tag, ring, cap) =>
    let lack ← access (fun w => do rangeFault w ((← get).dieAddr d ring) (4 * 2 ^ cap) needW) ea 0
    if lack.isSome then seqarg 4 ea
    else
      match (← get).freeSeq d with
      | none => seqFail c 4
      | some k =>
        change (fun s => s.setSeq d k (newSeq s.cur.tenant tag ring cap))
        seqDone c (seqHandle d k) false d k

/-- SQFORK.  Bit 33 of a copy's result is the source's state, the slot the instruction names (R390). -/
def execSqfork (c b a : BitVec 5) (s : State) : Host.Outcome State Fault Refusal :=
  runAct (do
    let h := s.gr b
    if h = 0 then
      waitUntil drained
      forkNew c (s.gr a)
    else
      withSlot c h (fun d k x => do
        if s.gr a ≠ 0 then seqarg 4 (s.gr a)
        else
          match (← get).freeSeq d with
          | none => seqFail c 4
          | some n =>
            change (fun s => (s.setSeq d n (x.child (seqHandle d k) x.ring)).setSeq d k { x with forkRep := forkWord (seqHandle d n) })
            seqDone c (seqHandle d n) false d k)) s

/-- The status block. -/
def SeqSlot.block (x : SeqSlot) : List Byte :=
  leBytes 4 x.position.toNat ++ leBytes 4 x.iteration.toNat ++ leBytes 1 (if x.stopped then 2 else 1) ++ leBytes 1 x.draft.length
    ++ leBytes 2 x.supp.toNat ++ leBytes 4 x.suppcnt.toNat ++ leBytes 4 x.total.toNat
    ++ (List.range 4).flatMap (fun i => leBytes 4 (lget (0 : BitVec 32) x.cls i).toNat) ++ leBytes 4 x.provisional.toNat
    ++ leBytes 8 x.stopRec.toNat ++ leBytes 8 x.notify.toNat ++ leBytes 4 x.forkRep.toNat ++ leBytes 4 0
    ++ (List.range 8).flatMap (fun i => leBytes 4 (lget (0 : BitVec 32) x.history i).toNat)
    ++ (List.range 16).flatMap (fun i => leBytes 4 (lget (0 : BitVec 32) x.draft i).toNat)
    ++ leBytes 8 x.tag.toNat ++ leBytes 8 (x.ring + 2 ^ 40 * x.log2cap) ++ leBytes 4 x.parent ++ leBytes 4 x.forkPos.toNat ++ leBytes 72 0

/-- SQSTAT. -/
def execSqstat (c b a : BitVec 5) (s : State) : Host.Outcome State Fault Refusal :=
  runAct (withSlot c (s.gr b) (fun d k x => do
    let ea := s.gr a
    if ea.toNat % 64 ≠ 0 then trap 0 xMisalign ea
    else
      accessEach (fun w => storeParts w ea ((List.range 4).map (fun i => (x.block.drop (64 * i)).take 64))) 1
      seqDone c (if x.stopped then 2 else 1) false d k)) s

/-- SQITER. -/
def execSqiter (c b a : BitVec 5) (s : State) : Host.Outcome State Fault Refusal :=
  runAct (withSlot c (s.gr b) (fun d k x => do
    let op := (s.gr a).toNat
    if 3 < op then seqarg 6 (s.gr a)
    else if op = 0 then
      if x.stopped then
        trap 0 (bits x.stopRec 43 36) (word (2 ^ 48 * seqHandle d k + 2 ^ 32 * bits x.stopRec 35 32 + bits x.stopRec 31 0))
      else
        change (fun s => s.setSeq d k { x with iteration := x.iteration + 1, acted := false })
        seqDone c (x.iteration + 1).toNat x.acted d k
    else if op = 1 then
      change (fun s => s.modDie d (fun e => { e with seqs := tdel e.seqs k }))
      seqDone c 0 false d k
    else if op = 2 then
      change (fun s => s.setSeq d k { x with notify := 0, supp := 0, suppcnt := 0, forkRep := 0, acted := false })
      seqDone c 0 false d k
    else
      change (fun s => s.setSeq d k { x with stopped := false, stopRec := x.stopRec &&& ~~~(word (2 ^ 63)), acted := false })
      seqDone c 0 false d k)) s

end Sys2Proof.Machine
end

