-- ==== Sys2Proof/Machine/Debug.lean ====
section
/-! DEFINITION. The debug engine: capabilities (16_debug R405 to R408), debug commands (R409, R410), halts and the debug hold
(R411 to R413), breakpoints (R414), trace marks and slip counters (R417, R418). -/

namespace Sys2Proof.Machine

/-! ### Capabilities (R405 to R408) -/

/-- Rights. -/
abbrev rTrace : Nat := 0
abbrev rHalt : Nat := 1
abbrev rRreg : Nat := 2
abbrev rWreg : Nat := 3
abbrev rDeleg : Nat := 4

/-- The lowest entry that names a holder and a subject and has all the rights of a mask. -/
def State.capFor (s : State) (holder subject mask : Nat) : Option Nat :=
  (s.caps.find? (fun e => e.2.holder = holder && e.2.subject = subject && decide (e.2.rights &&& mask = mask))).map (·.1)

/-- DCAPD. -/
def execDcapd (c b a : BitVec 5) (s : State) : Host.Outcome State Fault Refusal :=
  runAct (do
    let x := s.gr a
    let y := s.gr b
    let holder := bits x 31 16
    let subject := bits x 15 0
    let pd := s.cur.pd
    if bits x 63 32 ≠ 0 then trap 6 xDbgarg x
    else if 31 < y.toNat then trap 6 xDbgarg y
    else
      let parent := s.capFor pd subject (y.toNat ||| 2 ^ rDeleg)
      if pd ≠ subject ∧ parent.isNone then doneWith c 0x8000000000000002 4 1
      else
        match firstBelow 1024 (fun i => (tfind s.caps i).isNone) with
        | none => doneWith c 0x8000000000000001 4 1
        | some i =>
          let e : DbgCap :=
            { subject := subject, holder := holder, rights := y.toNat, parent := if pd = subject then none else parent }
          change (fun s => { s with caps := tput s.caps i e })
          doneWith c (word i) 4 1) s

/-- An entry and those that descend from it, by rounds over the table. -/
def State.capTree (s : State) (fuel : Nat) (l : List Nat) : List Nat :=
  match fuel with
  | 0 => l
  | n + 1 =>
    let more := (s.caps.filter (fun e => !l.contains e.1 && (match e.2.parent with | some p => l.contains p | none => false))).map (·.1)
    if more.isEmpty then l else s.capTree n (l ++ more)

/-- A strand goes on from where HALT held it (R412). -/
def Strand.resumed (t : Strand) : Strand :=
  if !t.dbgHalted then t
  else { t with dbgHalted := false, st := if t.st = .held && !t.bpStop then t.heldFrom else t.st }

/-- A strand's paused commands have been woken with it: it is to be dropped no more (08_matrix R226). -/
def Strand.wokenUp (t : Strand) : Bool :=
  t.st = .run && !t.async.any (fun a => match a with | .drop _ => true | _ => false)

/-- A resumed strand goes on, with its trace record (R415) and the commands that its wake left paused (08_matrix R237). -/
def State.resumeStrand (s : State) (sid : Nat) : State :=
  let t := s.st sid
  if !t.dbgHalted then s
  else
    let s := s.setSt sid t.resumed
    let s := if t.resumed.wokenUp then s.resumeCommands sid else s
    if t.st = .held && !t.bpStop then s.traceRecord sid 3 0 else s

/-- The same in a parked core, whose strands go on at unpark (14_dispatch R378). -/
def Core.resumeStrand (c : Core) (slot : Nat) : Core :=
  let t := c.strand slot
  if !t.dbgHalted then c
  else
    let c := c.setStrand slot t.resumed
    if t.resumed.wokenUp then c.resumeCommands slot else c

/-- The compute strands of a tenant in the package. -/
def State.tenantStrands (s : State) (t : Nat) : List Nat :=
  s.liveSids.filter (fun i => slotOfSid i != 4 && (s.st i).st != .free && (s.st i).tenant = t)

/-- RESUME of a tenant: its strands, those of its parked cores among them, the notice, the placements. -/
def State.resumeTenant (s : State) (t : Nat) : State :=
  let s := (s.tenantStrands t).foldl (fun s i => s.resumeStrand i) s
  { s with
    halts := s.halts.filter (fun h => h.1 ≠ t), holds := s.holds.filter (· ≠ t)
    disp := { s.disp with parked := s.disp.parked.map (fun p =>
      if p.tenant = t then { p with core := [0, 1, 2, 3].foldl Core.resumeStrand p.core } else p) } }

/-- What revoked entries halted resumes, and the breakpoints they set go. -/
def State.revokeCaps (s : State) (l : List Nat) : State :=
  let mine := fun (c : Option Nat) => match c with | some i => l.contains i | none => false
  let s := ((s.halts.filter (fun h => mine h.2)).map (·.1)).dedup.foldl (fun s t => s.resumeTenant t) s
  { s with
    caps := s.caps.filter (fun e => !l.contains e.1)
    cores := s.cores.map (fun (e : Nat × Core) => (e.1, { e.2 with bps := e.2.bps.filter (fun b => !mine b.2.cap) })) }

/-- DCAPR. -/
def execDcapr (c a : BitVec 5) (s : State) : Host.Outcome State Fault Refusal :=
  runAct (do
    let x := s.gr a
    let pd := s.cur.pd
    if 1023 < x.toNat then trap 6 xDbgarg x
    else
      match tfind s.caps x.toNat with
      | none => doneWith c 0x8000000000000002 4 1
      | some e =>
        let byParent := match e.parent.bind (fun p => tfind s.caps p) with | some p => p.holder = pd | none => false
        if e.subject ≠ pd ∧ !byParent then doneWith c 0x8000000000000002 4 1
        else
          let l := s.capTree 1024 [x.toNat]
          waitUntil (fun s => !s.liveSids.any (fun i => match (s.st i).wait with
            | .dbgHalt _ (some k) => l.contains k
            | _ => false))
          change (fun s => s.revokeCaps l)
          doneWith c 0 4 1) s

/-- DCAPQ. -/
def execDcapq (c a : BitVec 5) (s : State) : Host.Outcome State Fault Refusal :=
  runAct (do
    let x := s.gr a
    let holder := bits x 31 16
    let subject := bits x 15 0
    if bits x 63 32 ≠ 0 then trap 6 xDbgarg x
    else if s.cur.pd ≠ holder ∧ s.cur.pd ≠ subject then doneWith c 0 4 1
    else
      doneWith c (word ((s.caps.filter (fun e => e.2.holder = holder && e.2.subject = subject)).foldl (fun r e => r ||| e.2.rights) 0)) 4 1) s

/-! ### Trace marks and slip counters (R417, R418) -/

/-- TRMARK. -/
def execTrmark (a : BitVec 5) (s : State) : Host.Outcome State Fault Refusal :=
  runAct (do
    change (fun s => if bit (s.cur.ctl 0x240) 1 then s.traceRecord s.curSid 1 (s.gr a) else s)
    done 4 1) s

/-- A strand's slip counter: the fifth is the cycles that are none of the others'. -/
def Strand.slipCount (t : Strand) (cycle k : Nat) : Word :=
  let x := fun (i : Nat) => tget (0 : Word) t.slip i
  if k < 4 then x k else word cycle - x 6 - x 5 - x 0 - x 1 - x 2 - x 3

/-- SLIPRD. -/
def execSliprd (c a : BitVec 5) (s : State) : Host.Outcome State Fault Refusal :=
  runAct (do
    let x := s.gr a
    let k := bits x 2 0
    let slot := bits x 6 4
    if bits x 63 7 ≠ 0 ∨ bit x 3 ∨ 4 < k ∨ 4 < slot ∨ (s.cur.status.mode = .task ∧ slot ≠ s.curSlot) then trap 6 xDbgarg x
    else doneWith c ((s.st (s.curCore * 8 + slot)).slipCount (s.cycleOf s.curCore) k) 4 1) s

/-! ### Debug commands (R409, R410) -/

/-- Who issues a command: a strand, or the external port. -/
structure DbgBy where
  /-- it holds every right -/
  all : Bool
  pd : Nat
  setter : Nat
deriving DecidableEq, Repr

/-- How a command ends: a trap of the write that issued it, a wait, or a result code with the value of ctl.dbgarg2. -/
inductive DbgEnd where
  | trap (detail code : Nat) (tval : Word)
  | waits (tenant : Nat) (cap : Option Nat) (s : State)
  | done (code : Nat) (arg2 : Word) (s : State)
deriving DecidableEq, Repr

def State.byStrand (s : State) (sid : Nat) : DbgBy :=
  let t := s.st sid
  { all := t.status.mode = .monitor, pd := t.pd, setter := sid }

/-- The argument registers whose unused bits are set, lowest first; RESUME names a tenant, or a strand that a breakpoint has
stopped. -/
def badArg (op : Nat) (a0 a1 a2 : Word) : Option (Nat × Word) :=
  let ok0 := if op = 1 then bits a0 63 6 = 0 else bits a0 63 23 = 0
  let k := bits a1 1 0
  let ok1 := match op with
    | 3 => bits a1 63 20 = 0 && bits a1 7 4 = 0
    | 4 => bits a1 63 20 = 0 && bits a1 7 4 = 0
    | 6 => bits a1 63 48 = 0 && k != 3 && bits a1 15 8 = 0 && (k = 0 || bits a1 47 16 = 0) && (k = 2 || bits a1 7 2 = 0)
      && decide (bits a1 7 4 ≤ 12)
    | 7 => decide (a1.toNat ≤ 7)
    | 8 => decide (a1.toNat ≤ 1)
    | 9 => decide (a1.toNat ≤ 3)
    | _ => a1 = 0
  let ok2 := op = 3 || op = 4 || op = 6 || a2 = 0
  if !ok0 then some (2, a0) else if !ok1 then some (3, a1) else if !ok2 then some (4, a2) else none

/-- The right a command needs. -/
def dbgRight (op : Nat) : Nat :=
  match op with | 3 => rRreg | 4 => rWreg | 5 => rWreg | 9 => rTrace | _ => rHalt

/-- The issuer's right over a subject: the entry it comes from, none when the issuer holds every right. -/
def State.dbgAllowed (s : State) (by_ : DbgBy) (op subject : Nat) : Option (Option Nat) :=
  if by_.all then some none else (s.capFor by_.pd subject (2 ^ dbgRight op)).map some

/-- A register a selector names, in range. -/
def selectorOk (sid : Nat) (x : Word) : Bool :=
  let i := bits x 19 8
  match bits x 3 0 with
  | 0 => decide (i < 64)
  | 1 => decide (i < 8)
  | 2 => decide (i < 4)
  | 3 => ctlPresent (coreOfSid sid) i
  | 4 => i = 0
  | 5 => decide (i < 128)
  | 6 => decide (i < 1024)
  | _ => false

/-- RDREG's value. -/
def State.dbgRead (s : State) (sid : Nat) (x : Word) : Word :=
  let t := s.st sid
  let i := bits x 19 8
  match bits x 3 0 with
  | 0 => t.rd i
  | 1 => t.oxr i
  | 2 => (t.efcr i).setWidth 64
  | 3 => s.readCtl sid i
  | 4 => t.pc
  | 5 => BitVec.ofNat 64 ((t.kr (i / 4)).toNat / 2 ^ (64 * (i % 4)))
  | _ => BitVec.ofNat 64 ((t.vr (i / 32)).toNat / 2 ^ (64 * (i % 32)))

/-- A 64-bit word of a wider register replaced. -/
def putLane {w : Nat} (r : BitVec w) (i : Nat) (x : Word) : BitVec w :=
  BitVec.ofNat w (r.toNat - r.toNat / 2 ^ (64 * i) % 2 ^ 64 * 2 ^ (64 * i) + x.toNat * 2 ^ (64 * i))

/-- WRREG's write; none where the access column forbids it.  A write of a register that issues a command issues none: it is no
CTL instruction of the target (log 46). -/
def State.dbgWrite (s : State) (sid : Nat) (x v : Word) : Option State :=
  let i := bits x 19 8
  match bits x 3 0 with
  | 0 => some (s.modSt sid (fun t => t.wr i v))
  | 1 => some (s.modSt sid (fun t => t.oxw i v))
  | 2 => some (s.modSt sid (fun t => t.efcw i (v.setWidth 32)))
  | 3 =>
    match ctlAccess (coreOfSid sid) i .monitor with
    | .rw => some (s.writeCtl sid i .monitor v)
    | .wo => some (s.writeCtl sid i .monitor v)
    | _ => none
  | 4 => some (s.modSt sid (fun t => { t with pc := v &&& ~~~1 }))
  | 5 => some (s.modSt sid (fun t => t.kw (i / 4) (putLane (t.kr (i / 4)) (i % 4) v)))
  | _ => some (s.modSt sid (fun t => t.vw (i / 32) (putLane (t.vr (i / 32)) (i % 32) v)))

/-- An element of the strand's VAMO has been sent and has not filled its register: it waits at its home, or is on its way back. -/
def State.vamoOut (s : State) (sid : Nat) : Bool := s.amoWaits sid || (s.st sid).amoBack.isSome

/-- A register is the destination of an outstanding access of the target (R413). -/
def State.busyReg (s : State) (sid : Nat) (x : Word) : Bool :=
  let t := s.st sid
  let i := bits x 19 8
  match bits x 3 0 with
  | 0 => (match t.wait with | .fe _ k rd _ _ _ _ => k.loads && rd = i | _ => false)
  | 6 => s.vamoOut sid && (match t.vq with
    | e :: _ => (match e.ins with | .vamo vd _ _ _ _ _ => vd.toNat = i / 32 | _ => false)
    | [] => false)
  | _ => false

/-- A full/empty access of the strand stands in the table of its owner, a parked core's among them. -/
def State.feParked (s : State) (sid : Nat) : Bool :=
  let mine := fun (l : List FeReq) => l.any (fun r => r.sid = sid)
  s.cores.any (fun e => mine e.2.parked) || s.dies.any (fun e => mine e.2.parked) || s.disp.parked.any (fun p => mine p.core.parked)

/-! ### Halt (R411) -/

/-- A running strand stands where HALT holds it: its next instruction has not issued, or it waits with nothing under way, as a parked
full/empty access does; the issuer of a HALT of its own tenant is held in it (log 90). -/
def State.haltPoint (s : State) (sid : Nat) : Bool :=
  let t := s.st sid
  match t.wait with
  | .fe _ _ _ _ _ refused _ => refused || s.feParked sid
  | .dbgHalt _ _ => true
  | _ => t.abandonable

/-- A compute strand is held at its issue point, or marked when it is DROPPED; one that is HALTED the controller takes too (R106, log
88). -/
def State.haltStrand (s : State) (sid : Nat) : State :=
  let t := s.st sid
  match t.st with
  | .run => if s.haltPoint sid then s.setSt sid { t with st := .held, heldFrom := .run, dbgHalted := true, replay := {} } else s
  | .halted => s.setSt sid { t with st := .held, heldFrom := .run, dbgHalted := true, replay := {} }
  | .dropped => s.setSt sid { t with dbgHalted := true }
  | .held => s.setSt sid { t with dbgHalted := true, replay := {} }
  | .free => s

/-- A strand has finished the steps of HALT: it does not run, and its queue is empty or stands at a VAMO whose element waits at its
home. -/
def State.haltDone (s : State) (sid : Nat) : Bool :=
  let t := s.st sid
  t.st != .run && (t.st != .held || t.vq.isEmpty || s.amoWaits sid)

/-- HALT as far as it has come: the freeze, the notice, the strands; whether it is complete.  The entries under which commands have
halted a tenant all stand, for their revocation (R407). -/
def State.haltTenant (s : State) (t : Nat) (cap : Option Nat) : Bool × State :=
  let s := { s with
    halts := if s.halts.contains (t, cap) then s.halts else s.halts ++ [(t, cap)]
    holds := if s.holds.contains t then s.holds else s.holds ++ [t] }
  let l := s.tenantStrands t
  let s := l.foldl (fun s i => s.haltStrand i) s
  (l.all (fun i => s.haltDone i), s)

/-! ### The commands -/

/-- The strand-targeted commands, their right checked. -/
def State.dbgOnStrand (s : State) (by_ : DbgBy) (op sid : Nat) (cap : Option Nat) (a1 a2 : Word) : DbgEnd :=
  let t := s.st sid
  let core := coreOfSid sid
  match op with
  | 3 =>
    if !selectorOk sid a1 then .done 3 a2 s
    else if !t.dbgHalted then .done 2 a2 s
    else .done 0 (s.dbgRead sid a1) s
  | 4 =>
    if !selectorOk sid a1 then .done 3 a2 s
    else if !t.dbgHalted then .done 2 a2 s
    else if s.busyReg sid a1 then .done 1 a2 s
    else
      match s.dbgWrite sid a1 a2 with
      | some s' => .done 0 a2 s'
      | none => .done 3 a2 s
  | 5 =>
    (match t.wait with
    | .fe _ k _ _ _ _ _ => .done 0 a2 (if k.loads && s.feParked sid then s.abandon sid else s)
    | _ => .done 0 a2 s)
  | 6 =>
    match firstBelow 8 (fun i => (tfind (s.core core).bps i).isNone) with
    | none => .done 4 a2 s
    | some i =>
      let e : Breakpoint :=
        { slot := slotOfSid sid, kind := bits a1 1 0, rd := bit a1 2, wr := bit a1 3, len := bits a1 7 4, ord := bits a1 47 16,
          addr := a2, setter := by_.setter, cap := cap }
      .done 0 (setBits a2 2 0 i) (s.modCore core (fun c => { c with bps := tput c.bps i e }))
  | 7 =>
    let i := a1.toNat
    (match tfind (s.core core).bps i with
    | some e =>
      if e.slot = slotOfSid sid then .done 0 a2 (s.modCore core (fun c => { c with bps := tdel c.bps i })) else .done 3 a2 s
    | none => .done 3 a2 s)
  | 8 => .done 0 a2 (s.modSt sid (fun t => { t with brkCap := bit a1 0, brkBy := by_.setter }))
  | _ => .done 0 a2 (s.modSt sid (fun t => t.setCtl 0x240 a1))

/-- A breakpoint-stopped strand goes on (R414). -/
def State.resumeStopped (s : State) (sid : Nat) : State :=
  let t := s.st sid
  let s := s.setSt sid { t with bpStop := false, st := if t.dbgHalted then t.st else .run }
  if t.dbgHalted then s else s.traceRecord sid 3 0

/-- A command of the debug controller. -/
def State.dbgCommand (s : State) (by_ : DbgBy) (op : Nat) (cmd a0 a1 a2 : Word) : DbgEnd :=
  if op = 0 ∨ 9 < op ∨ cmd.toNat ≠ op then .trap 1 xDbgarg cmd
  else
    match badArg op a0 a1 a2 with
    | some (n, v) => .trap n xDbgarg v
    | none =>
      let stopped := match s.strandNamed a0 with | some sid => (if (s.st sid).bpStop then some sid else none) | none => none
      if op = 1 ∨ (op = 2 ∧ stopped.isNone) then
        let t := bits a0 5 0
        match s.descr t with
        | (some d, s) =>
          if (s.tenantSet t).isNone ∨ bits a0 63 6 ≠ 0 then .done 3 a2 s
          else
            match s.dbgAllowed by_ op d.pd with
            | none => .trap 0 xCaprevoked (word d.pd)
            | some cap =>
              if op = 1 then
                match s.haltTenant t cap with
                | (true, s') => .done 0 a2 s'
                | (false, s') => .waits t cap s'
              else if s.halts.any (fun h => h.1 = t) then .done 0 a2 (s.resumeTenant t)
              else .done 2 a2 s
        | (none, s) => .done 3 a2 s
      else
        match s.strandNamed a0 with
        | none => .done 3 a2 s
        | some sid =>
          match s.dbgAllowed by_ op (s.st sid).pd with
          | none => .trap 0 xCaprevoked (word (s.st sid).pd)
          | some cap => if op = 2 then .done 0 a2 (s.resumeStopped sid) else s.dbgOnStrand by_ op sid cap a1 a2

/-- The result of a command in its issuer's registers. -/
def State.dbgResult (s : State) (sid code : Nat) (arg2 : Word) : State :=
  s.modSt sid (fun t => (t.setCtl 0x24C (word code)).setCtl 0x24A arg2)

/-- A strand's command with the arguments in its registers. -/
def State.dbgOf (s : State) (sid op : Nat) (cmd : Word) : DbgEnd :=
  let t := s.st sid
  s.dbgCommand (s.byStrand sid) op cmd (t.ctl 0x248) (t.ctl 0x249) (t.ctl 0x24A)

/-- The step of a command on behalf of a strand; one that is refused or has to wait leaves its result for later. -/
def dbgStep (op core slot : Nat) (s : State) : Host.Outcome State Fault Refusal :=
  let sid := core * 8 + slot
  match s.dbgOf sid op (word op) with
  | .trap _ _ _ => .next s
  | .waits _ _ s' => .next s'
  | .done code a2 s' => .next (s'.dbgResult sid code a2)

/-- DBG_HALT: HALT goes on; the strand that waits for it completes with it. -/
def execDbgHalt (core slot : Nat) (s : State) : Host.Outcome State Fault Refusal :=
  let sid := core * 8 + slot
  match (s.st sid).wait with
  | .dbgHalt t cap =>
    match s.haltTenant t cap with
    | (true, s') => .next ((s'.dbgResult sid 0 ((s'.st sid).ctl 0x24A)).finish0 sid)
    | (false, s') => .next s'
  | _ => dbgStep 1 core slot s

/-- DBG_RESUME. -/
def execDbgResume (core slot : Nat) (s : State) : Host.Outcome State Fault Refusal := dbgStep 2 core slot s
/-- RDREG. -/
def execRdreg (core slot : Nat) (s : State) : Host.Outcome State Fault Refusal := dbgStep 3 core slot s
/-- WRREG. -/
def execWrreg (core slot : Nat) (s : State) : Host.Outcome State Fault Refusal := dbgStep 4 core slot s
/-- DBG_CANCEL. -/
def execDbgCancel (core slot : Nat) (s : State) : Host.Outcome State Fault Refusal := dbgStep 5 core slot s
/-- SETBP. -/
def execSetbp (core slot : Nat) (s : State) : Host.Outcome State Fault Refusal := dbgStep 6 core slot s
/-- CLRBP. -/
def execClrbp (core slot : Nat) (s : State) : Host.Outcome State Fault Refusal := dbgStep 7 core slot s
/-- BRKCAP. -/
def execBrkcap (core slot : Nat) (s : State) : Host.Outcome State Fault Refusal := dbgStep 8 core slot s
/-- TRSET. -/
def execTrset (core slot : Nat) (s : State) : Host.Outcome State Fault Refusal := dbgStep 9 core slot s

/-- DEBUG_PORT_COMMAND: the opened port holds every right; its answer stands at the port, a fault by the value of its cause (01_engines
R17).  A HALT that has to wait stands there until it is complete (R411). -/
def execDebugPortCommand (code : Nat) (a0 a1 a2 : Word) (s : State) : Host.Outcome State Fault Refusal :=
  if !s.svc.portOpen then .next s
  else
    match s.dbgCommand { all := true, pd := 0, setter := 2 ^ 20 } code (word code) a0 a1 a2 with
    | .trap detail c _ => .next { s with svc := { s.svc with portFault := some (causeWord false false false detail c) } }
    | .waits _ _ s' => .next { s' with svc := { s'.svc with portFault := none, portHalt := some (a0, a1, a2) } }
    | .done r v s' => .next { s' with svc := { s'.svc with
        portResult := r, portValue := v, portFault := none, portHalt := if code ≤ 2 then none else s'.svc.portHalt } }

/-- The issue of these is a stop point (R414). -/
def stopPoint (i : Instr) : Bool :=
  match i with
  | .setvl _ _ _ => true
  | .setmvl _ _ _ => true
  | .gdone => true
  | .waiti => true
  | .halt => true
  | _ => false

/-- A word of an instruction whose issue is a stop point. -/
def issuesStop (w : Word) : Bool :=
  bits w 7 0 = 0x81 || [Instr.gdone, .waiti, .halt].any (fun i => wordOf i = w)

/-- A strand stands before a stop point: the captured word its path passes, or the word at its pc, is one. -/
def State.atStopPoint (s : State) (core slot : Nat) : Bool :=
  let s := { s with curCore := core, curSlot := slot }
  match s.cur.replayed with
  | some i => stopPoint i
  | none => match fetchWord s with | .ok w _ => issuesStop (word w) | .error _ _ => false

/-- BREAKPOINT_STOP: a strand whose stop is armed stands before a stop point, its next instruction not issued, and stops (R414). -/
def execBreakpointStop (core slot : Nat) (s : State) : Host.Outcome State Fault Refusal :=
  let t := s.st (core * 8 + slot)
  if t.st = .run && t.unissued && t.bpArmed.isSome && s.atStopPoint core slot then
    match s.stopIfArmed (core * 8 + slot) with
    | some s' => .next s'
    | none => .next s
  else .next s

/-- DEBUG_HOLD_NOTICE: the package suspends the timers of a tenant's strands (R412). -/
def execDebugHoldNotice (tenant : Nat) (s : State) : Host.Outcome State Fault Refusal :=
  .next { s with holds := if s.holds.contains tenant then s.holds else s.holds ++ [tenant] }

/-- DEBUG_HOLD_WITHDRAWAL: they count on from their kept values. -/
def execDebugHoldWithdrawal (tenant : Nat) (s : State) : Host.Outcome State Fault Refusal :=
  .next { s with holds := if s.halts.any (fun h => h.1 = tenant) then s.holds else s.holds.filter (· ≠ tenant) }

end Sys2Proof.Machine
end

