-- ==== Sys2Proof/Machine/Service.lean ====
section
/-! DEFINITION. The service processor's keys, measurements and attestation (17_service R430 to R433) and the instructions that
reach it (R434 to R436). -/

namespace Sys2Proof.Machine

/-! ### Lifecycle (R430) -/

/-- The lifecycle as the fuses and the quote give it. -/
def Lifecycle.code (l : Lifecycle) : Nat :=
  match l with | .manufacture => 0 | .production => 1 | .rma => 2 | .retired => 3

/-- The debug port is open from reset. -/
def Lifecycle.opensPort (l : Lifecycle) : Bool := l = .manufacture || l = .rma

/-- The fused security version, 0 to 64. -/
def securityVersion : Nat := Config.securityVersion.toNat % 65

/-! ### Measurements (R432) -/

/-- A measurement register is extended by an event of the service processor's own. -/
def State.measure (s : State) (n code : Nat) (detail : List Byte) : State :=
  { s with svc := { s.svc with meas := extendMeas s.svc.meas n (eventRecord code s.time detail) } }

/-- The lifecycle changes, with its event in M7. -/
def State.setLifecycle (s : State) (l : Lifecycle) : State :=
  { s with svc := { s.svc with lifecycle := l } }.measure 7 2 [BitVec.ofNat 8 l.code, BitVec.ofNat 8 s.svc.lifecycle.code]

/-! ### Keys (R431) -/

def State.keySlot (s : State) (i : Nat) : KeySlot := tget {} s.svc.keys i
def State.setKeySlot (s : State) (i : Nat) (k : KeySlot) : State := { s with svc := { s.svc with keys := tput s.svc.keys i k } }

/-- The key a home-slice line carries: that of the request that dirtied it, otherwise the recorded one. -/
def State.l2Key (s : State) (x : L2Line) : Nat := if x.under.isSome then x.key else (tget (0, 0) s.lineKey (x.pa / 64)).1

/-- A dirty line leaves the Sagger without its writeback: HBM4 holds what it held before, which a dirty line of the home slice
above it, if one stays, now covers. -/
def State.undoLine (s : State) (l : SagLine) : State :=
  match l.old, s.l2Find l.pa with
  | some m, some x => if x.under.isSome then s.l2Put { x with under := some m } else s.putImage l.pa m
  | some m, none => s.putImage l.pa m
  | none, _ => s

/-- Every line under a key is discarded in the package, dirty bytes with it: in the home slices, the Saggers, the cluster caches, the
L1s, and every translation that carries it (R431 steps 2 and 3, 12_sagger R333). -/
def State.discardKey (s : State) (i : Nat) : State :=
  let l2 := (s.dies.flatMap (fun e => e.2.l2.flatMap (·.2))).filter (fun x => s.l2Key x = i)
  let sag := s.dies.flatMap (fun e => (e.2.sagger ++ e.2.spillWait.map (·.line)).filter (fun l => l.key = i))
  let s := { s with
    owners := s.owners.filter (fun e => (tget (0, 0) s.lineKey (e.1 / 8)).1 ≠ i)
    clusters := s.clusters.map (fun (e : Nat × Cluster) => (e.1, { e.2 with cc := e.2.cc.filter (fun w => w.2.key ≠ i) }))
    cores := s.cores.map (fun (e : Nat × Core) => (e.1, { e.2 with
      l1 := e.2.l1.filter (fun w => w.2.key ≠ i)
      icache := e.2.icache.filter (fun b => b.2.2 ≠ i)
      tlb := e.2.tlb.filter (fun t => t.key ≠ i) })) }
  let s := l2.foldl (fun s x =>
    let s := s.l2Mod x.pa (fun l => l.filter (fun y => y.pa ≠ x.pa))
    match x.under with | some m => s.putImage x.pa m | none => s) s
  let s := sag.foldl State.undoLine s
  { s with dies := s.dies.map (fun (e : Nat × Die) => (e.1, { e.2 with
      sagger := e.2.sagger.filter (fun l => l.key ≠ i)
      spillWait := e.2.spillWait.filter (fun q => q.line.key ≠ i) })) }

/-- KEYDEL of a live identifier (R431). -/
def State.deleteKey (s : State) (i : Nat) : State :=
  (s.discardKey i).setKeySlot i { s.keySlot i with live := false, key := [] }

/-- Every live slot is deleted, in ascending identifier, and M7 records how many (R435, R436). -/
def State.wipeKeys (s : State) : State :=
  let live := (List.range 256).filter (fun i => (s.keySlot i).live)
  (live.foldl (fun s i => s.deleteKey i) s).measure 7 3 (leBytes 2 live.length)

/-- KEYNEW on an identifier: its result, and the state after it.  The key is four words of the random generator. -/
def State.newKey (s : State) (i owner : Nat) : Nat × State :=
  let k := s.keySlot i
  if k.live then (1, s)
  else if s.svc.portOpen then (3, s)
  else if 65535 ≤ k.gen then (4, s)
  else
    let (a, s) := s.draw
    let (b, s) := s.draw
    let (c, s) := s.draw
    let (d, s) := s.draw
    (0, s.setKeySlot i { live := true, owner := owner, gen := k.gen + 1, key := [a, b, c, d] })

/-! ### Operands in memory (R434) -/

/-- A span in blocks of 64 bytes. -/
def blocksOf (a : Word) (n : Nat) : List (Word × Nat) := (List.range ((n + 63) / 64)).map (fun i => (a + word (64 * i), min 64 (n - 64 * i)))

/-- A load's place, rights and page, with nothing read. -/
def probeLoad (w : Who) (ea : Word) (n : Nat) : Acc Unit := do
  match ← checkAccess w ea n needR with
  | .translated => let _ ← translate w ea.toNat false .no
  | _ => return ()

/-- Every page of an operand that is read is checked. -/
def spanReadable (a : Word) (n : Nat) : Act Unit := forEach (blocksOf a n) (fun b => access (fun w => probeLoad w b.1 b.2) b.1 0)

/-- Every page of an operand that is written is checked. -/
def spanWritable (a : Word) (n : Nat) : Act Unit := forEach (blocksOf a n) (fun b => access (fun w => probeStore w b.1 b.2) b.1 1)

/-- The bytes of an operand. -/
def spanRead (bl : List (Word × Nat)) : Act (List Byte) :=
  match bl with
  | [] => return []
  | b :: r => do
    let x ← access (fun w => readMem w b.1 b.2 .no) b.1 0
    return x ++ (← spanRead r)

/-- The bytes of an operand written. -/
def spanWrite (bl : List (Word × Nat)) (bs : List Byte) : Act Unit :=
  match bl with
  | [] => return ()
  | b :: r => do
    access (fun w => writeMem w b.1 (bs.take b.2) .no) b.1 1
    spanWrite r (bs.drop b.2)

/-- An operand's address is a multiple of 64. -/
def aligned64 (a : Word) : Act Unit := if a.toNat % 64 ≠ 0 then trap 0 xMisalign a else pure ()

/-- SVCARG. -/
def svcarg {α : Type} (detail : Nat) (x : Word) : Act α := trap detail xSvcarg x

/-! ### The instructions (R434 to R436) -/

/-- The body of a quote (R433): its bytes 0 to 639. -/
def State.quoteBody (s : State) (report : List Byte) : List Byte :=
  leBytes 4 0x1DC7A77E ++ leBytes 1 s.svc.lifecycle.code
    ++ leBytes 1 (b2n s.svc.portOpen + 2 * b2n (decide (0 < bits s.svstat 24 17)) + 4 * b2n s.svc.calibrated)
    ++ leBytes 1 (bits s.svstat 16 9) ++ leBytes 1 0 ++ leBytes 16 Config.deviceId.toNat ++ leBytes 8 securityVersion
    ++ leBytes 32 0 ++ (List.range 8).flatMap (measOf s.svc.meas) ++ report

/-- A quote: its body and the signature over it. -/
def State.quote (s : State) (report : List Byte) : List Byte :=
  let body := s.quoteBody report
  body ++ (List.range 29792).map (Config.quoteSignature body)

/-- ATTEST. -/
def execAttest (c b a : BitVec 5) (s : State) : Host.Outcome State Fault Refusal :=
  runAct (do
    ecSupervisor (ecWord 0x71 0 0 a b c)
    waitUntil drained
    aligned64 (s.gr a)
    aligned64 (s.gr b)
    spanReadable (s.gr a) 64
    spanWritable (s.gr b) 30432
    if s.svc.lifecycle = .manufacture ∨ s.svc.lifecycle = .retired then doneWith c 2 4 1
    else
      let report ← spanRead (blocksOf (s.gr a) 64)
      spanWrite (blocksOf (s.gr b) 30432) ((← get).quote report)
      doneWith c 0 4 1) s

/-- KEYNEW. -/
def execKeynew (c a : BitVec 5) (s : State) : Host.Outcome State Fault Refusal :=
  runAct (do
    ecMonitor (ecWord 0x71 1 0 a 0 c)
    waitUntil drained
    let x := s.gr a
    if bits x 63 14 ≠ 0 then svcarg 1 x
    else if bits x 7 0 = 0 then svcarg 2 x
    else
      let (code, s') := (← get).newKey (bits x 7 0) (bits x 13 8)
      set s'
      doneWith c (word code) 4 1) s

/-- KEYDEL. -/
def execKeydel (c a : BitVec 5) (s : State) : Host.Outcome State Fault Refusal :=
  runAct (do
    ecMonitor (ecWord 0x71 2 0 a 0 c)
    waitUntil drained
    let x := s.gr a
    if x = 0 ∨ 255 < x.toNat then svcarg 2 x
    else if !(s.keySlot x.toNat).live then doneWith c 1 4 1
    else
      change (fun s => s.deleteKey x.toNat)
      doneWith c 0 4 1) s

/-- FUSERD. -/
def execFuserd (c a : BitVec 5) (s : State) : Host.Outcome State Fault Refusal :=
  runAct (do
    waitUntil drained
    let x := s.gr a
    match x.toNat with
    | 0 => doneWith c (Config.deviceId.setWidth 64) 4 1
    | 1 => doneWith c ((Config.deviceId >>> 64).setWidth 64) 4 1
    | 2 => doneWith c (word (securityVersion * 256 + s.svc.lifecycle.code)) 4 1
    | 3 =>
      if !s.atMonitor then trap 5 xPerm x
      else
        let (n, s') := (← get).draw
        set { s' with svc := { s'.svc with nonce := some n } }
        doneWith c n 4 1
    | _ => svcarg 1 x) s

/-- The package is retired (R435). -/
def State.retirePackage (s : State) : State := (s.wipeKeys.setLifecycle .retired).svcEvent 10 0 0 0

/-- LCSTAT. -/
def execLcstat (c a : BitVec 5) (s : State) : Host.Outcome State Fault Refusal :=
  runAct (do
    waitUntil drained
    let x := s.gr a
    match x.toNat with
    | 0 => doneWith c (word (s.svc.lifecycle.code + 4 * b2n s.svc.portOpen + 8 * s.liveKeys)) 4 1
    | 1 =>
      if !s.atMonitor then trap 5 xPerm x
      else if s.svc.lifecycle = .manufacture ∨ s.svc.lifecycle = .retired then doneWith c 1 4 1
      else
        change State.retirePackage
        doneWith c 0 4 1
    | _ => svcarg 1 x) s

/-- MEASX. -/
def execMeasx (c b a : BitVec 5) (s : State) : Host.Outcome State Fault Refusal :=
  runAct (do
    waitUntil drained
    let x := s.gr a
    let y := s.gr b
    let n := bits x 2 0
    let op := bits x 9 8
    if bits x 7 3 ≠ 0 ∨ bits x 63 10 ≠ 0 ∨ 1 < op ∨ (op = 0 ∧ (n < 4 ∨ n = 7)) then svcarg 1 x
    else if op = 0 then
      if !s.atMonitor then trap 5 xPerm x
      else
        aligned64 y
        spanReadable y 64
        let e ← spanRead (blocksOf y 64)
        if leField e 0 4 < 256 then svcarg 3 (word (leField e 0 4))
        else
          change (fun s => { s with svc := { s.svc with meas := extendMeas s.svc.meas n e } })
          doneWith c 0 4 1
    else
      aligned64 y
      spanWritable y 64
      spanWrite (blocksOf y 64) (measOf s.svc.meas n)
      doneWith c 0 4 1) s

/-- The checks of an unlock token after the first of R436; `nonce` is the pending one, which they consume. -/
def State.tokenCode (s : State) (nonce : Option Word) (tok : List Byte) : Nat :=
  let zeros := fun (lo n : Nat) => leField tok lo n = 0
  let flags := leField tok 17 1
  if s.svc.lifecycle = .retired then 5
  else if nonce ≠ some (word (leField tok 24 8)) then 1
  else if leField tok 0 16 ≠ Config.deviceId.toNat || leField tok 16 1 ≠ s.svc.lifecycle.code || flags % 2 = 0 || 3 < flags
      || !zeros 18 6 || !zeros 32 32 then 2
  else if !Config.tokenSignatureValid tok then 3
  else 0

/-- The port opens under a token (R436). -/
def State.unlock (s : State) (tok : List Byte) : State :=
  let s := s.wipeKeys
  let s := { s with svc := { s.svc with portOpen := true } }
  let s := if (leField tok 17 1).testBit 1 then s.setLifecycle .rma else s
  ((s.measure 7 1 (shake256 tok 32)).svcEvent 10 0 0 0).svcEvent 11 0 0 0

/-- DBGUNLK. -/
def execDbgunlk (c a : BitVec 5) (s : State) : Host.Outcome State Fault Refusal :=
  runAct (do
    ecMonitor (ecWord 0x71 5 0 a 0 c)
    waitUntil drained
    aligned64 (s.gr a)
    spanReadable (s.gr a) 29856
    let tok ← spanRead (blocksOf (s.gr a) 29856)
    if s.svc.portOpen then doneWith c 4 4 1
    else
      let code := s.tokenCode s.svc.nonce tok
      change (fun s => { s with svc := { s.svc with nonce := none } })
      if code ≠ 0 then doneWith c (word code) 4 1
      else
        change (fun s => s.unlock tok)
        doneWith c 0 4 1) s

end Sys2Proof.Machine
end

