-- ==== Sys2Proof/Machine/Boot.lean ====
section
/-! DEFINITION. Boot and self-test (17_service R420 to R422), calibration (R424), corrected errors and retirement (R425, R426),
link checks (13_fabric R341), and the power cap over the islands (R427 to R429). -/

namespace Sys2Proof.Machine

/-! ### Boot (R420 to R422) -/

/-- What HBM4 holds when every dirty line above it is lost. -/
def State.hbmOnly (s : State) : State :=
  let l2 := s.dies.flatMap (fun e => e.2.l2.flatMap (·.2))
  let sag := s.dies.flatMap (fun e => e.2.sagger ++ e.2.spillWait.map (·.line))
  let s := l2.foldl (fun s x => match x.under with | some m => s.putImage x.pa m | none => s) s
  sag.foldl State.undoLine { s with dies := s.dies.map (fun (e : Nat × Die) => (e.1, { e.2 with l2 := [] })) }

/-- What a reset keeps of memory: the hosts' own memory and, but at power-on, what HBM4 holds. -/
def State.keptMem (s : State) (powerOn : Bool) : Memory :=
  s.mem.filter (fun e => decide (e.1 < 2 ^ 52) && (isHostPa e.1 || !powerOn))

/-- The machine as step 1 of R420 finds and leaves it: everything at its reset value, but for what a reset keeps (log 35). -/
def State.booting (s : State) (powerOn : Bool) : State :=
  let h := s.hbmOnly
  let atom := fun (a : Nat) => !powerOn && decide (a < 2 ^ 52)
  let svc : Service :=
    { lifecycle := s.svc.lifecycle
      portOpen := s.svc.lifecycle.opensPort
      keys := if powerOn then [] else s.svc.keys.map (fun (e : Nat × KeySlot) => (e.1, { e.2 with live := false, key := [] }))
      diag := s.svc.diag
      diagNext := s.svc.diagNext
      flash := s.svc.flash
      sparesUsed := s.svc.sparesUsed }
  { State.reset with
    mem := h.keptMem powerOn
    lineKey := if powerOn then [] else h.lineKey
    poison := h.poison.filter atom
    broken := h.broken.filter atom
    svc := svc, pkg := s.pkg, sched := s.sched, freeCtr := s.freeCtr, nextId := s.nextId }

/-- No die present: none runs. -/
def State.noDies (s : State) : State := { s with dies := (List.range 8).map (fun d => (d, { (s.die d) with absent := true })) }

/-- The safe talkative state (R422). -/
def State.safeState (s : State) : State := { s.noDies with svc := { s.svc with safe := true } }

/-- The self-tests of step 3 and of each die in step 4: whether a unit passes the spec leaves open (log 1). -/
def State.selfTest (s : State) : Bool × State :=
  let (x, s) := s.draw
  (bit x 0, s)

/-- The groups of units of a die that have a spare, as its account numbers them: the channels of its stack, the cores of a cluster, the
lanes of a lane cluster, the slices. -/
def spareGroups (d : Nat) : List Nat :=
  [2 * 65536 + d, 6 * 65536 + d] ++ (List.range 8).map (fun i => 3 * 65536 + 8 * d + i)
    ++ (List.range 128).map (fun i => 5 * 65536 + 128 * d + i)

/-- A group of a die under test: a unit of it may fail, which the spec leaves open (log 1), and its spare takes the unit's place where it
is free; whether the die still passes. -/
def State.testGroup (r : Bool × State) (g : Nat) : Bool × State :=
  let (x, s) := r.2.draw
  if bit x 0 then (r.1, s)
  else if tget 0 s.svc.sparesUsed g ≠ 0 then (false, s)
  else (r.1, { s with svc := { s.svc with sparesUsed := tput s.svc.sparesUsed g 1 } })

/-- The dies tested in order: those that are absent.  One fails by a unit that has no spare, or whose spare is in use (R420 step 4, R425). -/
def State.testDies (s : State) (ds : List Nat) : List Nat × State :=
  match ds with
  | [] => ([], s)
  | d :: r =>
    let (ok, s) := (spareGroups d).foldl State.testGroup s.selfTest
    let (l, s) := s.testDies r
    (if ok then l else d :: l, s)

/-- The boot sequence of R420; a die that passes is released into reduced service (R421). -/
def State.boot (s : State) (powerOn : Bool) : State :=
  let s := s.booting powerOn
  if !Config.imageAccepted s.svc.flash then s.safeState
  else
    let s := { s with svc := { s.svc with meas := imageMeas s.time s.svc.flash } }
    let (ok, s) := s.selfTest
    if !ok then s.safeState
    else
      let (absent, s) := s.testDies (List.range 8)
      let s := absent.foldl (fun s d => s.modDie d (fun x => { x with absent := true })) s
      let present := dieMask (fun d => !absent.contains d)
      let m := bootMeas s.time s.svc.flash s.svc.lifecycle.code s.svc.portOpen present
      let s := { s with svc := { s.svc with meas := m } }
      if present = 0 then s.safeState else s

/-- POWER_ON. -/
def execPowerOn (s : State) : Host.Outcome State Fault Refusal := .next (s.boot true)

/-- PACKAGE_RESET. -/
def execPackageReset (s : State) : Host.Outcome State Fault Refusal := .next (s.boot false)

/-! ### Calibration (R424) -/

/-- The islands of a compute die (R427). -/
def islandsOfDie (d : Nat) : List Nat :=
  (List.range 80).map (fun i => 80 * d + i) ++ (List.range 8).map (fun i => 640 + 8 * d + i) ++ (List.range 7).map (fun i => 704 + 7 * d + i)

/-- The dies that are present and calibrated, as a mask; those present. -/
def State.calibratedMask (s : State) : Nat := dieMask (fun d => !(s.die d).absent && (s.die d).full)
def State.presentMask (s : State) : Nat := dieMask (fun d => !(s.die d).absent)

/-- Every present die is calibrated: M3 and the event; ctl.time runs from the first calibration. -/
def State.packageCalibrated (s : State) : State :=
  if s.svc.calibrated || s.calibratedMask ≠ s.presentMask then s
  else ({ s with svc := { s.svc with calibrated := true } }.measure 3 19 [BitVec.ofNat 8 s.calibratedMask]).svcEvent 9 0 0 0

/-- CALIBRATION_COMPLETE: a die leaves reduced service. -/
def execCalibrationComplete (die : Nat) (s : State) : Host.Outcome State Fault Refusal :=
  if 8 ≤ die ∨ (s.die die).absent ∨ (s.die die).full then .next s
  else
    let s := (islandsOfDie die).foldl (fun s i => s.setPoint i 17) s
    let s := s.modDie die (fun d => { d with full := true })
    let s := if s.devTime.running then s else { s with devTime := { s.devTime with running := true, mark := s.clock } }
    .next s.packageCalibrated

/-! ### Errors and retirement (R425, R426) -/

/-- Unit kinds, in the order of R425's table. -/
abbrev uAtom : Nat := 1
abbrev uChannel : Nat := 2
abbrev uMatrix : Nat := 3
abbrev uStream : Nat := 4
abbrev uLane : Nat := 5
abbrev uSlice : Nat := 6
abbrev uUalink : Nat := 7
abbrev uLink : Nat := 8

/-- The units of a kind, by index: an atom by its address / 32, a pseudo-channel by die x 64 + channel, a core by
ctl.coreid[9:0], a lane by (cluster x 16 + lane cluster) x 8 + lane, a slice by die x 32 + slice, a UALink lane by
port x 4 + lane (log 36). -/
def unitExists (kind unit : Nat) : Bool :=
  match kind with
  | 1 => decide (unit < 2 ^ 43)
  | 2 => decide (unit < 512 ∧ unit % 64 < 63)
  | 3 => coreExists unit && !isStreamCore unit
  | 4 => coreExists unit && isStreamCore unit
  | 5 => decide (unit < 64 * 16 * 8)
  | 6 => decide (unit < 256 ∧ unit % 32 < 31)
  | 7 => decide (unit < 48)
  | _ => kind = 8

/-- Where a unit's spare is kept account of, by kind and group; none where it has none: a stack's spare channel, a cluster's
dark core, a lane cluster's lane, a die's slice, a port's lane. -/
def spareOf (kind unit : Nat) : Option Nat :=
  match kind with
  | 2 => some (2 * 65536 + unit / 64)
  | 3 => some (3 * 65536 + unit / 16)
  | 5 => some (5 * 65536 + unit / 8)
  | 6 => some (6 * 65536 + unit / 32)
  | 7 => some (7 * 65536 + unit / 4)
  | _ => none

/-- The unit that is retired for a lasting one: an atom's pseudo-channel, or itself. -/
def State.retiredFor (s : State) (kind unit : Nat) : Nat × Nat :=
  if kind = uAtom then let c := s.channelOf (unit * 32); (uChannel, c.1 * 64 + c.2.1) else (kind, unit)

/-- A unit that has become lasting: its event, and its retirement to a spare that is free, or the refusal (R426).  A matrix
core's retirement is a migration to the spare. -/
def State.lasting (s : State) (kind unit count : Nat) : State :=
  let s := s.svcEvent 2 kind unit count
  let (k, u) := s.retiredFor kind unit
  let n := (tget {} s.svc.units (unitKey k u)).count
  let used := match spareOf k u with | some g => decide (tget 0 s.svc.sparesUsed g ≠ 0) | none => true
  if s.svc.retiring.any (fun r => r.kind = k && r.unit = u) then s
  else if used then s.svcEvent 4 k u n
  else
    let s := { s with svc := { s.svc with
      sparesUsed := match spareOf k u with | some g => tput s.svc.sparesUsed g 1 | none => s.svc.sparesUsed
      retiring := if k = uMatrix then s.svc.retiring else s.svc.retiring ++ [{ kind := k, unit := u }] } }
    if k = uMatrix then (s.beginMigration u u ((s.clusterTenant (clusterOfCore u)).getD 0) 3 0).2 else s

/-- A corrected error charged to a unit (R425): counted, and lasting at the third within 3,600 s of the first of the last
three. -/
def State.chargeError (s : State) (kind unit : Nat) : State :=
  let e := tget {} s.svc.units (unitKey kind unit)
  let now := word s.time
  let times := (e.times ++ [now]).drop ((e.times.length + 1) - 3)
  let n := e.count + 1
  let window := times.length = 3 && decide (now.toNat - (lget 0 times 0).toNat ≤ 3600000000000)
  let hit := window && !e.lasting
  let s := { s with svc := { s.svc with
    units := tput s.svc.units (unitKey kind unit) { times := times, count := n, lasting := e.lasting || hit } } }
  let s := s.svcEvent 1 kind unit n
  if hit then s.lasting kind unit n else s

/-- A correction at an atom or on its channel is counted at its die, by the stack's own code or by the controller's: which, the
event does not say (12_sagger R329, R337). -/
def State.countCorrection (s : State) (kind unit : Nat) : State :=
  if kind = uAtom ∨ kind = uChannel then
    let (x, s) := s.draw
    s.countDie (if kind = uAtom then (s.channelOf (unit * 32)).1 else unit / 64) (if bit x 0 then 2 else 3)
  else s

/-- The atom's line in the Sagger has an uncorrectable error at the atom (12_sagger R326). -/
def State.breakSagger (s : State) (a : Nat) : State :=
  s.modDie (s.saggerSet a).1 (fun die => { die with
    sagger := die.sagger.map (fun l => if l.pa = a / 64 * 64 ∧ !l.bad.contains a then { l with bad := a :: l.bad } else l) })

/-- A unit is lasting at once (R425). -/
def State.lastingNow (s : State) (kind unit : Nat) : State :=
  let e := tget {} s.svc.units (unitKey kind unit)
  if e.lasting then s
  else { s with svc := { s.svc with units := tput s.svc.units (unitKey kind unit) { e with lasting := true } } }.lasting kind unit e.count

/-- Where the SRAM of a core or a slice has failed, which the event does not say: a word of the core's scratchpad or an atom the slice
holds, at a free choice (log 98). -/
def State.flawIn (s : State) (kind unit : Nat) : State :=
  let (x, s) := s.draw
  let add := fun (a : Nat) => if s.flawed.contains a then s else { s with flawed := a :: s.flawed }
  if kind = uMatrix ∨ kind = uStream then add (s.padAddr unit (x.toNat % 0x10000 * 8))
  else if kind = uSlice then
    let as := (tget [] (s.die (unit / 32)).l2 (unit % 32)).flatMap (·.atoms)
    match as[x.toNat % as.length]? with
    | some a => add a
    | none => s
  else s

/-- An uncorrectable error in HBM4: the access that meets the atom fails (12_sagger R329), and its pseudo-channel is lasting at once; or
one in a core, a lane or a slice, which itself is. -/
def State.uncorrected (s : State) (kind unit : Nat) : State :=
  let a := unit * 32
  if kind = uAtom then
    let s := if s.broken.contains a then s else { s with broken := a :: s.broken }
    let (k, u) := s.retiredFor kind unit
    s.lastingNow k u
  else (s.flawIn kind unit).lastingNow kind unit

/-- An uncorrectable error at an atom whose line the Sagger holds stands there or in HBM4, which the event does not say; one of Sagger
SRAM is charged to no unit of R425's table. -/
def State.uncorrectedAtom (s : State) (unit : Nat) : State :=
  match s.sagLine (unit * 32) with
  | none => s.uncorrected uAtom unit
  | some _ =>
    let (x, s) := s.draw
    if bit x 0 then s.breakSagger (unit * 32) else s.uncorrected uAtom unit

/-- CORRECTED_ERROR_EVENT. -/
def execCorrectedErrorEvent (kind unit : Nat) (uncorrectable : Bool) (s : State) : Host.Outcome State Fault Refusal :=
  if !unitExists kind unit then .next s
  else if uncorrectable then
    .next (if kind = uUalink ∨ kind = uLink then s else if kind = uAtom then s.uncorrectedAtom unit else s.uncorrected kind unit)
  else .next ((s.countCorrection kind unit).chargeError kind unit)

/-- A link retrains; the replays of its flit are counted afresh (13_fabric R341). -/
def State.retrain (s : State) (link : Nat) : State :=
  { s with fabric := { s.fabric with replays := tdel s.fabric.replays link, retrains := tmod 0 s.fabric.retrains link (· + 1) } }

/-- A lane cluster is held by no strand. -/
def State.laneFree (s : State) (laneCluster : Nat) : Bool :=
  !(coresOfCluster (laneCluster / 16)).any (fun c => (s.core c).strands.any (fun t => t.2.heldLanes.contains (laneCluster % 16)))

/-- SPARE_TAKEOVER: a retiring unit's spare takes its place; a lane's when its lane cluster is back in the pool. -/
def execSpareTakeover (kind unit : Nat) (s : State) : Host.Outcome State Fault Refusal :=
  let ready := s.svc.retiring.any (fun r => r.kind = kind && r.unit = unit) && (kind ≠ uLane || s.laneFree (unit / 8))
  if !ready then .next s
  else
    let s := if kind = uUalink then s.retrain (65536 + unit) else s
    .next ({ s with svc := { s.svc with retiring := s.svc.retiring.filter (fun r => r.kind ≠ kind || r.unit ≠ unit) } }.unitRetired kind unit)

/-- FLIT_RECEIVE: a flit that fails its check is replayed, and the replay is charged to its link; when the eighth replay has failed
too the link retrains.  Links from 65,536 on are the lanes of UALink ports. -/
def execFlitReceive (link : Nat) (ok : Bool) (s : State) : Host.Outcome State Fault Refusal :=
  if ok then .next { s with fabric := { s.fabric with replays := tdel s.fabric.replays link } }
  else if 65584 ≤ link then .next s
  else
    let n := tget 0 s.fabric.replays link
    if 8 ≤ n then .next (s.retrain link)
    else
      let s := { s with fabric := { s.fabric with replays := tput s.fabric.replays link (n + 1) } }
      .next (if 65536 ≤ link then s.chargeError uUalink (link - 65536) else s.chargeError uLink link)

/-! ### The power cap (R429) -/

/-- The next lower point; the next higher. -/
def pointBelow (p : Nat) : Nat := match p with | 17 => 15 | 15 => 12 | _ => 8
def pointAbove (p : Nat) : Nat := match p with | 8 => 12 | 12 => 15 | _ => 17

/-- POWER_CAP_LOWER: an unlocked core island goes down one point. -/
def execPowerCapLower (island : Nat) (s : State) : Host.Outcome State Fault Refusal :=
  let x := s.island island
  if 640 ≤ island ∨ x.locked ∨ x.point = 8 then .next s
  else
    let s := s.setPoint island (pointBelow x.point)
    .next { s with svc := { s.svc with capLowered := island :: s.svc.capLowered } }

/-- POWER_CAP_RAISE: the unlocked island the cap lowered last goes up one point. -/
def execPowerCapRaise (s : State) : Host.Outcome State Fault Refusal :=
  match s.svc.capLowered.find? (fun i => !(s.island i).locked) with
  | none => .next s
  | some i =>
    let s := s.setPoint i (pointAbove (s.island i).point)
    .next { s with svc := { s.svc with capLowered := s.svc.capLowered.erase i } }

/-- The deterministic reservation that locks an island, by its tenant. -/
def State.lockHolder (s : State) (i : Nat) : Option (Nat × DetRes) :=
  s.disp.dets.find? (fun e => e.2.locked && (s.resIslands e.1 e.2.whole).contains i)

/-- LOCK_BROKEN: with every unlocked core island at point 8 the reservation's core islands go down one point, its islands stay
unlocked, and event 7 names its tenant. -/
def execLockBroken (island : Nat) (s : State) : Host.Outcome State Fault Refusal :=
  let low := (List.range 640).all (fun i => (s.die (dieOfIsland i)).absent || (s.island i).locked || (s.island i).point = 8)
  match s.lockHolder island with
  | none => .next s
  | some (t, r) =>
    if !low || !(s.island island).locked then .next s
    else
      let is := s.resIslands t r.whole
      let cores := is.filter (fun i => decide (i < 640 ∧ (s.island i).point ≠ 8))
      let s := s.unlockIslands t is
      let s := cores.foldl (fun s i => s.setPoint i (pointBelow (s.island i).point)) s
      let s := { s with
        svc := { s.svc with capLowered := cores.reverse ++ s.svc.capLowered }
        disp := { s.disp with dets := tput s.disp.dets t { r with locked := false } } }
      .next (s.svcEvent 7 0 t 0)

end Sys2Proof.Machine
end

