-- ==== Sys2Proof/Machine/HostPort.lean ====
section
/-! DEFINITION. The host ports: posted writes and their horizons (11_home R315, R316), the shared regions (R318), host reads, the
submit aperture (14_dispatch R365), the service mailbox (17_service R422, R423) and configuration space (13_fabric R356). -/

namespace Sys2Proof.Machine

/-! ### Shared regions (R318) -/

/-- A refused host access is counted, saturating. -/
def State.countRefusal (s : State) (port : Nat) : State :=
  let x := s.pctl 0x1C8
  let n := bits x (16 * port + 15) (16 * port)
  s.setPctl 0x1C8 (setBits x (16 * port + 15) (16 * port) (min 65535 (n + 1)))

/-- A range lies inside a valid entry that grants a port reads or writes, and is the device's: one of a host's window would be a
peer-to-peer request (13_fabric R356). -/
def State.hostMay (s : State) (port addr n : Nat) (write : Bool) : Bool :=
  !isHostPa addr && !isHostPa (addr + n - 1) && s.shared.any (fun e => e.2.valid && e.2.rights.testBit (2 * port + b2n write)
    && decide (e.2.base ≤ addr ∧ addr + n ≤ e.2.base + e.2.size * 2 ^ 21))

/-! ### Horizons (R315) -/

/-- The visible horizon over the writes performed, and those performed beyond it. -/
def horizon (fuel h : Nat) (done : List Nat) : Nat × List Nat :=
  match fuel with
  | 0 => (h, done)
  | n + 1 => if done.contains (h + 1) then horizon n (h + 1) (done.filter (· ≠ h + 1)) else (h, done)

/-- A posted write has been performed: it is held no more, and the visible horizon moves; acquires that waited go on. -/
def State.performed (s : State) (port stamp : Nat) : State :=
  let s := s.modPort port (fun p =>
    let (h, done) := horizon (p.done.length + 1) p.horizonH (stamp :: p.done)
    { p with held := p.held.filter (fun w => w.stamp ≠ stamp), horizonH := h, done := done })
  s.serveAcqs

/-- A posted write arrives at its destination, which holds it. -/
def State.holdPosted (s : State) (port stamp target addr : Nat) (data : List Byte) : State :=
  s.modPort port (fun p => { p with held := p.held ++ [{ stamp := stamp, target := target, addr := addr, data := data }] })

/-- A write to the aperture that is no record is discarded and counted. -/
def State.discardWrite (s : State) (port : Nat) : State :=
  s.modPort port (fun p => { p with discarded := min 65535 (p.discarded + 1) })

/-- HOST_POSTED_WRITE: a port stamps a write at ingress, and its destination receives it.  Target 0 is device memory at a
physical address, any other BAR0 at an offset. -/
def execHostPostedWrite (port target addr : Nat) (data : List Byte) (s : State) : Host.Outcome State Fault Refusal :=
  if 4 ≤ port ∨ data.isEmpty then .next s
  else
    let n := (s.port port).stamp + 1
    let s := s.modPort port (fun p => { p with stamp := n, horizonA := n })
    let top := addr + data.length
    if target ≠ 0 ∧ top ≤ 0x1000 then .next (s.holdPosted port n 2 addr data)
    else if s.svc.safe then .next (s.performed port n)
    else if target = 0 then
      if s.hostMay port addr data.length true then .next (s.holdPosted port n 0 addr data)
      else .next ((s.countRefusal port).performed port n)
    else if 0x80000 ≤ addr ∧ top ≤ 0x81000 ∧ addr % 64 = 0 ∧ data.length = 64 then .next (s.holdPosted port n 1 addr data)
    else if addr < 0x81000 ∧ 0x80000 < top then .next ((s.discardWrite port).performed port n)
    else .next (s.performed port n)

/-! ### Writes to memory -/

/-- The words of a write, each with the mask and the bytes it takes. -/
def postedWords (addr : Nat) (data : List Byte) : List (Nat × BitVec 8 × Word) :=
  (List.range ((addr + data.length - 1) / 8 - addr / 8 + 1)).map (fun i =>
    let a := (addr / 8 + i) * 8
    let at_ := fun (k : Nat) => decide (addr ≤ a + k ∧ a + k < addr + data.length)
    let mask := ((List.range 8).map (fun k => if at_ k then 2 ^ k else 0)).foldl (· + ·) 0
    let bs := (List.range 8).map (fun k => if at_ k then data.getD (a + k - addr) 0 else 0)
    (a, BitVec.ofNat 8 mask, leWord bs))

/-- The registration of a write at its home slices, with the port as owner (R305); its notices go out as part of it. -/
def State.applyPosted (s : State) (port : Nat) (w : Posted) : State :=
  let ws := postedWords w.addr w.data
  let s := s.clearCovered (ws.map (fun x => (x.1, x.2.1))) 0 127
  ws.foldl (fun s x => s.arriveHome x.1 x.2.1 x.2.2 (some (1024 + port)) 0 127 (some (1024 + port))) s

/-- The lines of an access of a host. -/
def hostLines (addr n : Nat) : List Nat := (List.range ((addr + n - 1) / 64 - addr / 64 + 1)).map (fun i => (addr / 64 + i) * 64)

/-- The home slices of all the lines of a host's access take a request of a host in this cycle (R319). -/
def State.hostSlots (s : State) (addr n : Nat) : Bool := (hostLines addr n).all (fun a => s.slotOpen none a)

/-- Two writes meet at a home slice. -/
def State.sameSlice (s : State) (a b : Posted) : Bool :=
  (hostLines a.addr a.data.length).any (fun x => (hostLines b.addr b.data.length).any (fun y => s.sliceOf x = s.sliceOf y))

/-- A write is still under way: words of it wait at their home slices behind a reservation (10_sync R282), or notices of the port's
writes have not reached the queues they go to, which is part of their registration (R303). -/
def State.postedWaits (s : State) (port : Nat) (w : Posted) : Bool :=
  s.pendRegs.any (fun p => p.owner = some (1024 + port) && decide (w.addr < p.pa + 8 ∧ p.pa < w.addr + w.data.length))
    || s.notices.any (fun n => n.cause = 1024 + port)

/-! ### The mailbox (R423) -/

/-- A write to the mailbox: the argument area takes its bytes; one that covers the command word while the mailbox is not busy is
a command. -/
def State.mailboxWrite (s : State) (port : Nat) (w : Posted) : State :=
  let p := s.port port
  let area := (List.range w.data.length).foldl (fun t i =>
    if 0x40 ≤ w.addr + i then tput t (w.addr + i) (w.data.getD i 0) else t) p.mbArea
  let s := s.modPort port (fun p => { p with mbArea := area })
  if w.addr = 0 && decide (8 ≤ w.data.length) && !p.mbBusy then
    { s with svc := { s.svc with mboxQueue := s.svc.mboxQueue ++ [port] } }.modPort port (fun p =>
      { p with mbCmd := leWord (w.data.take 8), mbBusy := true })
  else s

/-- HOST_WRITE_PERFORM: a held write of a port is performed; those of one destination in their order. -/
def execHostWritePerform (port stamp : Nat) (s : State) : Host.Outcome State Fault Refusal :=
  match (s.port port).held.find? (fun w => w.stamp = stamp) with
  | none => .next s
  | some w =>
    let older := (s.port port).held.filter (fun x => decide (x.stamp < stamp) && x.target = w.target)
    if (s.port port).horizonA < stamp then .next s
    else if w.target = 2 then
      if !older.isEmpty then .next s else .next ((s.mailboxWrite port w).performed port stamp)
    else if w.target = 1 then .next s
    else if older.any (fun x => s.sameSlice x w) || (!w.applied && !s.hostSlots w.addr w.data.length) then .next s
    else
      let s := if w.applied then s
        else (s.applyPosted port w).modPort port (fun p =>
          { p with held := p.held.map (fun x => if x.stamp = stamp then { x with applied := true } else x) })
      if s.postedWaits port w then .next s else .next (s.performed port stamp)

/-- SUBMIT_RECORD: the oldest record a port has written to its aperture is checked and entered, once every earlier write of the
port has been performed (R315, R364, R365). -/
def execSubmitRecord (port : Nat) (s : State) : Host.Outcome State Fault Refusal :=
  match (s.port port).held.find? (fun w => w.target = 1) with
  | none => .next s
  | some w =>
    if (s.port port).horizonH + 1 < w.stamp then .next s
    else
      let r := recordOf w.data
      let key := if r.key = 0 then none else some r.key.toNat
      let (code, s) := s.checkRecord r key none (some port)
      let s := if code = 0 then (s.enterNode r key false).2 else s
      let s := s.modPort port (fun p => { p with lastResult := code, accepted := if code = 0 then p.accepted + 1 else p.accepted })
      .next (s.performed port w.stamp)

/-! ### Reads -/

/-- What BAR0 reads as: the mailbox, the aperture's status, all ones in the safe state, and elsewhere a free value. -/
def State.bar0 (s : State) (port off n : Nat) : List Byte × State :=
  let p := s.port port
  let status := leBytes 8 (b2n p.mbBusy + 256 * p.mbResult)
  let sub := leBytes 8 (p.lastResult + 2 ^ 16 * p.discarded + 2 ^ 32 * p.accepted.toNat)
  let (fr, s') := s.freeBytes n
  ((List.range n).map (fun i =>
    let a := off + i
    if a < 8 then (leBytes 8 p.mbCmd.toNat).getD a 0
    else if a < 16 then status.getD (a - 8) 0
    else if 0x40 ≤ a ∧ a < 0x1000 then tget 0 p.mbArea a
    else if 0x1000 ≤ a ∧ s.svc.safe then 0xFF
    else if 0x81000 ≤ a ∧ a < 0x81008 then sub.getD (a - 0x81000) 0
    else fr.getD i 0), s')

/-- A read answers a host. -/
def State.answer (s : State) (port : Nat) (bs : List Byte) (poison : Bool) : State :=
  s.modPort port (fun p => { p with lastRead := bs, lastPoison := poison })

/-- HOST_READ: performed once the visible horizon has reached the port's last write.  An address from 2^52 on is an offset in
BAR0, a lower one a device physical address. -/
def execHostRead (port addr len : Nat) (s : State) : Host.Outcome State Fault Refusal :=
  if 4 ≤ port ∨ len = 0 ∨ 4096 < len ∨ (s.port port).horizonH < (s.port port).stamp then .next s
  else if 2 ^ 52 ≤ addr then
    let (bs, s) := s.bar0 port (addr - 2 ^ 52) len
    .next (s.answer port bs false)
  else if s.svc.safe then .next (s.answer port (List.replicate len 0xFF) false)
  else if !s.hostMay port addr len false then .next ((s.countRefusal port).answer port [] true)
  else if !s.hostSlots addr len then .next s
  else
    match homeRead addr len 0 s with
    | .ok bs s' => .next (s'.answer port bs false)
    | .error _ s' => .next (s'.answer port [] true)

/-- The bits that a BAR's kind and size fix in the word of configuration space at an offset, as a mask, and what they read as: BAR0 is a
64-bit window of 1 MiB, BAR2 a 64-bit prefetchable one (R356, log 30). -/
def barFixed (offset : Nat) : Nat × Nat := match offset with | 0x10 => (0xFFFFF, 4) | 0x18 => (15, 12) | _ => (0, 0)

/-- A word of configuration space as it reads: the fixed bits over those it holds. -/
def cfgWord (offset : Nat) (bs : List Byte) : List Byte :=
  let (mask, fixed) := barFixed offset
  leBytes 4 (((BitVec.ofNat 32 (leNat bs) &&& ~~~(BitVec.ofNat 32 mask)) ||| BitVec.ofNat 32 fixed).toNat)

/-- The four bytes of a port's configuration space at an offset: those that have been shown or written, and free values, which then
stay. -/
def State.configBytes (s : State) (port offset : Nat) : List Byte × State :=
  let (fr, s) := s.freeBytes 4
  let bs := cfgWord offset ((List.range 4).map (fun i =>
    match tfind (s.port port).cfg (offset + i) with | some b => b | none => fr.getD i 0))
  (bs, s.modPort port (fun p => { p with cfg := tputs p.cfg ((List.range 4).map (fun i => (offset + i, bs.getD i 0))) }))

/-- PCIE_CONFIG_ACCESS: a port answers in its configuration space, of whose contents the spec gives the BARs only (log 30).  The words of
BAR0 take the address that is written; what any other holds after a write is open again. -/
def execPcieConfigAccess (port offset : Nat) (write : Bool) (data : Nat) (s : State) : Host.Outcome State Fault Refusal :=
  let a := offset / 4 * 4
  if 4 ≤ port ∨ 4096 ≤ offset then .next s
  else if write then
    let new : List Nat → Table Byte → Table Byte := fun is t =>
      if a = 0x10 ∨ a = 0x14 then is.foldl (fun t i => tput t (a + i) (BitVec.ofNat 8 (data / 2 ^ (8 * i)))) t
      else is.foldl (fun t i => tdel t (a + i)) t
    .next (s.modPort port (fun p => { p with cfg := new [0, 1, 2, 3] p.cfg }))
  else
    let (bs, s) := s.configBytes port a
    .next (s.answer port bs false)

/-! ### Mailbox commands (R422, R423) -/

/-- Bytes put into a port's argument area from an offset; past its end there is none. -/
def State.putArea (s : State) (port off : Nat) (bs : List Byte) : State :=
  s.modPort port (fun p => { p with
    mbArea := tputs p.mbArea ((List.range (min bs.length (0x1000 - off))).map (fun i => (off + i, bs.getD i 0))) })

/-- Bytes of a port's argument area. -/
def State.area (s : State) (port off n : Nat) : List Byte := (List.range n).map (fun i => tget 0 (s.port port).mbArea (off + i))

/-- The command code of a port. -/
def State.mbCode (s : State) (port : Nat) : Nat := bits (s.port port).mbCmd 7 0

/-- A port may command the dispatcher and the route tables. -/
def State.hostAllowed (s : State) (port : Nat) : Bool := !s.svc.safe && bit (s.pctl 0x285) port

/-- The command at the head of the order is a port's. -/
def State.mbFirst (s : State) (port : Nat) : Bool := s.svc.mboxQueue.head? = some port

/-- A command of a port has been served. -/
def State.mbDone (s : State) (port result : Nat) : State :=
  { s with svc := { s.svc with mboxQueue := s.svc.mboxQueue.drop 1 } }.modPort port (fun p => { p with mbBusy := false, mbResult := result })

/-- A command with a code is served when it is first. -/
def mailbox (port code : Nat) (f : State → State) (s : State) : Host.Outcome State Fault Refusal :=
  if s.mbFirst port && s.mbCode port = code then .next ((f s).mbDone port 0) else .next s

/-- MBOX_STATUS. -/
def execMboxStatus (port : Nat) (s : State) : Host.Outcome State Fault Refusal :=
  mailbox port 1 (fun s => s.putArea port 0x40 (leBytes 8 s.svstat.toNat ++ leBytes 8 s.presentMask)) s

/-- LOGREAD: the next 64 entries of the diagnostic log, as far as the area reaches (log 37). -/
def execLogread (port : Nat) (s : State) : Host.Outcome State Fault Refusal :=
  mailbox port 2 (fun s =>
    let es := (s.svc.diag.drop s.svc.diagNext).take 64
    { s with svc := { s.svc with diagNext := s.svc.diagNext + es.length } }.putArea port 0x40 (es.flatMap (fun e => e))) s

/-- STAGE: the argument area goes to the image area of the boot flash, from the offset in bits [63:8] of the command word
(log 38). -/
def execStage (port : Nat) (s : State) : Host.Outcome State Fault Refusal :=
  mailbox port 3 (fun s =>
    let off := bits (s.port port).mbCmd 63 8
    let bs := s.area port 0x40 4032
    { s with svc := { s.svc with flash := tputs s.svc.flash ((List.range 4032).map (fun i => (off + i, bs.getD i 0))) } }) s

/-- MBOX_BOOT: a package reset. -/
def execMboxBoot (port : Nat) (s : State) : Host.Outcome State Fault Refusal :=
  if s.mbFirst port && s.mbCode port = 4 then .next (s.boot false) else .next s

/-- DCMD: the dispatcher command in bits [15:8] of the command word, with the first word of the area as ctl.darg; its result stands in
ctl.dres (14_dispatch R385) and in the status word (log 38). -/
def execDcmd (port : Nat) (s : State) : Host.Outcome State Fault Refusal :=
  if !(s.mbFirst port && s.mbCode port = 5 && s.hostAllowed port) then .next s
  else
    match (s.setPctl 0x2C9 (leWord (s.area port 0x40 8))).dcmd (bits (s.port port).mbCmd 15 8) with
    | none => .next s
    | some s' =>
      .next (s'.mbDone port ((s'.pctl 0x2CB).toNat % 256))

/-- ROUTE: an entry of a message switch's route table (13_fabric R353): the first word of the area holds the package number in
[9:0], the switch in [16] and the set of its six ports in [37:32] (log 38). -/
def execRoute (port : Nat) (s : State) : Host.Outcome State Fault Refusal :=
  if !(s.mbFirst port && s.mbCode port = 6 && s.hostAllowed port) then .next s
  else
    let x := leWord (s.area port 0x40 8)
    let k := bits x 16 16
    let ports := ((List.range 6).filter (fun i => bit x (32 + i))).map (fun i => 6 * k + i)
    let w := s.switch k
    .next ((s.setSwitch k { w with routes := tput w.routes (bits x 9 0) ports }).mbDone port 0)

/-- MBOX_BAD_COMMAND: a code that names no command, or one that is not accepted from this port or in this state, has result 0xFF
and changes nothing. -/
def execMboxBadCommand (port : Nat) (s : State) : Host.Outcome State Fault Refusal :=
  let c := s.mbCode port
  let bad := c = 0 || decide (6 < c) || (decide (5 ≤ c) && !s.hostAllowed port)
  if s.mbFirst port && bad then .next (s.mbDone port 0xFF) else .next s

end Sys2Proof.Machine
end

