-- ==== Sys2Proof/Machine/Ctl.lean ====
section
/-! DEFINITION. The instructions that read and write control registers (04_strand R130), the two registers that issue commands
(16_debug R409, 14_dispatch R375), and the steps by which a write takes effect. -/

namespace Sys2Proof.Machine

/-! ### The instructions (R130) -/

/-- The access of the current mode to a register. -/
def State.curAccess (s : State) (n : Nat) : Access := ctlAccess s.curCore n s.cur.status.mode

/-- A CTL instruction that names a register its mode may not use is ILLEGAL, as is one that writes a register its mode may only
read. -/
def ctlCheck (n : Nat) (writes : Bool) (i : Instr) : Act Unit :=
  require (fun s => match s.curAccess n with
    | .none => false
    | .ro => !writes
    | _ => true) i

/-- A register's value before the instruction; one that can only be written reads 0 (00_scope R7). -/
def State.ctlValue (s : State) (n : Nat) : Word := match s.curAccess n with | .wo => 0 | _ => s.readCtl s.curSid n

/-- CTLR. -/
def execCtlr (rd : BitVec 6) (reg : BitVec 10) (s : State) : Host.Outcome State Fault Refusal :=
  runAct (do
    ctlCheck reg.toNat false (.ctlr rd reg)
    doneWith rd (s.ctlValue reg.toNat) 4 1) s

/-- A write of ctl.dbgcmd issues a debug command, which may trap, wait, or end with its result in ctl.dbgres. -/
def dbgWriteAct (rd : BitVec 6) (x : Word) : Act Unit := do
  let s ← get
  match s.dbgOf s.curSid (bits x 7 0) x with
  | .trap detail code tval => trap detail code tval
  | .waits t cap s' => set ((s'.gw rd 0).modCur (fun c => { c with wait := .dbgHalt t cap }))
  | .done code arg2 s' =>
    set (s'.dbgResult s'.curSid code arg2)
    doneWith rd 0 4 1

/-- A write of ctl.dcmd issues a dispatcher command; it waits while TREMOVE does. -/
def dcmdAct (rd : BitVec 6) (x : Word) : Act Unit := do
  match (← get).dcmd x.toNat with
  | none => stall
  | some s' =>
    set s'
    doneWith rd 0 4 1

/-- A register written with a value, and its old value into rd. -/
def ctlWriteAct (rd : BitVec 6) (n : Nat) (old x : Word) : Act Unit := do
  if n = 0x24B then dbgWriteAct rd x
  else if n = 0x2CA then dcmdAct rd x
  else
    change (fun s => s.writeCtl s.curSid n s.cur.status.mode x)
    doneWith rd old 4 1

/-- CTLW. -/
def execCtlw (rd rs1 : BitVec 6) (reg : BitVec 10) (s : State) : Host.Outcome State Fault Refusal :=
  runAct (do
    ctlCheck reg.toNat true (.ctlw rd rs1 reg)
    ctlWriteAct rd reg.toNat (s.ctlValue reg.toNat) (s.gr rs1)) s

/-- CTLSET: a field that is cleared by writing 1 takes the value itself. -/
def execCtlset (rd rs1 : BitVec 6) (reg : BitVec 10) (s : State) : Host.Outcome State Fault Refusal :=
  runAct (do
    ctlCheck reg.toNat true (.ctlset rd rs1 reg)
    let old := s.ctlValue reg.toNat
    ctlWriteAct rd reg.toNat old (if reg.toNat = cIpend then s.gr rs1 else old ||| s.gr rs1)) s

/-- CTLCLR: a field that is cleared by writing 1 takes 0. -/
def execCtlclr (rd rs1 : BitVec 6) (reg : BitVec 10) (s : State) : Host.Outcome State Fault Refusal :=
  runAct (do
    ctlCheck reg.toNat true (.ctlclr rd rs1 reg)
    let old := s.ctlValue reg.toNat
    ctlWriteAct rd reg.toNat old (if reg.toNat = cIpend then 0 else old &&& ~~~s.gr rs1)) s

/-! ### The steps of writes -/

/-- A register that some behaviour of its own answers a write of. -/
def ctlOwn (n : Nat) : Bool := [0x009, 0x10B, 0x10D, 0x1C7, 0x244, 0x24B, 0x282, 0x284, 0x2CA].contains n

/-- A strand's write of a register takes effect; one its mode may not make does not happen. -/
def writeStep (core slot n : Nat) (x : Word) (s : State) : Host.Outcome State Fault Refusal :=
  let sid := core * 8 + slot
  let m := (s.st sid).status.mode
  if !coreExists core ∨ 5 ≤ slot then .next s
  else
    match ctlAccess core n m with
    | .rw => .next (s.writeCtl sid n m x)
    | .wo => .next (s.writeCtl sid n m x)
    | _ => .next s

/-- IPEND_CLEAR. -/
def execIpendClear (core slot : Nat) (value : Word) (s : State) : Host.Outcome State Fault Refusal := writeStep core slot 0x009 value s
/-- VQPOP. -/
def execVqpop (core slot : Nat) (value : Word) (s : State) : Host.Outcome State Fault Refusal := writeStep core slot 0x10D value s
/-- FQTAIL_WRITE. -/
def execFqtailWrite (core slot : Nat) (value : Word) (s : State) : Host.Outcome State Fault Refusal := writeStep core slot 0x10B value s
/-- TRTAIL_WRITE. -/
def execTrtailWrite (core slot : Nat) (value : Word) (s : State) : Host.Outcome State Fault Refusal := writeStep core slot 0x244 value s
/-- SHRENT2_WRITE. -/
def execShrent2Write (core slot : Nat) (value : Word) (s : State) : Host.Outcome State Fault Refusal := writeStep core slot 0x1C7 value s
/-- SVPOP. -/
def execSvpop (core slot : Nat) (value : Word) (s : State) : Host.Outcome State Fault Refusal := writeStep core slot 0x282 value s
/-- IPOINT_WRITE. -/
def execIpointWrite (core slot : Nat) (value : Word) (s : State) : Host.Outcome State Fault Refusal := writeStep core slot 0x284 value s

/-- REGISTER_WRITE: a register with no behaviour of its own. -/
def execRegisterWrite (core slot num : Nat) (value : Word) (s : State) : Host.Outcome State Fault Refusal :=
  if ctlOwn num then .next s else writeStep core slot num value s

end Sys2Proof.Machine
end

