-- ==== Sys2Proof/Machine/VecEntry.lean ====
section
/-! DEFINITION. The issue of every vector-stream instruction that takes a queue entry (05_vector R142): one definition each,
over the shared `enqueue`.  What an entry does is `performEntry` (VecMem), over `arithEntry` (VecArith) and `memEntry`. -/

namespace Sys2Proof.Machine

/-- The landing format a VCVT captures: that of bank vd mod 16 for target .q, otherwise none (R142, R166). -/
def State.vcvtFormat (s : State) (vd : BitVec 5) (target : BitVec 6) : BitVec 8 :=
  if target = 63 then (tget 0 (s.core s.curCore).lfmt (vd.toNat % 16)).setWidth 8 else 0

/-- FENCE_SV takes a queue entry (R188). -/
def execFenceSv (s : State) : Host.Outcome State Fault Refusal :=
  runAct (enqueue .fenceSv 0 0 0) s

/-- FENCE_VS takes a queue entry (R188). -/
def execFenceVs (s : State) : Host.Outcome State Fault Refusal :=
  runAct (enqueue .fenceVs 0 0 0) s

/-- FENCE_VV takes a queue entry (R188). -/
def execFenceVv (s : State) : Host.Outcome State Fault Refusal :=
  runAct (enqueue .fenceVv 0 0 0) s

/-- VADD_IVV takes a queue entry (R157). -/
def execVaddIvv (vd : BitVec 5) (vs1 : BitVec 5) (vs2 : BitVec 5) (km : BitVec 4) (uns : BitVec 1) (s : State) : Host.Outcome State Fault Refusal :=
  runAct (enqueue (.vaddIvv vd vs1 vs2 km uns) 0 0 0) s

/-- VSUB_IVV takes a queue entry (R157). -/
def execVsubIvv (vd : BitVec 5) (vs1 : BitVec 5) (vs2 : BitVec 5) (km : BitVec 4) (uns : BitVec 1) (s : State) : Host.Outcome State Fault Refusal :=
  runAct (enqueue (.vsubIvv vd vs1 vs2 km uns) 0 0 0) s

/-- VMUL_IVV takes a queue entry (R157). -/
def execVmulIvv (vd : BitVec 5) (vs1 : BitVec 5) (vs2 : BitVec 5) (km : BitVec 4) (uns : BitVec 1) (s : State) : Host.Outcome State Fault Refusal :=
  runAct (enqueue (.vmulIvv vd vs1 vs2 km uns) 0 0 0) s

/-- VMULH takes a queue entry (R157). -/
def execVmulh (vd : BitVec 5) (vs1 : BitVec 5) (vs2 : BitVec 5) (km : BitVec 4) (uns : BitVec 1) (s : State) : Host.Outcome State Fault Refusal :=
  runAct (enqueue (.vmulh vd vs1 vs2 km uns) 0 0 0) s

/-- VDIV_IVV takes a queue entry (R157). -/
def execVdivIvv (vd : BitVec 5) (vs1 : BitVec 5) (vs2 : BitVec 5) (km : BitVec 4) (uns : BitVec 1) (s : State) : Host.Outcome State Fault Refusal :=
  runAct (enqueue (.vdivIvv vd vs1 vs2 km uns) 0 0 0) s

/-- VMIN_IVV takes a queue entry (R157). -/
def execVminIvv (vd : BitVec 5) (vs1 : BitVec 5) (vs2 : BitVec 5) (km : BitVec 4) (uns : BitVec 1) (s : State) : Host.Outcome State Fault Refusal :=
  runAct (enqueue (.vminIvv vd vs1 vs2 km uns) 0 0 0) s

/-- VMAX_IVV takes a queue entry (R157). -/
def execVmaxIvv (vd : BitVec 5) (vs1 : BitVec 5) (vs2 : BitVec 5) (km : BitVec 4) (uns : BitVec 1) (s : State) : Host.Outcome State Fault Refusal :=
  runAct (enqueue (.vmaxIvv vd vs1 vs2 km uns) 0 0 0) s

/-- VAND_IVV takes a queue entry (R157). -/
def execVandIvv (vd : BitVec 5) (vs1 : BitVec 5) (vs2 : BitVec 5) (km : BitVec 4) (uns : BitVec 1) (s : State) : Host.Outcome State Fault Refusal :=
  runAct (enqueue (.vandIvv vd vs1 vs2 km uns) 0 0 0) s

/-- VOR takes a queue entry (R157). -/
def execVor (vd : BitVec 5) (vs1 : BitVec 5) (vs2 : BitVec 5) (km : BitVec 4) (uns : BitVec 1) (s : State) : Host.Outcome State Fault Refusal :=
  runAct (enqueue (.vor vd vs1 vs2 km uns) 0 0 0) s

/-- VXOR takes a queue entry (R157). -/
def execVxor (vd : BitVec 5) (vs1 : BitVec 5) (vs2 : BitVec 5) (km : BitVec 4) (uns : BitVec 1) (s : State) : Host.Outcome State Fault Refusal :=
  runAct (enqueue (.vxor vd vs1 vs2 km uns) 0 0 0) s

/-- VSHL_IVV takes a queue entry (R157). -/
def execVshlIvv (vd : BitVec 5) (vs1 : BitVec 5) (vs2 : BitVec 5) (km : BitVec 4) (uns : BitVec 1) (s : State) : Host.Outcome State Fault Refusal :=
  runAct (enqueue (.vshlIvv vd vs1 vs2 km uns) 0 0 0) s

/-- VSHR_IVV takes a queue entry (R157). -/
def execVshrIvv (vd : BitVec 5) (vs1 : BitVec 5) (vs2 : BitVec 5) (km : BitVec 4) (uns : BitVec 1) (s : State) : Host.Outcome State Fault Refusal :=
  runAct (enqueue (.vshrIvv vd vs1 vs2 km uns) 0 0 0) s

/-- VADDS takes a queue entry (R157). -/
def execVadds (vd : BitVec 5) (vs1 : BitVec 5) (vs2 : BitVec 5) (km : BitVec 4) (uns : BitVec 1) (s : State) : Host.Outcome State Fault Refusal :=
  runAct (enqueue (.vadds vd vs1 vs2 km uns) 0 0 0) s

/-- VSUBS takes a queue entry (R157). -/
def execVsubs (vd : BitVec 5) (vs1 : BitVec 5) (vs2 : BitVec 5) (km : BitVec 4) (uns : BitVec 1) (s : State) : Host.Outcome State Fault Refusal :=
  runAct (enqueue (.vsubs vd vs1 vs2 km uns) 0 0 0) s

/-- VADD_IVX takes a queue entry (R157). -/
def execVaddIvx (vd : BitVec 5) (vs1 : BitVec 5) (km : BitVec 4) (uns : BitVec 1) (gs : BitVec 6) (s : State) : Host.Outcome State Fault Refusal :=
  runAct (enqueue (.vaddIvx vd vs1 km uns gs) (s.gr gs) 0 0) s

/-- VSUB_IVX takes a queue entry (R157). -/
def execVsubIvx (vd : BitVec 5) (vs1 : BitVec 5) (km : BitVec 4) (uns : BitVec 1) (gs : BitVec 6) (s : State) : Host.Outcome State Fault Refusal :=
  runAct (enqueue (.vsubIvx vd vs1 km uns gs) (s.gr gs) 0 0) s

/-- VMUL_IVX takes a queue entry (R157). -/
def execVmulIvx (vd : BitVec 5) (vs1 : BitVec 5) (km : BitVec 4) (uns : BitVec 1) (gs : BitVec 6) (s : State) : Host.Outcome State Fault Refusal :=
  runAct (enqueue (.vmulIvx vd vs1 km uns gs) (s.gr gs) 0 0) s

/-- VMIN_IVX takes a queue entry (R157). -/
def execVminIvx (vd : BitVec 5) (vs1 : BitVec 5) (km : BitVec 4) (uns : BitVec 1) (gs : BitVec 6) (s : State) : Host.Outcome State Fault Refusal :=
  runAct (enqueue (.vminIvx vd vs1 km uns gs) (s.gr gs) 0 0) s

/-- VMAX_IVX takes a queue entry (R157). -/
def execVmaxIvx (vd : BitVec 5) (vs1 : BitVec 5) (km : BitVec 4) (uns : BitVec 1) (gs : BitVec 6) (s : State) : Host.Outcome State Fault Refusal :=
  runAct (enqueue (.vmaxIvx vd vs1 km uns gs) (s.gr gs) 0 0) s

/-- VAND_IVX takes a queue entry (R157). -/
def execVandIvx (vd : BitVec 5) (vs1 : BitVec 5) (km : BitVec 4) (uns : BitVec 1) (gs : BitVec 6) (s : State) : Host.Outcome State Fault Refusal :=
  runAct (enqueue (.vandIvx vd vs1 km uns gs) (s.gr gs) 0 0) s

/-- VSHL_IVX takes a queue entry (R157). -/
def execVshlIvx (vd : BitVec 5) (vs1 : BitVec 5) (km : BitVec 4) (uns : BitVec 1) (gs : BitVec 6) (s : State) : Host.Outcome State Fault Refusal :=
  runAct (enqueue (.vshlIvx vd vs1 km uns gs) (s.gr gs) 0 0) s

/-- VSHR_IVX takes a queue entry (R157). -/
def execVshrIvx (vd : BitVec 5) (vs1 : BitVec 5) (km : BitVec 4) (uns : BitVec 1) (gs : BitVec 6) (s : State) : Host.Outcome State Fault Refusal :=
  runAct (enqueue (.vshrIvx vd vs1 km uns gs) (s.gr gs) 0 0) s

/-- VADD_FVV takes a queue entry (R158). -/
def execVaddFvv (vd : BitVec 5) (vs1 : BitVec 5) (vs2 : BitVec 5) (km : BitVec 5) (s : State) : Host.Outcome State Fault Refusal :=
  runAct (enqueue (.vaddFvv vd vs1 vs2 km) 0 0 0) s

/-- VSUB_FVV takes a queue entry (R158). -/
def execVsubFvv (vd : BitVec 5) (vs1 : BitVec 5) (vs2 : BitVec 5) (km : BitVec 5) (s : State) : Host.Outcome State Fault Refusal :=
  runAct (enqueue (.vsubFvv vd vs1 vs2 km) 0 0 0) s

/-- VMUL_FVV takes a queue entry (R158). -/
def execVmulFvv (vd : BitVec 5) (vs1 : BitVec 5) (vs2 : BitVec 5) (km : BitVec 5) (s : State) : Host.Outcome State Fault Refusal :=
  runAct (enqueue (.vmulFvv vd vs1 vs2 km) 0 0 0) s

/-- VDIV_FVV takes a queue entry (R158). -/
def execVdivFvv (vd : BitVec 5) (vs1 : BitVec 5) (vs2 : BitVec 5) (km : BitVec 5) (s : State) : Host.Outcome State Fault Refusal :=
  runAct (enqueue (.vdivFvv vd vs1 vs2 km) 0 0 0) s

/-- VMIN_FVV takes a queue entry (R158). -/
def execVminFvv (vd : BitVec 5) (vs1 : BitVec 5) (vs2 : BitVec 5) (km : BitVec 5) (s : State) : Host.Outcome State Fault Refusal :=
  runAct (enqueue (.vminFvv vd vs1 vs2 km) 0 0 0) s

/-- VMAX_FVV takes a queue entry (R158). -/
def execVmaxFvv (vd : BitVec 5) (vs1 : BitVec 5) (vs2 : BitVec 5) (km : BitVec 5) (s : State) : Host.Outcome State Fault Refusal :=
  runAct (enqueue (.vmaxFvv vd vs1 vs2 km) 0 0 0) s

/-- VADD_FVX takes a queue entry (R158). -/
def execVaddFvx (vd : BitVec 5) (vs1 : BitVec 5) (km : BitVec 5) (gs : BitVec 6) (s : State) : Host.Outcome State Fault Refusal :=
  runAct (enqueue (.vaddFvx vd vs1 km gs) (s.gr gs) 0 0) s

/-- VSUB_FVX takes a queue entry (R158). -/
def execVsubFvx (vd : BitVec 5) (vs1 : BitVec 5) (km : BitVec 5) (gs : BitVec 6) (s : State) : Host.Outcome State Fault Refusal :=
  runAct (enqueue (.vsubFvx vd vs1 km gs) (s.gr gs) 0 0) s

/-- VMUL_FVX takes a queue entry (R158). -/
def execVmulFvx (vd : BitVec 5) (vs1 : BitVec 5) (km : BitVec 5) (gs : BitVec 6) (s : State) : Host.Outcome State Fault Refusal :=
  runAct (enqueue (.vmulFvx vd vs1 km gs) (s.gr gs) 0 0) s

/-- VDIV_FVX takes a queue entry (R158). -/
def execVdivFvx (vd : BitVec 5) (vs1 : BitVec 5) (km : BitVec 5) (gs : BitVec 6) (s : State) : Host.Outcome State Fault Refusal :=
  runAct (enqueue (.vdivFvx vd vs1 km gs) (s.gr gs) 0 0) s

/-- VMIN_FVX takes a queue entry (R158). -/
def execVminFvx (vd : BitVec 5) (vs1 : BitVec 5) (km : BitVec 5) (gs : BitVec 6) (s : State) : Host.Outcome State Fault Refusal :=
  runAct (enqueue (.vminFvx vd vs1 km gs) (s.gr gs) 0 0) s

/-- VMAX_FVX takes a queue entry (R158). -/
def execVmaxFvx (vd : BitVec 5) (vs1 : BitVec 5) (km : BitVec 5) (gs : BitVec 6) (s : State) : Host.Outcome State Fault Refusal :=
  runAct (enqueue (.vmaxFvx vd vs1 km gs) (s.gr gs) 0 0) s

/-- VFMA takes a queue entry (R159). -/
def execVfma (vd : BitVec 5) (vs1 : BitVec 5) (vs2 : BitVec 5) (km : BitVec 5) (s : State) : Host.Outcome State Fault Refusal :=
  runAct (enqueue (.vfma vd vs1 vs2 km) 0 0 0) s

/-- VFMS takes a queue entry (R159). -/
def execVfms (vd : BitVec 5) (vs1 : BitVec 5) (vs2 : BitVec 5) (km : BitVec 5) (s : State) : Host.Outcome State Fault Refusal :=
  runAct (enqueue (.vfms vd vs1 vs2 km) 0 0 0) s

/-- VFNMA takes a queue entry (R159). -/
def execVfnma (vd : BitVec 5) (vs1 : BitVec 5) (vs2 : BitVec 5) (km : BitVec 5) (s : State) : Host.Outcome State Fault Refusal :=
  runAct (enqueue (.vfnma vd vs1 vs2 km) 0 0 0) s

/-- VCMP takes a queue entry (R161). -/
def execVcmp (vd : BitVec 5) (vs1 : BitVec 5) (vs2 : BitVec 5) (km : BitVec 4) (uns : BitVec 1) (cond : BitVec 4) (s : State) : Host.Outcome State Fault Refusal :=
  runAct (enqueue (.vcmp vd vs1 vs2 km uns cond) 0 0 0) s

/-- VSEL takes a queue entry (R162). -/
def execVsel (vd : BitVec 5) (vs1 : BitVec 5) (km : BitVec 5) (gs : BitVec 6) (s : State) : Host.Outcome State Fault Refusal :=
  runAct (enqueue (.vsel vd vs1 km gs) (s.gr gs) 0 0) s

/-- VBCAST takes a queue entry (R162). -/
def execVbcast (vd : BitVec 5) (vs1 : BitVec 5) (km : BitVec 5) (gs : BitVec 6) (s : State) : Host.Outcome State Fault Refusal :=
  runAct (enqueue (.vbcast vd vs1 km gs) (s.gr gs) 0 0) s

/-- VEXT takes a queue entry (R162). -/
def execVext (vd : BitVec 5) (vs1 : BitVec 5) (uns : BitVec 1) (gs : BitVec 6) (s : State) : Host.Outcome State Fault Refusal :=
  runAct (enqueue (.vext vd vs1 uns gs) (s.gr gs) 0 0) s

/-- VINS takes a queue entry (R162). -/
def execVins (vd : BitVec 5) (idx : BitVec 5) (gs : BitVec 6) (s : State) : Host.Outcome State Fault Refusal :=
  runAct (enqueue (.vins vd idx gs) (s.gr gs) (s.gr idx) 0) s

/-- VSLIDEUP takes a queue entry (R163). -/
def execVslideup (vd : BitVec 5) (vs1 : BitVec 5) (km : BitVec 5) (gs : BitVec 6) (s : State) : Host.Outcome State Fault Refusal :=
  runAct (enqueue (.vslideup vd vs1 km gs) (s.gr gs) 0 0) s

/-- VSLIDEDN takes a queue entry (R163). -/
def execVslidedn (vd : BitVec 5) (vs1 : BitVec 5) (km : BitVec 5) (gs : BitVec 6) (s : State) : Host.Outcome State Fault Refusal :=
  runAct (enqueue (.vslidedn vd vs1 km gs) (s.gr gs) 0 0) s

/-- VPERM takes a queue entry (R163). -/
def execVperm (vd : BitVec 5) (vs1 : BitVec 5) (idx : BitVec 5) (s : State) : Host.Outcome State Fault Refusal :=
  runAct (enqueue (.vperm vd vs1 idx) 0 0 0) s

/-- VCOMPRESS takes a queue entry (R163). -/
def execVcompress (vd : BitVec 5) (vs1 : BitVec 5) (km : BitVec 5) (s : State) : Host.Outcome State Fault Refusal :=
  runAct (enqueue (.vcompress vd vs1 km) 0 0 0) s

/-- VEXPAND takes a queue entry (R163). -/
def execVexpand (vd : BitVec 5) (vs1 : BitVec 5) (km : BitVec 5) (s : State) : Host.Outcome State Fault Refusal :=
  runAct (enqueue (.vexpand vd vs1 km) 0 0 0) s

/-- VIOTA takes a queue entry (R163). -/
def execViota (vd : BitVec 5) (km : BitVec 5) (s : State) : Host.Outcome State Fault Refusal :=
  runAct (enqueue (.viota vd km) 0 0 0) s

/-- VRED takes a queue entry (R164). -/
def execVred (vd : BitVec 5) (vs1 : BitVec 5) (km : BitVec 4) (uns : BitVec 1) (op : BitVec 3) (s : State) : Host.Outcome State Fault Refusal :=
  runAct (enqueue (.vred vd vs1 km uns op) 0 0 0) s

/-- VSCAN takes a queue entry (R164). -/
def execVscan (vd : BitVec 5) (vs1 : BitVec 5) (km : BitVec 4) (uns : BitVec 1) (op : BitVec 3) (s : State) : Host.Outcome State Fault Refusal :=
  runAct (enqueue (.vscan vd vs1 km uns op) 0 0 0) s

/-- VDOT takes a queue entry (R165). -/
def execVdot (vd : BitVec 5) (vs1 : BitVec 5) (vs2 : BitVec 5) (km : BitVec 4) (uns : BitVec 1) (s : State) : Host.Outcome State Fault Refusal :=
  runAct (enqueue (.vdot vd vs1 vs2 km uns) 0 0 0) s

/-- VSQRT takes a queue entry (R160). -/
def execVsqrt (vd : BitVec 5) (vs1 : BitVec 5) (km : BitVec 5) (s : State) : Host.Outcome State Fault Refusal :=
  runAct (enqueue (.vsqrt vd vs1 km) 0 0 0) s

/-- VRCP takes a queue entry (R160). -/
def execVrcp (vd : BitVec 5) (vs1 : BitVec 5) (km : BitVec 5) (s : State) : Host.Outcome State Fault Refusal :=
  runAct (enqueue (.vrcp vd vs1 km) 0 0 0) s

/-- VRSQ takes a queue entry (R160). -/
def execVrsq (vd : BitVec 5) (vs1 : BitVec 5) (km : BitVec 5) (s : State) : Host.Outcome State Fault Refusal :=
  runAct (enqueue (.vrsq vd vs1 km) 0 0 0) s

/-- VEXP2 takes a queue entry (R160). -/
def execVexp2 (vd : BitVec 5) (vs1 : BitVec 5) (km : BitVec 5) (s : State) : Host.Outcome State Fault Refusal :=
  runAct (enqueue (.vexp2 vd vs1 km) 0 0 0) s

/-- VLOG2 takes a queue entry (R160). -/
def execVlog2 (vd : BitVec 5) (vs1 : BitVec 5) (km : BitVec 5) (s : State) : Host.Outcome State Fault Refusal :=
  runAct (enqueue (.vlog2 vd vs1 km) 0 0 0) s

/-- VCVT takes a queue entry (R166). -/
def execVcvt (vd : BitVec 5) (vs1 : BitVec 5) (km : BitVec 3) (efc : BitVec 2) (reset : BitVec 1) (rm : BitVec 2) (target : BitVec 6) (s : State) : Host.Outcome State Fault Refusal :=
  runAct (enqueue (.vcvt vd vs1 km efc reset rm target) 0 0 (s.vcvtFormat vd target)) s

/-- EFGET takes a queue entry (R167). -/
def execEfget (rd : BitVec 6) (num : BitVec 2) (s : State) : Host.Outcome State Fault Refusal :=
  runAct (enqueue (.efget rd num) 0 0 0) s

/-- EFSET takes a queue entry (R167). -/
def execEfset (rs1 : BitVec 6) (num : BitVec 2) (s : State) : Host.Outcome State Fault Refusal :=
  runAct (enqueue (.efset rs1 num) (s.gr rs1) 0 0) s

/-- KAND takes a queue entry (R168). -/
def execKand (vd : BitVec 5) (vs1 : BitVec 5) (vs2 : BitVec 5) (s : State) : Host.Outcome State Fault Refusal :=
  runAct (enqueue (.kand vd vs1 vs2) 0 0 0) s

/-- KOR takes a queue entry (R168). -/
def execKor (vd : BitVec 5) (vs1 : BitVec 5) (vs2 : BitVec 5) (s : State) : Host.Outcome State Fault Refusal :=
  runAct (enqueue (.kor vd vs1 vs2) 0 0 0) s

/-- KXOR takes a queue entry (R168). -/
def execKxor (vd : BitVec 5) (vs1 : BitVec 5) (vs2 : BitVec 5) (s : State) : Host.Outcome State Fault Refusal :=
  runAct (enqueue (.kxor vd vs1 vs2) 0 0 0) s

/-- KANDN takes a queue entry (R168). -/
def execKandn (vd : BitVec 5) (vs1 : BitVec 5) (vs2 : BitVec 5) (s : State) : Host.Outcome State Fault Refusal :=
  runAct (enqueue (.kandn vd vs1 vs2) 0 0 0) s

/-- KNOT takes a queue entry (R168). -/
def execKnot (vd : BitVec 5) (vs1 : BitVec 5) (s : State) : Host.Outcome State Fault Refusal :=
  runAct (enqueue (.knot vd vs1) 0 0 0) s

/-- KMOV takes a queue entry (R168). -/
def execKmov (vd : BitVec 5) (vs1 : BitVec 5) (s : State) : Host.Outcome State Fault Refusal :=
  runAct (enqueue (.kmov vd vs1) 0 0 0) s

/-- KPOP takes a queue entry (R168). -/
def execKpop (vd : BitVec 5) (vs1 : BitVec 5) (s : State) : Host.Outcome State Fault Refusal :=
  runAct (enqueue (.kpop vd vs1) 0 0 0) s

/-- KFIRST takes a queue entry (R168). -/
def execKfirst (vd : BitVec 5) (vs1 : BitVec 5) (s : State) : Host.Outcome State Fault Refusal :=
  runAct (enqueue (.kfirst vd vs1) 0 0 0) s

/-- KSET takes a queue entry (R168). -/
def execKset (vd : BitVec 5) (vs1 : BitVec 5) (word : BitVec 2) (s : State) : Host.Outcome State Fault Refusal :=
  runAct (enqueue (.kset vd vs1 word) 0 (s.gr vs1) 0) s

/-- KGET takes a queue entry (R168). -/
def execKget (vd : BitVec 5) (vs1 : BitVec 5) (word : BitVec 2) (s : State) : Host.Outcome State Fault Refusal :=
  runAct (enqueue (.kget vd vs1 word) 0 0 0) s

/-- VLD takes a queue entry (R176). -/
def execVld (vd : BitVec 5) (km : BitVec 5) (gs : BitVec 6) (s : State) : Host.Outcome State Fault Refusal :=
  runAct (enqueue (.vld vd km gs) (s.gr gs) 0 0) s

/-- VLDS takes a queue entry (R176). -/
def execVlds (vd : BitVec 5) (stride : BitVec 5) (km : BitVec 5) (gs : BitVec 6) (s : State) : Host.Outcome State Fault Refusal :=
  runAct (enqueue (.vlds vd stride km gs) (s.gr gs) (s.gr stride) 0) s

/-- VLDX takes a queue entry (R176). -/
def execVldx (vd : BitVec 5) (idx : BitVec 5) (km : BitVec 5) (gs : BitVec 6) (s : State) : Host.Outcome State Fault Refusal :=
  runAct (enqueue (.vldx vd idx km gs) (s.gr gs) 0 0) s

/-- VLD_SL takes a queue entry (R174). -/
def execVldSl (vd : BitVec 5) (km : BitVec 5) (gs : BitVec 6) (s : State) : Host.Outcome State Fault Refusal :=
  runAct (enqueue (.vldSl vd km gs) (s.gr gs) 0 0) s

/-- VST takes a queue entry (R176). -/
def execVst (vd : BitVec 5) (km : BitVec 5) (gs : BitVec 6) (s : State) : Host.Outcome State Fault Refusal :=
  runAct (enqueue (.vst vd km gs) (s.gr gs) 0 0) s

/-- VSTS takes a queue entry (R176). -/
def execVsts (vd : BitVec 5) (stride : BitVec 5) (km : BitVec 5) (gs : BitVec 6) (s : State) : Host.Outcome State Fault Refusal :=
  runAct (enqueue (.vsts vd stride km gs) (s.gr gs) (s.gr stride) 0) s

/-- VSTX takes a queue entry (R176). -/
def execVstx (vd : BitVec 5) (idx : BitVec 5) (km : BitVec 5) (gs : BitVec 6) (s : State) : Host.Outcome State Fault Refusal :=
  runAct (enqueue (.vstx vd idx km gs) (s.gr gs) 0 0) s

/-- VST_SL takes a queue entry (R174). -/
def execVstSl (vd : BitVec 5) (km : BitVec 5) (gs : BitVec 6) (s : State) : Host.Outcome State Fault Refusal :=
  runAct (enqueue (.vstSl vd km gs) (s.gr gs) 0 0) s

/-- VLDT takes a queue entry (R177). -/
def execVldt (vd : BitVec 5) (line : BitVec 5) (km : BitVec 5) (gs : BitVec 6) (s : State) : Host.Outcome State Fault Refusal :=
  runAct (enqueue (.vldt vd line km gs) (s.gr gs) (s.gr line) 0) s

/-- VSTT takes a queue entry (R178). -/
def execVstt (vd : BitVec 5) (shape : BitVec 5) (gs : BitVec 6) (s : State) : Host.Outcome State Fault Refusal :=
  runAct (enqueue (.vstt vd shape gs) (s.gr gs) (s.gr shape) 0) s

/-- VLDC takes a queue entry (R179). -/
def execVldc (vd : BitVec 5) (offs : BitVec 5) (km : BitVec 5) (gs : BitVec 6) (s : State) : Host.Outcome State Fault Refusal :=
  runAct (enqueue (.vldc vd offs km gs) (s.gr gs) (s.gr offs) 0) s

/-- VPF takes a queue entry (R180). -/
def execVpf (level : BitVec 5) (len : BitVec 5) (gs : BitVec 6) (s : State) : Host.Outcome State Fault Refusal :=
  runAct (enqueue (.vpf level len gs) (s.gr gs) (s.gr len) 0) s

/-- VAMO takes a queue entry (R181). -/
def execVamo (vd : BitVec 5) (idx : BitVec 5) (km : BitVec 4) (uns : BitVec 1) (op : BitVec 3) (gs : BitVec 6) (s : State) : Host.Outcome State Fault Refusal :=
  runAct (enqueue (.vamo vd idx km uns op gs) (s.gr gs) 0 0) s

/-- VRDM takes a queue entry (R182). -/
def execVrdm (vd : BitVec 5) (idx : BitVec 5) (km : BitVec 4) (uns : BitVec 1) (op : BitVec 3) (gs : BitVec 6) (s : State) : Host.Outcome State Fault Refusal :=
  runAct (enqueue (.vrdm vd idx km uns op gs) (s.gr gs) 0 0) s

end Sys2Proof.Machine
end

