-- ==== Sys2Proof/Machine/Dispatch.lean ====
section
/-! DEFINITION. The meaning of each constructor of `Instr`, one arm each. -/

namespace Sys2Proof.Machine

/-- An instruction of the current strand, or an engine step. -/
def exec (i : Instr) (s : State) : Host.Outcome State Fault Refusal :=
  match i with
  | .add rd rs1 rs2 => Sys2Proof.Machine.execAdd rd rs1 rs2 s
  | .sub rd rs1 rs2 => Sys2Proof.Machine.execSub rd rs1 rs2 s
  | .mul rd rs1 rs2 => Sys2Proof.Machine.execMul rd rs1 rs2 s
  | .mulh rd rs1 rs2 => Sys2Proof.Machine.execMulh rd rs1 rs2 s
  | .mulhu rd rs1 rs2 => Sys2Proof.Machine.execMulhu rd rs1 rs2 s
  | .div rd rs1 rs2 => Sys2Proof.Machine.execDiv rd rs1 rs2 s
  | .divu rd rs1 rs2 => Sys2Proof.Machine.execDivu rd rs1 rs2 s
  | .rem rd rs1 rs2 => Sys2Proof.Machine.execRem rd rs1 rs2 s
  | .remu rd rs1 rs2 => Sys2Proof.Machine.execRemu rd rs1 rs2 s
  | .and rd rs1 rs2 => Sys2Proof.Machine.execAnd rd rs1 rs2 s
  | .or rd rs1 rs2 => Sys2Proof.Machine.execOr rd rs1 rs2 s
  | .xor rd rs1 rs2 => Sys2Proof.Machine.execXor rd rs1 rs2 s
  | .andn rd rs1 rs2 => Sys2Proof.Machine.execAndn rd rs1 rs2 s
  | .shl rd rs1 rs2 => Sys2Proof.Machine.execShl rd rs1 rs2 s
  | .shr rd rs1 rs2 => Sys2Proof.Machine.execShr rd rs1 rs2 s
  | .sha rd rs1 rs2 => Sys2Proof.Machine.execSha rd rs1 rs2 s
  | .rot rd rs1 rs2 => Sys2Proof.Machine.execRot rd rs1 rs2 s
  | .slt rd rs1 rs2 => Sys2Proof.Machine.execSlt rd rs1 rs2 s
  | .sltu rd rs1 rs2 => Sys2Proof.Machine.execSltu rd rs1 rs2 s
  | .min rd rs1 rs2 => Sys2Proof.Machine.execMin rd rs1 rs2 s
  | .max rd rs1 rs2 => Sys2Proof.Machine.execMax rd rs1 rs2 s
  | .minu rd rs1 rs2 => Sys2Proof.Machine.execMinu rd rs1 rs2 s
  | .maxu rd rs1 rs2 => Sys2Proof.Machine.execMaxu rd rs1 rs2 s
  | .clz rd rs1 => Sys2Proof.Machine.execClz rd rs1 s
  | .ctz rd rs1 => Sys2Proof.Machine.execCtz rd rs1 s
  | .popc rd rs1 => Sys2Proof.Machine.execPopc rd rs1 s
  | .sext rd rs1 rs2 => Sys2Proof.Machine.execSext rd rs1 rs2 s
  | .zext rd rs1 rs2 => Sys2Proof.Machine.execZext rd rs1 rs2 s
  | .addi rd rs1 imm => Sys2Proof.Machine.execAddi rd rs1 imm s
  | .andi rd rs1 imm => Sys2Proof.Machine.execAndi rd rs1 imm s
  | .ori rd rs1 imm => Sys2Proof.Machine.execOri rd rs1 imm s
  | .xori rd rs1 imm => Sys2Proof.Machine.execXori rd rs1 imm s
  | .shli rd rs1 amt => Sys2Proof.Machine.execShli rd rs1 amt s
  | .shri rd rs1 amt => Sys2Proof.Machine.execShri rd rs1 amt s
  | .shai rd rs1 amt => Sys2Proof.Machine.execShai rd rs1 amt s
  | .slti rd rs1 imm => Sys2Proof.Machine.execSlti rd rs1 imm s
  | .sltiu rd rs1 imm => Sys2Proof.Machine.execSltiu rd rs1 imm s
  | .lih rd imm => Sys2Proof.Machine.execLih rd imm s
  | .loxi num imm => Sys2Proof.Machine.execLoxi num imm s
  | .loxiSh num imm => Sys2Proof.Machine.execLoxiSh num imm s
  | .lox num rs1 => Sys2Proof.Machine.execLox num rs1 s
  | .movox num src => Sys2Proof.Machine.execMovox num src s
  | .fadd rd rs1 rs2 ty => Sys2Proof.Machine.execFadd rd rs1 rs2 ty s
  | .fsub rd rs1 rs2 ty => Sys2Proof.Machine.execFsub rd rs1 rs2 ty s
  | .fmul rd rs1 rs2 ty => Sys2Proof.Machine.execFmul rd rs1 rs2 ty s
  | .fdiv rd rs1 rs2 ty => Sys2Proof.Machine.execFdiv rd rs1 rs2 ty s
  | .fsqrt rd rs1 ty => Sys2Proof.Machine.execFsqrt rd rs1 ty s
  | .fmin rd rs1 rs2 ty => Sys2Proof.Machine.execFmin rd rs1 rs2 ty s
  | .fmax rd rs1 rs2 ty => Sys2Proof.Machine.execFmax rd rs1 rs2 ty s
  | .fcmp rd rs1 rs2 ty => Sys2Proof.Machine.execFcmp rd rs1 rs2 ty s
  | .fclass rd rs1 ty => Sys2Proof.Machine.execFclass rd rs1 ty s
  | .ffma rd rs1 rs2 rs3 ty => Sys2Proof.Machine.execFfma rd rs1 rs2 rs3 ty s
  | .fcvt rd rs1 rm src dst => Sys2Proof.Machine.execFcvt rd rs1 rm src dst s
  | .ldb rd rs1 imm => Sys2Proof.Machine.execLdb rd rs1 imm s
  | .ldbu rd rs1 imm => Sys2Proof.Machine.execLdbu rd rs1 imm s
  | .ldh rd rs1 imm => Sys2Proof.Machine.execLdh rd rs1 imm s
  | .ldhu rd rs1 imm => Sys2Proof.Machine.execLdhu rd rs1 imm s
  | .ldw rd rs1 imm => Sys2Proof.Machine.execLdw rd rs1 imm s
  | .ldwu rd rs1 imm => Sys2Proof.Machine.execLdwu rd rs1 imm s
  | .ldd rd rs1 imm => Sys2Proof.Machine.execLdd rd rs1 imm s
  | .stb immLo rs1 rs2 immHi => Sys2Proof.Machine.execStb immLo rs1 rs2 immHi s
  | .sth immLo rs1 rs2 immHi => Sys2Proof.Machine.execSth immLo rs1 rs2 immHi s
  | .stw immLo rs1 rs2 immHi => Sys2Proof.Machine.execStw immLo rs1 rs2 immHi s
  | .std immLo rs1 rs2 immHi => Sys2Proof.Machine.execStd immLo rs1 rs2 immHi s
  | .ldfe rd rs1 => Sys2Proof.Machine.execLdfe rd rs1 s
  | .ldff rd rs1 => Sys2Proof.Machine.execLdff rd rs1 s
  | .stfe rs1 rs2 => Sys2Proof.Machine.execStfe rs1 rs2 s
  | .stff rs1 rs2 => Sys2Proof.Machine.execStff rs1 rs2 s
  | .rsv rd rs1 rs2 scope => Sys2Proof.Machine.execRsv rd rs1 rs2 scope s
  | .rls rs1 rs2 scope => Sys2Proof.Machine.execRls rs1 rs2 scope s
  | .aadd rd rs1 rs2 wide scope => Sys2Proof.Machine.execAadd rd rs1 rs2 wide scope s
  | .aswp rd rs1 rs2 wide scope => Sys2Proof.Machine.execAswp rd rs1 rs2 wide scope s
  | .acas rd rs1 rs2 wide scope => Sys2Proof.Machine.execAcas rd rs1 rs2 wide scope s
  | .aminSigned rd rs1 rs2 wide scope => Sys2Proof.Machine.execAminSigned rd rs1 rs2 wide scope s
  | .amaxSigned rd rs1 rs2 wide scope => Sys2Proof.Machine.execAmaxSigned rd rs1 rs2 wide scope s
  | .aminUnsigned rd rs1 rs2 wide scope => Sys2Proof.Machine.execAminUnsigned rd rs1 rs2 wide scope s
  | .amaxUnsigned rd rs1 rs2 wide scope => Sys2Proof.Machine.execAmaxUnsigned rd rs1 rs2 wide scope s
  | .beq immLo rs1 rs2 immHi => Sys2Proof.Machine.execBeq immLo rs1 rs2 immHi s
  | .bne immLo rs1 rs2 immHi => Sys2Proof.Machine.execBne immLo rs1 rs2 immHi s
  | .blt immLo rs1 rs2 immHi => Sys2Proof.Machine.execBlt immLo rs1 rs2 immHi s
  | .bge immLo rs1 rs2 immHi => Sys2Proof.Machine.execBge immLo rs1 rs2 immHi s
  | .bltu immLo rs1 rs2 immHi => Sys2Proof.Machine.execBltu immLo rs1 rs2 immHi s
  | .bgeu immLo rs1 rs2 immHi => Sys2Proof.Machine.execBgeu immLo rs1 rs2 immHi s
  | .jal rd imm => Sys2Proof.Machine.execJal rd imm s
  | .jalr rd rs1 imm => Sys2Proof.Machine.execJalr rd rs1 imm s
  | .svc rs1 => Sys2Proof.Machine.execSvc rs1 s
  | .brk rs1 => Sys2Proof.Machine.execBrk rs1 s
  | .rett => Sys2Proof.Machine.execRett s
  | .waiti => Sys2Proof.Machine.execWaiti s
  | .halt => Sys2Proof.Machine.execHalt s
  | .ipi rs1 rs2 => Sys2Proof.Machine.execIpi rs1 rs2 s
  | .ctlr rd reg => Sys2Proof.Machine.execCtlr rd reg s
  | .ctlw rd rs1 reg => Sys2Proof.Machine.execCtlw rd rs1 reg s
  | .ctlset rd rs1 reg => Sys2Proof.Machine.execCtlset rd rs1 reg s
  | .ctlclr rd rs1 reg => Sys2Proof.Machine.execCtlclr rd rs1 reg s
  | .ctxsave rd rs1 rs2 => Sys2Proof.Machine.execCtxsave rd rs1 rs2 s
  | .ctxload rd rs1 rs2 => Sys2Proof.Machine.execCtxload rd rs1 rs2 s
  | .amsend c b oxb => Sys2Proof.Machine.execAmsend c b oxb s
  | .amret => Sys2Proof.Machine.execAmret s
  | .fenceI => Sys2Proof.Machine.execFenceI s
  | .fenceSv => Sys2Proof.Machine.execFenceSv s
  | .fenceVs => Sys2Proof.Machine.execFenceVs s
  | .fenceVv => Sys2Proof.Machine.execFenceVv s
  | .fenceA => Sys2Proof.Machine.execFenceA s
  | .acq scope region => Sys2Proof.Machine.execAcq scope region s
  | .rel scope region => Sys2Proof.Machine.execRel scope region s
  | .scld rd rs1 => Sys2Proof.Machine.execScld rd rs1 s
  | .scst rs1 rs2 => Sys2Proof.Machine.execScst rs1 rs2 s
  | .scswp rd rs1 rs2 => Sys2Proof.Machine.execScswp rd rs1 rs2 s
  | .flushr scope region => Sys2Proof.Machine.execFlushr scope region s
  | .setvl rd rs1 efmt => Sys2Proof.Machine.execSetvl rd rs1 efmt s
  | .setmvl rd rs1 efmt => Sys2Proof.Machine.execSetmvl rd rs1 efmt s
  | .vaddIvv vd vs1 vs2 km uns => Sys2Proof.Machine.execVaddIvv vd vs1 vs2 km uns s
  | .vsubIvv vd vs1 vs2 km uns => Sys2Proof.Machine.execVsubIvv vd vs1 vs2 km uns s
  | .vmulIvv vd vs1 vs2 km uns => Sys2Proof.Machine.execVmulIvv vd vs1 vs2 km uns s
  | .vmulh vd vs1 vs2 km uns => Sys2Proof.Machine.execVmulh vd vs1 vs2 km uns s
  | .vdivIvv vd vs1 vs2 km uns => Sys2Proof.Machine.execVdivIvv vd vs1 vs2 km uns s
  | .vminIvv vd vs1 vs2 km uns => Sys2Proof.Machine.execVminIvv vd vs1 vs2 km uns s
  | .vmaxIvv vd vs1 vs2 km uns => Sys2Proof.Machine.execVmaxIvv vd vs1 vs2 km uns s
  | .vandIvv vd vs1 vs2 km uns => Sys2Proof.Machine.execVandIvv vd vs1 vs2 km uns s
  | .vor vd vs1 vs2 km uns => Sys2Proof.Machine.execVor vd vs1 vs2 km uns s
  | .vxor vd vs1 vs2 km uns => Sys2Proof.Machine.execVxor vd vs1 vs2 km uns s
  | .vshlIvv vd vs1 vs2 km uns => Sys2Proof.Machine.execVshlIvv vd vs1 vs2 km uns s
  | .vshrIvv vd vs1 vs2 km uns => Sys2Proof.Machine.execVshrIvv vd vs1 vs2 km uns s
  | .vadds vd vs1 vs2 km uns => Sys2Proof.Machine.execVadds vd vs1 vs2 km uns s
  | .vsubs vd vs1 vs2 km uns => Sys2Proof.Machine.execVsubs vd vs1 vs2 km uns s
  | .vaddIvx vd vs1 km uns gs => Sys2Proof.Machine.execVaddIvx vd vs1 km uns gs s
  | .vsubIvx vd vs1 km uns gs => Sys2Proof.Machine.execVsubIvx vd vs1 km uns gs s
  | .vmulIvx vd vs1 km uns gs => Sys2Proof.Machine.execVmulIvx vd vs1 km uns gs s
  | .vminIvx vd vs1 km uns gs => Sys2Proof.Machine.execVminIvx vd vs1 km uns gs s
  | .vmaxIvx vd vs1 km uns gs => Sys2Proof.Machine.execVmaxIvx vd vs1 km uns gs s
  | .vandIvx vd vs1 km uns gs => Sys2Proof.Machine.execVandIvx vd vs1 km uns gs s
  | .vshlIvx vd vs1 km uns gs => Sys2Proof.Machine.execVshlIvx vd vs1 km uns gs s
  | .vshrIvx vd vs1 km uns gs => Sys2Proof.Machine.execVshrIvx vd vs1 km uns gs s
  | .vaddFvv vd vs1 vs2 km => Sys2Proof.Machine.execVaddFvv vd vs1 vs2 km s
  | .vsubFvv vd vs1 vs2 km => Sys2Proof.Machine.execVsubFvv vd vs1 vs2 km s
  | .vmulFvv vd vs1 vs2 km => Sys2Proof.Machine.execVmulFvv vd vs1 vs2 km s
  | .vdivFvv vd vs1 vs2 km => Sys2Proof.Machine.execVdivFvv vd vs1 vs2 km s
  | .vminFvv vd vs1 vs2 km => Sys2Proof.Machine.execVminFvv vd vs1 vs2 km s
  | .vmaxFvv vd vs1 vs2 km => Sys2Proof.Machine.execVmaxFvv vd vs1 vs2 km s
  | .vaddFvx vd vs1 km gs => Sys2Proof.Machine.execVaddFvx vd vs1 km gs s
  | .vsubFvx vd vs1 km gs => Sys2Proof.Machine.execVsubFvx vd vs1 km gs s
  | .vmulFvx vd vs1 km gs => Sys2Proof.Machine.execVmulFvx vd vs1 km gs s
  | .vdivFvx vd vs1 km gs => Sys2Proof.Machine.execVdivFvx vd vs1 km gs s
  | .vminFvx vd vs1 km gs => Sys2Proof.Machine.execVminFvx vd vs1 km gs s
  | .vmaxFvx vd vs1 km gs => Sys2Proof.Machine.execVmaxFvx vd vs1 km gs s
  | .vfma vd vs1 vs2 km => Sys2Proof.Machine.execVfma vd vs1 vs2 km s
  | .vfms vd vs1 vs2 km => Sys2Proof.Machine.execVfms vd vs1 vs2 km s
  | .vfnma vd vs1 vs2 km => Sys2Proof.Machine.execVfnma vd vs1 vs2 km s
  | .vcmp vd vs1 vs2 km uns cond => Sys2Proof.Machine.execVcmp vd vs1 vs2 km uns cond s
  | .vsel vd vs1 km gs => Sys2Proof.Machine.execVsel vd vs1 km gs s
  | .vbcast vd vs1 km gs => Sys2Proof.Machine.execVbcast vd vs1 km gs s
  | .vext vd vs1 uns gs => Sys2Proof.Machine.execVext vd vs1 uns gs s
  | .vins vd idx gs => Sys2Proof.Machine.execVins vd idx gs s
  | .vslideup vd vs1 km gs => Sys2Proof.Machine.execVslideup vd vs1 km gs s
  | .vslidedn vd vs1 km gs => Sys2Proof.Machine.execVslidedn vd vs1 km gs s
  | .vperm vd vs1 idx => Sys2Proof.Machine.execVperm vd vs1 idx s
  | .vcompress vd vs1 km => Sys2Proof.Machine.execVcompress vd vs1 km s
  | .vexpand vd vs1 km => Sys2Proof.Machine.execVexpand vd vs1 km s
  | .viota vd km => Sys2Proof.Machine.execViota vd km s
  | .vred vd vs1 km uns op => Sys2Proof.Machine.execVred vd vs1 km uns op s
  | .vscan vd vs1 km uns op => Sys2Proof.Machine.execVscan vd vs1 km uns op s
  | .vdot vd vs1 vs2 km uns => Sys2Proof.Machine.execVdot vd vs1 vs2 km uns s
  | .vsqrt vd vs1 km => Sys2Proof.Machine.execVsqrt vd vs1 km s
  | .vrcp vd vs1 km => Sys2Proof.Machine.execVrcp vd vs1 km s
  | .vrsq vd vs1 km => Sys2Proof.Machine.execVrsq vd vs1 km s
  | .vexp2 vd vs1 km => Sys2Proof.Machine.execVexp2 vd vs1 km s
  | .vlog2 vd vs1 km => Sys2Proof.Machine.execVlog2 vd vs1 km s
  | .vcvt vd vs1 km efc reset rm target => Sys2Proof.Machine.execVcvt vd vs1 km efc reset rm target s
  | .efget rd num => Sys2Proof.Machine.execEfget rd num s
  | .efset rs1 num => Sys2Proof.Machine.execEfset rs1 num s
  | .kand vd vs1 vs2 => Sys2Proof.Machine.execKand vd vs1 vs2 s
  | .kor vd vs1 vs2 => Sys2Proof.Machine.execKor vd vs1 vs2 s
  | .kxor vd vs1 vs2 => Sys2Proof.Machine.execKxor vd vs1 vs2 s
  | .kandn vd vs1 vs2 => Sys2Proof.Machine.execKandn vd vs1 vs2 s
  | .knot vd vs1 => Sys2Proof.Machine.execKnot vd vs1 s
  | .kmov vd vs1 => Sys2Proof.Machine.execKmov vd vs1 s
  | .kpop vd vs1 => Sys2Proof.Machine.execKpop vd vs1 s
  | .kfirst vd vs1 => Sys2Proof.Machine.execKfirst vd vs1 s
  | .kset vd vs1 word => Sys2Proof.Machine.execKset vd vs1 word s
  | .kget vd vs1 word => Sys2Proof.Machine.execKget vd vs1 word s
  | .vld vd km gs => Sys2Proof.Machine.execVld vd km gs s
  | .vlds vd stride km gs => Sys2Proof.Machine.execVlds vd stride km gs s
  | .vldx vd idx km gs => Sys2Proof.Machine.execVldx vd idx km gs s
  | .vldSl vd km gs => Sys2Proof.Machine.execVldSl vd km gs s
  | .vst vd km gs => Sys2Proof.Machine.execVst vd km gs s
  | .vsts vd stride km gs => Sys2Proof.Machine.execVsts vd stride km gs s
  | .vstx vd idx km gs => Sys2Proof.Machine.execVstx vd idx km gs s
  | .vstSl vd km gs => Sys2Proof.Machine.execVstSl vd km gs s
  | .vldt vd line km gs => Sys2Proof.Machine.execVldt vd line km gs s
  | .vstt vd shape gs => Sys2Proof.Machine.execVstt vd shape gs s
  | .vldc vd offs km gs => Sys2Proof.Machine.execVldc vd offs km gs s
  | .vpf level len gs => Sys2Proof.Machine.execVpf level len gs s
  | .vamo vd idx km uns op gs => Sys2Proof.Machine.execVamo vd idx km uns op gs s
  | .vrdm vd idx km uns op gs => Sys2Proof.Machine.execVrdm vd idx km uns op gs s
  | .mzero c => Sys2Proof.Machine.execMzero c s
  | .mwait c => Sys2Proof.Machine.execMwait c s
  | .mprg c d => Sys2Proof.Machine.execMprg c d s
  | .mhdr c a => Sys2Proof.Machine.execMhdr c a s
  | .mop c b a sat => Sys2Proof.Machine.execMop c b a sat s
  | .mopd c b a sat => Sys2Proof.Machine.execMopd c b a sat s
  | .mops c b a sat => Sys2Proof.Machine.execMops c b a sat s
  | .mmas c b a oxb sat => Sys2Proof.Machine.execMmas c b a oxb sat s
  | .mrd c b a => Sys2Proof.Machine.execMrd c b a s
  | .mwr c b a => Sys2Proof.Machine.execMwr c b a s
  | .mld c a oxb => Sys2Proof.Machine.execMld c a oxb s
  | .mst c b a oxb => Sys2Proof.Machine.execMst c b a oxb s
  | .cpy c b a oxb => Sys2Proof.Machine.execCpy c b a oxb s
  | .cpyf c b a oxb => Sys2Proof.Machine.execCpyf c b a oxb s
  | .cpym c b a oxb => Sys2Proof.Machine.execCpym c b a oxb s
  | .cpys c b a oxb => Sys2Proof.Machine.execCpys c b a oxb s
  | .rowcls c => Sys2Proof.Machine.execRowcls c s
  | .cpwait c => Sys2Proof.Machine.execCpwait c s
  | .cpqry c d => Sys2Proof.Machine.execCpqry c d s
  | .cbinit c b a => Sys2Proof.Machine.execCbinit c b a s
  | .cbacq c role d => Sys2Proof.Machine.execCbacq c role d s
  | .cbrel c role => Sys2Proof.Machine.execCbrel c role s
  | .lfmt c d a => Sys2Proof.Machine.execLfmt c d a s
  | .binit c a => Sys2Proof.Machine.execBinit c a s
  | .barv c a => Sys2Proof.Machine.execBarv c a s
  | .bwait c b a => Sys2Proof.Machine.execBwait c b a s
  | .bfree c => Sys2Proof.Machine.execBfree c s
  | .mbsend c b a => Sys2Proof.Machine.execMbsend c b a s
  | .mbrecv c b a => Sys2Proof.Machine.execMbrecv c b a s
  | .mbpeek c b => Sys2Proof.Machine.execMbpeek c b s
  | .gsub c a => Sys2Proof.Machine.execGsub c a s
  | .gdep c b a => Sys2Proof.Machine.execGdep c b a s
  | .gdone => Sys2Proof.Machine.execGdone s
  | .gwait c a => Sys2Proof.Machine.execGwait c a s
  | .sfdecl c a oxb => Sys2Proof.Machine.execSfdecl c a oxb s
  | .sfnext c b a => Sys2Proof.Machine.execSfnext c b a s
  | .sfend c a => Sys2Proof.Machine.execSfend c a s
  | .ftset c b a oxb => Sys2Proof.Machine.execFtset c b a oxb s
  | .migr c b a => Sys2Proof.Machine.execMigr c b a s
  | .sample c b a oxb => Sys2Proof.Machine.execSample c b a oxb s
  | .sampleDraft c b a oxb => Sys2Proof.Machine.execSampleDraft c b a oxb s
  | .tkapp c b a => Sys2Proof.Machine.execTkapp c b a s
  | .tkdraft c b a => Sys2Proof.Machine.execTkdraft c b a s
  | .tkconf c b a => Sys2Proof.Machine.execTkconf c b a s
  | .wset c b a => Sys2Proof.Machine.execWset c b a s
  | .wget c b a => Sys2Proof.Machine.execWget c b a s
  | .sqfork c b a => Sys2Proof.Machine.execSqfork c b a s
  | .sqstat c b a => Sys2Proof.Machine.execSqstat c b a s
  | .sqiter c b a => Sys2Proof.Machine.execSqiter c b a s
  | .dcapd c b a => Sys2Proof.Machine.execDcapd c b a s
  | .dcapr c a => Sys2Proof.Machine.execDcapr c a s
  | .dcapq c a => Sys2Proof.Machine.execDcapq c a s
  | .trmark a => Sys2Proof.Machine.execTrmark a s
  | .sliprd c a => Sys2Proof.Machine.execSliprd c a s
  | .attest c b a => Sys2Proof.Machine.execAttest c b a s
  | .keynew c a => Sys2Proof.Machine.execKeynew c a s
  | .keydel c a => Sys2Proof.Machine.execKeydel c a s
  | .fuserd c a => Sys2Proof.Machine.execFuserd c a s
  | .lcstat c a => Sys2Proof.Machine.execLcstat c a s
  | .dbgunlk c a => Sys2Proof.Machine.execDbgunlk c a s
  | .measx c b a => Sys2Proof.Machine.execMeasx c b a s
  | .plbinv a => Sys2Proof.Machine.execPlbinv a s
  | .tlbinv b a => Sys2Proof.Machine.execTlbinv b a s
  | .pgwake c a => Sys2Proof.Machine.execPgwake c a s
  | .pgqry c a => Sys2Proof.Machine.execPgqry c a s
  | .pgpin c b a => Sys2Proof.Machine.execPgpin c b a s
  | .mscfl c b a => Sys2Proof.Machine.execMscfl c b a s
  | .hbmslot c b a => Sys2Proof.Machine.execHbmslot c b a s
  | .tenset c b a => Sys2Proof.Machine.execTenset c b a s
  | .vcres c b a => Sys2Proof.Machine.execVcres c b a s
  | .cMv ga gb => Sys2Proof.Machine.execCMv ga gb s
  | .cAdd ga gb => Sys2Proof.Machine.execCAdd ga gb s
  | .cSub ga gb => Sys2Proof.Machine.execCSub ga gb s
  | .cAnd ga gb => Sys2Proof.Machine.execCAnd ga gb s
  | .cOr ga gb => Sys2Proof.Machine.execCOr ga gb s
  | .cXor ga gb => Sys2Proof.Machine.execCXor ga gb s
  | .cSlt ga gb => Sys2Proof.Machine.execCSlt ga gb s
  | .cLi ga imm => Sys2Proof.Machine.execCLi ga imm s
  | .cAddi ga imm => Sys2Proof.Machine.execCAddi ga imm s
  | .cShli ga num => Sys2Proof.Machine.execCShli ga num s
  | .cShri ga num => Sys2Proof.Machine.execCShri ga num s
  | .cShai ga num => Sys2Proof.Machine.execCShai ga num s
  | .cLdw ga gb => Sys2Proof.Machine.execCLdw ga gb s
  | .cLdd ga gb => Sys2Proof.Machine.execCLdd ga gb s
  | .cStw ga gb => Sys2Proof.Machine.execCStw ga gb s
  | .cStd ga gb => Sys2Proof.Machine.execCStd ga gb s
  | .cLdsp ga num => Sys2Proof.Machine.execCLdsp ga num s
  | .cStsp ga num => Sys2Proof.Machine.execCStsp ga num s
  | .cBeqz ga imm => Sys2Proof.Machine.execCBeqz ga imm s
  | .cBnez ga imm => Sys2Proof.Machine.execCBnez ga imm s
  | .cJr ga => Sys2Proof.Machine.execCJr ga s
  | .cJal imm => Sys2Proof.Machine.execCJal imm s
  | .cAddsp imm => Sys2Proof.Machine.execCAddsp imm s
  | .cNeg ga gb => Sys2Proof.Machine.execCNeg ga gb s
  | .interruptEntry core slot => Sys2Proof.Machine.execInterruptEntry core slot s
  | .timerInterrupt core slot => Sys2Proof.Machine.execTimerInterrupt core slot s
  | .vectorEntryComplete core slot => Sys2Proof.Machine.execVectorEntryComplete core slot s
  | .eptimeout core slot => Sys2Proof.Machine.execEptimeout core slot s
  | .laneGrant cluster => Sys2Proof.Machine.execLaneGrant cluster s
  | .asyncFaultTrap core slot => Sys2Proof.Machine.execAsyncFaultTrap core slot s
  | .asyncPageFaultDrop core slot => Sys2Proof.Machine.execAsyncPageFaultDrop core slot s
  | .walkComplete cluster => Sys2Proof.Machine.execWalkComplete cluster s
  | .plbFill core pd => Sys2Proof.Machine.execPlbFill core pd s
  | .faultRecordWrite core => Sys2Proof.Machine.execFaultRecordWrite core s
  | .matrixCmdAccept core slot => Sys2Proof.Machine.execMatrixCmdAccept core slot s
  | .matrixCmdPerform core => Sys2Proof.Machine.execMatrixCmdPerform core s
  | .mmasKrowApply core => Sys2Proof.Machine.execMmasKrowApply core s
  | .matrixCmdFinish core => Sys2Proof.Machine.execMatrixCmdFinish core s
  | .copyCmdAccept core slot => Sys2Proof.Machine.execCopyCmdAccept core slot s
  | .copyChunkRegister core ent => Sys2Proof.Machine.execCopyChunkRegister core ent s
  | .copyFollowonIssue core ent => Sys2Proof.Machine.execCopyFollowonIssue core ent s
  | .copySlotTake core ent => Sys2Proof.Machine.execCopySlotTake core ent s
  | .mergeEntryClose idx => Sys2Proof.Machine.execMergeEntryClose idx s
  | .mergeRequest core ent => Sys2Proof.Machine.execMergeRequest core ent s
  | .feAccessArrive pkt => Sys2Proof.Machine.execFeAccessArrive pkt s
  | .fetimeout core slot => Sys2Proof.Machine.execFetimeout core slot s
  | .feCancel pkt => Sys2Proof.Machine.execFeCancel pkt s
  | .rsvRequest core slot => Sys2Proof.Machine.execRsvRequest core slot s
  | .rsvGrant core slot => Sys2Proof.Machine.execRsvGrant core slot s
  | .mailboxArrival pkt => Sys2Proof.Machine.execMailboxArrival pkt s
  | .amArrival pkt => Sys2Proof.Machine.execAmArrival pkt s
  | .amHandlerStart core => Sys2Proof.Machine.execAmHandlerStart core s
  | .registration idx => Sys2Proof.Machine.execRegistration idx s
  | .revocationNotice idx => Sys2Proof.Machine.execRevocationNotice idx s
  | .homeReadResponse core victim => Sys2Proof.Machine.execHomeReadResponse core victim s
  | .scWindowDeliver => Sys2Proof.Machine.execScWindowDeliver s
  | .hostPostedWrite port target addr data => Sys2Proof.Machine.execHostPostedWrite port target addr data s
  | .hostWritePerform port stamp => Sys2Proof.Machine.execHostWritePerform port stamp s
  | .hostRead port addr len => Sys2Proof.Machine.execHostRead port addr len s
  | .spillWritebackDone die => Sys2Proof.Machine.execSpillWritebackDone die s
  | .channelSlotBoundary chan => Sys2Proof.Machine.execChannelSlotBoundary chan s
  | .packetRoute pkt => Sys2Proof.Machine.execPacketRoute pkt s
  | .escapeChannelMove pkt => Sys2Proof.Machine.execEscapeChannelMove pkt s
  | .flitReceive link ok => Sys2Proof.Machine.execFlitReceive link ok s
  | .msgSwitchArrival pkt => Sys2Proof.Machine.execMsgSwitchArrival pkt s
  | .ualinkMessageReceive port data => Sys2Proof.Machine.execUalinkMessageReceive port data s
  | .ptpMessageReceive seconds nanos => Sys2Proof.Machine.execPtpMessageReceive seconds nanos s
  | .ppsEdge => Sys2Proof.Machine.execPpsEdge s
  | .timeSyncLoss => Sys2Proof.Machine.execTimeSyncLoss s
  | .submitRecord port => Sys2Proof.Machine.execSubmitRecord port s
  | .placementDecision => Sys2Proof.Machine.execPlacementDecision s
  | .firingSlotBoundary => Sys2Proof.Machine.execFiringSlotBoundary s
  | .migrationTransfer idx => Sys2Proof.Machine.execMigrationTransfer idx s
  | .debugHoldNotice tenant => Sys2Proof.Machine.execDebugHoldNotice tenant s
  | .breakpointStop core slot => Sys2Proof.Machine.execBreakpointStop core slot s
  | .debugPortCommand code arg0 arg1 arg2 => Sys2Proof.Machine.execDebugPortCommand code arg0 arg1 arg2 s
  | .dbgHalt core slot => Sys2Proof.Machine.execDbgHalt core slot s
  | .dbgResume core slot => Sys2Proof.Machine.execDbgResume core slot s
  | .rdreg core slot => Sys2Proof.Machine.execRdreg core slot s
  | .wrreg core slot => Sys2Proof.Machine.execWrreg core slot s
  | .dbgCancel core slot => Sys2Proof.Machine.execDbgCancel core slot s
  | .setbp core slot => Sys2Proof.Machine.execSetbp core slot s
  | .clrbp core slot => Sys2Proof.Machine.execClrbp core slot s
  | .brkcap core slot => Sys2Proof.Machine.execBrkcap core slot s
  | .trset core slot => Sys2Proof.Machine.execTrset core slot s
  | .pcreate => Sys2Proof.Machine.execPcreate s
  | .pdissolve => Sys2Proof.Machine.execPdissolve s
  | .tplace => Sys2Proof.Machine.execTplace s
  | .tremove => Sys2Proof.Machine.execTremove s
  | .reserve => Sys2Proof.Machine.execReserve s
  | .release => Sys2Proof.Machine.execRelease s
  | .hwgrant => Sys2Proof.Machine.execHwgrant s
  | .mboxStatus port => Sys2Proof.Machine.execMboxStatus port s
  | .logread port => Sys2Proof.Machine.execLogread port s
  | .stage port => Sys2Proof.Machine.execStage port s
  | .mboxBoot port => Sys2Proof.Machine.execMboxBoot port s
  | .dcmd port => Sys2Proof.Machine.execDcmd port s
  | .route port => Sys2Proof.Machine.execRoute port s
  | .mboxBadCommand port => Sys2Proof.Machine.execMboxBadCommand port s
  | .pcieConfigAccess port offset write data => Sys2Proof.Machine.execPcieConfigAccess port offset write data s
  | .powerOn => Sys2Proof.Machine.execPowerOn s
  | .packageReset => Sys2Proof.Machine.execPackageReset s
  | .calibrationComplete die => Sys2Proof.Machine.execCalibrationComplete die s
  | .correctedErrorEvent kind unit uncorrectable => Sys2Proof.Machine.execCorrectedErrorEvent kind unit uncorrectable s
  | .powerCapLower island => Sys2Proof.Machine.execPowerCapLower island s
  | .powerCapRaise => Sys2Proof.Machine.execPowerCapRaise s
  | .lockBroken island => Sys2Proof.Machine.execLockBroken island s
  | .ipendClear core slot value => Sys2Proof.Machine.execIpendClear core slot value s
  | .vqpop core slot value => Sys2Proof.Machine.execVqpop core slot value s
  | .fqtailWrite core slot value => Sys2Proof.Machine.execFqtailWrite core slot value s
  | .trtailWrite core slot value => Sys2Proof.Machine.execTrtailWrite core slot value s
  | .shrent2Write core slot value => Sys2Proof.Machine.execShrent2Write core slot value s
  | .svpop core slot value => Sys2Proof.Machine.execSvpop core slot value s
  | .ipointWrite core slot value => Sys2Proof.Machine.execIpointWrite core slot value s
  | .registerWrite core slot num value => Sys2Proof.Machine.execRegisterWrite core slot num value s
  | .vamoVrdmElementAtHome idx => Sys2Proof.Machine.execVamoVrdmElementAtHome idx s
  | .debugHoldWithdrawal tenant => Sys2Proof.Machine.execDebugHoldWithdrawal tenant s
  | .linkFrameBoundary => Sys2Proof.Machine.execLinkFrameBoundary s
  | .ualinkRemoteRequest port => Sys2Proof.Machine.execUalinkRemoteRequest port s
  | .spareTakeover kind unit => Sys2Proof.Machine.execSpareTakeover kind unit s

end Sys2Proof.Machine
end

