-- ==== Sys2Proof/Machine/Turn.lean ====
section
/-! DEFINITION. Who moves in a step (log 6): a strand at its issue point (04_strand R107 to R110, R121, R439), a core's
rotation (R108), an engine, or the clock; and the default order of these. -/

namespace Sys2Proof.Machine

/-! ### Issue -/

/-- Issue at the address of an address breakpoint arms its stop. -/
def State.armAddress (s : State) (sid : Nat) : State :=
  match (s.breakpoints sid).find? (fun e => e.2.kind = 1 && e.2.addr = (s.st sid).pc) with
  | some e => s.modSt sid (fun t => { t with bpArmed := some e.1 })
  | none => s

/-- A strand has entered a handler between two states. -/
def entered (a b : Strand) : Bool := decide (a.status.mode.code < b.status.mode.code) || (!a.status.mnest && b.status.mnest)

/-- The execution of an instruction that began in `s0` with any address breakpoint of it armed has ended its turn: it is offered again and
has not issued, it is in flight, which is `flying`, or it is over; a trap entry that an armed stop comes before does not happen.  A
word that is no instruction, or could not be fetched, never is in flight: it is offered again. -/
def State.afterExec (s0 armed s : State) (sid : Nat) (i : Option Instr) : State :=
  let t := s.st sid
  let again := s.modSt sid (fun t => { t with wait := .again, flying := none, bpArmed := (s0.st sid).bpArmed })
  match t.wait, i with
  | .again, _ => again
  | .poll, none => again
  | .poll, some i => s.modSt sid (fun t => { t with issued := true, flying := some i })
  | .flight _, _ => s.modSt sid (fun t => { t with issued := true, flying := i })
  | _, _ =>
    let s := s.modSt sid (fun t => { t with issued := true, flying := none })
    if entered (s0.st sid) t then
      match armed.stopIfArmed sid with
      | some s' => s'
      | none => s
    else s

/-- The strand's instruction in flight has itself armed the stop, by its address: the stop comes before a later stop point (16_debug
R414). -/
def State.armedHere (s : State) (sid : Nat) : Bool :=
  let t := s.st sid
  t.inFlight && match t.bpArmed with
    | some i => (match tfind (s.core (coreOfSid sid)).bps i with | some b => b.kind = 1 && decide (b.addr = t.pc) | none => false)
    | none => false

/-- One instruction of the current strand, decoded, is executed. -/
def runInstr (i : Instr) (s : State) : Host.Outcome State Fault Refusal :=
  let sid := s.curSid
  let plain : Host.Outcome State Fault Refusal :=
    match exec i (s.armAddress sid) with
    | .next s' =>
      let s' := s.afterExec (s.armAddress sid) s' sid (some i)
      .next (match i with | .setvl _ _ _ => s.stripStop s' sid | .setmvl _ _ _ => s.stripStop s' sid | _ => s')
    | .fault f => .fault f
    | .refused r => .refused r
  if stopPoint i && !s.armedHere sid then
    match s.stopIfArmed sid with
    | some s' => .next s'
    | none => plain
  else plain

/-- A word that is no instruction: ILLEGAL with the word (02_words R59, R60). -/
def runIllegal (w : Nat) (s : State) : Host.Outcome State Fault Refusal :=
  match runAct (trap 0 xIllegal (word w)) (s.armAddress s.curSid) with
  | .next s' => .next (s.afterExec (s.armAddress s.curSid) s' s.curSid none)
  | .fault f => .fault f
  | .refused r => .refused r

/-- A vector-stream instruction (05_vector R142), but for SETVL and SETMVL. -/
def vectorStream (i : Instr) : Bool :=
  let w := wordOf i
  let m := bits w 7 1
  (bit w 0 && decide (0x41 ≤ m ∧ m ≤ 0x56)) || (match i with | .fenceSv => true | .fenceVs => true | .fenceVv => true | _ => false)

/-- The current strand issues: a captured word as captured, otherwise the word at its pc, fetched and decoded (R43). -/
noncomputable def issueWord (s : State) : Host.Outcome State Fault Refusal :=
  match s.cur.replayed with
  | some i => runInstr i s
  | none =>
    match fetchWord s with
    | .error _ s' => .next (s.afterExec s s' s.curSid none)
    | .ok w s' =>
      match decodeWord w with
      | .error _ => runIllegal w s'
      | .ok i => runInstr i (if vectorStream i && s'.cur.replay.complete then s'.modCur Strand.dropReplay else s')

/-- An instruction in flight looks again at what it waits for (R110): it goes on as it issued.  That takes no issue slot. -/
noncomputable def goOn (sid : Nat) (s : State) : Host.Outcome State Fault Refusal :=
  match (s.st sid).flying with
  | none => issueWord s
  | some i =>
    match runInstr i s with
    | .next s' => .next (s'.modSt sid (fun t => { t with issued := (s.st sid).issued }))
    | .fault f => .fault f
    | .refused r => .refused r

/-- WAITI goes on once an enabled source is pending (R127); other strands are as they are. -/
def State.waitiEnds (s : State) (sid : Nat) : Bool := s.ipend sid &&& (s.st sid).ctl cIenable != 0

/-- The issue point of a strand that is free to issue: an interrupt that is due is entered or, while older vector entries
run, waited for; otherwise an instruction issues.  What another instruction had asked of the walker is forgotten as one issues. -/
noncomputable def issueFree (sid : Nat) (s : State) : Host.Outcome State Fault Refusal :=
  match s.interruptDue sid with
  | some _ => match s.takeInterrupt sid with | some s' => .next s' | none => .next s
  | none =>
    if (s.st sid).wait = .waiti then .next (s.finish0 sid)
    else issueWord (if (s.st sid).wait = .none then s.forgetWalks sid 0 else s)

/-- A compute strand is held at its issue point: its core is being migrated or parked and it holds no reservation (14_dispatch R376), or
its tenant is under HALT (16_debug R411). -/
def State.heldAtIssue (s : State) (core slot : Nat) : Bool :=
  decide (slot < 4) && (((s.core core).moving && !s.holdsResv (core * 8 + slot))
    || s.halts.any (fun h => h.1 = (s.st (core * 8 + slot)).tenant))

/-- A full/empty access that its owner refused is sent again at its strand's turn (10_sync R276), unless its time is up (R277). -/
def State.sendsAgain (s : State) (sid : Nat) : Bool :=
  let t := s.st sid
  t.st = .run && (match t.wait with | .fe _ _ _ _ _ refused _ => refused | _ => false)

/-- The turn of a strand with a refused access: FETIMEOUT at its limit, otherwise the access again. -/
def State.feTurn (s : State) (sid : Nat) : State :=
  let t := s.st sid
  (if t.feLimit ≠ 0 ∧ t.feLimit ≤ t.feTimer then s.feTrap sid else s.feReissue sid).modSt sid (fun t => { t with issued := true })

/-- A core offers its issue slot to a strand: recorded faults and drops first (R439), then what it has in flight goes on, then interrupts
(R121), then an instruction.  A strand that is not ready (R107) does nothing. -/
noncomputable def offer (core slot : Nat) (s : State) : Host.Outcome State Fault Refusal :=
  let sid := core * 8 + slot
  let s := { s with curCore := core, curSlot := slot }
  let t := s.st sid
  if t.wait = .none && decide (s.cycleOf core < t.readyAt) then .next s
  else
    match s.takeAsync sid with
    | some s' => .next s'
    | none =>
      if t.inFlight then (if t.st = .run then goOn sid s else .next s)
      else if s.heldAtIssue core slot then .next s
      else if s.sendsAgain sid then .next (s.feTurn sid)
      else if !(t.atIssue (s.cycleOf core)) then .next s
      else if !t.async.isEmpty then .next s
      else if slot = 4 && (s.core core).amRun.isNone then .next s
      else if t.wait = .waiti && !(s.waitiEnds sid) then .next s
      else issueFree sid s

/-- The rotation of R108 from one candidate on: the first that issues takes the slot. -/
noncomputable def rotateFrom (core last : Nat) (ds : List Nat) (s : State) : Host.Outcome State Fault Refusal :=
  match ds with
  | [] => .next s
  | d :: r =>
    let k := (last + d) % 5
    match offer core k s with
    | .next s' =>
      if (s'.st (core * 8 + k)).issued then .next (s'.modCore core (fun c => { c with last := k }))
      else rotateFrom core last r s'
    | .fault f => .fault f
    | .refused x => .refused x

/-- One cycle of a core's issue slot. -/
noncomputable def rotate (core : Nat) (s : State) : Host.Outcome State Fault Refusal :=
  rotateFrom core (s.core core).last [1, 2, 3, 4, 5] s

/-! ### Time -/

/-- An instruction whose entry awaits load data (16_debug R417): a vector load, or a VAMO. -/
def loadsVector (i : Instr) : Bool :=
  match i with
  | .vamo _ _ _ _ _ _ => true
  | .vld _ _ _ => true
  | .vldSl _ _ _ => true
  | .vlds _ _ _ _ => true
  | .vldx _ _ _ _ => true
  | .vldt _ _ _ _ => true
  | .vldc _ _ _ _ => true
  | _ => false

/-- A scalar load. -/
def scalarLoad (i : Instr) : Bool :=
  match i with
  | .ldb _ _ _ => true
  | .ldbu _ _ _ => true
  | .ldh _ _ _ => true
  | .ldhu _ _ _ => true
  | .ldw _ _ _ => true
  | .ldwu _ _ _ => true
  | .ldd _ _ _ => true
  | .cLdw _ _ => true
  | .cLdd _ _ => true
  | .cLdsp _ _ => true
  | .ldfe _ _ => true
  | .ldff _ _ => true
  | .scld _ _ => true
  | _ => false

/-- A scalar load of a strand is in flight: a full/empty load, a sequentially consistent one, or one that waits for its data. -/
def Strand.loadInFlight (t : Strand) : Bool :=
  match t.wait, t.flying with
  | .fe _ .ldfe _ _ _ _ _, _ => true
  | .fe _ .ldff _ _ _ _ _, _ => true
  | .rsv _ _ _ _ (.atomic _ _ _ _ _), _ => true
  | .sc _ load, _ => load
  | .poll, some i => scalarLoad i
  | _, _ => false

/-- The slip counter that a cycle in which the strand has not issued increments (R417); none for the fifth. -/
def Strand.slipIndex (t : Strand) : Option Nat :=
  let vload := match t.vq with | e :: _ => loadsVector e.ins | [] => false
  if t.loadInFlight || vload then some 2
  else if 16 ≤ t.vq.length then some 1
  else if t.st = .run && t.vq.isEmpty then some 0
  else none

/-- The slip counters after `k` cycles from one on: the first of them is the cycle of an issue, and those before `readyAt` have the load
in flight that was last issued. -/
def Strand.countSlip (t : Strand) (cycle k : Nat) : Strand :=
  let bump := fun (t : Strand) (i : Option Nat) (n : Nat) =>
    match i with | some i => (if n = 0 then t else { t with slip := tmod 0 t.slip i (fun x => x + word n) }) | none => t
  if t.st = .held then bump t (some 5) k
  else
    let first := if t.issued then 1 else 0
    let loading := if t.loadOut then min (k - first) (t.readyAt - (cycle + first)) else 0
    bump (bump (bump t (some 3) (min first k)) (some 2) loading) t.slipIndex (k - first - loading)

/-- A full/empty access (10_sync R273). -/
def feInstr (i : Instr) : Bool :=
  match i with
  | .ldfe _ _ => true
  | .ldff _ _ => true
  | .stfe _ _ => true
  | .stff _ _ => true
  | _ => false

/-- A strand's timers and counters after `k` cycles of its core (10_sync R277, 05_vector R152, 16_debug R417).  The element-progress timer
counts for an entry that has started. -/
def Strand.tick (t : Strand) (held : Bool) (cycle k : Nat) : Strand :=
  let run := t.st = .run && !held
  let fe := match t.wait, t.flying with
    | .fe _ _ _ _ _ _ _, _ => true
    | .poll, some i => feInstr i
    | _, _ => false
  let started := t.lanesHeld && (match t.vq with | e :: _ => e.begun | [] => false)
  let t := if fe && run then { t with feTimer := t.feTimer + k } else t
  let t := if run && started then t.setCtl cEptime (t.ctl cEptime + word k) else t
  { t.countSlip cycle k with issued := false }

/-- A core after `k` of its cycles. -/
def State.tickCore (s : State) (core cycle k : Nat) : State :=
  if k = 0 then s
  else
    s.modCore core (fun c => { c with
      strands := c.strands.map (fun (e : Nat × Strand) => (e.1, e.2.tick (s.holds.contains e.2.tenant) cycle k)) })

/-- A packet of an adaptive class that stands at the head of its channel with no way on has waited longer at its router; the cycles are
consecutive (13_fabric R345). -/
def State.agePacket (s : State) (n : Nat) (p : Packet) : Packet :=
  { p with waited := if s.blocked p then p.waited + n else 0 }

/-- Reference cycles pass: the clock, the packets that wait, and every core whose island advances (17_service R428). -/
def State.advance (s : State) (n : Nat) : State :=
  let s' := { s with
    clock := s.clock + n
    fabric := { s.fabric with packets := s.fabric.packets.map (fun (p : Packet) => s.agePacket n p) } }
  s.cores.foldl (fun s' e => s'.tickCore e.1 (s.cycleOf e.1) (s'.cycleOf e.1 - s.cycleOf e.1)) s'

/-- Cycles pass one by one: the flits of reservations cross in theirs (13_fabric R349), and a window that becomes due is delivered before
its home slices take any other request of that cycle (11_home R314). -/
def State.advanceEach (s : State) (n : Nat) : State :=
  match n with
  | 0 => s
  | k + 1 => (s.moveReserved.advance 1).deliverWindow.advanceEach k

/-- Reference cycles pass. -/
def State.passCycles (s : State) (n : Nat) : State :=
  if s.scOps.any (fun o => o.window.isSome) || !s.fabric.vcres.isEmpty then s.advanceEach n else s.advance n

/-! ### The order of the default run (log 6) -/

/-- The cores that hold any state and whose island advances in the next reference cycle. -/
def State.advancing (s : State) : List Nat :=
  let s' := { s with clock := s.clock + 1 }
  (s.cores.map (·.1)).filter (fun c => coreExists c && decide (s.cycleOf c < s'.cycleOf c))

/-- One turn. -/
noncomputable def turn (t : Turn) (s : State) : Host.Outcome State Fault Refusal :=
  match t with
  | .issue core slot => offer core slot s
  | .rotate core => rotate core s
  | .act e => exec e s
  | .pass n => .next (s.passCycles n)

end Sys2Proof.Machine
end

