-- ==== Sys2Proof/Machine/Engines.lean ====
section
/-! DEFINITION. The steps the engines have before them: what a round of the default order lets them take (log 6).  A step that
turns out not to be due changes nothing. -/

namespace Sys2Proof.Machine

/-- The steps of a strand's own engines. -/
noncomputable def strandActs (c k : Nat) (t : Strand) : List Instr :=
  (if t.vq.isEmpty then [] else [.vectorEntryComplete c k, .eptimeout c k])
    ++ (if t.st = .run then [.timerInterrupt c k] else [])
    ++ (match t.wait with
      | .fe _ _ _ _ _ _ _ => [.fetimeout c k]
      | .rsv _ _ _ _ _ => [.rsvRequest c k, .rsvGrant c k]
      | .dbgHalt _ _ => [.dbgHalt c k]
      | _ => [])

/-- A record waits in the partition of a core: its holding core writes it (07_translation R202). -/
noncomputable def recordActs (s : State) (core : Nat) : List Instr :=
  match s.holdingCore (s.partitionOf core) with | some c => [.faultRecordWrite c] | none => []

/-- The steps of a core's engines. -/
noncomputable def coreActs (s : State) (c : Nat) (x : Core) : List Instr :=
  x.strands.flatMap (fun e => strandActs c e.1 e.2)
    ++ (if x.mq.isEmpty then [] else [.matrixCmdPerform c, .mmasKrowApply c, .matrixCmdFinish c])
    ++ x.copies.flatMap (fun e => [.copySlotTake c e.1, .mergeRequest c e.1, .copyChunkRegister c e.1, .copyFollowonIssue c e.1])
    ++ (if x.amq.isEmpty then [] else [.amHandlerStart c])
    ++ (if x.fills.isEmpty then [] else [.homeReadResponse c 0])
    ++ (if x.saveRec.isSome then recordActs s c else [])

/-- The steps of a cluster. -/
noncomputable def clusterActs (s : State) (cl : Nat) (x : Cluster) : List Instr :=
  (if x.laneOrder.isEmpty then [] else [.laneGrant cl])
    ++ (if x.walkQ.any (fun q => q.res.isNone) then [.walkComplete cl] else [])
    ++ (if x.recWait.isEmpty then [] else (coresOfCluster cl).take 1 |>.flatMap (recordActs s))

/-- The steps of a die's memory. -/
noncomputable def dieActs (s : State) (d : Nat) (x : Die) : List Instr :=
  (if x.spillWait.isEmpty then [] else [.spillWritebackDone d])
    ++ (x.writeback.map (fun w => let c := s.channelOf w.1; c.1 * 64 + c.2.1)).dedup.map .channelSlotBoundary

/-- The steps of a packet. -/
noncomputable def packetActs (p : Packet) : List Instr :=
  [.packetRoute p.id, .escapeChannelMove p.id]
    ++ (match p.payload with
      | .am _ _ => [.msgSwitchArrival p.id, .amArrival p.id]
      | .mb _ _ => [.mailboxArrival p.id]
      | .fe _ => [.feAccessArrive p.id]
      | .feCancel _ _ _ => [.feCancel p.id]
      | .line _ _ _ => [])

/-- The steps of a host port. -/
noncomputable def portActs (s : State) (p : Nat) (x : HostPort) : List Instr :=
  x.held.map (fun w => if w.target = 1 then .submitRecord p else .hostWritePerform p w.stamp)
    ++ (if x.mbBusy then
        (match s.mbCode p with
        | 1 => [.mboxStatus p]
        | 2 => [.logread p]
        | 3 => [.stage p]
        | 4 => [.mboxBoot p]
        | 5 => [.dcmd p, .mboxBadCommand p]
        | 6 => [.route p, .mboxBadCommand p]
        | _ => [.mboxBadCommand p])
      else [])

/-- The steps of the engines in a round. -/
noncomputable def engineActs (s : State) : List Instr :=
  s.cores.flatMap (fun e => coreActs s e.1 e.2)
    ++ s.clusters.flatMap (fun e => clusterActs s e.1 e.2)
    ++ s.dies.flatMap (fun e => dieActs s e.1 e.2)
    ++ s.fabric.packets.flatMap packetActs
    ++ s.fabric.switches.flatMap (fun e => e.2.buffer.map (fun p => .msgSwitchArrival p.id))
    ++ s.ports.flatMap (fun e => portActs s e.1 e.2)
    ++ (List.range s.merges.length).map .mergeEntryClose
    ++ (List.range s.pendRegs.length).map .registration
    ++ (if s.notices.isEmpty then [] else [.revocationNotice 0])
    ++ (if s.updates.isEmpty then [] else [.vamoVrdmElementAtHome 0])
    ++ (if s.scOps.isEmpty then [] else [.scWindowDeliver])
    ++ (if s.disp.nodes.isEmpty then [] else [.placementDecision])
    ++ (if s.dueSlot.isSome then [.firingSlotBoundary] else [])
    ++ (List.range s.disp.migrations.length).map .migrationTransfer
    ++ (match s.svc.portHalt with | some (a0, a1, a2) => [.debugPortCommand 1 a0 a1 a2] | none => [])
    ++ s.svc.retiring.map (fun r => .spareTakeover r.kind r.unit)
    ++ (if s.fabric.vcres.any (fun e => !e.2.live && decide (e.2.frame < s.clock / 16)) then [.linkFrameBoundary] else [])

end Sys2Proof.Machine
end

