-- ==== Sys2Proof/Machine/Step.lean ====
section
/-! DEFINITION. One step: the next turn of the schedule; when none is set, a round of the default order. -/

namespace Sys2Proof.Machine

/-- One step of the machine. -/
noncomputable def step (s : State) : Host.Outcome State Fault Refusal :=
  match s.sched with
  | [] =>
    match (engineActs s).map Turn.act ++ s.advancing.map Turn.rotate ++ [.pass 1] with
    | t :: r => turn t { s with sched := r }
    | [] => .next s
  | t :: r => turn t { s with sched := r }

/-- `s` with an instruction word standing where the next step fetches: at offset 0 of core 0's own window, with strand 0 of
that core in RUN there and next to issue, and X over that window in its domain's PLB entry (log 5). -/
def State.withFetchWord (s : State) (nbits w : Nat) : State :=
  let s := s.modCore 0 (fun c =>
    let t := { c.strand 0 with st := .run, pc := word selfBase, wait := .none, readyAt := 0, async := [], replay := {} }
    let seg : Seg := { base := selfBase, lsize := 28, r := false, w := false, x := true, s := false, d := false }
    let plb := { pd := t.pd, segs := [seg], complete := true } :: c.plb.filter (fun p => p.pd ≠ t.pd)
    { c.setStrand 0 t with plb := plb })
  { s with mem := mwrite s.mem (s.padAddr 0 0) (leBytes 4 (w % 2 ^ nbits)), sched := [.issue 0 0] }

end Sys2Proof.Machine
end

