-- ==== Sys2Proof/Safety.lean ====
section
/-! DEFINITION. What claims about runs are stated in: which states step, and what one state leaves of another. -/

namespace Sys2Proof.Safety

open Sys2Proof.Machine

/-! ### Runs -/

/-- A state steps: neither a fault nor a refusal. -/
def Steps (s : State) : Prop := ∃ t, step s = .next t

/-- `n` steps lead from one state to another. -/
def Run (s : State) (n : Nat) (t : State) : Prop :=
  match n with
  | 0 => s = t
  | k + 1 => ∃ u, step s = .next u ∧ Run u k t

/-- The memory is in its canonical form. -/
def memOk (s : State) : Prop := Memory.wf s.mem = true

/-! ### What stands as before -/

/-- Everything outside one core stands as before. -/
def OnlyCore (s t : State) (c : Nat) : Prop :=
  { t with cores := s.cores } = s ∧ ∀ d, d ≠ c → t.core d = s.core d

/-- Everything outside one strand stands as before. -/
def OnlyStrand (s t : State) (sid : Nat) : Prop :=
  OnlyCore s t (coreOfSid sid)
    ∧ { t.core (coreOfSid sid) with strands := (s.core (coreOfSid sid)).strands } = s.core (coreOfSid sid)
    ∧ ∀ k, k ≠ slotOfSid sid → (t.core (coreOfSid sid)).strand k = (s.core (coreOfSid sid)).strand k

/-- A strand's own state but its general registers, its pc, its control registers, and the bookkeeping of issue. -/
def SameUnits (a b : Strand) : Prop :=
  b.st = a.st ∧ b.status = a.status ∧ b.ox = a.ox ∧ b.efc = a.efc ∧ b.v = a.v ∧ b.vh = a.vh ∧ b.k = a.k ∧ b.vq = a.vq
    ∧ b.hold = a.hold ∧ b.lanes = a.lanes ∧ b.async = a.async

/-- Two queues of vector entries that differ at most in the lane clusters their entries still hold (05_vector R149). -/
def SameQueue (a b : List VEntry) : Prop := a.map (fun e => { e with lanes := [] }) = b.map (fun e => { e with lanes := [] })

/-- A strand is as it was, but for pending bits that a source may raise (04_strand R121). -/
def PendOnly (a b : Strand) : Prop := { b with cr := a.cr } = a ∧ ∀ n, n ≠ cIpend → b.ctl n = a.ctl n

/-- Every byte of memory reads as before. -/
def SameBytes (s t : State) : Prop := ∀ a, mget t.mem a = mget s.mem a

/-- The current strand's instruction has completed with `x` in register `rd`: that register alone changes (register 0 keeps
reading 0), the pc moves on by `len`, ctl.instret counts, every other register, flag and unit of the strand stands, and so does
everything outside it. -/
def RegResult (s t : State) (rd : Nat) (x : Word) (len : Nat) : Prop :=
  (∀ n, t.cur.rd n = if n = rd ∧ n ≠ 0 then x else s.cur.rd n)
    ∧ t.cur.pc = s.cur.pc + word len
    ∧ t.cur.ctl cInstret = s.cur.ctl cInstret + 1
    ∧ (∀ n, n ≠ cInstret → t.cur.ctl n = s.cur.ctl n)
    ∧ SameUnits s.cur t.cur
    ∧ t.cur.wait = .none
    ∧ OnlyStrand s t s.curSid

/-- The same with exception flags raised in ctl.fflags. -/
def FlagResult (s t : State) (rd : Nat) (x : Word) (flags len : Nat) : Prop :=
  (∀ n, t.cur.rd n = if n = rd ∧ n ≠ 0 then x else s.cur.rd n)
    ∧ t.cur.pc = s.cur.pc + word len
    ∧ t.cur.ctl cInstret = s.cur.ctl cInstret + 1
    ∧ (t.cur.ctl cFflags).toNat = (s.cur.ctl cFflags).toNat ||| flags % 32
    ∧ (∀ n, n ≠ cInstret → n ≠ cFflags → t.cur.ctl n = s.cur.ctl n)
    ∧ SameUnits s.cur t.cur
    ∧ t.cur.wait = .none
    ∧ OnlyStrand s t s.curSid

/-- The current strand's instruction has completed with a transfer of control and perhaps a link register. -/
def JumpResult (s t : State) (rd : Nat) (x target : Word) : Prop :=
  (∀ n, t.cur.rd n = if n = rd ∧ n ≠ 0 then x else s.cur.rd n)
    ∧ t.cur.pc = target
    ∧ t.cur.ctl cInstret = s.cur.ctl cInstret + 1
    ∧ (∀ n, n ≠ cInstret → t.cur.ctl n = s.cur.ctl n)
    ∧ SameUnits s.cur t.cur
    ∧ t.cur.wait = .none
    ∧ OnlyStrand s t s.curSid

/-- An instruction runs and leaves `x` in a register. -/
def Gives (s : State) (i : Instr) (rd : Nat) (x : Word) (len : Nat) : Prop := ∃ t, exec i s = .next t ∧ RegResult s t rd x len

/-- An instruction runs, leaves `x` in a register and raises flags. -/
def GivesFlags (s : State) (i : Instr) (rd : Nat) (x : Word) (flags : Nat) : Prop :=
  ∃ t, exec i s = .next t ∧ FlagResult s t rd x flags 4

/-- A transfer of control runs: to a target, with a link in a register. -/
def Jumps (s : State) (i : Instr) (rd : Nat) (x target : Word) : Prop := ∃ t, exec i s = .next t ∧ JumpResult s t rd x target

/-- An instruction writes one operand-extension register, and nothing else but the pc and ctl.instret. -/
def GivesOx (s : State) (i : Instr) (n : Nat) (x : Word) : Prop :=
  ∃ t, exec i s = .next t
    ∧ (∀ m, m < 8 → t.cur.oxr m = if m = n then x else s.cur.oxr m)
    ∧ (∀ m, t.cur.rd m = s.cur.rd m)
    ∧ t.cur.pc = s.cur.pc + 4
    ∧ (∀ m, m ≠ cInstret → t.cur.ctl m = s.cur.ctl m)
    ∧ SameUnits { s.cur with ox := t.cur.ox } t.cur
    ∧ OnlyStrand s t s.curSid

/-- What of a strand its program computes with: its run state, registers, flags and queues. -/
def SameRegs (a b : Strand) : Prop :=
  b.st = a.st ∧ (∀ n, b.rd n = a.rd n) ∧ b.ox = a.ox ∧ b.efc = a.efc ∧ b.v = a.v ∧ b.vh = a.vh ∧ b.k = a.k ∧ b.vq = a.vq
    ∧ b.hold = a.hold ∧ b.lanes = a.lanes

/-- A strand has taken a trap or an interrupt (R119): from task mode the supervisor set of registers saves what the handler
needs; from supervisor or monitor mode the monitor set does; a trap in a monitor handler halts the strand. -/
def TrapRegs (a b : Strand) (cause tval resume : Word) : Prop :=
  if a.status.mode = .task then
    b.ctl cEpc = resume &&& ~~~1 ∧ b.ctl cCause = cause ∧ b.ctl cTval = tval ∧ b.pc = a.ctl cTvec
      ∧ b.status = { a.status with mode := .supervisor, pmode := .task, pie := a.status.ie, ie := false }
      ∧ (∀ n, n ≠ cEpc → n ≠ cCause → n ≠ cTval → b.ctl n = a.ctl n) ∧ SameRegs a b ∧ b.wait = .none
  else if a.status.mnest = false then
    b.ctl cMepc = resume &&& ~~~1 ∧ b.ctl cMcause = cause ∧ b.ctl cMtval = tval ∧ b.pc = a.ctl cMtvec
      ∧ b.status = { a.status with mode := .monitor, mpmode := a.status.mode, mpie := a.status.ie, ie := false, mnest := true }
      ∧ (∀ n, n ≠ cMepc → n ≠ cMcause → n ≠ cMtval → b.ctl n = a.ctl n) ∧ SameRegs a b ∧ b.wait = .none
  else b.st = .halted

/-- It has, and but for a double fault nothing outside the strand has changed. -/
def TrapTaken (s t : State) (sid : Nat) (cause tval resume : Word) : Prop :=
  TrapRegs (s.st sid) (t.st sid) cause tval resume
    ∧ ((s.st sid).status.mode = .task ∨ (s.st sid).status.mnest = false → OnlyStrand s t sid)

/-- An instruction takes an exact trap: its code, detail and value; the handler resumes at the instruction itself. -/
def Traps (s : State) (i : Instr) (detail code : Nat) (tval : Word) : Prop :=
  ∃ t, exec i s = .next t ∧ TrapTaken s t s.curSid (causeWord false false false detail code) tval s.cur.pc

/-- An instruction has left the strand at the next instruction, and its general registers as they were. -/
def Moved (s t : State) : Prop :=
  (∀ n, t.cur.rd n = s.cur.rd n) ∧ t.cur.pc = s.cur.pc + 4 ∧ t.cur.ctl cInstret = s.cur.ctl cInstret + 1 ∧ t.cur.wait = .none

/-- It has also written a register. -/
def MovedWith (s t : State) (rd : Nat) (x : Word) : Prop :=
  (∀ n, t.cur.rd n = if n = rd ∧ n ≠ 0 then x else s.cur.rd n) ∧ t.cur.pc = s.cur.pc + 4
    ∧ t.cur.ctl cInstret = s.cur.ctl cInstret + 1 ∧ t.cur.wait = .none

/-- The rest of what the strand computes with stands as before: its units, its control registers but ctl.instret and the pending
bits that a source may raise, and the accumulators of its core. -/
def Kept (s t : State) : Prop :=
  SameUnits s.cur t.cur ∧ (∀ n, n ≠ cInstret → n ≠ cIpend → t.cur.ctl n = s.cur.ctl n)
    ∧ (t.core s.curCore).acc = (s.core s.curCore).acc

/-- An instruction has completed, and of its strand nothing but the pc and the count of instructions has changed. -/
def Went (s t : State) : Prop := Moved s t ∧ Kept s t

/-- An instruction has completed with a register written, and nothing else of its strand has changed. -/
def WentWith (s t : State) (rd : Nat) (x : Word) : Prop := MovedWith s t rd x ∧ Kept s t

/-- Nor has a byte of memory. -/
def Passes (s t : State) : Prop := Went s t ∧ t.mem = s.mem

/-- A register is written, and no byte of memory. -/
def PassesWith (s t : State) (rd : Nat) (x : Word) : Prop := WentWith s t rd x ∧ t.mem = s.mem

/-- An instruction waits where it is: its general registers and its pc stand. -/
def Stands (s t : State) (w : Wait) : Prop := (∀ n, t.cur.rd n = s.cur.rd n) ∧ t.cur.pc = s.cur.pc ∧ t.cur.wait = w

/-- And so does the rest of what the strand computes with, but for lane clusters that a wait may return (05_vector R149). -/
def Waits (s t : State) (w : Wait) : Prop :=
  Stands s t w ∧ SameUnits { s.cur with lanes := t.cur.lanes, vq := t.cur.vq, hold := t.cur.hold } t.cur
    ∧ SameQueue s.cur.vq t.cur.vq ∧ SameQueue s.cur.hold t.cur.hold ∧ ∀ n, n ≠ cIpend → t.cur.ctl n = s.cur.ctl n

/-- An instruction in flight of another strand has completed with a register written. -/
def Finished (s t : State) (sid rd : Nat) (x : Word) : Prop :=
  (∀ n, (t.st sid).rd n = if n = rd ∧ n ≠ 0 then x else (s.st sid).rd n) ∧ (t.st sid).pc = (s.st sid).pc + 4
    ∧ (t.st sid).wait = .none

/-- A vector-stream instruction issues: a queue entry with what it captured, the pc moved on, and nothing else but the timer of an
entry that comes first. -/
def Enqueues (s : State) (i : Instr) (g1 g2 : Word) (lf : BitVec 8) : Prop :=
  ∃ t, exec i s = .next t
    ∧ t.cur.vq = s.cur.vq ++
        [{ pc := s.cur.pc, ins := i, ox := (List.range 8).map s.cur.oxr, g1 := g1, g2 := g2, vl := s.cur.vl,
           frm := BitVec.ofNat 3 s.cur.frm, grant := s.cur.grant, lfmt := lf, start := 0, pd := s.cur.pd, lanes := s.cur.lanes }]
    ∧ t.cur.pc = s.cur.pc + 4
    ∧ t.cur.wait = (if awaited i then .vres else .none)
    ∧ (∀ n, n ≠ cEptime → t.cur.ctl n = s.cur.ctl n)
    ∧ SameRegs s.cur { t.cur with vq := s.cur.vq }
    ∧ t.cur.status = s.cur.status
    ∧ OnlyStrand s t s.curSid

/-- The oldest entry of a strand's queue can be performed: the strand runs and holds its lanes, no page fault has stopped the entry, and
the core has no copy command. -/
def Performs (s : State) (core slot : Nat) (e : VEntry) (rest : List VEntry) : Prop :=
  let a := s.st (core * 8 + slot)
  slot < 5 ∧ a.vq = e :: rest ∧ a.st = .run ∧ e.stopped = false ∧ a.lanesHeld = true ∧ (s.core core).copies = []

/-- The entry has been performed and has left the queue; the registers, the pc, the flags and the memory the strand had stand,
but for what is said beside. -/
def Performed (s t : State) (sid : Nat) (rest : List VEntry) : Prop :=
  SameQueue (t.st sid).vq rest ∧ (t.st sid).pc = (s.st sid).pc ∧ (t.st sid).ctl cInstret = (s.st sid).ctl cInstret + 1
    ∧ (t.st sid).st = (s.st sid).st ∧ (t.st sid).status = (s.st sid).status ∧ t.mem = s.mem

/-- The flags of an entry are ORed into ctl.fflags (03_numbers R75). -/
def FlagsOred (s t : State) (sid : Nat) (fl : Nat → Bool) : Prop :=
  ∀ b, b < 5 → ((t.st sid).ctl cFflags).getLsbD b = (((s.st sid).ctl cFflags).getLsbD b || fl b)

/-- An entry has written vector register `vd`: the elements of `eb` bits that `new` names take their codes, the others keep their bits, and the
register takes a header; every other vector register and header, every predicate register and every general register stands. -/
def VecWritten (s t : State) (sid vd eb : Nat) (new : Nat → Option Nat) (h : VHdr) : Prop :=
  (∀ j, j < 2048 / eb → elemAt ((t.st sid).vr vd) eb j =
      match new j with
      | some x => x % 2 ^ eb
      | none => elemAt ((s.st sid).vr vd) eb j)
    ∧ (t.st sid).vhr vd = h
    ∧ (∀ n, n ≠ vd → (t.st sid).vr n = (s.st sid).vr n ∧ (t.st sid).vhr n = (s.st sid).vhr n)
    ∧ (∀ n, (t.st sid).kr n = (s.st sid).kr n) ∧ ∀ n, (t.st sid).rd n = (s.st sid).rd n

/-- Performing a strand's oldest entry writes a vector register with flags and carries; one without elements leaves the header too. -/
def EntryWrites (s : State) (core slot : Nat) (e : VEntry) (rest : List VEntry) (vd eb : Nat) (new : Nat → Option Nat) (h : VHdr)
    (fl : Nat → Bool) (efc : Nat → BitVec 32) : Prop :=
  ∃ t, exec (.vectorEntryComplete core slot) s = .next t ∧ Performed s t (core * 8 + slot) rest
    ∧ VecWritten s t (core * 8 + slot) vd eb new (if e.vl = 0 then (s.st (core * 8 + slot)).vhr vd else h)
    ∧ FlagsOred s t (core * 8 + slot) fl ∧ ∀ n, n < 4 → (t.st (core * 8 + slot)).efcr n = efc n

/-- The pairwise tree of 03_numbers R86 over 2^n positions. -/
def treeOf {α : Type} (op : α → α → α) (n : Nat) (x : Nat → α) : α :=
  match n with
  | 0 => x 0
  | k + 1 => treeOf op k (fun i => op (x i) (x (i + 2 ^ k)))

/-- Magnitude code `c` is what an exact magnitude rounds to by a mode of 03_numbers R74, on a rising grid of magnitudes: `cmp t` compares t/2
with the exact magnitude, all at one scale; `neg` is its sign. -/
def RoundsTo (grid : Nat → Nat) (md : RMode) (neg : Bool) (cmp : Nat → Ordering) (c : Nat) : Prop :=
  let down : Prop := cmp (2 * grid c) ≠ .gt ∧ cmp (2 * grid (c + 1)) = .gt
  let up : Prop := cmp (2 * grid c) ≠ .lt ∧ (c = 0 ∨ cmp (2 * grid (c - 1)) = .lt)
  match md with
  | .rtz => down
  | .rup => if neg then down else up
  | .rdn => if neg then up else down
  | .rne => (c = 0 ∨ cmp (grid (c - 1) + grid c) = .lt ∨ (cmp (grid (c - 1) + grid c) = .eq ∧ c % 2 = 0))
      ∧ (cmp (grid c + grid (c + 1)) = .gt ∨ (cmp (grid c + grid (c + 1)) = .eq ∧ c % 2 = 0))
  | .rna => (c = 0 ∨ cmp (grid (c - 1) + grid c) ≠ .gt) ∧ cmp (grid c + grid (c + 1)) = .gt

/-- A code with its flags is what an exact non-zero value rounds to in an IEEE format (03_numbers R73 to R75), at a scale 2^q far enough below
it: the magnitude rounded on the format's grid; past the largest, infinity or that largest as the mode says, with OF and NX; otherwise NX
where it is inexact, with UF where the value rounded without a lowest exponent lies below the smallest normal number. -/
def RoundedIn (f : Fmt) (md : RMode) (neg : Bool) (q : Int) (cmp : Nat → Ordering) (r : Nat × Nat) : Prop :=
  let grid := fun (f : Fmt) (n : Nat) => scaleTo (f.mag n).m (f.mag n).e q
  let away : Bool := match md with | .rne => true | .rna => true | .rtz => false | .rup => !neg | .rdn => neg
  ∃ c, RoundsTo (grid f) md neg cmp c
    ∧ (f.maxCode < c → r = (f.code neg (if away then f.maxCode + 1 else f.maxCode), flagOF + flagNX))
    ∧ (c ≤ f.maxCode → r.1 = f.code neg c)
    ∧ (c ≤ f.maxCode → cmp (2 * grid f c) = .eq → r.2 = 0)
    ∧ (c ≤ f.maxCode → cmp (2 * grid f c) ≠ .eq → ∃ n, RoundsTo (grid { f with qmin := q }) md neg cmp n
        ∧ r.2 = if grid { f with qmin := q } n < scaleTo (2 ^ (f.prec - 1)) f.qmin q then flagUF + flagNX else flagNX)

/-- The collector of a strand's die has taken a trace record of it (16_debug R415, R416): kind, and what the strand holds in `a`; it stands
in the ring where nothing is reserved, or the record is counted as lost, the ring being off or full. -/
def TraceTaken (s t : State) (sid kind : Nat) (a : Strand) (mark : Word) : Prop :=
  let reg := fun (u : State) (n : Nat) => tget (0 : Word) (u.die (dieOfCore (coreOfSid sid))).cr n
  let lsize := bits (reg s 0x242) 4 0
  let head := (reg s 0x243).toNat
  let slot := bits (reg s 0x241) 51 0 / 2 ^ (5 + lsize) * 2 ^ (5 + lsize) + 32 * (head % 2 ^ lsize)
  let w1 := if kind = 1 then leBytes 8 mark.toNat else leBytes 4 (a.ctl cStripord).toNat ++ leBytes 4 (a.ctl 0x2C1).toNat
  if bit (reg s 0x242) 7 = false ∨ (head + 2 ^ 32 - (reg s 0x244).toNat) % 2 ^ 32 = 2 ^ lsize then
    reg t 0x245 = reg s 0x245 + 1 ∧ reg t 0x243 = reg s 0x243 ∧ t.mem = s.mem
  else
    reg t 0x243 = BitVec.ofNat 64 ((head + 1) % 2 ^ 32) ∧ reg t 0x245 = reg s 0x245
      ∧ (s.resvs = [] → s.pendRegs = [] →
          mread t.mem slot 32 = leBytes 7 (a.ctl cStripaddr).toNat ++ [BitVec.ofNat 8 kind] ++ w1 ++ leBytes 2 (a.ctl cVl).toNat
            ++ [BitVec.ofNat 8 ((a.ctl cGrant).toNat % 8), 0] ++ leBytes 4 (s.strandId sid).toNat ++ leBytes 8 s.time)

/-- The source length, the extent and the destination length of a copy command (09_copy R246, R245): of its control word or its tile's header;
of the header a conversion lands; of the whole circular buffer. -/
def copyExtent (s : State) (oxb : BitVec 3) (dst : Word) (hdr : Option TileHdr) (conv : Option (Nat × Nat × Nat)) : Nat :=
  match hdr, conv with
  | some h, some (e, _, _) => (h.converted e dst).convExtent
  | some h, none => h.span
  | none, _ => bits (s.xo oxb 0) 18 0

/-- The conversion of a copied tile (09_copy R251): none where its destination lies in no bank of the core's own scratchpad, or in one without a
landing format; a format, a rounding and the bank otherwise, where R251 lets the source's format have them. -/
def ConvertsTo (s : State) (h : TileHdr) (dst : Word) (conv : Option (Nat × Nat × Nat)) : Prop :=
  match s.bankFor (s.who s.curSid) dst with
  | none => conv = none
  | some n =>
    let l := (s.core s.curCore).landing n
    if bits l 7 0 = 0 then conv = none
    else conv = some (bits l 7 0, bits l 9 8, n) ∧ h.efmt ≠ 0 ∧ (bits l 9 8 = 3 → isInt h.efmt = false)
      ∧ (h.converted (bits l 7 0) dst).supported = true

/-- What lets a copy be accepted (R239, R243 to R245): a free entry, its words in order, in tile mode a header and its conversion, its two
ranges aligned, apart and accessible; `s2` is the state after its checks. -/
def CopyReady (s : State) (kind : Nat) (c b a : BitVec 5) (oxb : BitVec 3) (follow : Option FollowOn) (hdr : Option TileHdr)
    (conv : Option (Nat × Nat × Nat)) (s2 : State) : Prop :=
  let x := s.xo oxb 0
  let d := (s.core s.curCore).cb (bits x 25 23)
  let al := if bit x 19 = true then 32 else 8
  let src := s.cur.rd a.toNat
  let dst := if bit x 22 = true then d.base else s.cur.rd b.toNat
  let extent := copyExtent s oxb dst hdr conv
  let srcLen := match hdr with | some h => h.span | none => extent
  let dstLen := if bit x 22 = true then d.nslots * (64 * d.ssize) else extent
  (c = 0 ∨ s.cur.vq = []) ∧ (s.core s.curCore).freeCopy.isSome = true ∧ s.chunkReg s.curSid c.toNat = false
    ∧ copyWords s kind src dst (b = 0) oxb s = .ok follow s ∧ src.toNat % al = 0 ∧ dst.toNat % al = 0
    ∧ extent ≤ 262144 ∧ rangeLeaves src.toNat srcLen = false ∧ rangeLeaves dst.toNat dstLen = false
    ∧ (src.toNat + srcLen ≤ dst.toNat ∨ dst.toNat + dstLen ≤ src.toNat) ∧ (bit x 22 = true → extent ≤ 64 * d.ssize)
    ∧ ∃ s0 s1, (if bit x 19 = true then ∃ h, hdr = some h ∧ hdrCheck (s.who s.curSid) src .no s = .ok h s0 ∧ ConvertsTo s0 h dst conv
          else hdr = none ∧ conv = none ∧ s0 = s)
        ∧ rangeFault (s0.who s0.curSid) src.toNat srcLen needR s0 = .ok none s1
        ∧ rangeFault (s1.who s1.curSid) dst.toNat dstLen needW s1 = .ok none s2

/-- No strand waits in RSV, and nothing waits at a home slice or is on its way there (10_sync R282, 11_home R303, R313, 06_vmem R182, 09_copy
R256). -/
def HomesQuiet (s : State) : Prop :=
  s.resvs = [] ∧ s.pendRegs = [] ∧ s.updates = [] ∧ s.scOps = [] ∧ s.merges = []
    ∧ ∀ c, c ∈ s.cores → ∀ x, x ∈ c.2.strands → ∀ pa key a q k, x.2.wait ≠ .rsv pa key a q k

/-- A state but for memory and the errors of its scratchpads, which a store into one mends (02_words R71). -/
def ButMem (s t : State) : State := { t with mem := s.mem, flawed := s.flawed }

/-- A copy has been accepted into the lowest free entry with its operands, and its instruction has completed: a production into a circular
buffer has its next free slot, or waits for one (R261); the bits of the chunk register that stand for its chunks are cleared (R249). -/
def CopyTaken (s t : State) (kind : Nat) (c b a : BitVec 5) (oxb : BitVec 3) (follow : Option FollowOn) (hdr : Option TileHdr)
    (conv : Option (Nat × Nat × Nat)) : Prop :=
  let x := s.xo oxb 0
  let n := bits x 25 23
  let d := (s.core s.curCore).cb n
  let dst := if bit x 22 = true then d.base else s.cur.rd b.toNat
  let extent := copyExtent s oxb dst hdr conv
  (c ≠ 0 → ∀ j, j < 256 → (t.cur.kr c.toNat).getLsbD j = (decide (ceilDiv extent 1024 ≤ j) && (s.cur.kr c.toNat).getLsbD j))
    ∧ ∃ ent k, (s.core s.curCore).freeCopy = some ent ∧ tfind (t.core s.curCore).copies ent = some k ∧ k.kind = kind
      ∧ k.src = s.cur.rd a.toNat ∧ k.extent = extent ∧ k.kc = c.toNat ∧ k.follow = follow ∧ k.hdr = hdr ∧ k.conv = conv ∧ k.done = 0
      ∧ k.slot = s.curSlot ∧ k.cbv = bit x 22
      ∧ if bit x 22 = true ∧ (d.free = 0 ∨ d.pwait ≠ []) then
          k.state = .waiting ∧ ((t.core s.curCore).cb n).pwait = d.pwait ++ [16 + ent] ∧ ((t.core s.curCore).cb n).free = d.free
        else
          k.state = .moving ∧ k.dst = (if bit x 22 = true then d.slotAddr d.phead else dst)
            ∧ (bit x 22 = true → ((t.core s.curCore).cb n).free = d.free - 1 ∧ k.cb = n ∧ k.scope = d.scope)

end Sys2Proof.Safety
end

