-- ==== Sys2Proof/Certificates/Slice0/Obligations.lean ====
section
/-! DEFINITION. The statements for the provers.  Each docstring names the rules of spec/ it formalises. -/

open Sys2Proof Sys2Proof.Machine Sys2Proof.Safety

/-! ### The scalar instructions -/

/-- R122: the integer operations.  `a` and `b` are the two registers read and `n` is b[5:0]; the arithmetic and the comparisons are
over the numbers the registers hold, the rest is said bit by bit.  CLZ, CTZ and POPC with a second operand in their word are no
instruction, and the strand that meets one takes ILLEGAL. -/
def Obligations.IntegerOperations : Prop :=
  ∀ (s : State) (rd rs1 rs2 : BitVec 6),
    let a := s.cur.rd rs1.toNat
    let b := s.cur.rd rs2.toNat
    let d := rd.toNat
    let n := b.toNat % 64
    let gives := fun (i : Instr) (f : Nat → Bool) =>
      ∃ x : Word, Gives s i d x 4 ∧ ∀ k, k < 64 → x.getLsbD k = f k
    (Gives s (.add rd rs1 rs2) d (BitVec.ofInt 64 (a.toInt + b.toInt)) 4
      ∧ Gives s (.sub rd rs1 rs2) d (BitVec.ofInt 64 (a.toInt - b.toInt)) 4
      ∧ Gives s (.mul rd rs1 rs2) d (BitVec.ofInt 64 (a.toInt * b.toInt)) 4
      ∧ Gives s (.mulh rd rs1 rs2) d (BitVec.ofInt 64 (a.toInt * b.toInt / 2 ^ 64)) 4
      ∧ Gives s (.mulhu rd rs1 rs2) d (BitVec.ofNat 64 (a.toNat * b.toNat / 2 ^ 64)) 4
      ∧ Gives s (.div rd rs1 rs2) d
          (if b = 0 then BitVec.allOnes 64 else if a = BitVec.intMin 64 ∧ b = BitVec.allOnes 64 then BitVec.intMin 64
           else BitVec.ofInt 64 (a.toInt.tdiv b.toInt)) 4
      ∧ Gives s (.divu rd rs1 rs2) d (if b = 0 then BitVec.allOnes 64 else BitVec.ofNat 64 (a.toNat / b.toNat)) 4
      ∧ Gives s (.rem rd rs1 rs2) d
          (if b = 0 then a else if a = BitVec.intMin 64 ∧ b = BitVec.allOnes 64 then 0
           else BitVec.ofInt 64 (a.toInt - b.toInt * a.toInt.tdiv b.toInt)) 4
      ∧ Gives s (.remu rd rs1 rs2) d (if b = 0 then a else BitVec.ofNat 64 (a.toNat % b.toNat)) 4)
    ∧ (gives (.and rd rs1 rs2) (fun k => a.getLsbD k && b.getLsbD k)
      ∧ gives (.or rd rs1 rs2) (fun k => a.getLsbD k || b.getLsbD k)
      ∧ gives (.xor rd rs1 rs2) (fun k => a.getLsbD k != b.getLsbD k)
      ∧ gives (.andn rd rs1 rs2) (fun k => a.getLsbD k && !b.getLsbD k)
      ∧ gives (.shl rd rs1 rs2) (fun k => decide (n ≤ k) && a.getLsbD (k - n))
      ∧ gives (.shr rd rs1 rs2) (fun k => a.getLsbD (k + n))
      ∧ gives (.sha rd rs1 rs2) (fun k => if k + n < 64 then a.getLsbD (k + n) else a.getLsbD 63)
      ∧ gives (.rot rd rs1 rs2) (fun k => a.getLsbD ((k + n) % 64)))
    ∧ (Gives s (.slt rd rs1 rs2) d (if a.toInt < b.toInt then 1 else 0) 4
      ∧ Gives s (.sltu rd rs1 rs2) d (if a.toNat < b.toNat then 1 else 0) 4
      ∧ Gives s (.min rd rs1 rs2) d (BitVec.ofInt 64 (min a.toInt b.toInt)) 4
      ∧ Gives s (.max rd rs1 rs2) d (BitVec.ofInt 64 (max a.toInt b.toInt)) 4
      ∧ Gives s (.minu rd rs1 rs2) d (BitVec.ofNat 64 (min a.toNat b.toNat)) 4
      ∧ Gives s (.maxu rd rs1 rs2) d (BitVec.ofNat 64 (max a.toNat b.toNat)) 4)
    ∧ ((∃ k, k ≤ 64 ∧ Gives s (.clz rd rs1) d (BitVec.ofNat 64 k) 4 ∧ (∀ j, j < k → a.getLsbD (63 - j) = false)
        ∧ (k < 64 → a.getLsbD (63 - k) = true))
      ∧ (∃ k, k ≤ 64 ∧ Gives s (.ctz rd rs1) d (BitVec.ofNat 64 k) 4 ∧ (∀ j, j < k → a.getLsbD j = false)
        ∧ (k < 64 → a.getLsbD k = true))
      ∧ Gives s (.popc rd rs1) d (BitVec.ofNat 64 ((List.range 64).countP (fun j => a.getLsbD j))) 4
      ∧ gives (.sext rd rs1 rs2) (fun j => a.getLsbD (min j n))
      ∧ gives (.zext rd rs1 rs2) (fun j => decide (j ≤ n) && a.getLsbD j))
    ∧ ∀ (w : Nat) (s' : State), w < 2 ^ 32 → w % 256 = 3 → w / 2 ^ 26 ∈ [23, 24, 25] → w / 2 ^ 20 % 64 ≠ 0 →
        (∀ i, decodeWord w ≠ .ok i)
          ∧ (s.cur.replayed = none → fetchWord s = .ok w s' → s'.curSid = s.curSid → s'.cur.vq = [] → s'.cur.bpArmed = none
              → s'.breakpoints s.curSid = [] →
              ∃ t, issueWord s = .next t
                ∧ TrapRegs s'.cur (t.st s.curSid) (causeWord false false false 0 1) (BitVec.ofNat 64 w) s'.cur.pc)

/-- R123, R46, R50: the immediate forms, each with the second operand of R122 replaced by its immediate, and the four
instructions that write the operand-extension registers. -/
def Obligations.ImmediateForms : Prop :=
  ∀ (s : State) (rd rs1 amt : BitVec 6) (imm : BitVec 12) (imm18 : BitVec 18) (num m : BitVec 3),
    let a := s.cur.rd rs1.toNat
    let d := rd.toNat
    let n := amt.toNat
    Gives s (.addi rd rs1 imm) d (BitVec.ofInt 64 (a.toInt + imm.toInt)) 4
      ∧ Gives s (.andi rd rs1 imm) d (a &&& BitVec.ofNat 64 imm.toNat) 4
      ∧ Gives s (.ori rd rs1 imm) d (a ||| BitVec.ofNat 64 imm.toNat) 4
      ∧ Gives s (.xori rd rs1 imm) d (a ^^^ BitVec.ofNat 64 imm.toNat) 4
      ∧ Gives s (.shli rd rs1 amt) d (BitVec.ofNat 64 (a.toNat * 2 ^ n)) 4
      ∧ Gives s (.shri rd rs1 amt) d (BitVec.ofNat 64 (a.toNat / 2 ^ n)) 4
      ∧ Gives s (.shai rd rs1 amt) d (BitVec.ofInt 64 (a.toInt / 2 ^ n)) 4
      ∧ Gives s (.slti rd rs1 imm) d (if a.toInt < imm.toInt then 1 else 0) 4
      ∧ Gives s (.sltiu rd rs1 imm) d (if a.toNat < (BitVec.ofInt 64 imm.toInt).toNat then 1 else 0) 4
      ∧ Gives s (.lih rd imm18) d (BitVec.ofInt 64 (imm18.toInt * 2 ^ 14)) 4
      ∧ GivesOx s (.loxi num imm18) num.toNat (BitVec.ofInt 64 imm18.toInt)
      ∧ GivesOx s (.loxiSh num imm18) num.toNat (BitVec.ofNat 64 ((s.cur.oxr num.toNat).toNat * 2 ^ 18 + imm18.toNat))
      ∧ GivesOx s (.lox num rs1) num.toNat a
      ∧ GivesOx s (.movox num m) num.toNat (s.cur.oxr m.toNat)

/-- R48: the 16-bit forms that compute have the effect of their 32-bit instructions, with length 2. -/
def Obligations.CompressedForms : Prop :=
  ∀ (s : State) (ga gb num : BitVec 5) (imm : BitVec 5) (imm10 : BitVec 10),
    let a := s.cur.rd ga.toNat
    let b := s.cur.rd gb.toNat
    let d := ga.toNat
    let n := num.toNat
    Gives s (.cMv ga gb) d b 2
      ∧ Gives s (.cAdd ga gb) d (a + b) 2
      ∧ Gives s (.cSub ga gb) d (a - b) 2
      ∧ Gives s (.cAnd ga gb) d (a &&& b) 2
      ∧ Gives s (.cOr ga gb) d (a ||| b) 2
      ∧ Gives s (.cXor ga gb) d (a ^^^ b) 2
      ∧ Gives s (.cSlt ga gb) d (if a.toInt < b.toInt then 1 else 0) 2
      ∧ Gives s (.cNeg ga gb) d (-b) 2
      ∧ Gives s (.cLi ga imm) d (BitVec.ofInt 64 imm.toInt) 2
      ∧ Gives s (.cAddi ga imm) d (BitVec.ofInt 64 (a.toInt + imm.toInt)) 2
      ∧ Gives s (.cShli ga num) d (BitVec.ofNat 64 (a.toNat * 2 ^ n)) 2
      ∧ Gives s (.cShri ga num) d (BitVec.ofNat 64 (a.toNat / 2 ^ n)) 2
      ∧ Gives s (.cShai ga num) d (BitVec.ofInt 64 (a.toInt / 2 ^ n)) 2
      ∧ Gives s (.cAddsp imm10) 2 (BitVec.ofInt 64 ((s.cur.rd 2).toInt + 4 * imm10.toInt)) 2

/-- R124, R73 to R77: a scalar floating instruction writes the rounded result's bits, zero-extended, or for an integer
destination of FCVT the wrapped integer, and ORs its flags into ctl.fflags; each result is the number chapter's operation on
the fields of the registers, in the mode of ctl.frm.  The second part says what those operations compute, without reference to how: an exact
sum, product, quotient or root is rounded once, on the grid of the format's magnitudes; a NaN gives the canonical NaN; minimum and maximum
order the zeros and pass over one NaN; an integer is the rounded value held to its range. -/
def Obligations.FloatResults : Prop :=
  (∀ (s : State) (rd rs1 rs2 rm : BitVec 6) (rs3 : BitVec 4) (ty : BitVec 2) (src dst : BitVec 3),
    let f := scalarFmt ty.toNat
    let md := rmodeOf s.cur.frm
    let fa := (s.cur.rd rs1.toNat).toNat % 2 ^ scalarBits ty.toNat
    let fb := (s.cur.rd rs2.toNat).toNat % 2 ^ scalarBits ty.toNat
    let fc := (s.cur.rd rs3.toNat).toNat % 2 ^ scalarBits ty.toNat
    let gives := fun (i : Instr) (r : Nat × Nat) => GivesFlags s i rd.toNat (BitVec.ofNat 64 r.1) r.2
    gives (.fadd rd rs1 rs2 ty) (f.add md (f.val fa) (f.val fb))
      ∧ gives (.fsub rd rs1 rs2 ty) (f.sub md (f.val fa) (f.val fb))
      ∧ gives (.fmul rd rs1 rs2 ty) (f.mul md (f.val fa) (f.val fb))
      ∧ gives (.fdiv rd rs1 rs2 ty) (f.div md (f.val fa) (f.val fb))
      ∧ gives (.fsqrt rd rs1 ty) (f.sqrt md (f.val fa))
      ∧ gives (.fmin rd rs1 rs2 ty) (f.minMax false fa fb)
      ∧ gives (.fmax rd rs1 rs2 ty) (f.minMax true fa fb)
      ∧ gives (.fcmp rd rs1 rs2 ty) (cmpResult f fa fb)
      ∧ gives (.fclass rd rs1 ty) (2 ^ f.classOf fa, 0)
      ∧ gives (.ffma rd rs1 rs2 rs3 ty) (f.fma md (f.val fa) (f.val fb) (f.val fc))
      ∧ gives (.fcvt rd rs1 rm src dst)
          (cvtResult dst.toNat (if rm.toNat = 0 then md else rmodeOf rm.toNat) (cvtSource src.toNat (s.cur.rd rs1.toNat))))
  ∧ (∀ f, f ∈ [fmtH, fmtBf, fmtF, fmtD] → ∀ (md : RMode) (a b c : Dy),
      let e := min a.e b.e
      let zero := fun (x y : Dy) => if x.m = 0 ∧ y.m = 0 ∧ x.neg = y.neg then x.neg else decide (md = .rdn)
      let sum := fun (q : Int) (x y z : Dy) (r : Nat × Nat) =>
        let i := x.at q + y.at q + z.at q
        (i ≠ 0 → RoundedIn f md (decide (i < 0)) q (fun t => compare t (2 * i.natAbs)) r)
      let nothing : Dy := { neg := false, m := 0, e := a.e }
      -- sums, products and both
      sum (min f.qmin (e - f.prec)) a b { nothing with e := e } (f.add md (.fin a) (.fin b))
        ∧ sum (min f.qmin (e - f.prec)) a b.opp { nothing with e := e } (f.sub md (.fin a) (.fin b))
        ∧ (a.at e + b.at e = 0 → f.add md (.fin a) (.fin b) = (f.code (zero a b) 0, 0))
        ∧ (a.m ≠ 0 → b.m ≠ 0 →
            let p : Dy := { neg := a.neg != b.neg, m := a.m * b.m, e := a.e + b.e }
            sum (min f.qmin (p.e - f.prec)) p { nothing with e := p.e } { nothing with e := p.e } (f.mul md (.fin a) (.fin b))
              ∧ sum (min f.qmin (min p.e c.e - f.prec)) p c { nothing with e := p.e } (f.fma md (.fin a) (.fin b) (.fin c))
              -- a quotient
              ∧ (let q := min f.qmin (a.e - b.e - (Nat.log2 b.m : Int) - f.prec - 2)
                 RoundedIn f md (a.neg != b.neg) q (fun t => compare (t * b.m) (2 * scaleTo a.m (a.e - b.e) q)) (f.div md (.fin a) (.fin b))))
        ∧ (a.m ≠ 0 → b.m = 0 → f.div md (.fin a) (.fin b) = (f.infCode (a.neg != b.neg), flagDZ))
        -- a root
        ∧ (a.m ≠ 0 → a.neg = false →
            let q := min f.qmin (a.e / 2 - f.prec - 2)
            RoundedIn f md false q (fun t => compare (t * t) (4 * scaleTo a.m a.e (2 * q))) (f.sqrt md (.fin a)))
        ∧ (a.m ≠ 0 → a.neg = true → f.sqrt md (.fin a) = (f.nan, flagNV))
        -- NaNs and infinities
        ∧ (∀ x y : FVal, x.isNan = true ∨ y.isNan = true →
            let r := (f.nan, if x = .nan true ∨ y = .nan true then flagNV else 0)
            f.add md x y = r ∧ f.sub md x y = r ∧ f.mul md x y = r ∧ f.div md x y = r)
        ∧ (∀ n m : Bool, f.add md (.inf n) (.inf m) = (if n = m then (f.infCode n, 0) else (f.nan, flagNV))
            ∧ f.mul md (.inf n) (.fin a) = (if a.m = 0 then (f.nan, flagNV) else (f.infCode (n != a.neg), 0))
            ∧ f.div md (.inf n) (.inf m) = (f.nan, flagNV))
        -- minimum and maximum
        ∧ (∀ (mx : Bool) (x y : Nat),
            let r := f.minMax mx x y
            let vx := f.val x
            let vy := f.val y
            r.2 = (if vx = .nan true ∨ vy = .nan true then flagNV else 0)
              ∧ (vx.isNan = true → vy.isNan = true → r.1 = f.nan)
              ∧ (vx.isNan = true → vy.isNan = false → r.1 = y)
              ∧ (vx.isNan = false → vy.isNan = true → r.1 = x)
              ∧ (vx.isNan = false → vy.isNan = false → (r.1 = x ∨ r.1 = y)
                  ∧ (vx.rel vy = .lt → r.1 = if mx then y else x) ∧ (vx.rel vy = .gt → r.1 = if mx then x else y)
                  ∧ (vx.rel vy = .eq → vx.isNeg ≠ vy.isNeg → (f.val r.1).isNeg = !mx)))
        -- integers
        ∧ (∀ (signed : Bool) (n : Nat), 0 < n →
            let lo : Int := if signed then -2 ^ (n - 1) else 0
            let hi : Int := if signed then 2 ^ (n - 1) - 1 else 2 ^ n - 1
            let q := min a.e 0
            let v := scaleTo a.m a.e q
            (∀ g : Bool, (FVal.nan g).toIntN md signed n = (0, flagNV))
              ∧ (∀ g : Bool, (FVal.inf g).toIntN md signed n = (if g then lo else hi, flagNV))
              ∧ ∃ i, RoundsTo (fun k => scaleTo k 0 q) md a.neg (fun t => compare t (2 * v)) i
                ∧ (let j : Int := if a.neg then -i else i
                   let k := max lo (min hi j)
                   (FVal.fin a).toIntN md signed n = (k, if k ≠ j then flagNV else if scaleTo i 0 q = v then 0 else flagNX))))

/-- R126, R41, R46, R48: a branch goes to pc + 2 x displacement when its condition holds, and on to the next instruction otherwise;
JAL, JALR and the 16-bit jumps link the address of the next instruction, and JALR's target comes from the register as it was. -/
def Obligations.BranchesAndJumps : Prop :=
  ∀ (s : State) (lo rd rs1 rs2 hi : BitVec 6) (ga imm : BitVec 5) (imm12 : BitVec 12) (disp18 : BitVec 18) (disp10 : BitVec 10),
    let a := s.cur.rd rs1.toNat
    let b := s.cur.rd rs2.toNat
    let c := s.cur.rd ga.toNat
    let target := fun (disp : Int) => (s.cur.pc + BitVec.ofInt 64 (2 * disp)) &&& ~~~1
    let goes := fun (i : Instr) (cond : Prop) (disp : Int) (len : Nat) =>
      (cond → Jumps s i 0 0 (target disp)) ∧ (¬cond → Gives s i 0 0 len)
    let disp := (hi ++ lo : BitVec 12).toInt
    goes (.beq lo rs1 rs2 hi) (a = b) disp 4
      ∧ goes (.bne lo rs1 rs2 hi) (a ≠ b) disp 4
      ∧ goes (.blt lo rs1 rs2 hi) (a.toInt < b.toInt) disp 4
      ∧ goes (.bge lo rs1 rs2 hi) (b.toInt ≤ a.toInt) disp 4
      ∧ goes (.bltu lo rs1 rs2 hi) (a.toNat < b.toNat) disp 4
      ∧ goes (.bgeu lo rs1 rs2 hi) (b.toNat ≤ a.toNat) disp 4
      ∧ goes (.cBeqz ga imm) (c = 0) imm.toInt 2
      ∧ goes (.cBnez ga imm) (c ≠ 0) imm.toInt 2
      ∧ Jumps s (.jal rd disp18) rd.toNat (s.cur.pc + 4) (target disp18.toInt)
      ∧ Jumps s (.jalr rd rs1 imm12) rd.toNat (s.cur.pc + 4) ((a + BitVec.ofInt 64 imm12.toInt) &&& ~~~1)
      ∧ Jumps s (.cJr ga) 0 0 (c &&& ~~~1)
      ∧ Jumps s (.cJal disp10) 1 (s.cur.pc + 2) (target disp10.toInt)

/-! ### Loads and stores -/

/-- R125, R46, R48: a load of n bytes at an aligned address writes them to its register, sign- or zero-extended; `s'` is the state
after the read itself, which AccessesKeepStrands relates to `s`. -/
def Obligations.LoadsComplete : Prop :=
  ∀ (s : State) (rd rs1 : BitVec 6) (imm : BitVec 12) (ga gb num : BitVec 5),
    let loads := fun (i : Instr) (d : Nat) (ea : Word) (n len : Nat) (signed : Bool) =>
      ∀ bs s', readMem (s.who s.curSid) ea n .no s = .ok bs s' →
        ∃ t, exec i s = .next t
          ∧ RegResult s' t d
              (if signed then BitVec.ofInt 64 (BitVec.ofNat (8 * n) (leNat bs)).toInt else BitVec.ofNat 64 (leNat bs)) len
    let ea := s.cur.rd rs1.toNat + BitVec.ofInt 64 imm.toInt
    loads (.ldb rd rs1 imm) rd.toNat ea 1 4 true
      ∧ loads (.ldbu rd rs1 imm) rd.toNat ea 1 4 false
      ∧ loads (.ldh rd rs1 imm) rd.toNat ea 2 4 true
      ∧ loads (.ldhu rd rs1 imm) rd.toNat ea 2 4 false
      ∧ loads (.ldw rd rs1 imm) rd.toNat ea 4 4 true
      ∧ loads (.ldwu rd rs1 imm) rd.toNat ea 4 4 false
      ∧ loads (.ldd rd rs1 imm) rd.toNat ea 8 4 false
      ∧ loads (.cLdw ga gb) ga.toNat (s.cur.rd gb.toNat) 4 2 true
      ∧ loads (.cLdd ga gb) ga.toNat (s.cur.rd gb.toNat) 8 2 false
      ∧ loads (.cLdsp ga num) ga.toNat (s.cur.rd 2 + BitVec.ofNat 64 (8 * num.toNat)) 8 2 false

/-- R125, R46, R48: a store of the n low bytes of a register.  Into a scratchpad it changes exactly the n bytes of its address, and
every other byte of memory reads as it does once the rights are known (`s1`; AccessesKeepStrands relates it to `s`); elsewhere `s'` is the
state after the write itself.  At a translated address, in a line that the L1 holds or has room for (`page`: the entry that translates it, none
where the L1 needs no walk), what it leaves is what a read of the same bytes then gives. -/
def Obligations.StoresComplete : Prop :=
  ∀ (s : State) (lo rs1 rs2 hi : BitVec 6) (ga gb num : BitVec 5),
    let stores := fun (i : Instr) (ea x : Word) (n len : Nat) =>
      (∀ s', writeMem (s.who s.curSid) ea (leBytes n x.toNat) .no s = .ok () s' →
        ∃ t, exec i s = .next t ∧ RegResult s' t 0 0 len)
      ∧ (∀ p s1, ea.toNat % n = 0 → s.placeOf (s.who s.curSid) ea.toNat = some (.pad p)
          → checkRights (s.who s.curSid) ea.toNat needW s = .ok () s1 → mayEnter (s.who s.curSid) (.pad p) s1 = .ok () s1 →
          ∃ t, exec i s = .next t ∧ RegResult s1 (ButMem s1 t) 0 0 len
            ∧ ∀ a, mget t.mem a = if p ≤ a ∧ a < p + n then BitVec.ofNat 8 (x.toNat / 2 ^ (8 * (a - p))) else mget s1.mem a)
      ∧ (let w := s.who s.curSid
        let va := ea.toNat / 8 * 8
        ∀ s1 s2 page, checkAccess w ea n needW s = .ok .translated s1 → storePage w va .no s1 = .ok page s2
          → (∀ pa, s2.heldBy w.core pa = none)
          → (match page with
            | none => (s2.l1Line w.core va).isSome = true
            | some e =>
              (∀ x, tfind (s2.core w.core).l1 (va / 8) = some x → x.pa = e.paOf (s2.partitionOf w.core) va)
                ∧ ((linesOf (s2.core w.core).l1).contains (va / 64) = true ∨ (linesOf (s2.core w.core).l1).length < l1Lines)) →
          ∃ t, exec i s = .next t ∧ (∀ r, t.cur.rd r = s.cur.rd r) ∧ t.cur.pc = s.cur.pc + word len ∧ t.cur.wait = .none
            ∧ (checkAccess w ea n needR t = .ok .translated t → readMem w ea n .no t = .ok (leBytes n x.toNat) t))
    let ea := s.cur.rd rs1.toNat + BitVec.ofInt 64 (hi ++ lo : BitVec 12).toInt
    let x := s.cur.rd rs2.toNat
    let y := s.cur.rd ga.toNat
    stores (.stb lo rs1 rs2 hi) ea x 1 4
      ∧ stores (.sth lo rs1 rs2 hi) ea x 2 4
      ∧ stores (.stw lo rs1 rs2 hi) ea x 4 4
      ∧ stores (.std lo rs1 rs2 hi) ea x 8 4
      ∧ stores (.cStw ga gb) (s.cur.rd gb.toNat) y 4 2
      ∧ stores (.cStd ga gb) (s.cur.rd gb.toNat) y 8 2
      ∧ stores (.cStsp ga num) (s.cur.rd 2 + BitVec.ofNat 64 (8 * num.toNat)) y 8 2

/-- R71, R301, R197, R196: an access that succeeds changes no strand but for pending bits that it raises, no cursor and no clock, whatever
it fills on its way; a check of rights and a read of a scratchpad change no byte of memory, but for the home slices' copies of host
windows, which the model keeps from 2^60 on (its own layout: log 43). -/
def Obligations.AccessesKeepStrands : Prop :=
  ∀ (s s' : State) (w : Who) (ea : Word) (n : Nat) (m : Mark) (bs out : List Byte),
    let keeps := (∀ sid, PendOnly (s.st sid) (s'.st sid)) ∧ s'.curSid = s.curSid ∧ s'.clock = s.clock
    let sameMem := ∀ a, a < 2 ^ 60 → mget s'.mem a = mget s.mem a
    (readMem w ea n m s = .ok out s' →
      keeps ∧ ∀ p, s.placeOf w ea.toNat = some (.pad p) → sameMem ∧ out = mread s'.mem p n)
    ∧ (∀ need, checkRights w ea.toNat need s = .ok () s' → keeps ∧ sameMem)
    ∧ (writeMem w ea bs m s = .ok () s' → keeps)

/-! ### Traps, interrupts and the return from them -/

/-- R119, R128: what taking a trap or an interrupt does, whatever takes it; and RETT, which takes the mode, ie and pc that the entry
into the current mode saved; with vhold set the held vector entries return to the queue, the first from element ctl.velem.  That a
returned entry forgets the snapshot of its tile header is the model's choice (log 86). -/
def Obligations.TrapEntryAndReturn : Prop :=
  ∀ (s : State) (sid : Nat) (cause tval resume : Word),
    TrapTaken s (s.enter sid cause tval resume) sid cause tval resume
    ∧ (s.cur.status.mode ≠ .task →
      ∃ t, exec .rett s = .next t
        ∧ (∀ n, t.cur.rd n = s.cur.rd n) ∧ t.cur.ctl cInstret = s.cur.ctl cInstret + 1 ∧ OnlyStrand s t s.curSid
        ∧ (s.cur.status.mode = .monitor →
            t.cur.pc = s.cur.ctl cMepc ∧ t.cur.vq = s.cur.vq ∧ t.cur.hold = s.cur.hold
              ∧ t.cur.status = { s.cur.status with mode := s.cur.status.mpmode, ie := s.cur.status.mpie, mnest := false })
        ∧ (s.cur.status.mode = .supervisor →
            t.cur.pc = s.cur.ctl cEpc
              ∧ t.cur.status = { s.cur.status with mode := s.cur.status.pmode, ie := s.cur.status.pie, vhold := false }
              ∧ (s.cur.status.vhold = false → t.cur.vq = s.cur.vq ∧ t.cur.hold = s.cur.hold)
              ∧ (s.cur.status.vhold = true →
                  t.cur.hold = []
                    ∧ ∀ e r, s.cur.hold = e :: r →
                      t.cur.vq = ({ e with start := (s.cur.ctl cVelem).toNat } :: r).map VEntry.afresh ++ s.cur.vq)))

/-- R118, R127, R129, R131: SVC traps to the next instruction, BRK to itself, or holds the strand when break capture is armed;
WAITI, HALT, IPI and FENCE.I, in the modes that may run them. -/
def Obligations.SystemInstructions : Prop :=
  ∀ (s : State) (rs1 rs2 : BitVec 6),
    let target := s.cur.rd rs1.toNat
    let src := (s.cur.rd rs2.toNat).toNat
    let core := bits target 12 3
    let sid := core * 8 + bits target 2 0
    (s.cur.status.mode ≠ .task →
      (s.ipend s.curSid &&& s.cur.ctl cIenable ≠ 0 → Gives s .waiti 0 0 4)
        ∧ (s.ipend s.curSid &&& s.cur.ctl cIenable = 0 → ∃ t, exec .waiti s = .next t ∧ Waits s t .waiti)
        ∧ (s.cur.vq = [] → s.settled s.curSid = true →
            ∃ t, exec .halt s = .next t ∧ t.cur.st = .halted ∧ Moved s t
              ∧ SameUnits { s.cur with st := .halted, lanes := t.cur.lanes } t.cur ∧ t.mem = s.mem)
        ∧ (48 ≤ src → src ≤ 63 → bits target 63 23 = 0 → bits target 6 3 < 10 → bits target 2 0 ≤ 4
            → bits target 22 13 = s.pkg % 1024 → s.coreInTenant core s.cur.tenant = true → s.coreTraffic s.curCore core = false →
            ∃ t, exec (.ipi rs1 rs2) s = .next t ∧ (t.st sid).ctl cIpend = (s.st sid).ctl cIpend ||| BitVec.ofNat 64 (2 ^ src)
              ∧ Passes s t))
      ∧ (s.cur.vq = [] →
        (∃ t, exec .fenceI s = .next t ∧ Passes s t ∧ t.cur.replay = {} ∧ (t.core s.curCore).icache = [])
          ∧ (∃ t, exec (.svc rs1) s = .next t
              ∧ TrapTaken s t s.curSid (causeWord false false false 0 11) target (s.cur.pc + 4))
          ∧ (s.cur.brkCap = false → Traps s (.brk rs1) 0 12 target)
          ∧ (s.cur.brkCap = true →
              ∃ t, exec (.brk rs1) s = .next t ∧ t.cur.st = .held ∧ t.cur.bpStop = true ∧ t.cur.pc = s.cur.pc))

/-- R130, R112: CTLR reads a register; CTLW, CTLSET and CTLCLR write it and give its old value.  A register that only can be
written reads 0; in ctl.ipend, which clears by writing 1, CTLSET writes the value itself and CTLCLR 0.  R121, R203, R204, R318,
R419, R428, R429, R437, R438: what the writes of registers with a behaviour of their own do, and that a plain register then reads as its
writable bits of the value.  That ctl.ipoint is written during reduced service as at other times is the model's reading (log 33). -/
def Obligations.ControlRegisters : Prop :=
  ∀ (s : State) (rd rs1 : BitVec 6) (reg : BitVec 10) (core slot : Nat) (val : Word),
    let n := reg.toNat
    let a := ctlAccess s.curCore n s.cur.status.mode
    let old := if a = .wo then 0 else s.readCtl s.curSid n
    let x := s.cur.rd rs1.toNat
    let writes := fun (i : Instr) (v : Word) =>
      ∃ t, exec i s = .next t ∧ RegResult (s.writeCtl s.curSid n s.cur.status.mode v) t rd.toNat old 4
    (a ≠ .none → Gives s (.ctlr rd reg) rd.toNat old 4)
      ∧ (a = .rw ∨ a = .wo → n ≠ 0x24B → n ≠ 0x2CA →
          writes (.ctlw rd rs1 reg) x
            ∧ writes (.ctlset rd rs1 reg) (if n = 0x009 then x else old ||| x)
            ∧ writes (.ctlclr rd rs1 reg) (if n = 0x009 then 0 else old &&& ~~~x))
      ∧ (coreExists core = true → slot < 5 →
        let sid := core * 8 + slot
        let m := (s.st sid).status.mode
        let c := s.core core
        let d := s.die (dieOfCore core)
      (m ≠ .task → ∃ t, exec (.ipendClear core slot val) s = .next t ∧ (t.st sid).ctl cIpend = (s.st sid).ctl cIpend &&& ~~~val
          ∧ OnlyStrand s t sid)
        ∧ (∀ v r, m ≠ .task → isStreamCore core = true → s.isHolding core = true → c.vicq = v :: r → v = val.toNat →
            ∃ t, exec (.vqpop core slot val) s = .next t ∧ (t.core core).vicq = r)
        ∧ (m ≠ .task → isStreamCore core = true → s.isHolding core = true
            → tailMoves (c.ctl 0x10A).toNat val.toNat (bits (c.ctl 0x109) 4 0) = true →
            ∃ t, exec (.fqtailWrite core slot val) s = .next t ∧ (t.core core).ctl 0x10B = BitVec.ofNat 64 (val.toNat % 2 ^ 32))
        ∧ (m ≠ .task → tailMoves (tget 0 d.cr 0x243).toNat val.toNat (bits (tget 0 d.cr 0x242) 4 0) = true →
            ∃ t, exec (.trtailWrite core slot val) s = .next t
              ∧ tget 0 (t.die (dieOfCore core)).cr 0x244 = BitVec.ofNat 64 (val.toNat % 2 ^ 32))
        ∧ (let base := bits (s.pctl 0x1C5) 51 21 * 2 ^ 21
          let top := base + bits (s.pctl 0x1C6) 17 0 * 2 ^ 21
          m = .monitor → (bit (s.pctl 0x1C5) 0 = true → base < top) → top ≤ 2 ^ 52
            → (∀ o, o ∈ s.shared → o.1 ≠ (s.pctl 0x1C4).toNat % 64 → o.2.valid = true →
                top ≤ o.2.base ∨ o.2.base + o.2.size * 2 ^ 21 ≤ base) →
            ∃ t, exec (.shrent2Write core slot val) s = .next t
              ∧ t.shrEntry = { valid := bit (s.pctl 0x1C5) 0, base := base, size := bits (s.pctl 0x1C6) 17 0, rights := val.toNat % 256 })
        ∧ (m ≠ .task → ∃ t, exec (.svpop core slot val) s = .next t ∧ t.svc.events = s.svc.events.drop 1 ∧ t.svc.evlost = false)
        ∧ (m = .monitor → (s.pctl 0x283).toNat < 640 → (s.island (s.pctl 0x283).toNat).locked = false → bits val 4 0 ∈ [8, 12, 15, 17] →
            ∃ t, exec (.ipointWrite core slot val) s = .next t ∧ (t.island (s.pctl 0x283).toNat).point = bits val 4 0
              ∧ t.cyclesOf (s.pctl 0x283).toNat = s.cyclesOf (s.pctl 0x283).toNat)
        ∧ (∀ n, n ∈ [0x001, 0x002, 0x003, 0x004, 0x005, 0x006, 0x007, 0x008, 0x00C, 0x010, 0x011, 0x012, 0x013, 0x014, 0x020, 0x033,
              0x034, 0x040] → ctlAccess core n m = .rw →
            ∃ t, exec (.registerWrite core slot n val) s = .next t ∧ t.readCtl sid n = val &&& ctlMask n ∧ OnlyStrand s t sid))

/-! ### The vector stream -/

/-- R142, R144, R166, R167, R168, R172, R188: every vector-stream instruction takes a queue entry with what it captures; VCVT
captures the landing format of its bank for target 63. -/
def Obligations.VectorIssue : Prop :=
  ∀ (s : State) (vd va vb k5 idx stride line shape offs level len : BitVec 5) (k cond : BitVec 4) (u reset : BitVec 1)
    (gs target rd rs1 : BitVec 6) (op k3 : BitVec 3) (efc rm num word : BitVec 2),
    s.cur.status.vhold = false → s.cur.vq.length < 16 →
    let lf := if target = 63 then (tget 0 (s.core s.curCore).lfmt (vd.toNat % 16)).setWidth 8 else 0
    let issues := Enqueues s
    issues (.vaddIvv vd va vb k u) 0 0 0
      ∧ issues (.vsubIvv vd va vb k u) 0 0 0
      ∧ issues (.vmulIvv vd va vb k u) 0 0 0
      ∧ issues (.vmulh vd va vb k u) 0 0 0
      ∧ issues (.vdivIvv vd va vb k u) 0 0 0
      ∧ issues (.vminIvv vd va vb k u) 0 0 0
      ∧ issues (.vmaxIvv vd va vb k u) 0 0 0
      ∧ issues (.vandIvv vd va vb k u) 0 0 0
      ∧ issues (.vor vd va vb k u) 0 0 0
      ∧ issues (.vxor vd va vb k u) 0 0 0
      ∧ issues (.vshlIvv vd va vb k u) 0 0 0
      ∧ issues (.vshrIvv vd va vb k u) 0 0 0
      ∧ issues (.vadds vd va vb k u) 0 0 0
      ∧ issues (.vsubs vd va vb k u) 0 0 0
      ∧ issues (.vaddIvx vd va k u gs) (s.cur.rd gs.toNat) 0 0
      ∧ issues (.vsubIvx vd va k u gs) (s.cur.rd gs.toNat) 0 0
      ∧ issues (.vmulIvx vd va k u gs) (s.cur.rd gs.toNat) 0 0
      ∧ issues (.vminIvx vd va k u gs) (s.cur.rd gs.toNat) 0 0
      ∧ issues (.vmaxIvx vd va k u gs) (s.cur.rd gs.toNat) 0 0
      ∧ issues (.vandIvx vd va k u gs) (s.cur.rd gs.toNat) 0 0
      ∧ issues (.vshlIvx vd va k u gs) (s.cur.rd gs.toNat) 0 0
      ∧ issues (.vshrIvx vd va k u gs) (s.cur.rd gs.toNat) 0 0
      ∧ issues (.vaddFvv vd va vb k5) 0 0 0
      ∧ issues (.vsubFvv vd va vb k5) 0 0 0
      ∧ issues (.vmulFvv vd va vb k5) 0 0 0
      ∧ issues (.vdivFvv vd va vb k5) 0 0 0
      ∧ issues (.vminFvv vd va vb k5) 0 0 0
      ∧ issues (.vmaxFvv vd va vb k5) 0 0 0
      ∧ issues (.vaddFvx vd va k5 gs) (s.cur.rd gs.toNat) 0 0
      ∧ issues (.vsubFvx vd va k5 gs) (s.cur.rd gs.toNat) 0 0
      ∧ issues (.vmulFvx vd va k5 gs) (s.cur.rd gs.toNat) 0 0
      ∧ issues (.vdivFvx vd va k5 gs) (s.cur.rd gs.toNat) 0 0
      ∧ issues (.vminFvx vd va k5 gs) (s.cur.rd gs.toNat) 0 0
      ∧ issues (.vmaxFvx vd va k5 gs) (s.cur.rd gs.toNat) 0 0
      ∧ issues (.vfma vd va vb k5) 0 0 0
      ∧ issues (.vfms vd va vb k5) 0 0 0
      ∧ issues (.vfnma vd va vb k5) 0 0 0
      ∧ issues (.vcmp vd va vb k u cond) 0 0 0
      ∧ issues (.vsel vd va k5 gs) (s.cur.rd gs.toNat) 0 0
      ∧ issues (.vbcast vd va k5 gs) (s.cur.rd gs.toNat) 0 0
      ∧ issues (.vext vd va u gs) (s.cur.rd gs.toNat) 0 0
      ∧ issues (.vins vd idx gs) (s.cur.rd gs.toNat) (s.cur.rd idx.toNat) 0
      ∧ issues (.vslideup vd va k5 gs) (s.cur.rd gs.toNat) 0 0
      ∧ issues (.vslidedn vd va k5 gs) (s.cur.rd gs.toNat) 0 0
      ∧ issues (.vperm vd va idx) 0 0 0
      ∧ issues (.vcompress vd va k5) 0 0 0
      ∧ issues (.vexpand vd va k5) 0 0 0
      ∧ issues (.viota vd k5) 0 0 0
      ∧ issues (.vred vd va k u op) 0 0 0
      ∧ issues (.vscan vd va k u op) 0 0 0
      ∧ issues (.vdot vd va vb k u) 0 0 0
      ∧ issues (.vsqrt vd va k5) 0 0 0
      ∧ issues (.vrcp vd va k5) 0 0 0
      ∧ issues (.vrsq vd va k5) 0 0 0
      ∧ issues (.vexp2 vd va k5) 0 0 0
      ∧ issues (.vlog2 vd va k5) 0 0 0
      ∧ issues (.vcvt vd va k3 efc reset rm target) 0 0 lf
      ∧ issues .fenceSv 0 0 0
      ∧ issues .fenceVs 0 0 0
      ∧ issues .fenceVv 0 0 0
      ∧ issues (.efget rd num) 0 0 0
      ∧ issues (.efset rs1 num) (s.cur.rd rs1.toNat) 0 0
      ∧ issues (.kand vd va vb) 0 0 0
      ∧ issues (.kor vd va vb) 0 0 0
      ∧ issues (.kxor vd va vb) 0 0 0
      ∧ issues (.kandn vd va vb) 0 0 0
      ∧ issues (.knot vd va) 0 0 0
      ∧ issues (.kmov vd va) 0 0 0
      ∧ issues (.kpop vd va) 0 0 0
      ∧ issues (.kfirst vd va) 0 0 0
      ∧ issues (.kset vd va word) 0 (s.cur.rd va.toNat) 0
      ∧ issues (.kget vd va word) 0 0 0
      ∧ issues (.vld vd k5 gs) (s.cur.rd gs.toNat) 0 0
      ∧ issues (.vlds vd stride k5 gs) (s.cur.rd gs.toNat) (s.cur.rd stride.toNat) 0
      ∧ issues (.vldx vd idx k5 gs) (s.cur.rd gs.toNat) 0 0
      ∧ issues (.vldSl vd k5 gs) (s.cur.rd gs.toNat) 0 0
      ∧ issues (.vst vd k5 gs) (s.cur.rd gs.toNat) 0 0
      ∧ issues (.vsts vd stride k5 gs) (s.cur.rd gs.toNat) (s.cur.rd stride.toNat) 0
      ∧ issues (.vstx vd idx k5 gs) (s.cur.rd gs.toNat) 0 0
      ∧ issues (.vstSl vd k5 gs) (s.cur.rd gs.toNat) 0 0
      ∧ issues (.vldt vd line k5 gs) (s.cur.rd gs.toNat) (s.cur.rd line.toNat) 0
      ∧ issues (.vstt vd shape gs) (s.cur.rd gs.toNat) (s.cur.rd shape.toNat) 0
      ∧ issues (.vldc vd offs k5 gs) (s.cur.rd gs.toNat) (s.cur.rd offs.toNat) 0
      ∧ issues (.vpf level len gs) (s.cur.rd gs.toNat) (s.cur.rd len.toNat) 0
      ∧ issues (.vamo vd idx k u op gs) (s.cur.rd gs.toNat) 0 0
      ∧ issues (.vrdm vd idx k u op gs) (s.cur.rd gs.toNat) 0 0

/-- R143, R153, R156, R157, R162, R163: the elements an integer entry writes, of two registers or of one and a captured scalar, and those a
move writes.  Numbers are signed or unsigned, results wrap; inactive elements and those from vl on keep their bits; the header names the
format of the source and vl, and an entry without elements changes nothing.  That VINS sets the count beyond vl too is the model's reading
(log 82). -/
def Obligations.VectorIntegerElements : Prop :=
  ∀ (s : State) (core slot : Nat) (e : VEntry) (rest : List VEntry) (vd va vb k5 : BitVec 5) (k : BitVec 4) (u : BitVec 1)
    (gs : BitVec 6),
    Performs s core slot e rest →
    let sid := core * 8 + slot
    let a := s.st sid
    let h := a.vhr va.toNat
    let d := a.vhr vd.toNat
    let eb := 8 * h.esize
    let el := fun (j : Nat) => elemAt (a.vr va.toNat) eb j
    let scalar := e.g1.toNat
    let act := fun (m j : Nat) => decide (j < e.vl) && (a.kr m).getLsbD j
    let below := fun (j : Nat) => (List.range j).countP (act k5.toNat)
    let num := fun (x : Nat) => if u = 1 ∨ x < 2 ^ (eb - 1) then (x : Int) else x - 2 ^ eb
    let count := BitVec.ofNat 16 e.vl
    let dense : VHdr := { efmt := h.efmt, rawsz := h.rawsz, order := h.order, count := count }
    let scaled : VHdr := { dense with slay := h.slay, sfmt := h.sfmt }
    let writes := fun (eb : Nat) (new : Nat → Option Nat) (hdr : VHdr) =>
      EntryWrites s core slot e rest vd.toNat eb new hdr (fun _ => false) a.efcr
    let codes := fun (i : Instr) (vx : Bool) (f : Nat → Nat → Nat) => e.ins = i →
      checkOperands a e { fam := .int, noSlay := true, noSpar := true, same := 1 } none
        (if vx then [va.toNat] else [va.toNat, vb.toNat]) = .ok () →
      writes eb (fun j => if act k.toNat j
        then some (f (el j) (if vx then scalar % 2 ^ eb else elemAt (a.vr vb.toNat) eb j)) else none) dense
    let ints := fun (i : Instr) (vx : Bool) (f : Int → Int → Int) => codes i vx (fun x y => (f (num x) (num y) % 2 ^ eb).toNat)
    let moves := fun (i : Instr) (new : Nat → Option Nat) => e.ins = i →
      checkOperands a e { noSpar := true, same := 2 } none [va.toNat] = .ok () → writes eb new scaled
    let lo : Int := if u = 1 then 0 else -2 ^ (eb - 1)
    let hi : Int := if u = 1 then 2 ^ eb - 1 else 2 ^ (eb - 1) - 1
    ints (.vaddIvv vd va vb k u) false (fun x y => x + y) ∧ ints (.vaddIvx vd va k u gs) true (fun x y => x + y)
      ∧ ints (.vsubIvv vd va vb k u) false (fun x y => x - y) ∧ ints (.vsubIvx vd va k u gs) true (fun x y => x - y)
      ∧ ints (.vmulIvv vd va vb k u) false (fun x y => x * y) ∧ ints (.vmulIvx vd va k u gs) true (fun x y => x * y)
      ∧ ints (.vmulh vd va vb k u) false (fun x y => x * y / 2 ^ eb)
      ∧ ints (.vdivIvv vd va vb k u) false (fun x y => if y = 0 then -1 else x.tdiv y)
      ∧ ints (.vminIvv vd va vb k u) false (fun x y => min x y) ∧ ints (.vminIvx vd va k u gs) true (fun x y => min x y)
      ∧ ints (.vmaxIvv vd va vb k u) false (fun x y => max x y) ∧ ints (.vmaxIvx vd va k u gs) true (fun x y => max x y)
      ∧ codes (.vandIvv vd va vb k u) false (fun x y => x &&& y) ∧ codes (.vandIvx vd va k u gs) true (fun x y => x &&& y)
      ∧ codes (.vor vd va vb k u) false (fun x y => x ||| y)
      ∧ codes (.vxor vd va vb k u) false (fun x y => x ^^^ y)
      ∧ ints (.vshlIvv vd va vb k u) false (fun x y => x * 2 ^ (y % eb).toNat)
      ∧ ints (.vshlIvx vd va k u gs) true (fun x y => x * 2 ^ (y % eb).toNat)
      ∧ ints (.vshrIvv vd va vb k u) false (fun x y => x / 2 ^ (y % eb).toNat)
      ∧ ints (.vshrIvx vd va k u gs) true (fun x y => x / 2 ^ (y % eb).toNat)
      ∧ ints (.vadds vd va vb k u) false (fun x y => max lo (min hi (x + y)))
      ∧ ints (.vsubs vd va vb k u) false (fun x y => max lo (min hi (x - y)))
      ∧ moves (.vsel vd va k5 gs) (fun j => if j < e.vl then some (if (a.kr k5.toNat).getLsbD j then el j else scalar) else none)
      ∧ moves (.vbcast vd va k5 gs)
          (fun j => if act k5.toNat j then some (if scalar < e.vl then el scalar else 0) else none)
      ∧ moves (.vslideup vd va k5 gs) (fun j => if act k5.toNat j ∧ scalar ≤ j then some (el (j - scalar)) else none)
      ∧ moves (.vslidedn vd va k5 gs)
          (fun j => if act k5.toNat j then some (if j + scalar < e.vl then el (j + scalar) else 0) else none)
      ∧ (checkOperands a e { fam := .int, noSpar := true } none [vb.toNat] = .ok () →
          let ix := fun (j : Nat) => elemAt (a.vr vb.toNat) (8 * (a.vhr vb.toNat).esize) j
          moves (.vperm vd va vb) (fun j => if j < e.vl then some (if ix j < e.vl then el (ix j) else 0) else none))
      ∧ moves (.vcompress vd va k5) (fun j => (((List.range e.vl).filter (act k5.toNat))[j]?).map el)
      ∧ moves (.vexpand vd va k5) (fun j => if act k5.toNat j then some (el (below j)) else none)
      ∧ (e.ins = .viota vd k5 → checkOperands a e { fam := .int, noSpar := true, same := 2 } none [vd.toNat] = .ok () →
          writes (8 * d.esize) (fun j => if act k5.toNat j then some (below j) else none) { d with spar := 0, count := count })
      ∧ (e.ins = .vins vd vb gs → checkOperands a e { noSpar := true, same := 2 } none [vd.toNat] = .ok () →
          writes (8 * d.esize) (fun j => if j = e.g2.toNat ∧ j < e.vl then some scalar else none) { d with count := count })

/-- R143, R158 to R160, R164 to R166, R75, R82, R83, R86 to R88: the elements a floating entry writes, each the number chapter's operation in
the captured rounding mode, and the flags of the active elements ORed into ctl.fflags; reductions by their tree, running values, dot products
by groups of four, and conversions with the carry that runs along the vector.  What the format conversions compute is said of binary8 codes:
they widen exactly, and a value narrows to the neighbour that its mode names.  The start of a group sum at +0, and the flags of an EF step,
are the model's choice (log 82). -/
def Obligations.VectorFloatElements : Prop :=
  (∀ (s : State) (core slot : Nat) (e : VEntry) (rest : List VEntry) (vd va vb k : BitVec 5) (k4 : BitVec 4) (k3 op : BitVec 3)
    (u reset : BitVec 1) (efc rm : BitVec 2) (gs target : BitVec 6),
    Performs s core slot e rest →
    let sid := core * 8 + slot
    let a := s.st sid
    let h := a.vhr va.toNat
    let eb := 8 * h.esize
    let ef := h.efmt.toNat
    let f := fmtOf ef
    let md := rmodeOf e.frm.toNat
    let el := fun (n j : Nat) => elemAt (a.vr n) eb j
    let act := fun (m j : Nat) => decide (j < e.vl) && (a.kr m).getLsbD j
    let count := BitVec.ofNat 16 e.vl
    let dense : VHdr := { efmt := h.efmt, rawsz := h.rawsz, order := h.order, count := count }
    let ored := fun (m : Nat) (r : Nat → Nat × Nat) (b : Nat) => (List.range e.vl).any (fun j => act m j && (r j).2.testBit b)
    let writes := fun (i : Instr) (regs : List Nat) (r : Nat → Nat × Nat) => e.ins = i →
      checkOperands a e { fam := .flt, noSlay := true, noSpar := true, noB8 := true, same := 1 } none regs = .ok () →
      EntryWrites s core slot e rest vd.toNat eb (fun j => if act k.toNat j then some (r j).1 else none) dense (ored k.toNat r) a.efcr
    let x := fun (j : Nat) => f.val (el va.toNat j)
    let vv := fun (i : Instr) (g : Nat → Nat → Nat × Nat) =>
      writes i [va.toNat, vb.toNat] (fun j => g (el va.toNat j) (el vb.toNat j))
    let vx := fun (i : Instr) (g : Nat → Nat → Nat × Nat) => writes i [va.toNat] (fun j => g (el va.toNat j) (e.g1.toNat % 2 ^ eb))
    let fused := fun (i : Instr) (g : FVal → FVal → FVal → Nat × Nat) =>
      writes i [va.toNat, vb.toNat, vd.toNat] (fun j => g (x j) (f.val (el vb.toNat j)) (f.val (el vd.toNat j)))
    let fn := fun (i : Instr) (g : FVal → Nat × Nat) => writes i [va.toNat] (fun j => g (x j))
    let two := fun (g : FVal → FVal → Nat × Nat) (y z : Nat) => g (f.val y) (f.val z)
    vv (.vaddFvv vd va vb k) (two (f.add md)) ∧ vx (.vaddFvx vd va k gs) (two (f.add md))
      ∧ vv (.vsubFvv vd va vb k) (two (f.sub md)) ∧ vx (.vsubFvx vd va k gs) (two (f.sub md))
      ∧ vv (.vmulFvv vd va vb k) (two (f.mul md)) ∧ vx (.vmulFvx vd va k gs) (two (f.mul md))
      ∧ vv (.vdivFvv vd va vb k) (two (f.div md)) ∧ vx (.vdivFvx vd va k gs) (two (f.div md))
      ∧ vv (.vminFvv vd va vb k) (f.minMax false) ∧ vx (.vminFvx vd va k gs) (f.minMax false)
      ∧ vv (.vmaxFvv vd va vb k) (f.minMax true) ∧ vx (.vmaxFvx vd va k gs) (f.minMax true)
      ∧ fused (.vfma vd va vb k) (fun x y z => f.fma md x y z)
      ∧ fused (.vfms vd va vb k) (fun x y z => f.fma md x y z.opp)
      ∧ fused (.vfnma vd va vb k) (fun x y z => f.fma md x.opp y z)
      ∧ fn (.vsqrt vd va k) (f.sqrt md) ∧ fn (.vrcp vd va k) (f.recip md) ∧ fn (.vrsq vd va k) (f.rsqrt md)
      ∧ fn (.vexp2 vd va k) (f.exp2 md) ∧ fn (.vlog2 vd va k) (f.log2 md)
      -- VRED and VSCAN
      ∧ (checkOperands a e { uns := decide (u = 1), noSlay := true, noB8 := true } none [va.toNat] = .ok () →
          (isFloat ef = true → op.toNat < 3) →
          let num := fun (x : Nat) => if u = 1 ∨ x < 2 ^ (eb - 1) then (x : Int) else x - 2 ^ eb
          let comb := fun (x y : Nat) =>
            match isFloat ef, op.toNat with
            | true, 0 => f.add md (f.val x) (f.val y)
            | true, 1 => f.minMax false x y
            | true, _ => f.minMax true x y
            | false, 0 => ((x + y) % 2 ^ eb, 0)
            | false, 1 => (if num x ≤ num y then x else y, 0)
            | false, 2 => (if num x ≤ num y then y else x, 0)
            | false, 3 => (x &&& y, 0)
            | false, 4 => (x ||| y, 0)
            | false, _ => (x ^^^ y, 0)
          let none_ := if isFloat ef then [f.code true 0, f.infCode false, f.infCode true].getD op.toNat 0
            else [0, if u = 1 then 2 ^ eb - 1 else 2 ^ (eb - 1) - 1, if u = 1 then 0 else 2 ^ (eb - 1), 2 ^ eb - 1].getD op.toNat 0
          let join := fun (p q : Option Nat × Nat) =>
            match p.1, q.1 with
            | some x, some y => (some (comb x y).1, p.2 ||| q.2 ||| (comb x y).2)
            | some x, none => (some x, p.2 ||| q.2)
            | none, y => (y, p.2 ||| q.2)
          let at_ := fun (j : Nat) => (if act k4.toNat j then some (el va.toNat j) else none, 0)
          let run := fun (n : Nat) => (List.range n).foldl (fun p j => join p (at_ j)) (none, 0)
          let hdr : VHdr := { efmt := h.efmt, rawsz := h.rawsz, count := count }
          (∀ n, e.vl ≤ 2 ^ n → (∀ m, m < n → 2 ^ m < e.vl) → e.ins = .vred vd va k4 u op →
              let r := treeOf join n at_
              EntryWrites s core slot e rest vd.toNat eb (fun j => if j = 0 ∧ e.vl ≠ 0 then some (r.1.getD none_) else none)
                { hdr with count := 1 } (fun b => r.2.testBit b) a.efcr)
            ∧ (e.ins = .vscan vd va k4 u op →
              EntryWrites s core slot e rest vd.toNat eb (fun j => if act k4.toNat j then (run (j + 1)).1 else none) hdr
                (fun b => (run e.vl).2.testBit b) a.efcr))
      -- VDOT
      ∧ (e.ins = .vdot vd va vb k4 u → checkOperands a e { uns := decide (u = 1), noSlay := true } none [va.toNat, vb.toNat] = .ok () →
          let h2 := a.vhr vb.toNat
          let e2 := h2.efmt.toNat
          let y := fun (j : Nat) => elemAt (a.vr vb.toNat) (8 * h2.esize) j
          let acc := elemAt (a.vr vd.toNat) 32 0
          let num := fun (x : Nat) => if u = 1 ∨ x < 128 then (x : Int) else x - 256
          let dots := fun (fmt r fl : Nat) => EntryWrites s core slot e rest vd.toNat 32 (fun j => if j = 0 ∧ e.vl ≠ 0 then some r else none)
            { efmt := BitVec.ofNat 8 fmt, rawsz := 0, count := 1 } (fun b => fl.testBit b) a.efcr
          (ef = 1 → e2 = 1 → (a.vhr vd.toNat).efmt = 3 →
              dots 3 (((acc : Int) + ((List.range e.vl).map (fun j => if act k4.toNat j then num (el va.toNat j) * num (y j) else 0)).sum)
                % 2 ^ 32).toNat 0)
            ∧ ((4 ≤ ef ∧ ef ≤ 6 ∧ e2 = ef) ∨ (binary8Code ef = true ∧ binary8Code e2 = true) → (a.vhr vd.toNat).efmt = 6 →
              let group := fun (g : Nat) => dotGroup f (fmtOf e2)
                ((((List.range 4).map (fun j => 4 * g + j)).filter (act k4.toNat)).map (fun j => (el va.toNat j, y j)))
              let r := (List.range ((e.vl + 3) / 4)).foldl (fun (p : Nat × Nat) g =>
                let q := fmtF.add md (fmtF.val p.1) (group g).1
                (q.1, p.2 ||| (group g).2 ||| q.2)) (acc, 0)
              dots 6 r.1 r.2))
      -- VCVT
      ∧ (let tc := if target = 63 then e.lfmt.toNat else targetFmt target.toNat
         e.ins = .vcvt vd va k3 efc reset rm target → (ef = 0 → h.rawsz = 3) → tc ≠ 0 → h.spar = 0
            → e.fits h.esize = true → e.fits (esizeOf tc) = true → (rm = 3 → isFloat ef = true ∧ isFloat tc = true) →
          let v := fun (j : Nat) => cvtVal ef eb (el va.toNat j)
          let hdr : VHdr := { efmt := BitVec.ofNat 8 tc, rawsz := 0, slay := h.slay, sfmt := h.sfmt,
                              order := if esizeOf tc = 1 then h.order else 0, count := count }
          let from0 := if reset = 1 then 0 else (a.efcr efc.toNat).toNat
          let carry := fun (n : Nat) => (List.range n).foldl (fun c j => if act k3.toNat j then (efStep tc (v j) c).2.1 else c) from0
          let r := fun (j : Nat) => if rm = 3 then ((efStep tc (v j) (carry j)).1, (efStep tc (v j) (carry j)).2.2)
            else cvtTo tc (nmodeOf rm.toNat) (v j)
          EntryWrites s core slot e rest vd.toNat (8 * esizeOf tc) (fun j => if act k3.toNat j then some (r j).1 else none) hdr
            (ored k3.toNat r) (fun n => if n = efc.toNat then (if rm = 3 then BitVec.ofNat 32 (carry e.vl) else BitVec.ofNat 32 from0)
              else a.efcr n)))
  -- R82 and R83
  ∧ (∀ c, binary8Code c = true → ∀ x, x < 256 →
      (cvtTo 6 .rne ((fmtOf c).val x)).2 = 0
        ∧ match (fmtOf c).val x with
          | .nan _ => (cvtTo 6 .rne ((fmtOf c).val x)).1 = 0x7FC00000
          | .inf neg => (cvtTo 6 .rne ((fmtOf c).val x)).1 = if neg then 0xFF800000 else 0x7F800000
          | .fin d => ∃ y, fmtF.val (cvtTo 6 .rne ((fmtOf c).val x)).1 = .fin y ∧ y.eqv d = true)
  ∧ (∀ c, binary8Code c = true → ∀ (md : NMode) (x : Dy), md ≠ .ef → x.m ≠ 0 → ((fmtOf c).sign = none → x.neg = false) →
      let f := fmtOf c
      let q := min x.e (f.qmin - 2)
      let v := scaleTo x.m x.e q
      let grid := fun (n : Nat) => scaleTo (f.mag n).m (f.mag n).e q
      let beyond := if md = .rtz then grid (f.maxCode + 1) ≤ v else 3 * grid f.maxCode - grid (f.maxCode - 1) ≤ 2 * v
      (beyond → f.narrow md (.fin x) =
          (if md = .rne then (match f.inf with | some i => f.code x.neg i | none => f.nan) else f.code x.neg f.maxCode, flagOF + flagNX))
        ∧ (¬beyond → ∃ n, n ≤ f.maxCode ∧ RoundsTo grid (if md = .rtz then .rtz else .rne) x.neg (fun t => compare t (2 * v)) n
            ∧ (f.narrow md (.fin x)).1 = f.code x.neg n
            ∧ ((f.narrow md (.fin x)).2 = 0 ↔ grid n = v) ∧ (n = 0 → (f.narrow md (.fin x)).2 = flagUF + flagNX)
            ∧ (grid n ≠ v → (f.narrow md (.fin x)).2 ∈ [flagNX, flagUF + flagNX])))

/-- R143, R161, R162, R167, R168: what entries over predicate registers and carries write, bit by bit, and what a comparison writes; those
with a result in a general register end the wait for it. -/
def Obligations.PredicateEntries : Prop :=
  ∀ (s : State) (core slot : Nat) (e : VEntry) (rest : List VEntry) (vd va vb : BitVec 5) (rd rs1 gs : BitVec 6) (num w : BitVec 2)
    (k cond : BitVec 4) (u : BitVec 1),
    Performs s core slot e rest → vd ≠ 0 →
    let sid := core * 8 + slot
    let a := s.st sid
    let pa := a.kr va.toNat
    let pb := a.kr vb.toNat
    let pred := fun (i : Instr) (f : Nat → Bool) => e.ins = i →
      ∃ t, exec (.vectorEntryComplete core slot) s = .next t ∧ Performed s t sid rest
        ∧ (∀ j, j < 256 → ((t.st sid).kr vd.toNat).getLsbD j = f j) ∧ (∀ n, n ≠ vd.toNat → (t.st sid).kr n = a.kr n)
        ∧ ∀ n, (t.st sid).rd n = a.rd n
    let gives := fun (i : Instr) (d : Nat) (x : Word) => e.ins = i → a.wait = .vres →
      ∃ t, exec (.vectorEntryComplete core slot) s = .next t ∧ Performed s t sid rest ∧ (t.st sid).wait = .none
        ∧ ∀ n, (t.st sid).rd n = if n = d ∧ n ≠ 0 then x else a.rd n
    pred (.kand vd va vb) (fun j => pa.getLsbD j && pb.getLsbD j)
      ∧ pred (.kor vd va vb) (fun j => pa.getLsbD j || pb.getLsbD j)
      ∧ pred (.kxor vd va vb) (fun j => pa.getLsbD j != pb.getLsbD j)
      ∧ pred (.kandn vd va vb) (fun j => pa.getLsbD j && !pb.getLsbD j)
      ∧ pred (.knot vd va) (fun j => !pa.getLsbD j)
      ∧ pred (.kmov vd va) (fun j => pa.getLsbD j)
      ∧ pred (.kset vd va w) (fun j => if j / 64 = w.toNat then e.g2.getLsbD (j % 64) else (a.kr vd.toNat).getLsbD j)
      ∧ gives (.kpop vd va) vd.toNat (BitVec.ofNat 64 ((List.range 256).countP (fun j => pa.getLsbD j)))
      ∧ gives (.kfirst vd va) vd.toNat (BitVec.ofNat 64 (((List.range 256).find? (fun j => pa.getLsbD j)).getD 256))
      ∧ gives (.kget vd va w) vd.toNat (BitVec.ofNat 64 (pa.toNat / 2 ^ (64 * w.toNat)))
      ∧ gives (.efget rd num) rd.toNat (BitVec.ofNat 64 (a.efcr num.toNat).toNat)
      ∧ (e.ins = .efset rs1 num → ∃ t, exec (.vectorEntryComplete core slot) s = .next t ∧ Performed s t sid rest
          ∧ (t.st sid).efcr num.toNat = BitVec.ofNat 32 e.g1.toNat)
      ∧ (let h := a.vhr va.toNat
          let h2 := a.vhr vb.toNat
          let eb := 8 * h.esize
          let flt := isFloat h.efmt.toNat
          let num := fun (x : Nat) => if u = 1 ∨ x < 2 ^ (eb - 1) then (x : Int) else x - 2 ^ eb
          let el := fun (j : Nat) => elemAt (a.vr va.toNat) eb j
          let x := fun (j : Nat) => (fmtOf h.efmt.toNat).val (el j)
          let y := fun (j : Nat) => (fmtOf h2.efmt.toNat).val (elemAt (a.vr vb.toNat) eb j)
          let i := fun (j : Nat) => num (el j)
          let l := fun (j : Nat) => num (elemAt (a.vr vb.toNat) eb j)
          let act := fun (j : Nat) => decide (j < e.vl) && (a.kr k.toNat).getLsbD j
          let holds := fun (j : Nat) =>
            match flt, cond.toNat with
            | true, 0 => decide ((x j).rel (y j) = .eq)
            | true, 1 => decide ((x j).rel (y j) ≠ .eq)
            | true, 2 => decide ((x j).rel (y j) = .lt)
            | true, 3 => decide ((x j).rel (y j) = .lt ∨ (x j).rel (y j) = .eq)
            | true, 4 => decide ((x j).rel (y j) = .gt)
            | true, 5 => decide ((x j).rel (y j) = .gt ∨ (x j).rel (y j) = .eq)
            | true, _ => (x j).isNan || (y j).isNan
            | false, 0 => decide (i j = l j)
            | false, 1 => decide (i j ≠ l j)
            | false, 2 => decide (i j < l j)
            | false, 3 => decide (i j ≤ l j)
            | false, 4 => decide (l j < i j)
            | false, 5 => decide (l j ≤ i j)
            | false, _ => false
          let invalid := fun (j : Nat) => flt && (if 2 ≤ cond.toNat ∧ cond.toNat ≤ 5 then (x j).isNan || (y j).isNan
            else decide (x j = .nan true ∨ y j = .nan true))
          (checkOperands a e { uns := decide (u = 1) } none [va.toNat, vb.toNat] = .ok () →
            (h.efmt = h2.efmt ∧ (h.efmt = 0 → h.rawsz = h2.rawsz)) ∨ (binary8Code h.efmt.toNat = true ∧ binary8Code h2.efmt.toNat = true) →
            pred (.vcmp vd va vb k u cond) (fun j => if act j then holds j else (a.kr vd.toNat).getLsbD j)
              ∧ (e.ins = .vcmp vd va vb k u cond → ∃ t, exec (.vectorEntryComplete core slot) s = .next t
                ∧ FlagsOred s t sid (fun b => b = 4 && (List.range e.vl).any (fun j => act j && invalid j))
                ∧ ∀ n, (t.st sid).vr n = a.vr n ∧ (t.st sid).vhr n = a.vhr n))
            ∧ (checkOperands a e { uns := decide (u = 1), noSpar := true, same := 2 } none [va.toNat] = .ok () →
              gives (.vext vd va u gs) vd.toNat
                (if e.vl ≤ e.g1.toNat then 0 else if flt then BitVec.ofNat 64 (el e.g1.toNat) else BitVec.ofInt 64 (num (el e.g1.toNat)))))

/-- R171, R173 to R182: the elements that the loads and stores of the vector stream move in scratchpads and slices, by the address each form
gives them; the atomics and reductions there, in ascending order; tiles with their headers, chunks, prefetches, and the update a reduction
sends to translated memory.  Inactive elements keep their bits, a load's header names its format and vl, and no other byte and no other
register changes. -/
def Obligations.VectorMemoryElements : Prop :=
  ∀ (s : State) (core slot : Nat) (e : VEntry) (rest : List VEntry) (vd km x1 level : BitVec 5) (k : BitVec 4) (u : BitVec 1) (op : BitVec 3)
    (gs : BitVec 6) (pos group : Nat → Nat),
    Performs s core slot e rest → s.breakpoints (core * 8 + slot) = [] →
    let sid := core * 8 + slot
    let a := s.st sid
    let w := s.entryWho sid
    let v := a.vhr vd.toNat
    let n := v.esize
    let el := fun (j : Nat) => elemAt (a.vr vd.toNat) (8 * n) j
    let active := fun (m j : Nat) => decide (e.start ≤ j ∧ j < e.vl) && (a.kr m).getLsbD j
    let loaded : VHdr := { efmt := v.efmt, rawsz := v.rawsz, count := BitVec.ofNat 16 e.vl }
    let ix := fun (j : Nat) =>
      let b := 8 * (a.vhr x1.toNat).esize
      let y := elemAt (a.vr x1.toNat) b j
      BitVec.ofInt 64 (if y < 2 ^ (b - 1) then (y : Int) else y - 2 ^ b)
    let indexed := 3 < (a.vhr x1.toNat).efmt.toNat ∨ e.fits (a.vhr x1.toNat).esize = false
    let inPad := fun (ea : Word) (m p : Nat) (read write : Bool) =>
      ea.toNat % m = 0 ∧ s.placeOf w ea.toNat = some (.pad p) ∧ mayEnter w (.pad p) s = .ok () s
        ∧ (read = true → s.padFlawed p m = false)
        ∧ ∃ d g, (s.core w.core).plb.find? (fun q => q.pd = w.pd) = some d ∧ d.segs.find? (·.covers ea.toNat) = some g
            ∧ (read = true → g.r = true) ∧ (write = true → g.w = true)
    let elements := fun (m : Nat → Bool) (n : Nat) (ea : Nat → Word) (read write : Bool) =>
      ∀ j, m j = true → inPad (ea j) n (pos j) read write
    let loads := fun (m : Nat → Bool) (n : Nat) (ea : Nat → Word) (hdr : VHdr) => elements m n ea true false →
      ∃ t, exec (.vectorEntryComplete core slot) s = .next t ∧ Performed s t sid rest
        ∧ VecWritten s t sid vd.toNat (8 * n) (fun j => if m j then some (leNat (mread s.mem (pos j) n)) else none) hdr
    let stores := fun (m : Nat → Bool) (n : Nat) (ea : Nat → Word) (mem : Memory) => elements m n ea false true →
      ∃ t, exec (.vectorEntryComplete core slot) s = .next t ∧ Performed s { t with mem := s.mem } sid rest
        ∧ (∀ x, mget t.mem x = mget (((List.range e.vl).filter m).foldl (fun z j =>
            mwrite z (pos j) (leBytes n (elemAt (a.vr vd.toNat) (8 * n) j))) mem) x)
        ∧ (∀ i, (t.st sid).vr i = a.vr i) ∧ ∀ i, (t.st sid).rd i = a.rd i
    let unit := fun (j : Nat) => e.g1 + BitVec.ofNat 64 (j * n)
    let strided := fun (j : Nat) => e.g1 + BitVec.ofNat 64 j * e.g2
    let byIndex := fun (j : Nat) => e.g1 + ix j
    let chunk := fun (j : Nat) => (e.g2.toNat + j * n) / 1024
    (e.vl = 0 → e.ins ∈ [.vld vd km gs, .vlds vd x1 km gs, .vldx vd x1 km gs, .vldSl vd km gs, .vst vd km gs, .vsts vd x1 km gs,
        .vstx vd x1 km gs, .vstSl vd km gs, .vldt vd x1 km gs, .vldc vd x1 km gs, .vamo vd x1 k u op gs, .vrdm vd x1 k u op gs] →
      ∃ t, exec (.vectorEntryComplete core slot) s = .next t ∧ Performed s t sid rest
        ∧ VecWritten s t sid vd.toNat 8 (fun _ => none) v ∧ t.updates = s.updates)
      ∧ (e.vl ≠ 0 → e.fits n = true →
      (e.ins = .vld vd km gs → loads (active km.toNat) n unit loaded)
        ∧ (e.ins = .vlds vd x1 km gs → loads (active km.toNat) n strided loaded)
        ∧ (e.ins = .vldx vd x1 km gs → ¬indexed → loads (active km.toNat) n byIndex loaded)
        ∧ (e.ins = .vst vd km gs → stores (active km.toNat) n unit s.mem)
        ∧ (e.ins = .vsts vd x1 km gs → stores (active km.toNat) n strided s.mem)
        ∧ (e.ins = .vstx vd x1 km gs → ¬indexed → stores (active km.toNat) n byIndex s.mem)
        ∧ (e.ins = .vldc vd x1 km gs →
            loads (fun j => decide (e.start ≤ j ∧ j < e.vl ∧ chunk j < 256) && (a.kr km.toNat).getLsbD (chunk j)) n
              (fun j => e.g1 + e.g2 + BitVec.ofNat 64 (j * n)) loaded)
        -- the slices of the lane clusters of the captured grant
        ∧ (e.g1.toNat % 64 = 0 → e.g1.toNat ≤ 16320 →
            let cl := clusterOfCore core
            let per := 512 / (8 * n)
            let at_ := fun (j : Nat) => e.lanes.getD (j / per) 0 * 16384 + e.g1.toNat + j % per * n
            (e.ins = .vldSl vd km gs → ∃ t, exec (.vectorEntryComplete core slot) s = .next t ∧ Performed s t sid rest
                ∧ VecWritten s t sid vd.toNat (8 * n) (fun j => if active km.toNat j
                    then some (leNat ((List.range n).map (fun b => tget 0 (s.cluster cl).slices (at_ j + b)))) else none) loaded)
              ∧ (e.ins = .vstSl vd km gs → ∃ t, exec (.vectorEntryComplete core slot) s = .next t ∧ Performed s t sid rest
                ∧ (∀ x, x / 16384 ∉ a.heldLanes ∨ x / 16384 ∈ (t.st sid).heldLanes →
                    tget 0 (t.cluster cl).slices x =
                      match ((List.range e.vl).filter (fun j => active km.toNat j && decide (at_ j ≤ x ∧ x < at_ j + n))).getLast? with
                      | some j => BitVec.ofNat 8 (el j / 2 ^ (8 * (x - at_ j)))
                      | none => tget 0 (s.cluster cl).slices x)
                ∧ ∀ i, (t.st sid).vr i = a.vr i))
        -- VAMO and VRDM, in ascending order
        ∧ (let wide : Prop := v.efmt = 3 ∨ (v.efmt = 0 ∧ v.rawsz = 3)
            let num := fun (x : Nat) => if u = 1 ∨ x < 2 ^ (8 * n - 1) then (x : Int) else x - 2 ^ (8 * n)
            let f := fmtOf v.efmt.toNat
            let base := fun (o m x : Nat) =>
              match isFloat v.efmt.toNat, o with
              | true, 0 => (f.add .rne (f.val m) (f.val x)).1
              | true, 1 => (f.minMax false m x).1
              | true, _ => (f.minMax true m x).1
              | false, 0 => (m + x) % 2 ^ (8 * n)
              | false, 1 => if num m ≤ num x then m else x
              | false, 2 => if num m ≤ num x then x else m
              | false, 3 => m &&& x
              | false, 4 => m ||| x
              | false, _ => m ^^^ x
            let amo := fun (m x : Nat) => match op.toNat with | 0 => base 0 m x | 1 => x | o + 2 => base (o + 1) m x
            let after := fun (g : Nat → Nat → Nat) (i : Nat) => ((List.range i).filter (active k.toNat)).foldl (fun z j =>
              mwrite z (pos j) (leBytes n (g (leNat (mread z (pos j) n)) (el j)))) s.mem
            ¬indexed → elements (active k.toNat) n byIndex true true →
            (e.ins = .vamo vd x1 k u op gs → wide → a.amoBack = none → s.amoWaits sid = false →
                ∃ t, exec (.vectorEntryComplete core slot) s = .next t ∧ Performed s { t with mem := s.mem } sid rest
                  ∧ (∀ x, mget t.mem x = mget (after amo e.vl) x)
                  ∧ VecWritten s t sid vd.toNat (8 * n) (fun j => if active k.toNat j
                      then some (leNat (mread (after amo j) (pos j) n)) else none) { v with count := BitVec.ofNat 16 e.vl })
              ∧ (e.ins = .vrdm vd x1 k u op gs → wide ∨ ((v.efmt = 6 ∨ v.efmt = 7) ∧ op.toNat < 3 ∧ u ≠ 1) →
                ∃ t, exec (.vectorEntryComplete core slot) s = .next t ∧ Performed s { t with mem := s.mem } sid rest
                  ∧ (∀ x, mget t.mem x = mget (after (base op.toNat) e.vl) x) ∧ (∀ i, (t.st sid).vr i = a.vr i)
                  ∧ t.updates = s.updates))
        ∧ (e.ins = .vrdm vd x1 k u op gs → ¬indexed → v.reducible op.toNat (u = 1) = true → ∀ j, (List.range e.vl).filter (active k.toNat) = [j] →
            let s0 := (if e.begun then s else s.forgetWalks sid 1).modSt sid (fun t => { t with vq := { e with begun := true } :: rest })
            ∀ s1 s2 r, checkAccess w (byIndex j) n needRW s0 = .ok .translated s1 → translate w (byIndex j).toNat true .gather s1 = .ok r s2 →
              ∃ t, exec (.vectorEntryComplete core slot) s = .next t ∧ SameQueue (t.st sid).vq rest
                ∧ t.updates = s.updates ++
                    [{ pa := r.paOf (s2.partitionOf w.core) (byIndex j).toNat, core := core, slot := slot, rid := r.rid, key := r.key,
                       size := n, op := op.toNat, uns := decide (u = 1), efmt := v.efmt.toNat, data := BitVec.ofNat 64 (el j) }]))
      -- VPF
      ∧ (e.ins = .vpf level x1 gs →
          let len := min e.g2.toNat 16384
          let lines := if len = 0 then [] else
            (List.range ((e.g1.toNat + len - 1) / 64 - e.g1.toNat / 64 + 1)).map (fun i => (e.g1.toNat / 64 + i) * 64)
          (∀ l, l ∈ lines → (∃ p, s.placeOf w l = some p ∧ p ≠ .translated) ∨ (s.placeOf w l = some .translated
            ∧ ∃ d g, (s.core w.core).plb.find? (fun q => q.pd = w.pd) = some d ∧ d.segs.find? (·.covers l) = some g ∧ g.r = true)) →
          ∃ t, exec (.vectorEntryComplete core slot) s = .next t ∧ Performed s t sid rest
            ∧ (t.core core).fills = (s.core core).fills
                ++ (lines.filter (fun l => s.placeOf w l = some .translated)).map (fun l => (l, level.toNat)))
      -- tiles: the header as checked, from its snapshot or its 32 bytes
      ∧ (∀ h : TileHdr,
          e.tile = some h ∨ (e.tile = none ∧ ∃ q, inPad e.g1 32 q true false ∧ h = tileOf e.g1 (mread s.mem q 32) ∧ h.supported = true
            ∧ (let x := leNat (mread s.mem q 32)
              x % 65536 = 0x7A1E ∧ x / 2 ^ 16 % 16 = 1 ∧ x / 2 ^ 240 = crc16 ((mread s.mem q 32).take 30) ∧ x / 2 ^ 188 % 2 ^ 52 = 0)) →
          let m := esizeOf h.efmt
          let line := e.g2.toNat
          let shadow : VHdr :=
            { efmt := BitVec.ofNat 8 h.efmt, slay := BitVec.ofNat 4 h.slay, sfmt := BitVec.ofNat 4 h.sfmt, spar := BitVec.ofNat 4 h.spar,
              order := BitVec.ofNat 4 h.order, rawsz := 0, count := BitVec.ofNat 16 e.vl }
          let mine := fun (j : Nat) => decide (e.start ≤ j ∧ j < e.vl)
          let at_ := fun (j : Nat) => h.base + BitVec.ofNat 64 (h.doff + line * h.pitch + j * m)
          e.ins = .vldt vd x1 km gs → e.vl ≠ 0 → line < h.lines → e.vl ≤ h.lineLen → e.fits m = true →
          (h.spar ≠ 1 → loads mine m at_ shadow)
            ∧ (let nib := fun (g : Nat) => leNat (mread s.mem (group g) 1) / 2 ^ (4 * (g % 2)) % 16
              h.spar = 1 → e.start = 0 → e.vl % 2 = 0 → e.vl ≤ 128 → km ≠ 0 → elements mine m at_ true false →
              (∀ g, g < e.vl / 2 → inPad (h.base + BitVec.ofNat 64 (h.groupByte line g)) 1 (group g) true false
                ∧ nib g % 4 < nib g / 4) →
              ∃ t, exec (.vectorEntryComplete core slot) s = .next t ∧ Performed s t sid rest
                ∧ (∀ j, j < 2048 / (8 * m) → elemAt ((t.st sid).vr vd.toNat) (8 * m) j =
                    if j < e.vl then leNat (mread s.mem (pos j) m) else elemAt (a.vr vd.toNat) (8 * m) j)
                ∧ (t.st sid).vhr vd.toNat = shadow
                ∧ (∀ b, b < 256 → ((t.st sid).kr km.toNat).getLsbD b =
                    if b < 2 * e.vl then (nib (b / 4)).testBit (b % 4) else (a.kr km.toNat).getLsbD b)
                ∧ ∀ i, (i ≠ vd.toNat → (t.st sid).vr i = a.vr i) ∧ (i ≠ km.toNat → (t.st sid).kr i = a.kr i)))
      ∧ (e.ins = .vstt vd x1 gs → e.fits n = true → v.slay = 0 → v.spar = 0 → (v.efmt = 0 → v.rawsz = 0) → bits e.g2 63 60 = 0 →
          let h := tileForm e.g1 v e.g2
          let line := bits e.g2 47 32
          h.supported = true → h.rows ≠ 0 → h.cols ≠ 0 → line < h.lines → e.vl ≤ h.lineLen →
          ∀ q, inPad e.g1 32 q false true →
            stores (fun j => decide (e.start ≤ j ∧ j < e.vl)) n
              (fun j => e.g1 + BitVec.ofNat 64 (h.doff + line * h.pitch + j * n)) (if e.start = 0 then mwrite s.mem q h.bytes else s.mem))

/-- R146 to R150, R415: SETVL and SETMVL take their lanes where they can, write ctl.vl, ctl.grant and the strip's registers, give the trace
record that ctl.trctl asks for, and wait in the allocator's order otherwise; a SETVL that holds lanes does not wait; SETMVL holds nothing on a stream core.  LANE_GRANT serves the head of
the order, a restore with all the lanes that the strand and its entries count.  That a SETVL takes no lanes before the restore of those its
strand counts, and that one which begins a grant issues after that restore, is the model's reading (log 81). -/
def Obligations.LanesAndLengths : Prop :=
  ∀ (s : State) (rd rs1 : BitVec 6) (efmt : BitVec 8), s.cur.status.vhold = false →
    let avl := (s.cur.rd rs1.toNat).toNat
    let eb := if efmt = 0 then 64 else 8 * esizeOf efmt.toNat
    let cl := s.cluster (clusterOfCore (coreOfSid s.curSid))
    let f := (s.freeLanes (clusterOfCore (coreOfSid s.curSid))).length
    let g := s.cur.grant
    let want := min 4 ((avl + 512 / eb - 1) / (512 / eb))
    let mine := 64 * eb / 512
    let completes := fun (i : Instr) (grant vl mvl : Nat) =>
      ∃ t, exec i s = .next t ∧ MovedWith s t rd.toNat (BitVec.ofNat 64 vl) ∧ t.cur.ctl cGrant = BitVec.ofNat 64 grant
        ∧ t.cur.ctl cVl = BitVec.ofNat 64 vl ∧ t.cur.ctl cMvl = BitVec.ofNat 64 mvl
        ∧ t.cur.ctl cStripaddr = s.cur.pc
        ∧ (t.cur.ctl cStripord = if s.cur.ctl cStripaddr = s.cur.pc then s.cur.ctl cStripord + 1 else 0)
        ∧ (bit (s.cur.ctl 0x240) 0 = true → TraceTaken s t s.curSid 0 t.cur 0)
    let waits := fun (i : Instr) (kind count : Nat) =>
      ∃ t r, exec i s = .next t ∧ Waits s t .lanes
        ∧ (t.cluster (clusterOfCore (coreOfSid s.curSid))).laneOrder = cl.laneOrder ++ [r]
        ∧ r.core * 8 + r.slot = s.curSid ∧ r.count = count ∧ r.kind = kind
    let i := Instr.setvl rd rs1 efmt
    let j := Instr.setmvl rd rs1 efmt
    (avl = 0 → completes i 0 0 0 ∧ completes j 0 0 0)
      ∧ (avl ≠ 0 → want ≤ g → completes i want (min avl (want * (512 / eb))) 0)
      ∧ (avl ≠ 0 → g < want → s.cur.lanesHeld = true → cl.laneOrder = [] → 0 < g + f →
          completes i (g + min (want - g) f) (min avl ((g + min (want - g) f) * (512 / eb))) 0)
      ∧ (0 < g → g < want → cl.laneOrder ≠ [] ∨ s.cur.lanesHeld = false → completes i g (min avl (g * (512 / eb))) 0)
      ∧ (avl ≠ 0 → g = 0 → s.cur.lanesHeld = true → (cl.laneOrder ≠ [] ∨ f = 0) → waits i 0 want)
      ∧ (isStreamCore s.curCore = true → completes j 0 0 0)
      ∧ (isStreamCore s.curCore = false → avl ≠ 0 → mine ≤ g → completes j mine (min avl 64) (min avl 64))
      ∧ (isStreamCore s.curCore = false → avl ≠ 0 → s.cur.entriesHeld = true → s.cur.lanes = [] → g < mine →
          (cl.laneOrder = [] → mine ≤ f → completes j mine (min avl 64) (min avl 64))
            ∧ (cl.laneOrder ≠ [] ∨ f < mine → waits j 1 mine))
      ∧ (∀ c r rest, (s.cluster c).laneOrder = r :: rest → r.slot < 5 →
          let free := (s.freeLanes c).length
          let n := min r.count free
          (r.kind = 0 → 0 < free → ∃ t, exec (.laneGrant c) s = .next t ∧ (t.cluster c).laneOrder = rest
              ∧ Finished s t (r.core * 8 + r.slot) r.rd (BitVec.ofNat 64 (min r.avl (n * (512 / r.eb)))))
            ∧ (r.kind = 1 → r.count ≤ free → ∃ t, exec (.laneGrant c) s = .next t ∧ (t.cluster c).laneOrder = rest
              ∧ Finished s t (r.core * 8 + r.slot) r.rd (BitVec.ofNat 64 (min r.avl 64)))
            ∧ (let a := s.st (r.core * 8 + r.slot)
              1 < r.kind → a.st = .run → a.wait = .none → a.lanesNeeded - a.heldLanes.length ≤ free →
              ∃ t, exec (.laneGrant c) s = .next t ∧ (t.cluster c).laneOrder = rest
                ∧ (t.st (r.core * 8 + r.slot)).lanesHeld = true ∧ (t.st (r.core * 8 + r.slot)).pc = a.pc
                ∧ ∀ n, (t.st (r.core * 8 + r.slot)).rd n = a.rd n))

/-! ### Strand events and translation -/

/-- R120, R121, R127: the interrupt that is due is entered at an issue point with an empty vector queue, cause intr with the
source as its code and value 0; a WAITI it ends has completed.  The timer's source becomes pending when ctl.time reaches ctl.tcmp. -/
def Obligations.InterruptsAndTimer : Prop :=
  ∀ (s : State) (core slot n : Nat), slot < 5 →
    let sid := core * 8 + slot
    let a := s.st sid
    let cause := causeWord true false false 0 n
    let due := a.atIssue (s.cycleOf core) = true ∧ s.interruptDue sid = some n ∧ a.vq = [] ∧ a.async = []
    (due → a.wait = .none → ∃ t, exec (.interruptEntry core slot) s = .next t ∧ TrapTaken s t sid cause 0 a.pc)
      ∧ (due → a.wait = .waiti → ∃ t, exec (.interruptEntry core slot) s = .next t
          ∧ TrapTaken (s.finish0 sid) t sid cause 0 (a.pc + 4))
      ∧ (a.st ≠ .free → (a.ctl cTcmp).toNat ≤ s.time → ∃ t, exec (.timerInterrupt core slot) s = .next t
          ∧ (t.st sid).ctl cIpend = a.ctl cIpend ||| 1 ∧ OnlyStrand s t sid)

/-- R439, R118, R152: what a strand meets at its issue point of its commands' and its vector entries' faults, and the element
timer's trap. -/
def Obligations.AsynchronousFaults : Prop :=
  ∀ (s : State) (core slot : Nat), slot < 5 →
    let sid := core * 8 + slot
    let a := s.st sid
    let ready := a.st = .run ∧ a.wait = .none ∧ a.bpArmed = .none
    (∀ code detail tval r, ready → a.vq = [] → a.async = .fault code detail tval :: r →
        ∃ t, exec (.asyncFaultTrap core slot) s = .next t
          ∧ TrapTaken s t sid (causeWord false true false detail code) tval a.pc ∧ (t.st sid).async = r)
      ∧ (∀ cause tval vepc velem r, ready → a.async = .vfault cause tval vepc velem :: r →
          ∃ t, exec (.asyncFaultTrap core slot) s = .next t
            ∧ TrapTaken (s.modSt sid (fun b => (b.setCtl cVepc vepc).setCtl cVelem velem)) t sid cause tval a.pc)
      ∧ (∀ rec r, ready → rec.sid = sid → a.async = .drop rec :: r →
          ∃ t, exec (.asyncPageFaultDrop core slot) s = .next t ∧ (t.st sid).st = .dropped ∧ (t.st sid).pc = a.pc
            ∧ (∀ n, (t.st sid).rd n = a.rd n)
            ∧ (t.cluster (clusterOfCore core)).recWait
                = (s.cluster (clusterOfCore core)).recWait ++ [{ rec with time := BitVec.ofNat 64 s.time }])
      ∧ (∀ e r i ea, ready → a.status.mode = .task → a.vq = e :: r → e.stopped = false → a.epLimit ≤ (a.ctl cEptime).toNat
          → a.amoBack = none → s.amoWaits sid = false → s.stalledAt sid e = some (i, ea) →
          ∃ t, exec (.eptimeout core slot) s = .next t
            ∧ (t.st sid).ctl cCause = causeWord false false true (s.portOf sid ea) 14 ∧ (t.st sid).ctl cTval = ea
            ∧ (t.st sid).ctl cVepc = e.pc ∧ (t.st sid).ctl cVelem = BitVec.ofNat 64 i ∧ (t.st sid).ctl cEpc = a.pc &&& ~~~1
            ∧ (t.st sid).hold = a.vq ∧ (t.st sid).vq = [] ∧ (t.st sid).status.vhold = true
            ∧ (t.st sid).status.mode = .supervisor ∧ (t.st sid).pc = a.ctl cTvec)

/-- R196, R197, R200, R202: the walker's own steps: a walk in flight ends, every access that joined it has its outcome and its leaf stands
in the TLB of each of their cores; an access whose walk ended in a fault drops its strand with the record of it; a domain's list fills the
PLB, and a record enters the ring of the holding core.  That a walk reads every level in one step, which walk ends (a free value: the
statement holds for every one) and that the access takes the outcome are the model's choice (log 12), and so is the order of records
(log 93). -/
def Obligations.WalkerSteps : Prop :=
  ∀ (s : State) (cl core pd : Nat) (rd rs1 : BitVec 6) (imm : BitVec 12),
    (let going := s.walksInFlight cl
      ∀ q e s', going[s.draw.1.toNat % going.length]? = some q → walk q.core (q.page * 4096) s.draw.2 = .ok e s' →
        ∃ t id, exec (.walkComplete cl) s = .next t
          ∧ ∀ o, o ∈ (s.cluster cl).walkQ → s.sameWalk o q = true →
            { o with res := some (.ended e), walk := id } ∈ (t.cluster cl).walkQ
              ∧ ∀ lo hi pa level, e = .leaf lo hi pa level → s.keyServes (s.st o.sid).tenant (bits hi 7 0) = true →
                entryOf lo hi pa level (q.page * 4096) ∈ (t.core o.core).tlb)
      ∧ (let ea := s.cur.rd rs1.toNat + BitVec.ofInt 64 imm.toInt
        let w := s.who s.curSid
        ∀ q ty l, ea.toNat % 8 = 0 → ea.toNat < padBase → checkRights w ea.toNat needR s = .ok () s → s.cur.vq = []
          → tfind (s.core w.core).l1 (ea.toNat / 8) = none → s.joined w ea.toNat = some q → q.res = some (.ended (.fault ty l)) →
          ∃ t, exec (.ldd rd rs1 imm) s = .next t ∧ t.cur.st = .dropped ∧ t.cur.pc = s.cur.pc ∧ (∀ n, t.cur.rd n = s.cur.rd n)
            ∧ (t.cluster (clusterOfCore w.core)).recWait
                = (s.cluster (clusterOfCore w.core)).recWait ++ [s.faultRec s.curSid ea.toNat ty 0 l 0 q.walk])
      ∧ (∀ segs s', (s.core core).plb.any (fun p => p.pd = pd) = false
          → (s.core core).strands.any (fun e => e.2.st = .run && e.2.pd = pd) = true → plbFill core pd s = .ok segs s' →
          ∃ t p, exec (.plbFill core pd) s = .next t ∧ p ∈ (t.core core).plb ∧ p.pd = pd ∧ p.segs = segs.take 32
            ∧ p.complete = decide (segs.length ≤ 32))
      ∧ (∀ k c r rest, s.isHolding core = true → (s.core core).ringRoom = true → s.resvs = [] → s.pendRegs = [] →
          s.clusters.find? (fun e => (s.partitionOf core).mask.testBit (e.1 / 8) && !e.2.recWait.isEmpty) = some (k, c)
          → tfind s.clusters k = some c → c.recWait = r :: rest →
          let lsize := bits ((s.core core).ctl 0x109) 4 0
          let head := ((s.core core).ctl 0x10A).toNat
          let base := bits ((s.core core).ctl 0x108) 51 0 / 2 ^ (5 + lsize) * 2 ^ (5 + lsize) + 32 * (head % 2 ^ lsize)
          ∃ t, exec (.faultRecordWrite core) s = .next t ∧ mread t.mem base 32 = r.bytes s.pkg
            ∧ ((t.core core).ctl 0x10A).toNat = (head + 1) % 2 ^ 32 ∧ (t.cluster k).recWait = rest)

/-- R198, R201, R206: PLBINV and TLBINV reach every core of the partition; PGWAKE, PGQRY and PGPIN. -/
def Obligations.TranslationInstructions : Prop :=
  ∀ (s : State) (c a b : BitVec 5), s.cur.status.mode ≠ .task →
    let x := s.cur.rd a.toNat
    let y := s.cur.rd b.toNat
    let len := bits y 62 0
    let stop := if y = 0 then 0xF0000000000000 else x.toNat + y.toNat
    (s.cur.vq = [] → bits x 63 17 = 0 → ∃ t, exec (.plbinv a) s = .next t ∧ Passes s t
        ∧ ∀ c, c ∈ s.partitionCores s.curCore → ∀ p, p ∈ (t.core c).plb → bit x 16 = false ∧ p.pd ≠ bits x 15 0)
      ∧ (s.cur.vq = [] → s.cur.wait = .none → x.toNat % 4096 = 0 → y.toNat % 4096 = 0 → (y = 0 → x = 0)
          → x.toNat + y.toNat ≤ 0xF0000000000000 → HomesQuiet s →
          ∃ t, exec (.tlbinv b a) s = .next t ∧ Went s t
            ∧ ∀ c, c ∈ s.partitionCores s.curCore →
                (∀ e, e ∈ (t.core c).tlb → stop ≤ e.vbase ∨ e.vbase + 2 ^ e.lsize ≤ x.toNat)
                  ∧ (∀ w, w ∈ (t.core c).l1 → w.1 * 8 < x.toNat ∨ stop ≤ w.1 * 8))
      ∧ (∀ sid, s.strandNamed x = some sid → s.coreInTenant (coreOfSid sid) s.cur.tenant = true → (s.core (coreOfSid sid)).fwd = [] →
        let code := if (s.st sid).st ≠ .dropped then 1 else if (s.st sid).status.saveinc then 2 else 0
        ∃ t, exec (.pgwake c a) s = .next t ∧ MovedWith s t c.toNat (BitVec.ofNat 64 code)
          ∧ (code = 0 → (t.st sid).st = if (s.st sid).dbgHalted then .held else .run))
      ∧ (∀ lo hi pa level s', x.toNat < 0xF0000000000000 → walk (s.who s.curSid).core x.toNat s = .ok (.leaf lo hi pa level) s' →
          ∃ t, exec (.pgqry c a) s = .next t ∧ RegResult s' t c.toNat (setBits lo 11 9 level) 4)
      ∧ (∀ type level s', x.toNat < 0xF0000000000000 → walk (s.who s.curSid).core x.toNat s = .ok (.fault type level) s' →
          ∃ t, exec (.pgqry c a) s = .next t ∧ RegResult s' t c.toNat (BitVec.ofNat 64 (4096 * type + 512 * level)) 4)
      ∧ (∀ ls v s', x.toNat % 4096 = 0 → len % 4096 = 0 → len ≤ 2 ^ 30 → x.toNat + len ≤ 0xF0000000000000
          → leavesOf (s.who s.curSid).core (len / 4096) x.toNat (x.toNat + len) s = .ok (ls, v) s' →
          ∃ t, exec (.pgpin c b a) s = .next t
            ∧ WentWith s' t c.toNat (BitVec.ofNat 64 (min v (x.toNat + len) - x.toNat))
            ∧ ∀ va pa frame size, ls = [(va, pa, frame, size)] → pa % 8 = 0 → tget (0, 0) s'.lineKey (pa / 64) = (0, 0)
                → bit (s'.homeWord pa) 0 = true → bit (s'.homeWord pa) 1 = true → bits (s'.homeWord pa) 51 12 * 4096 = frame →
                bit (t.homeWord pa) 5 = !bit y 63)

/-! ### Messages -/

/-- R134 to R137, R353: AMSEND launches its message towards a core of the partition and waits for its acceptance, or hands it to
the message switch; its arrival completes the sender; the handler begins with the message in registers 3 to 10; AMRET ends it.  That
the message strand is FREE between handlers is the model's choice (log 25), and when a send completes its reading (log 53). -/
def Obligations.ActiveMessages : Prop :=
  ∀ (s : State) (c b : BitVec 5) (oxb : BitVec 3) (core pkt : Nat),
    let x := s.cur.rd c.toNat
    let target := bits x 19 0
    let m : AmMsg :=
      { index := bits (s.cur.rd b.toNat) 7 0, sender := (s.strandId s.curSid).toNat, tenant := s.cur.tenant,
        reply := s.curSlot = 4, args := (List.range 6).map (fun i => s.cur.oxr (oxb.toNat + i)) }
    let mayIssue := bits x 63 20 = 0 ∧ bits x 3 0 < 10 ∧ bits (s.cur.rd b.toNat) 63 8 = 0
      ∧ ¬(s.curSlot = 4 ∧ (s.core s.curCore).amRun = some true)
    let local_ := target / 1024 = s.pkg % 1024 ∧ s.samePartition (coreOfSid s.curSid) (target % 1024) = true
    (mayIssue → local_ → ∃ t p, exec (.amsend c b oxb) s = .next t ∧ Waits s t (.send p.id) ∧ p ∈ t.fabric.packets
        ∧ p.payload = .am m target ∧ p.dsts = [target % 1024] ∧ p.waiter = some s.curSid)
      ∧ (mayIssue → ¬local_ → ∃ t p, exec (.amsend c b oxb) s = .next t ∧ Passes s t ∧ p ∈ t.fabric.packets
        ∧ p.payload = .am m target ∧ p.waiter = none)
      ∧ (∀ p m' tg, s.packet pkt = some p → p.payload = .am m' tg → p.dsts = [core] → core < 1024 → p.there = true
          → s.inTurn p = true → s.arrival core m'.tenant = .here → (s.core core).amRoom m'.reply = true →
          ∃ t, exec (.amArrival pkt) s = .next t ∧ (t.core core).amq = (s.core core).amq ++ [m'] ∧ t.packet pkt = none
            ∧ ∀ sid, p.waiter = some sid → Finished s t sid 0 0)
      ∧ (∀ m' rest x y s', (s.core core).amq = m' :: rest → (s.core core).amRun = none → (s.core core).moving = false
          → (s.st (core * 8 + 4)).st = .free → (s.clusterTenant (clusterOfCore core)).isSome = true
          → amEntry (s.who (core * 8 + 4)) ((s.core core).ctl cAmtab) m'.index s = .ok (x, y) s' → bit x 0 = true
          → (bit y 17 = true ∨ bits y 31 24 = m'.tenant) →
          ∃ t, exec (.amHandlerStart core) s = .next t ∧ (t.core core).amq = rest ∧ (t.core core).amRun = some m'.reply
            ∧ (t.st (core * 8 + 4)).st = .run ∧ (t.st (core * 8 + 4)).pc = x &&& ~~~1
            ∧ (t.st (core * 8 + 4)).status.mode = (if bit y 16 then .supervisor else .task)
            ∧ (t.st (core * 8 + 4)).ctl cPd = BitVec.ofNat 64 (bits y 15 0)
            ∧ (∀ i, i < 6 → (t.st (core * 8 + 4)).rd (3 + i) = lget 0 m'.args i)
            ∧ (t.st (core * 8 + 4)).rd 9 = BitVec.ofNat 64 m'.sender
            ∧ (t.st (core * 8 + 4)).rd 10 = BitVec.ofNat 64 (m'.tenant * 2 ^ 16 + 2 ^ 8 * b2n m'.reply + m'.index))
      ∧ (s.curSlot = 4 → s.cur.vq = [] → s.settled s.curSid = true →
          ∃ t, exec .amret s = .next t ∧ Moved s t ∧ t.cur.st = .free ∧ (t.core s.curCore).amRun = none
            ∧ bits ((t.core s.curCore).ctl cAmstat) 15 0 = (bits ((s.core s.curCore).ctl cAmstat) 15 0 + 1) % 2 ^ 16)

/-- R353, R354: what the message switches do with a message, and what comes in on the UALink ports.  The port a message of several
routes leaves by, and the service-event kind of a refused message (log 24), are free values: the statement holds for every one. -/
def Obligations.MessageSwitches : Prop :=
  ∀ (s : State) (pkt port : Nat) (data : List Byte),
    (∀ p m target, s.packet pkt = some p → p.payload = .am m target → 16 ≤ p.x → p.there = true → s.inTurn p = true →
      let k' := if (routerOf (target % 1024)).1 < 8 then 0 else 1
      let routes := tget [] (s.switch (p.x - 16)).routes (target / 1024)
      (target / 1024 = s.pkg % 1024 → (s.switch k').buffer.length < 256 →
          ∃ t q, exec (.msgSwitchArrival pkt) s = .next t ∧ (t.switch k').buffer = (s.switch k').buffer ++ [q]
            ∧ q.payload = p.payload ∧ q.dsts = [target % 1024] ∧ t.packet p.id = none)
        ∧ (target / 1024 ≠ s.pkg % 1024 → routes ≠ [] →
          ∃ t, exec (.msgSwitchArrival pkt) s = .next t
            ∧ t.fabric.sent = s.fabric.sent ++ [(fixedPort routes m.sender target, m.bytes target)] ∧ t.packet p.id = none)
        ∧ (target / 1024 ≠ s.pkg % 1024 → routes = [] →
          ∃ t, exec (.msgSwitchArrival pkt) s = .next t ∧ t.packet p.id = none
            ∧ (t.switch (p.x - 16)).discards = (s.switch (p.x - 16)).discards + 1))
      ∧ (port < 12 → data.length = 64 →
          let m := (messageOf data).1
          let target := (messageOf data).2
          let k := if (routerOf (target % 1024)).1 < 8 then 0 else 1
          let io := if port < 6 then 0 else 1
          (target / 1024 = s.pkg % 1024 → s.remoteAllowed (target % 1024) = true → (s.switch k).buffer.length < 256 →
            ∃ t q, exec (.ualinkMessageReceive port data) s = .next t ∧ (t.switch k).buffer = (s.switch k).buffer ++ [q]
              ∧ q.payload = .am m target ∧ q.dsts = [target % 1024])
          ∧ (¬(target / 1024 = s.pkg % 1024 ∧ s.remoteAllowed (target % 1024) = true) →
            ∃ t, exec (.ualinkMessageReceive port data) s = .next t ∧ (t.switch io).discards = (s.switch io).discards + 1))
      ∧ (port < 12 → ∃ t, exec (.ualinkRemoteRequest port) s = .next t ∧ t.fabric.ualinkErrors = s.fabric.ualinkErrors + 1)

/-! ### The memory model -/

/-- R303, R306, R311, R312, R316: what acquires, releases and the alias fence leave in the core's L1 and its cluster's cache; an acquire
at system scope waits until every host port's horizon has reached the stamps issued.  `rel` and `flush` are the states after the
registrations of REL and of FLUSHR, which complete once these have.  The dirty bytes of a word that nothing reserves are registered: at scope
.c in the cluster's cache, with the core as their owner there, otherwise at the home, with the core that wrote them as owner. -/
def Obligations.AcquireAndRelease : Prop :=
  ∀ (s : State) (scope : BitVec 2) (region : BitVec 12), s.cur.vq = [] → s.cur.wait = .none →
    let core := coreOfSid s.curSid
    let rgn := region.toNat
    let stamps := (List.range 4).map (fun p => (s.port p).stamp)
    let rel := s.release s.curCore scope.toNat rgn
    let flush := rel.flushCc s.curCore scope.toNat rgn
    let cl := clusterOfCore s.curCore
    let l1Dirty := (s.core s.curCore).l1.filter (fun e => e.2.dirty != 0 && inRegion rgn e.2.rid)
    let byteAt := fun (v : Word) (i : Nat) => BitVec.ofNat 8 (v.toNat / 2 ^ (8 * i))
    (scope.toNat ≠ 3 ∨ s.portsReached stamps = true → ∃ t, exec (.acq scope region) s = .next t ∧ Went s t
        ∧ (t.core core).rvq = []
        ∧ (∀ e, e ∈ (t.core core).l1 → inRegion rgn e.2.rid = true → e.2.valid = true → e.2.own = true ∨ e.2.dirty ≠ 0)
        ∧ (scope = 0 → (t.cluster cl).cc = (s.cluster cl).cc)
        ∧ (scope ≠ 0 →
            (∀ e, e ∈ (t.cluster cl).cc → inRegion rgn e.2.rid = true → e.2.dirty = 0 → e.2.valid = false)
              ∧ ∀ e, e ∈ (s.cluster cl).cc → e.2.dirty ≠ 0 → e ∈ (t.cluster cl).cc))
      ∧ (scope.toNat = 3 → s.portsReached stamps = false → ∃ t, exec (.acq scope region) s = .next t ∧ Waits s t (.acqs stamps rgn))
      ∧ (s.relReady rgn = true → rel.relDone scope.toNat = true →
          ∃ t, exec (.rel scope region) s = .next t ∧ Went s t
            ∧ (∀ k w, tfind (t.core s.curCore).l1 k = some w → inRegion rgn w.rid = true → w.dirty = 0)
            ∧ ∀ k e, l1Dirty = [(k, e)] → (s.cluster cl).cc.filter (fun w => w.2.dirty != 0) = [] → s.resvs = [] → s.pendRegs = []
                → isHostCell e.pa = false →
                tfind (t.core s.curCore).l1 k = some { e with dirty := 0, own := e.own || e.valid }
                  ∧ (scope ≠ 0 → tfind t.owners (e.pa / 8) = some s.curCore
                      ∧ ∀ i, i < 8 → e.dirty.getLsbD i = true → mget t.mem (e.pa + i) = byteAt e.data i)
                  ∧ (scope = 0 → ∃ w, tfind (t.cluster cl).cc (e.pa / 8) = some w ∧ w.writer = s.curCore ∧ w.cowner = some s.curCore
                      ∧ ∀ i, i < 8 → e.dirty.getLsbD i = true → w.dirty.getLsbD i = true ∧ byteAt w.data i = byteAt e.data i))
      ∧ (s.relReady rgn = true → flush.relDone scope.toNat = true →
          ∃ t, exec (.flushr scope region) s = .next t ∧ Went s t
            ∧ (scope ≠ 0 → ∀ k w, tfind (t.cluster (clusterOfCore s.curCore)).cc k = some w → inRegion rgn w.rid = true
                → w.dirty = 0)
            ∧ ∀ k w, scope ≠ 0 → l1Dirty = [] → (s.cluster cl).cc.filter (fun x => x.2.dirty != 0 && inRegion rgn x.2.rid) = [(k, w)]
                → s.resvs = [] → s.pendRegs = [] → isHostCell (k * 8) = false →
                tfind t.owners k = some w.writer
                  ∧ ∀ i, i < 8 → w.dirty.getLsbD i = true → mget t.mem (k * 8 + i) = byteAt w.data i)
      ∧ (∃ t, exec .fenceA s = .next t ∧ Went s t
          ∧ (∀ e, e ∈ (t.core s.curCore).l1 → e.2.dirty = 0)
          ∧ ∀ e f, e ∈ (t.core s.curCore).l1 → f ∈ (t.core s.curCore).l1 → e.2.pa / 64 = f.2.pa / 64 → e.1 / 8 = f.1 / 8)

/-- R313, R314: a sequentially consistent operation is announced and waits; its window's delivery performs it: a load or swap
reads the word, a store or swap writes it. -/
def Obligations.SequentiallyConsistent : Prop :=
  ∀ (s : State) (rd rs1 rs2 : BitVec 6),
    let ea := s.cur.rd rs1.toNat
    let announces := fun (i : Instr) (op d : Nat) (x : Word) (need : Need) =>
      ∀ s1 s2 e, ea.toNat % 8 = 0 → ea.toNat < padBase → checkRights (s.who s.curSid) ea.toNat need s = .ok () s1
        → translate (s1.who s1.curSid) ea.toNat (op != 0) .no s1 = .ok e s2 → performedAll s2 = true →
        ∃ t o, exec i s = .next t ∧ Waits s t (.sc o.id (op != 1)) ∧ o ∈ t.scOps ∧ o.op = op
          ∧ o.pa = e.paOf (s2.partitionOf (coreOfSid s.curSid)) ea.toNat ∧ o.rd = d ∧ o.data = x ∧ o.core * 8 + o.slot = s.curSid
    announces (.scld rd rs1) 0 rd.toNat 0 needSR
      ∧ announces (.scst rs1 rs2) 1 0 (s.cur.rd rs2.toNat) needSW
      ∧ announces (.scswp rd rs1 rs2) 2 rd.toNat (s.cur.rd rs2.toNat) needSRW
      ∧ (∀ o w, s.scOps = [o] → o.window = some w → 16 * (w + 1) + 48 ≤ s.netCycle → s.windowOps w = [o] → s.resvs = [] → o.slot < 8 →
          let sid := o.core * 8 + o.slot
          -- the operation is counted, then performed
          let s0 := { s with scOps := [] }.modCore o.core (fun c => c.setCtl 0x1C2 (c.ctl 0x1C2 + 1))
          (o.op = 1 → ∃ t, exec .scWindowDeliver s = .next t ∧ t.scOps = [] ∧ Finished s t sid 0 0 ∧ t.homeWord o.pa = o.data)
            ∧ (∀ bs s', homeRead o.pa 8 o.key s0 = .ok bs s' →
              (o.op = 0 → ∃ t, exec .scWindowDeliver s = .next t ∧ t.scOps = [] ∧ Finished s t sid o.rd (leWord bs)
                  ∧ t.mem = s'.mem)
                ∧ (o.op = 2 → ∃ t, exec .scWindowDeliver s = .next t ∧ t.scOps = [] ∧ Finished s t sid o.rd (leWord bs)
                  ∧ t.homeWord o.pa = o.data)))

/-! ### Synchronisation -/

/-- R271 to R276: a full/empty access of a word of the strand's own core whose condition holds completes; LDFE leaves the word
empty, STFE and STFF store it and leave it full.  Every other byte of memory stands.  One whose condition does not hold is parked.  `s1`
is the state once its timer has started (`s0`) and the rights of the access are known. -/
def Obligations.FullEmptyAccesses : Prop :=
  ∀ (s s1 : State) (rd rs1 rs2 : BitVec 6) (ga : Nat),
    let ea := s.cur.rd rs1.toNat
    let x := s.cur.rd rs2.toNat
    let core := coreOfSid s.curSid
    let word := leWord (mread s1.mem ga 8)
    let s0 := s.modCur Strand.startFe
    let ready := fun (need : Need) => ea.toNat % 8 = 0 ∧ s0.placeOf (s0.who s0.curSid) ea.toNat = some (.pad ga)
      ∧ checkRights (s0.who s0.curSid) ea.toNat need s0 = .ok () s1 ∧ mayEnter (s1.who s1.curSid) (.pad ga) s1 = .ok () s1
      ∧ ownerOf ga = .core core ∧ (s1.core core).parked = [] ∧ performedAll s1 = true
    let stored := fun (t : State) => ∀ a, mget t.mem a =
      if ga ≤ a ∧ a < ga + 8 then BitVec.ofNat 8 (x.toNat / 2 ^ (8 * (a - ga))) else mget s1.mem a
    (ready needSR → s1.isFull ga = true → s1.padFlawed ga 8 = false →
        (∃ t, exec (.ldfe rd rs1) s = .next t ∧ WentWith s t rd.toNat word ∧ t.isFull ga = false ∧ t.mem = s1.mem)
        ∧ (∃ t, exec (.ldff rd rs1) s = .next t ∧ WentWith s t rd.toNat word ∧ t.isFull ga = true ∧ t.mem = s1.mem))
      ∧ (ready needSW → s1.isFull ga = false →
          ∃ t, exec (.stfe rs1 rs2) s = .next t ∧ Went s t ∧ t.isFull ga = true ∧ stored t)
      ∧ (ready needSW → ∃ t, exec (.stff rs1 rs2) s = .next t ∧ Went s t ∧ t.isFull ga = true ∧ stored t)
      ∧ (ready needSR → s1.isFull ga = false →
          ∃ t r n, exec (.ldfe rd rs1) s = .next t ∧ Waits s t (.fe ea .ldfe rd.toNat 0 n false false)
            ∧ (t.core core).parked = [r] ∧ r.sid = s.curSid ∧ r.addr = ga ∧ r.acc = n)

/-- R276 to R278: a request that arrives at its owner and may proceed completes its strand; a refused access that has been timed
to its limit traps, a parked one sends its cancel, and the cancel at the owner removes it and traps. -/
def Obligations.FullEmptySteps : Prop :=
  ∀ (s : State) (pkt core slot : Nat), slot < 5 →
    let sid := core * 8 + slot
    (∀ p r ea k rd d len b c, s.packet pkt = some p → p.payload = .fe r → p.dsts = [core] → core < 1024 → p.there = true
        → s.inTurn p = true → s.localPasses p = true → s.arrival core r.tenant = .here → ownerOf r.addr = .core core
        → (s.core core).parked = [] → r.kind.holds (s.isFull r.addr) = true → (r.kind.loads = true → s.padFlawed r.addr 8 = false)
        → (s.st r.sid).wait = .fe ea k rd d len b c →
        ∃ t, exec (.feAccessArrive pkt) s = .next t ∧ t.packet pkt = none
          ∧ Finished s t r.sid (if r.kind.loads then rd else 0) (if r.kind.loads then leWord (mread s.mem r.addr 8) else 0)
          ∧ (r.kind.loads = false → leWord (mread t.mem r.addr 8) = r.data)
          ∧ (r.kind ≠ .ldff → t.isFull r.addr = !r.kind.loads))
      ∧ (∀ ea k rd d len c, (s.st sid).wait = .fe ea k rd d len true c → (s.st sid).st = .run → (s.st sid).feLimit ≠ 0
          → (s.st sid).feLimit ≤ (s.st sid).feTimer → (s.st sid).bpArmed = none →
          ∃ t, exec (.fetimeout core slot) s = .next t
            ∧ TrapRegs (s.st sid) (t.st sid) (causeWord false false false 0 13) ea (s.st sid).pc)
      ∧ (∀ ea k rd d len ga, (s.st sid).wait = .fe ea k rd d len false false → (s.st sid).st = .run → (s.st sid).feLimit ≠ 0
          → (s.st sid).feLimit ≤ (s.st sid).feTimer → s.placeOf (s.who sid) ea.toNat = some (.pad ga) → ownerOf ga ≠ .core core →
          ∃ t p, exec (.fetimeout core slot) s = .next t ∧ (t.st sid).wait = .fe ea k rd d len false true
            ∧ p ∈ t.fabric.packets ∧ p.payload = .feCancel sid ga len)
      ∧ (∀ p who ga ea k rd d len b c, s.packet pkt = some p → p.payload = .feCancel who ga len → p.dsts = [core] → p.there = true
          → s.inTurn p = true → s.localPasses p = true → (s.core core).fwd = [] → (s.st who).wait = .fe ea k rd d len b c
          → (s.st who).bpArmed = none
          → s.cores.find? (fun e => e.2.parked.any (fun r => r.sid = who && r.acc = len)) = some (core, s.core core) →
          ∃ t, exec (.feCancel pkt) s = .next t ∧ (t.core core).parked.any (fun r => r.sid = who && r.acc = len) = false
            ∧ TrapRegs (s.st who) (t.st who) (causeWord false false false 0 13) ea (s.st who).pc)

/-- R280 to R283: RSV sends its request; at a free word, whose home slice has table space and a slot for it, the request is granted, with
the value in rd and ctl.rsvhold; at a held word it is queued, and an atomic joins what waits there for the RLS; a word handed on is granted,
with the released value, when it arrives; RLS makes the held value the word's and passes the word on with it.  `rel` is the state after the
registrations of RLS.  That RSV first registers the core's own dirty bytes of the word is the model's choice (log 28). -/
def Obligations.Reservations : Prop :=
  ∀ (s : State) (rd rs1 rs2 : BitVec 6) (scope : BitVec 2) (core slot : Nat), slot < 5 →
    let ea := s.cur.rd rs1.toNat
    let rgn := (s.cur.rd rs2.toNat).toNat
    let sid := core * 8 + slot
    let held := fun (t : State) (pa : Nat) (a : Word) (d sc : Nat) (v : Word) (q : List Nat) =>
      (∀ n, (t.st sid).rd n = if n = d ∧ n ≠ 0 then v else (s.st sid).rd n) ∧ (t.st sid).pc = (s.st sid).pc + 4
        ∧ (t.st sid).wait = .none ∧ (t.st sid).ctl cRsvhold = BitVec.ofNat 64 (bits a 55 3 * 8 + 2 * sc + 1)
        ∧ tfind t.resvs (pa / 8) = some { holder := core, sid := sid, value := v, queue := q, grantTo := none }
    (∀ s1 s2 e, ea.toNat % 8 = 0 → ea.toNat < padBase → rgn ≤ 4095 → bit (s.cur.ctl cRsvhold) 0 = false → s.cur.vq = []
        → checkRights (s.who s.curSid) ea.toNat needSRW s = .ok () s1
        → translate (s1.who s1.curSid) ea.toNat true .no s1 = .ok e s2 →
        ∃ t, exec (.rsv rd rs1 rs2 scope) s = .next t
          ∧ Waits s t (.rsv (e.paOf (s2.partitionOf (coreOfSid s.curSid)) ea.toNat) e.key ea false (.hold rd.toNat scope.toNat rgn)))
      ∧ (∀ pa key a d sc rg bs s', (s.st sid).wait = .rsv pa key a false (.hold d sc rg) → (s.st sid).st = .run → sc ≠ 3
          → s.rsvFree sid pa = true → homeRead pa 8 key s = .ok bs s' →
          ∃ t, exec (.rsvRequest core slot) s = .next t ∧ held t pa a d sc (leWord bs) [])
      ∧ (∀ pa key a d sc rg r, (s.st sid).wait = .rsv pa key a false (.hold d sc rg) → (s.st sid).st = .run
          → tfind s.resvs (pa / 8) = some r → s.rsvQueued pa < 256 →
          ∃ t, exec (.rsvRequest core slot) s = .next t ∧ (t.st sid).wait = .rsv pa key a true (.hold d sc rg)
            ∧ tfind t.resvs (pa / 8) = some { r with queue := r.queue ++ [sid] })
      ∧ (∀ pa key a d op wide b c r, (s.st sid).wait = .rsv pa key a false (.atomic d op wide b c) → (s.st sid).st = .run
          → s.reserved pa = some r → r.holder ≠ core → s.rsvQueued pa < 256 →
          ∃ t, exec (.rsvRequest core slot) s = .next t ∧ (t.st sid).wait = .rsv pa key a true (.atomic d op wide b c)
            ∧ t.resvs = s.resvs
            ∧ t.pendRegs = s.pendRegs ++ [{ pa := pa, mask := 0, data := 0, owner := none, key := key, tenant := (s.st sid).tenant,
                                            act := .atomic sid }])
      ∧ (∀ pa key a k d sc rg r, (s.st sid).wait = .rsv pa key a k (.hold d sc rg) → sc ≠ 3
          → tfind s.resvs (pa / 8) = some r → r.grantTo = some sid
          → (∀ p, p ∈ s.pendRegs → p.pa / 8 = pa / 8 → p.ofCore core = false) →
          ∃ t, exec (.rsvGrant core slot) s = .next t ∧ held t pa a d sc r.value r.queue)
      ∧ (let rel := s.release s.curCore scope.toNat rgn
        ∀ pa r, bit (s.cur.ctl cRsvhold) 0 = true → ea.toNat = bits (s.cur.ctl cRsvhold) 55 3 * 8 → rgn ≤ 4095
          → s.cur.wait = .none → performedAll s = true → s.relReady rgn = true → rel.relDone scope.toNat = true → rel.pendRegs = []
          → rel.heldWord s.curSid = some (pa, r) → tfind rel.resvs (pa / 8) = some r →
          ∃ t, exec (.rls rs1 rs2 scope) s = .next t ∧ Moved s t ∧ SameUnits s.cur t.cur ∧ bit (t.cur.ctl cRsvhold) 0 = false ∧ t.homeWord pa = r.value
            ∧ (r.queue = [] → tfind t.resvs (pa / 8) = none)
            ∧ ∀ n q, r.queue = n :: q → ∃ r', tfind t.resvs (pa / 8) = some r' ∧ r'.grantTo = some n ∧ r'.queue = q
                ∧ r'.value = r.value)

/-- R285, R286: an atomic gives the old value and writes f of it; with `wide` the word has 8 bytes, otherwise 4; ACAS compares with rd's
old value.  In a scratchpad it is performed at once (`s1` is the state once its rights are known), and every other byte of memory stands.  In
translated memory its word `pa` is that of the entry `e` (`s3` is the state once the data breakpoints have seen it): where the core holds the
word, the held copy takes the new value; otherwise the core's own dirty bytes are registered (`u`), the access goes to the home slice, and
where the word is free there and read without an error it is performed at once and registered; where not it waits, to be performed when its
request comes to a word that is free. -/
def Obligations.Atomics : Prop :=
  ∀ (s s1 : State) (rd rs1 rs2 : BitVec 6) (wide : BitVec 1) (scope : BitVec 2) (ga : Nat),
    let ea := s.cur.rd rs1.toNat
    let n := if wide = 1 then 8 else 4
    let x := s.cur.rd rs2.toNat
    let y := s.cur.rd rd.toNat
    let b := x.toNat % 2 ^ (8 * n)
    let c := y.toNat % 2 ^ (8 * n)
    let num := fun (x : Nat) => if x < 2 ^ (8 * n - 1) then (x : Int) else x - 2 ^ (8 * n)
    let field := fun (v off : Nat) => v / 2 ^ (8 * off) % 2 ^ (8 * n)
    let byteOf := fun (v off new : Nat) (j : Nat) => if off ≤ j ∧ j < off + n then new / 2 ^ (8 * (j - off)) % 256 else v / 2 ^ (8 * j) % 256
    let does := fun (i : Instr) (op : Nat) (res : Nat → Int) (g : Nat → Nat → Nat → Nat) =>
      let f := g b c
      (let old := leNat (mread s1.mem ga n);
        checkAccess (s.who s.curSid) ea n needSRW s = .ok (.pad ga) s1 → performedAll s1 = true → s1.padFlawed ga n = false →
        ∃ t, exec i s = .next t ∧ RegResult s1 (ButMem s1 t) rd.toNat (BitVec.ofInt 64 (res old)) 4
          ∧ ∀ a, mget t.mem a = if ga ≤ a ∧ a < ga + n then BitVec.ofNat 8 (f old / 2 ^ (8 * (a - ga))) else mget s1.mem a)
      ∧ (∀ s2 e, checkAccess (s.who s.curSid) ea n needSRW s = .ok .translated s1
          → translate (s1.who s1.curSid) ea.toNat true .no s1 = .ok e s2 → performedAll s2 = true →
          let pa := e.paOf (s2.partitionOf (coreOfSid s1.curSid)) ea.toNat / 8 * 8
          let off := ea.toNat % 8
          let s3 := (s2.dataHit s2.curSid ea.toNat n false).dataHit s2.curSid ea.toNat n true
          let w := Wait.rsv pa e.key ea false (.atomic rd.toNat op (wide = 1) x y)
          let u := (s3.registerWord s3.curCore pa).modCur (fun t => { t with wait := w })
          (∀ r, s3.heldBy s3.curCore pa = some r →
            ∃ t r', exec i s = .next t ∧ WentWith s3 t rd.toNat (BitVec.ofInt 64 (res (field r.value.toNat off))) ∧ t.mem = s3.mem
              ∧ tfind t.resvs (pa / 8) = some r'
              ∧ ∀ j, j < 8 → r'.value.toNat / 2 ^ (8 * j) % 256 = byteOf r.value.toNat off (f (field r.value.toNat off)) j)
          ∧ (s3.heldBy s3.curCore pa = none → u.rsvFree u.curSid pa = false → ∃ t, exec i s = .next t ∧ Waits s3 t w)
          ∧ (∀ bs u', s3.heldBy s3.curCore pa = none → u.rsvFree u.curSid pa = true → homeRead pa 8 e.key u = .ok bs u' →
            ∃ t, exec i s = .next t ∧ Finished u t u.curSid rd.toNat (BitVec.ofInt 64 (res (field (leNat bs) off)))
              ∧ (isHostCell pa = false →
                  ∀ j, j < 8 → (mget t.mem (pa + j)).toNat = byteOf (leNat bs) off (f (field (leNat bs) off)) j)))
      ∧ (∀ core slot pa key a d x y bs u', slot < 5 → (s.st (core * 8 + slot)).wait = .rsv pa key a false (.atomic d op (wide = 1) x y)
          → (s.st (core * 8 + slot)).st = .run → s.reserved pa = none → s.rsvFree (core * 8 + slot) pa = true → pa % 8 = 0
          → homeRead pa 8 key s = .ok bs u' →
          let off := a.toNat % 8
          let f := g (x.toNat % 2 ^ (8 * n)) (y.toNat % 2 ^ (8 * n))
          off % n = 0 →
          ∃ t, exec (.rsvRequest core slot) s = .next t
            ∧ Finished s t (core * 8 + slot) d (BitVec.ofInt 64 (res (field (leNat bs) off)))
            ∧ (isHostCell pa = false → ∀ j, j < 8 → (mget t.mem (pa + j)).toNat = byteOf (leNat bs) off (f (field (leNat bs) off)) j))
    does (.aadd rd rs1 rs2 wide scope) 0 num (fun b _ o => o + b)
      ∧ does (.aswp rd rs1 rs2 wide scope) 1 num (fun b _ _ => b)
      ∧ does (.acas rd rs1 rs2 wide scope) 2 num (fun b c o => if o = c then b else o)
      ∧ does (.aminSigned rd rs1 rs2 wide scope) 3 num (fun b _ o => if num o ≤ num b then o else b)
      ∧ does (.amaxSigned rd rs1 rs2 wide scope) 4 num (fun b _ o => if num o ≤ num b then b else o)
      ∧ does (.aminUnsigned rd rs1 rs2 wide scope) 5 (fun o => o) (fun b _ o => min o b)
      ∧ does (.amaxUnsigned rd rs1 rs2 wide scope) 6 (fun o => o) (fun b _ o => max o b)

/-- R287 to R291: the barrier instructions.  The strands that wait complete with 1 when a barrier is set or freed and with 0 when
its phase ends. -/
def Obligations.Barriers : Prop :=
  ∀ (s : State) (c b a : BitVec 5), s.cur.wait = .none →
    let r := s.curBar c.toNat
    let x := s.cur.rd a.toNat
    let ends := fun (t : State) (status : Word) =>
      ∀ sid k rd, sid ∈ r.waiters → (s.st sid).wait = .bwait k rd → Finished s t sid rd status
    (x ≠ 0 → x.toNat ≤ 65535 → ∃ t, exec (.binit c a) s = .next t ∧ Passes s t ∧ ends t 1
        ∧ t.curBar c.toNat = { r with valid := true, expected := BitVec.ofNat 16 x.toNat, arrived := 0, waiters := [] })
      ∧ (∃ t, exec (.bfree c) s = .next t ∧ Passes s t ∧ ends t 1 ∧ (t.curBar c.toNat).valid = false)
      ∧ (performedAll s = true →
          (r.valid = false → Gives s (.barv c a) a.toNat (BitVec.allOnes 64) 4)
          ∧ (r.valid = true → r.arrived + 1 = r.expected → ∃ t, exec (.barv c a) s = .next t
              ∧ PassesWith s t a.toNat (BitVec.ofNat 64 r.gen.toNat) ∧ ends t 0
              ∧ t.curBar c.toNat = { r with arrived := 0, gen := r.gen + 1, waiters := [] })
          ∧ (r.valid = true → r.arrived + 1 ≠ r.expected → ∃ t, exec (.barv c a) s = .next t
              ∧ PassesWith s t a.toNat (BitVec.ofNat 64 r.gen.toNat) ∧ t.curBar c.toNat = { r with arrived := r.arrived + 1 }))
      ∧ (r.valid = false → Gives s (.bwait c b a) a.toNat 2 4)
      ∧ (r.valid = true → r.gen.toNat ≠ bits (s.cur.rd b.toNat) 15 0 → Gives s (.bwait c b a) a.toNat 0 4)
      ∧ (r.valid = true → r.gen.toNat = bits (s.cur.rd b.toNat) 15 0 → ∃ t, exec (.bwait c b a) s = .next t
          ∧ Waits s t (.bwait c.toNat a.toNat) ∧ (t.curBar c.toNat).waiters = r.waiters ++ [s.curSid])

/-- R293 to R296: MBSEND launches its 64 bytes and waits for acceptance; a message that arrives enters its mailbox and completes its
sender; MBRECV takes the oldest message and reports its sender, or waits; MBPEEK reports occupancy and the oldest sender. -/
def Obligations.Mailboxes : Prop :=
  ∀ (s : State) (c b a : BitVec 5) (pkt core : Nat),
    let t0 := s.cur.rd b.toNat
    let ea := s.cur.rd a.toNat
    let mine := s.core s.curCore
    let q := mine.mbChoice c.toNat
    (∀ bs s', bits t0 63 20 = 0 → bits t0 3 0 < 10 → bits t0 19 10 = s.pkg % 1024
        → s.coreInTenant (bits t0 9 0) s.cur.tenant = true → readMem (s.who s.curSid) ea 64 .no s = .ok bs s' →
        ∃ t p, exec (.mbsend c b a) s = .next t ∧ Waits s' t (.send p.id) ∧ p ∈ t.fabric.packets ∧ p.dsts = [bits t0 9 0]
          ∧ p.payload = .mb c.toNat { sender := (s'.strandId s'.curSid).toNat, data := bs })
      ∧ (∀ p k m, s.packet pkt = some p → p.payload = .mb k m → p.dsts = [core] → p.there = true → s.inTurn p = true
          → s.localPasses p = true → s.arrival core p.tenant = .here → ((s.core core).mbox k).length < 16 → (s.core core).mbWait = [] →
          ∃ t, exec (.mailboxArrival pkt) s = .next t ∧ (t.core core).mbox k = (s.core core).mbox k ++ [m] ∧ t.packet pkt = none
            ∧ ∀ sid, p.waiter = some sid → Finished s t sid 0 0)
      ∧ (∀ m rest s1 s2, mine.mbox q = m :: rest → probeStore (s.who s.curSid) ea 64 s = .ok () s1
          → writeMem (s1.who s1.curSid) ea m.data .no s1 = .ok () s2 → coreOfSid s.curSid = s.curCore →
          ∃ t, exec (.mbrecv c b a) s = .next t ∧ PassesWith s2 t b.toNat (BitVec.ofNat 64 (q * 2 ^ 32 + m.sender % 2 ^ 23))
            ∧ (t.core s.curCore).mbox q = rest)
      ∧ (∀ s1, mine.mbox q = [] → probeStore (s.who s.curSid) ea 64 s = .ok () s1 →
          ∃ t, exec (.mbrecv c b a) s = .next t ∧ Waits s t (.mbrecv c.toNat ea b.toNat)
            ∧ (t.core s.curCore).mbWait = mine.mbWait ++ [s.curSlot])
      ∧ Gives s (.mbpeek c b) b.toNat
          (BitVec.ofNat 64 ((if c = 2 then mine.mbHi.length + mine.mbLo.length else (mine.mbox c.toNat).length) % 32
            + 256 * (match mine.mbox q with | m :: _ => m.sender % 2 ^ 23 | [] => 0))) 4

/-! ### The matrix unit -/

/-- R209, R212, R213, R217: a matrix command that its checks accept takes a queue entry, changes the accumulator's header and sets
its lock, and its instruction completes. -/
def Obligations.MatrixIssue : Prop :=
  ∀ (s : State) (c b a : BitVec 5) (oxb : BitVec 3) (sat : BitVec 1), s.curSlot < 5 → isStreamCore s.curCore = false →
    let core := s.core s.curCore
    let free := fun (acc : BitVec 5) => acc.toNat < 4 ∧ core.mqRoom = true ∧ s.followHolds acc.toNat = false
    let queues := fun (s' : State) (i : Instr) (acc : BitVec 5) (k : MKind) =>
      ∃ t m, exec i s = .next t ∧ Passes s' t ∧ (t.core s.curCore).mq = core.mq ++ [m] ∧ m.kind = k ∧ m.acc = acc.toNat
        ∧ m.slot = s.curSlot ∧ m.phase = .queued
        ∧ (t.core s.curCore).accHeader acc.toNat = { k.accept (core.accHeader acc.toNat) with lock := true }
    let x := s.cur.rd a.toNat
    let h := s.cur.vhr c.toNat
    let outer := fun (fn : Nat) => MKind.mop fn (sat = 1) s.cur.mvl (s.cur.vr a.toNat) (s.cur.vr b.toNat) (s.cur.vhr a.toNat)
      (s.cur.vhr b.toNat) (s.cur.kr a.toNat)
    (free c → queues s (.mzero c) c .mzero)
      ∧ (∀ bs s' img, free c → readMem (s.who s.curSid) x 32 .no s = .ok bs s' → imageOf bs = some img →
          queues s' (.mhdr c a) c (.mhdr img))
      ∧ (free c → s.cur.vq = [] → mopCause s 0 c.toNat a.toNat b.toNat (sat = 1) = none → queues s (.mop c b a sat) c (outer 0))
      ∧ (free c → s.cur.vq = [] → mopCause s 1 c.toNat a.toNat b.toNat (sat = 1) = none → queues s (.mopd c b a sat) c (outer 1))
      ∧ (free c → s.cur.vq = [] → mopCause s 2 c.toNat a.toNat b.toNat (sat = 1) = none → queues s (.mops c b a sat) c (outer 2))
      ∧ (∀ k s', free c → mmasPlan (s.who s.curSid) c.toNat x (s.cur.rd b.toNat) (s.xo oxb 0) (s.xo oxb 1) (sat = 1) s = .ok k s' →
          queues s' (.mmas c b a oxb sat) c k)
      ∧ (∀ k s', free c → mldPlan (s.who s.curSid) x (s.xo oxb 0) (s.xo oxb 1) s = .ok k s' → queues s' (.mld c a oxb) c k)
      ∧ (free b → s.cur.vq = [] → x.toNat ≤ 63 → h.efmt = 3 ∨ h.efmt = 6 →
          (core.accHeader b.toNat).efmt = 0 ∨ (core.accHeader b.toNat).efmt = h.efmt →
          queues s (.mwr c b a) b (.mwr x.toNat (s.cur.vr c.toNat) h.efmt))

/-- R234: MPRG gives a snapshot of an accumulator: its progress, its count of consumed steps, its lock, whether an MMAS or MLD on
it is being performed or is paused, and whether it is paused; the other bits are 0. -/
def Obligations.MatrixProgress : Prop :=
  ∀ (s : State) (c d : BitVec 5), isStreamCore s.curCore = false → c.toNat < 4 →
    let core := s.core s.curCore
    let h := core.accHeader c.toNat
    let streams := fun (k : MKind) =>
      match k with | .mmas _ _ _ _ _ _ _ _ _ => true | .mld _ _ _ _ _ => true | _ => false
    let on := core.mq.any (fun m => m.acc = c.toNat && streams m.kind && (m.phase = .performing || m.phase = .paused))
    let stop := core.mq.any (fun m => m.acc = c.toNat && streams m.kind && m.phase = .paused)
    ∃ x, Gives s (.mprg c d) d.toNat x 4
      ∧ bits x 15 0 = h.progress.toNat ∧ bits x 31 16 = h.consumed.toNat
      ∧ bit x 32 = h.lock ∧ bit x 33 = on ∧ bit x 34 = stop ∧ bits x 63 35 = 0

/-- R211, R227, R230, R233: MWAIT, MRD and MST of an unlocked accumulator without a pending pair; MST's header and one
element in a scratchpad, and no other byte. -/
def Obligations.MatrixResults : Prop :=
  ∀ (s : State) (c b a : BitVec 5) (oxb : BitVec 3), s.curSlot < 5 → isStreamCore s.curCore = false →
    let core := s.core s.curCore
    let x := s.cur.rd a.toNat
    let w := s.who s.curSid
    let busy := fun (acc : Nat) => core.mq.any (fun m => m.acc = acc)
      || core.copies.any (fun e => match e.2.follow with | some f => f.acc = acc | none => false)
    (c.toNat < 4 → busy c.toNat = false → Gives s (.mwait c) 0 0 4)
      ∧ (c.toNat < 4 → busy c.toNat = true → ∃ t cmds copies, exec (.mwait c) s = .next t ∧ Waits s t (.mwait cmds copies)
          ∧ ∀ m, m ∈ core.mq → m.acc = c.toNat → m.id ∈ cmds)
      ∧ (b.toNat < 4 → s.cur.vq = [] → x.toNat ≤ 63 →
          let h := core.accHeader b.toNat
          h.lock = false → h.rslay = 0 → h.cslay = 0 →
          ∃ t, exec (.mrd c b a) s = .next t ∧ Moved s t ∧ SameUnits { s.cur with v := t.cur.v, vh := t.cur.vh } t.cur ∧ t.cur.vr c.toNat = core.accRow b.toNat x.toNat
            ∧ t.cur.vhr c.toNat = { efmt := h.efmt, rawsz := if h.efmt = 0 then 2 else 0, count := 64 }
            ∧ (∀ n, n ≠ c.toNat → t.cur.vr n = s.cur.vr n) ∧ t.mem = s.mem ∧ (t.core s.curCore).acc = core.acc)
      ∧ (∀ p, c.toNat < 4 →
          let h := core.accHeader c.toNat
          let y := s.cur.rd b.toNat
          let x2 := s.xo oxb 2
          let rm := bits x2 7 6
          let e := s.mstTarget (bits x2 5 0) x
          let sz := esizeOf e
          let v := cellVal h.efmt (elemAt (core.accRow c.toNat 0) 32 0)
          h.lock = false → h.rslay = 0 → h.cslay = 0 → rm ≠ 3 → s.xo oxb 0 = 0 → s.xo oxb 1 = 0x101
            → mstCause s c.toNat x y (s.xo oxb 0) (s.xo oxb 1) x2 = none
            → (∀ k, k < 32 + sz → s.placeOf w (x.toNat + k) = some (.pad (p + k)) ∧ mayEnter w (.pad (p + k)) s = .ok () s
                ∧ ∃ d g, (s.core w.core).plb.find? (fun q => q.pd = w.pd) = some d
                    ∧ d.segs.find? (·.covers (x.toNat + k)) = some g ∧ g.w = true) →
          ∃ t, exec (.mst c b a oxb) s = .next t ∧ RegResult s (ButMem s t) 0 0 4
            ∧ mread t.mem p 32 = (mstHdr x e (bits y 15 0) (bits y 31 16) (bits y 59 48)).bytes
            ∧ mread t.mem (p + 32) sz = leBytes sz (cvtTo e (nmodeOf rm) v).1
            ∧ ∀ k, k < p ∨ p + 32 + sz ≤ k → mget t.mem k = mget s.mem k)

/-- R209, R214, R215, R219, R222, R229, R232: the unit performs its oldest command: MZERO clears the accumulator, MWR writes a row,
an outer product adds one increment to each cell, MLD loads row by row and MMAS applies step by step; a performed command leaves
the queue, and the lock follows. -/
def Obligations.MatrixSteps : Prop :=
  ∀ (s : State) (core : Nat) (m : MCmd) (r : List MCmd), (s.core core).mq = m :: r →
    let c := s.core core
    let h := c.accHeader m.acc
    let w := s.engineWho core m.slot m.pd
    let k := h.progress.toNat
    let performs := fun (t : State) (p : MPhase) =>
      exec (.matrixCmdPerform core) s = .next t ∧ (t.core core).mq.head?.map (·.phase) = some p
    (m.phase = .queued →
        (m.kind = .mzero → ∃ t, performs t .done ∧ ∀ i, i < 64 → (t.core core).accRow m.acc i = 0)
        ∧ (∀ img, m.kind = .mhdr img → ∃ t, performs t .done ∧ (t.core core).acc = c.acc)
        ∧ (∀ row v e, m.kind = .mwr row v e → ∃ t, performs t .done ∧ (t.core core).accRow m.acc row = v
            ∧ ∀ n, n ≠ m.acc * 64 + row → tget 0 (t.core core).acc n = tget 0 c.acc n)
        ∧ (∀ fn sat n va vb ha hb kx, m.kind = .mop fn sat n va vb ha hb kx → n ≤ 64 → ∃ t, performs t .done
            ∧ (∀ i j, i < n → j < n → elemAt ((t.core core).accRow m.acc i) 32 j =
                (mopSum fn va vb ha hb kx i j).foldl (cellStep (ha.efmt = 1) sat) (elemAt (c.accRow m.acc i) 32 j) % 2 ^ 32)
            ∧ (∀ i j, i < 64 → j < 64 → n ≤ i ∨ n ≤ j →
                elemAt ((t.core core).accRow m.acc i) 32 j = elemAt (c.accRow m.acc i) 32 j)
            ∧ (t.core core).ctl 0x302 = c.ctl 0x302 + BitVec.ofNat 64 (2 ^ fn))
        ∧ (∀ sat ha hb x y kb kn rows cols, m.kind = .mmas sat ha hb x y kb kn rows cols →
            ∃ t, performs t .performing ∧ ((t.core core).accHeader m.acc).progress = 0)
        ∧ (∀ ht x y rows cols, m.kind = .mld ht x y rows cols →
            ∃ t, performs t .performing ∧ ((t.core core).accHeader m.acc).progress = 0))
      ∧ (m.phase = .performing →
        (∀ ht x y rows cols xs s', m.kind = .mld ht x y rows cols → cols ≤ 64 → mldRow w ht (x + k) y cols s = .ok xs s' →
            ∃ t, exec (.mmasKrowApply core) s = .next t
              ∧ (∀ j, j < cols → elemAt ((t.core core).accRow m.acc k) 32 j = lget 0 xs j % 2 ^ 32)
              ∧ (∀ n, n ≠ m.acc * 64 + k → tget 0 (t.core core).acc n = tget 0 c.acc n)
              ∧ ((t.core core).accHeader m.acc).progress = BitVec.ofNat 16 (k + 1)
              ∧ (t.core core).mq.head?.map (·.phase) = some (if rows ≤ k + 1 then .done else .performing))
        ∧ (∀ sat ha hb x y kb kn rows cols n sums s', m.kind = .mmas sat ha hb x y kb kn rows cols → rows ≤ 64 → cols ≤ 64
            → mmasStep w ha hb x y kb k rows cols s = .ok (n, sums) s' →
            ∃ t, exec (.mmasKrowApply core) s = .next t
              ∧ (∀ i j, i < rows → j < cols → elemAt ((t.core core).accRow m.acc i) 32 j =
                  (lget [] (lget [] sums i) j).foldl (cellStep (ha.efmt = 1) sat) (elemAt (c.accRow m.acc i) 32 j) % 2 ^ 32)
              ∧ ((t.core core).accHeader m.acc).progress = BitVec.ofNat 16 (k + n)
              ∧ (t.core core).mq.head?.map (·.phase) = some (if kn ≤ k + n then .done else .performing)))
      ∧ (m.phase = .done → m.acc < 4 → ∃ t, exec (.matrixCmdFinish core) s = .next t ∧ (t.core core).mq = r
          ∧ ((t.core core).accHeader m.acc).lock = { c with mq := r }.accBusy m.acc)
      ∧ (∀ slot acc, slot < 5 → isStreamCore core = false → s.heldCommand (core * 8 + slot) = some (.mzero acc) → acc.toNat < 4
          → c.mqRoom = true → c.copies = [] →
          ∃ t x, exec (.matrixCmdAccept core slot) s = .next t ∧ (t.core core).mq = m :: r ++ [x] ∧ x.kind = .mzero
            ∧ (t.st (core * 8 + slot)).pc = (s.st (core * 8 + slot)).pc + 4 ∧ (t.st (core * 8 + slot)).wait = .none)

/-! ### The copy engine -/

/-- R238, R239, R245, R249, R251, R261: CPY, CPYF, CPYM and CPYS, raw or of a tile, with or without a conversion, to an address or into a
circular buffer, are accepted into the lowest free entry; a command that waited is offered again.  Which bank's landing format counts where a
circular buffer is the destination is the model's choice (log 94). -/
def Obligations.CopyIssue : Prop :=
  ∀ (s s2 : State) (c b a : BitVec 5) (oxb : BitVec 3) (follow : Option FollowOn) (hdr : Option TileHdr) (conv : Option (Nat × Nat × Nat))
    (core slot : Nat),
    let at_ := { s with curCore := core, curSlot := slot }
    let accepts := fun (kind : Nat) (i : Instr) => s.curSlot < 5 → s.cur.wait = .none → CopyReady s kind c b a oxb follow hdr conv s2 →
      ∃ t, exec i s = .next t ∧ Moved s2 t ∧ SameUnits { s2.cur with k := t.cur.k } t.cur ∧ (∀ n, n ≠ c.toNat → t.cur.kr n = s2.cur.kr n)
        ∧ CopyTaken s t kind c b a oxb follow hdr conv
    accepts 0 (.cpy c b a oxb) ∧ accepts 1 (.cpyf c b a oxb) ∧ accepts 2 (.cpym c b a oxb) ∧ accepts 3 (.cpys c b a oxb)
      ∧ (slot < 5 → s.heldCommand (core * 8 + slot) = some (.cpy c b a oxb) → CopyReady at_ 0 c b a oxb follow hdr conv s2 →
          ∃ t, exec (.copyCmdAccept core slot) s = .next t ∧ CopyTaken at_ t 0 c b a oxb follow hdr conv
            ∧ (t.st (core * 8 + slot)).pc = (s.st (core * 8 + slot)).pc + 4)

/-- R250, R258, R260 to R264: the other instructions of the engine: row streams, waits and queries, circular buffers and landing
formats. -/
def Obligations.CopyInstructions : Prop :=
  ∀ (s : State) (c b a d role : BitVec 5), s.curSlot < 5 → s.cur.wait = .none →
    let core := s.core s.curCore
    let desc := core.cb c.toNat
    let x := s.cur.rd b.toNat
    let base := s.cur.rd a.toNat
    (c.toNat < 4 → core.copies = [] → ∃ t, exec (.rowcls c) s = .next t ∧ Passes s t ∧ tfind (t.core s.curCore).rows c.toNat = none)
      ∧ (s.myCopies c.toNat = [] → s.cur.async = [] → Gives s (.cpwait c) 0 0 4)
      ∧ (∀ k, s.myCopies c.toNat = [k] → Gives s (.cpqry c d) d.toNat
          (BitVec.ofNat 64 (1 + 32 * b2n (k.state = .paused) + 64 * b2n (k.cbv && k.state = .waiting)
            + 128 * b2n (bit (s.cur.ctl 0x140) 2) + 256 * k.done)) 4)
      ∧ (∀ s', c.toNat < 8 → core.copies = [] → x ≠ 0 → geometryOk x = true → base.toNat % 64 = 0
          → rangeFault (s.who s.curSid) base.toNat (64 * bits x 10 0 * bits x 22 16) needRW s = .ok none s' →
          ∃ t, exec (.cbinit c b a) s = .next t ∧ Passes s' t
            ∧ (t.core s.curCore).cb c.toNat = { valid := true, base := base, ssize := bits x 10 0, nslots := bits x 22 16,
                                                scope := bits x 25 24, free := bits x 22 16 })
      ∧ (c.toNat < 8 → desc.valid = true → role = 1 → 0 < desc.free → desc.pwait = [] →
          ∃ t, exec (.cbacq c role d) s = .next t ∧ PassesWith s t d.toNat (desc.slotAddr desc.phead)
            ∧ ((t.core s.curCore).cb c.toNat).free = desc.free - 1
            ∧ ((t.core s.curCore).cb c.toNat).pheld = desc.pheld ++ [(desc.phead, s.curSlot, false)])
      ∧ (c.toNat < 8 → desc.valid = true → role = 0 → 0 < desc.filled → desc.cwait = [] →
          ∃ t, exec (.cbacq c role d) s = .next t ∧ PassesWith s t d.toNat (desc.slotAddr desc.chead)
            ∧ ((t.core s.curCore).cb c.toNat).filled = desc.filled - 1)
      ∧ (c.toNat < 8 → desc.valid = true → role = 1 → desc.free = 0 →
          ∃ t, exec (.cbacq c role d) s = .next t ∧ Waits s t (.cbacq c.toNat true d.toNat))
      ∧ (∀ n, c.toNat < 8 → role = 0 → performedAll s = true → desc.cheld = [(n, s.curSlot, false)] → desc.pheld = []
          → desc.pwait = [] → desc.cwait = [] →
          ∃ t, exec (.cbrel c role) s = .next t ∧ Passes s t ∧ ((t.core s.curCore).cb c.toNat).free = desc.free + 1
            ∧ ((t.core s.curCore).cb c.toNat).cheld = [])
      ∧ (c.toNat < 16 → landingOk base = true → core.copies = [] →
          ∃ t, exec (.lfmt c d a) s = .next t ∧ PassesWith s t d.toNat (core.landing c.toNat)
            ∧ (t.core s.curCore).landing c.toNat = if bit base 11 then core.landing c.toNat else base)

/-- R248, R249, R254, R256, R262: the steps of a command: a chunk registered, a slot taken, a follow-on issued under the copy's
identity; CPYM's reads join a merge entry, and the entry's close sends its line to every core that joined. -/
def Obligations.CopySteps : Prop :=
  ∀ (s : State) (core ent : Nat) (k : CopyCmd), tfind (s.core core).copies ent = some k →
    let c := s.core core
    let w := s.copyWho core k
    (∀ ts bs ps carry s' s'', k.state = .moving → c.copyTurn k = true → k.slot < 5 → k.kind ≠ 3 → k.conv = none → k.cbv = false → k.late = []
        → chunkWork w k 0 s = .ok (ts, bs, ps, carry) s' → s'.targetsHeld k.scope ts = []
        → copyStore w k.id k.scope ts bs s' = .ok () s'' →
        ∃ t, exec (.copyChunkRegister core ent) s = .next t ∧ t.mem = s''.mem
          ∧ (k.kc ≠ 0 → k.done < 256 → ((t.st (core * 8 + k.slot)).kr k.kc).getLsbD k.done = true)
          ∧ (1024 * (k.done + 1) < k.extent → ∃ k', tfind (t.core core).copies ent = some k' ∧ k'.done = k.done + 1
            ∧ k'.lines = [] ∧ { k' with done := k.done, lines := k.lines, held := k.held } = k)
          ∧ (k.extent ≤ 1024 * (k.done + 1) → k.follow = none → tfind (t.core core).copies ent = none))
      ∧ (k.cbv = true → k.state = .waiting → (c.cb k.cb).pwait = [16 + ent] → (c.cb k.cb).cwait = [] → 0 < (c.cb k.cb).free →
          ∃ t, exec (.copySlotTake core ent) s = .next t ∧ ((t.core core).cb k.cb).free = (c.cb k.cb).free - 1
            ∧ tfind (t.core core).copies ent = some { k with dst := (c.cb k.cb).slotAddr (c.cb k.cb).phead, state := .moving })
      ∧ (∀ f m s', k.follow = some f → k.state = .followOn → c.mqRoom = true → s.coreHalted core = false → k.slot < 5
          → (if f.kind = 1 then atAddr k.dst (mldPlan w k.dst f.w0 f.w1)
              else if f.role = 0 then mmasPlan w f.acc k.dst f.other f.w0 f.w1 f.sat
              else mmasPlan w f.acc f.other k.dst f.w0 f.w1 f.sat) s = .ok m s' →
          ∃ t x, exec (.copyFollowonIssue core ent) s = .next t ∧ x ∈ (t.core core).mq ∧ x.id = k.id ∧ x.kind = m ∧ x.acc = f.acc
            ∧ tfind (t.core core).copies ent = none)
      ∧ (∀ v va e s1 s', k.kind = 2 → k.state = .moving → k.slot < 5 → k.conv = none → s.merges = [] → s.fabric.packets = []
          → chunkWork w k 0 s = .error (.other 0 0 v, va) s1 → translate w va.toNat false .useOnce s = .ok e s' →
          ∃ t m, exec (.mergeRequest core ent) s = .next t ∧ t.merges = [m] ∧ m.joined = [(core, k.id)] ∧ m.mset = k.mset
            ∧ m.pa = e.paOf (s'.partitionOf core) va.toNat / 64 * 64)
      ∧ (∀ idx m, s.merges[idx]? = some m → m.taken = none → m.opened + 64 ≤ s.clock → s.slotOpen (some m.tenant) m.pa = true →
          ∃ t p, exec (.mergeEntryClose idx) s = .next t ∧ t.merges = s.merges.eraseIdx idx ∧ p ∈ t.fabric.packets
            ∧ p.payload = .line m.pa (s.mergeRead m.pa m.key).1 m.joined ∧ p.dsts = (m.joined.map (·.1)).eraseDups)

/-! ### The caches and the home slices -/

/-- R301 to R305, R319: a waiting registration is performed at its home, in a slot of its tenant's; a notice reaches its core's queue or,
that being full, marks its overflow; a line that has come leaves the list of fills and changes no strand but for pending bits. -/
def Obligations.HomeSteps : Prop :=
  ∀ (s : State) (idx core : Nat),
    (∀ p, s.pendRegs[idx]? = some p → p.act = .reg → s.reserved p.pa = none
        → (s.pendRegs.take idx).any (fun q => q.pa / 8 = p.pa / 8) = false → s.slotOpen p.slotUser p.pa = true →
        ∃ t, exec (.registration idx) s = .next t ∧ t.pendRegs = s.pendRegs.eraseIdx idx
          ∧ (p.mask = 0xFF → t.homeWord p.pa = p.data) ∧ tfind t.owners (p.pa / 8) = p.owner)
      ∧ (∀ n, s.notices[idx]? = some n → n.core = core → (s.core core).fwd = [] →
          ∃ t, exec (.revocationNotice idx) s = .next t ∧ t.notices = s.notices.eraseIdx idx
            ∧ ((s.core core).rvq.length < 64 → (t.core core).rvq = (s.core core).rvq ++ [n.pa])
            ∧ (64 ≤ (s.core core).rvq.length → (t.core core).rvqOvf = true
                ∧ (t.core core).rvqOvcnt = (s.core core).rvqOvcnt + 1 ∧ (t.core core).rvq = (s.core core).rvq))
      ∧ (∀ va level r s', coreExists core = true → (s.core core).fills = (va, level) :: r
          → fillLine (s.who (core * 8 + 4)) va level s = .ok () s' →
          ∃ t, exec (.homeReadResponse core 0) s = .next t ∧ (t.core core).fills = r ∧ ∀ sid, PendOnly (s.st sid) (t.st sid))

/-! ### Saved strands -/

/-- R132, R133: CTXSAVE of a strand that does not run writes its save area and frees its slot; CTXLOAD starts a strand with the
registers its area holds.  That control registers are masked to their named bits at the load is the model's reading (log 39). -/
def Obligations.ContextSwitch : Prop :=
  ∀ (s : State) (rd rs1 rs2 : BitVec 6),
    let area := s.cur.rd rs1.toNat
    let slot := bits (s.cur.rd rs2.toNat) 2 0
    let sid := s.curCore * 8 + slot
    s.cur.status.mode ≠ .task → area.toNat % 64 = 0 → bits (s.cur.rd rs2.toNat) 63 3 = 0 → slot ≤ 4 → slot ≠ s.curSlot →
      (∀ s', (s.st sid).st ≠ .run → (s.st sid).st ≠ .free → (s.st sid).vq = [] → (s.st sid).async = [] → s.saveBusy sid = false →
        let s1 := (s.withdrawWait sid).enterPending sid
        saveSlots (s1.who s1.curSid) area 0 (runs64 195 ((s1.st sid).image (slotOfSid sid))) s1 = .ok () s' →
        let s2 := s'.copySourceOut s1.curCore scP area.toNat 12480
        s2.releasePending s2.curCore = false →
        ∃ t, exec (.ctxsave rd rs1 rs2) s = .next t ∧ PassesWith s2 t rd.toNat 0 ∧ (t.st sid).st = .free
          ∧ ∀ rs r, rs < 4 → tfind (t.core s2.curCore).rows rs = some r → r.opener ≠ slotOfSid sid)
      ∧ (∀ bs s', (s.st sid).st = .free → (s.core s.curCore).saveRec = none → s.cur.vq = [] →
        let s1 := s.acquire s.curCore scP 0
        loadArea (s1.who s1.curSid) s.curCore area s1 = .ok (some bs) s' →
        ∃ t, exec (.ctxload rd rs1 rs2) s = .next t ∧ PassesWith s' t rd.toNat 0
          ∧ (t.st sid).st = .run ∧ (t.st sid).pc = word (leField bs 0x10 8) &&& ~~~1
          ∧ (∀ n, 1 ≤ n → n ≤ 63 → (t.st sid).rd n = word (leField bs (0x140 + 8 * n) 8))
          ∧ (∀ n, n < 8 → (t.st sid).oxr n = word (leField bs (0x340 + 8 * n) 8))
          ∧ (∀ n, n < 32 → (t.st sid).vr n = BitVec.ofNat 2048 (leField bs (0x10C0 + 256 * n) 256)))

/-! ### The dispatcher -/

/-- R363, R364, R381: GSUB reads a record, of a scratchpad or of translated memory, and enters its node, or has the code of the check that
fails; GDEP changes a waiting node's count; GWAIT waits for a node or has 1; GDONE frees its strand, and its node when it is the last member,
whose successors lose a predecessor, the count of lost decrements rising for each that is not waiting. -/
def Obligations.GraphInstructions : Prop :=
  ∀ (s : State) (c b a : BitVec 5),
    let x := s.cur.rd a.toNat
    let y := s.cur.rd b.toNat
    let released := fun (u : State) => u.release u.curCore scP 0
    let ready := fun (u : State) => u.underWay = none ∧ u.relReady 0 = true ∧ (released u).relDone scP = true
    (∀ p s0 s1 bs s3, x.toNat % 64 = 0 → checkAccess (s.who s.curSid) x 64 needR s = .ok p s0
        → (match p with
          | .translated => ∃ e, translate (s.who s.curSid) x.toNat false .no s0 = .ok e s1
          | _ => s1 = s0)
        → ready s1
        → readHome ((released s1).who (released s1).curSid) p x.toNat 64 (released s1) = .ok bs s3 →
        let r := recordOf bs
        let key := if r.key = 0 then x.toNat else r.key.toNat
        let code := (s3.checkRecord r (some key) (some s3.cur.tenant) none).1
        ∃ t, exec (.gsub c a) s = .next t ∧ WentWith s3 t c.toNat (word code) ∧ (∀ v, v < 2 ^ 60 → mget t.mem v = mget s3.mem v)
          ∧ (code = 0 → ∃ n, n ∈ t.disp.nodes ∧ n.key = some key ∧ n.tenant = r.tenant ∧ n.entry = r.entry ∧ n.preds = r.preds
            ∧ n.state = if r.preds = 0 then .ready else .waiting))
      ∧ (∀ n, x ≠ 0 → y.toNat < 2 ^ 31 → s.waitingNode x = some n → n.preds + y.toNat ≤ 65535 →
        ∃ t m, exec (.gdep c b a) s = .next t ∧ PassesWith s t c.toNat (word (n.preds + y.toNat)) ∧ m ∈ t.disp.nodes ∧ m.id = n.id
          ∧ m.preds = n.preds + y.toNat)
      ∧ (∀ n, x ≠ 0 → y = BitVec.allOnes 64 → s.waitingNode x = some n → 1 ≤ n.preds → n.preds ≤ 65535 → ready s →
        ∃ t, exec (.gdep c b a) s = .next t ∧ PassesWith (released s) t c.toNat (word (n.preds - 1))
          ∧ ∀ m, m ∈ (released s).disp.nodes → m.id = n.id → ∃ k, k ∈ t.disp.nodes ∧ k.id = n.id ∧ k.preds = n.preds - 1
            ∧ (n.preds = 1 → k.state = .ready))
      ∧ (x ≠ 0 → y = 0 → s.waitingNode x = none →
        ∃ t, exec (.gdep c b a) s = .next t ∧ PassesWith s t c.toNat (BitVec.allOnes 64) ∧ t.disp = s.disp)
      ∧ (s.nodeByKey s.cur.tenant x.toNat = none → ∃ t, exec (.gwait c a) s = .next t ∧ PassesWith s t c.toNat 1)
      ∧ (∀ n, s.nodeByKey s.cur.tenant x.toNat = some n →
        ∃ t, exec (.gwait c a) s = .next t ∧ Waits s t (.gwait n.id c.toNat))
      ∧ (s.curSlot < 4 → s.settled s.curSid = true →
        let s1 := s.closeRowsOf s.curSid
        ready s1 →
        ((released s1).lastMember s.curSid = none → ∃ t, exec .gdone s = .next t ∧ (t.st s.curSid).st = .free)
          ∧ (∀ n, (released s1).lastMember s.curSid = some n → n.succ = 0 → (released s1).disp.firing = [] →
            ∃ t, exec .gdone s = .next t ∧ (t.st s.curSid).st = .free ∧ (∀ m, m ∈ t.disp.nodes → m.id ≠ n.id)
              ∧ ∀ f, f ∈ t.disp.farms → f.2.node ≠ n.id)
          ∧ (∀ n ks s', (released s1).lastMember s.curSid = some n → n.succ ≠ 0
            → succKeys ((released s1).who s.curSid) 255 n.succ (released s1) = .ok ks s' → s'.disp.firing = [] →
            ∃ t, exec .gdone s = .next t ∧ (t.st s.curSid).st = .free ∧ (∀ m, m ∈ t.disp.nodes → m.id ≠ n.id)
              ∧ ∀ k, ks = [k] →
                (∀ m, s'.nodeByKey n.tenant k = some m → m.state = .waiting → m.id ≠ n.id →
                  ∃ m', m' ∈ t.disp.nodes ∧ m'.id = m.id ∧ m'.preds = m.preds - 1 ∧ m'.state = if m.preds ≤ 1 then .ready else .waiting)
                ∧ (s'.nodeByKey n.tenant k = none → t.disp.orphan = s'.disp.orphan + 1)))

/-- R372, R373, R382, R383, R384: SFDECL takes a farm's handle, SFNEXT hands out the next strip, SFEND waits for the other participants
and then has the count handed out; FTSET sets, clears and queries a firing entry; MIGR begins a migration or forgets the
forwarding of a core. -/
def Obligations.FarmsAndFiring : Prop :=
  ∀ (s : State) (c b a : BitVec 5) (oxb : BitVec 3),
    let x := s.cur.rd a.toNat
    let y := s.cur.rd b.toNat
    let w := s.xo oxb 1
    let idx := bits x 7 0
    let src := bits x 9 0
    (∀ n, s.cur.node.bind s.node = some n → farmBad w = false → bit x 0 = false → s.disp.farms.length < 256 →
        ∃ t f, exec (.sfdecl c a oxb) s = .next t ∧ PassesWith s t c.toNat (word s.newHandle) ∧ t.farm s.newHandle = some f
          ∧ f.node = n.id ∧ f.base = s.xo oxb 0 ∧ f.count = bits w 31 0 ∧ f.strip = bits w 47 32 ∧ f.parts = bits w 57 48 + 1
          ∧ f.next = 0 ∧ t.cur.farm = some { farm := s.newHandle, part := 0, ended := false })
      ∧ (∀ f, x ≠ 0 → s.farm x.toNat = some f → s.cur.node = some f.node →
        (f.next * f.strip < f.count →
          ∃ t, exec (.sfnext c b a) s = .next t
            ∧ (∀ n, t.cur.rd n = if n = 0 then 0 else if n = c.toNat then f.base + word (f.next * f.strip)
                else if n = b.toNat then word (f.next * 65536 + min f.strip (f.count - f.next * f.strip)) else s.cur.rd n)
            ∧ t.cur.pc = s.cur.pc + 4 ∧ t.cur.ctl 0x2C1 = word f.next ∧ t.farm x.toNat = some { f with next := f.next + 1 })
          ∧ (f.count ≤ f.next * f.strip →
            ∃ t, exec (.sfnext c b a) s = .next t
              ∧ (∀ n, t.cur.rd n = if n = 0 then 0 else if n = c.toNat then BitVec.allOnes 64 else if n = b.toNat then 0 else s.cur.rd n)
              ∧ t.cur.pc = s.cur.pc + 4))
      ∧ (∀ p f, s.curSlot < 5 → s.cur.farm = some p → p.ended = false → s.farm p.farm = some f → x.toNat = p.farm →
        (f.ended.length + 1 < f.parts → ∃ t, exec (.sfend c a) s = .next t ∧ Waits s t (.sfend c.toNat))
          ∧ (f.parts ≤ f.ended.length + 1 →
            ∃ t, exec (.sfend c a) s = .next t ∧ PassesWith s t c.toNat (word (min f.next (ceilDiv f.count f.strip)))))
      ∧ (s.cur.status.mode ≠ .task →
        (bits x 63 8 = 0 → bits w 33 32 ≠ 3 → bits w 63 34 = 0 → y.toNat % 64 = 0 → tfind s.disp.firing idx = none
            → s.timeSlot < (s.xo oxb 0).toNat →
            ∃ t, exec (.ftset c b a oxb) s = .next t ∧ PassesWith s t c.toNat 0
              ∧ tfind t.disp.firing idx =
                some { valid := true, tenant := s.cur.tenant, record := y, next := (s.xo oxb 0).toNat, period := bits w 31 0,
                       rule := bits w 33 32, inst := none, pending := false, skip := 0, evfail := 0, last := 0 })
          ∧ (∀ e, tfind s.disp.firing idx = some e → e.tenant = s.cur.tenant →
            (bits x 63 8 = 1 → e.valid = true → ∃ t, exec (.ftset c b a oxb) s = .next t ∧ PassesWith s t c.toNat 0
                ∧ tfind t.disp.firing idx = some { e with valid := false })
              ∧ (bits x 63 8 = 2 → ∃ t, exec (.ftset c b a oxb) s = .next t ∧ PassesWith s t c.toNat e.toWord))
          ∧ (bits x 63 22 = 0 → bits x 19 10 = s.pkg % 1024 → s.coreInTenant src s.cur.tenant = true →
            (bits x 21 20 = 3 → (s.core src).forwards s.cur.tenant = true →
                ∃ t, exec (.migr c b a) s = .next t ∧ PassesWith s t c.toNat 0 ∧ (t.core src).forwards s.cur.tenant = false)
              ∧ (bits x 21 20 = 3 → (s.core src).forwards s.cur.tenant = false →
                ∃ t, exec (.migr c b a) s = .next t ∧ PassesWith s t c.toNat 1)
              ∧ (∀ id s1, bits x 21 20 = 0 → s.startMigrate s.cur.tenant src y = .ok (id, s1) →
                ∃ t, exec (.migr c b a) s = .next t ∧ Waits s t (.migr id c.toNat) ∧ t.disp.migrations = s1.disp.migrations)
              ∧ (∀ code, bits x 21 20 = 0 → s.startMigrate s.cur.tenant src y = .error code →
                ∃ t, exec (.migr c b a) s = .next t ∧ PassesWith s t c.toNat (word code))))

/-- R315, R364, R365, R368, R369, R373, R376: a record written to an aperture is checked and entered; a placement decision starts the
strand of the one node that is ready, with the registers R369 gives it; a firing entry acts in its slot, and each of its
slots that a step of the time passes counts; a migration moves the strands of a core that holds still.  The model's readings: how passed
slots count (log 91), that a boundary reached is served whenever it comes to be (log 66), that a migration moves in one step (log 59), and
that the pc, tvec and mtvec of a record keep the bits their registers have (log 39). -/
def Obligations.DispatcherSteps : Prop :=
  ∀ (s : State) (port idx : Nat),
    (∀ w, (s.port port).held.find? (fun w => w.target = 1) = some w → w.stamp ≤ (s.port port).horizonH + 1 →
        let r := recordOf w.data
        let key := if r.key = 0 then none else some r.key.toNat
        let code := (s.checkRecord r key none (some port)).1
        ∃ t, exec (.submitRecord port) s = .next t ∧ (t.port port).lastResult = code
          ∧ (∀ x, x ∈ (t.port port).held → x.stamp ≠ w.stamp)
          ∧ (code = 0 → (t.port port).accepted = (s.port port).accepted + 1
            ∧ ∃ n, n ∈ t.disp.nodes ∧ n.key = key ∧ n.tenant = r.tenant ∧ n.entry = r.entry ∧ n.preds = r.preds))
      ∧ (s.disp.decideAt ≤ s.clock →
        let s1 := { s with disp := { s.disp with decideAt := s.clock + 16 } }
        ∀ n core k d s2, s.placeable = [n] → n.state = .ready → n.toPlace = [] → n.strands = 1 → n.prio < 4 → n.tenant < 64
          → s1.bestCore n = some core → s1.descr n.tenant = (some d, s2) → (s1.freeSlots core).head? = some k →
          let sid := core * 8 + k
          let op := fun (i : Nat) => word (bits (lget 0 n.ops i) 55 0)
          ∃ t, exec .placementDecision s = .next t ∧ t.disp.decideAt = s.clock + 16
            ∧ (t.st sid).st = .run ∧ (t.st sid).pc = n.entry ∧ (t.st sid).status = { mode := .task }
            ∧ (t.st sid).tenant = n.tenant ∧ (t.st sid).ctl cPd = word d.pd ∧ (t.st sid).ctl cTvec = d.tvec &&& ~~~1
            ∧ (t.st sid).ctl cMtvec = d.mtvec &&& ~~~1 ∧ (t.st sid).ctl cStripord = BitVec.allOnes 64
            ∧ (t.st sid).rd 3 = word (n.key.getD 0) ∧ (t.st sid).rd 4 = 0 ∧ (t.st sid).rd 5 = op 0 ∧ (t.st sid).rd 6 = op 1
            ∧ (t.st sid).rd 7 = op 2 ∧ (t.st sid).rd 8 = op 3 ∧ (t.st sid).rd 9 = 0
            ∧ ∃ m, m ∈ t.disp.nodes ∧ m.id = n.id ∧ m.state = .running ∧ m.members = [(sid, 0)])
      ∧ ((∀ f, f ∈ s.disp.firing → f.2.valid = true → s.timeSlot < f.2.next) → exec .firingSlotBoundary s = .next s)
      ∧ ((∀ i e, s.disp.firing = [(i, e)] → e.valid = true → (s.tenantSet e.tenant).isSome = true → e.next ≤ s.timeSlot
              → 0 < e.period →
            (∃ t, exec .firingSlotBoundary s = .next t ∧ t.disp.lastSlot = e.next)
              ∧ (e.inst = none →
              ∃ t e', exec .firingSlotBoundary s = .next t ∧ tfind t.disp.firing i = some e' ∧ e'.next = e.next + e.period
                ∧ ((e'.last = 0 ∧ ∃ n, e'.inst = some n) ∨ (e'.last ≠ 0 ∧ e'.skip = e.skip + 1)))
              ∧ (∀ n m, e.inst = some n → s.node n = some m → m.state = .running → e.rule = 0 →
                ∃ t e', exec .firingSlotBoundary s = .next t ∧ tfind t.disp.firing i = some e' ∧ e'.next = e.next + e.period
                  ∧ e'.inst = e.inst ∧ e'.skip = e.skip + 1)))
      ∧ (∀ m, s.disp.migrations[idx]? = some m → m.kind = 0 → m.src ≠ m.dst →
        let s1 := (List.range 4).foldl (fun s k => s.holdMoving (m.src * 8 + k)) s
        let s2 := s1.release m.src scP 0
        s1.canMove m = true → s2.releasePending m.src = false →
        ∃ t, exec (.migrationTransfer idx) s = .next t
          ∧ (∀ k, k < 4 → (s2.st (m.src * 8 + k)).wait.forMigration = false →
              (t.st (m.dst * 8 + k)).pc = (s2.st (m.src * 8 + k)).pc
                ∧ (∀ n, (t.st (m.dst * 8 + k)).rd n = (s2.st (m.src * 8 + k)).rd n)
                ∧ (t.st (m.src * 8 + k)).st = .free)
          ∧ { tenant := m.tenant, target := m.dst, held := false : FwdEntry } ∈ (t.core m.src).fwd)

/-! ### Sequences -/

/-- R388 to R391, R394 to R397, R399, R400: on a slot that is not stopped and whose watch entries are off, TKAPP appends a token and
counts it, TKDRAFT drafts one, TKCONF confirms drafts, SAMPLE selects a token of a logits tile and appends it, and SAMPLE.draft drafts it; a
watch entry that holds for an appended token stops the slot with its record, forks it, injects its tokens or notifies its strand. -/
def Obligations.SequenceTokens : Prop :=
  ∀ (s : State) (c b a : BitVec 5) (oxb : BitVec 3) (d k : Nat) (x : SeqSlot),
    let h := s.cur.rd b.toNat
    let v := s.cur.rd a.toNat
    let tok : BitVec 32 := v.setWidth 32
    let isTok := bits v 63 32 = 0 ∧ v ≠ 0xFFFFFFFF
    let quiet := ∀ e, e < 16 → wEn (x.entry e) = false
    let appended := fun (t : State) (n : Nat) => ∃ y, t.seq d k = some y ∧ y.position = x.position + BitVec.ofNat 32 n ∧ y.draft = []
      ∧ y.stopped = false
    -- one token is appended: the ring, the history and the counters
    let inc := fun (n : BitVec 32) => if n = 0xFFFFFFFF then n else n + 1
    let counted := fun (u t : State) (tok : BitVec 32) =>
      let w := tok.toNat % 128
      let cls := bits (tget (0 : Word) u.tcr (x.owner * 1024 + 0x200 + w / 32)) (2 * (w % 32) + 1) (2 * (w % 32))
      mread t.mem (u.ringAddr d x (x.position + 1)) 4 = leBytes 4 tok.toNat
        ∧ (∀ n, n < u.ringAddr d x (x.position + 1) ∨ u.ringAddr d x (x.position + 1) + 4 ≤ n → mget t.mem n = mget u.mem n)
        ∧ ∃ y, t.seq d k = some y ∧ y.history = x.history.drop 1 ++ [tok] ∧ y.total = inc x.total
          ∧ y.cls = x.cls.set cls (inc (lget 0 x.cls cls))
    -- an entry that holds alone for a token
    let alone := fun (e : Nat) => x.draft = [] ∧ e < 16 ∧ watchHolds x (s.confirm d k x tok).1 (x.entry e) = true
      ∧ ∀ o, o < 16 → o ≠ e → watchHolds x (s.confirm d k x tok).1 (x.entry o) = false
    s.cur.vq = [] → s.cur.wait = .none → bits h 63 13 = 0 → s.seqNamed h.toNat = some (d, k, x) → x.stopped = false →
      (isTok → x.draft = [] → quiet →
        ∃ t, exec (.tkapp c b a) s = .next t ∧ WentWith s t c.toNat (word (x.position + 1).toNat) ∧ appended t 1 ∧ counted s t tok)
      ∧ (∀ e, isTok → x.draft = [] → e < 16 → wAction (x.entry e) = 0 → watchHolds x (s.confirm d k x tok).1 (x.entry e) = true
          → (∀ o, o < e → watchHolds x (s.confirm d k x tok).1 (x.entry o) = false) →
          ∃ t y, exec (.tkapp c b a) s = .next t
            ∧ WentWith s t c.toNat (word ((x.position + 1).toNat + 2 ^ 32 + 2 ^ 33)) ∧ t.seq d k = some y ∧ y.stopped = true
            ∧ y.stopRec = word (2 ^ 63 + 2 ^ 36 * 32 + 2 ^ 32 * e + (x.position + 1).toNat))
      ∧ (∀ e, isTok → alone e →
        let i := x.entry e
        let acted := fun (t : State) (p : BitVec 32) => WentWith s t c.toNat (word (p.toNat + 2 ^ 32))
        (wAction i = 3 → ∃ t y, exec (.tkapp c b a) s = .next t ∧ acted t (x.position + 1) ∧ t.seq d k = some y
            ∧ y.notify = word (2 ^ 63 + 2 ^ 62 * b2n (bit x.notify 63) + 2 ^ 32 * e + (x.position + 1).toNat)
            ∧ ∀ sid, s.strandNamed (wTarget i) = some sid → s.coreInTenant (coreOfSid sid) x.owner = true →
                bit ((t.st sid).ctl cIpend) 32 = true)
          ∧ (∀ n, wAction i = 1 → s.freeSeq d = some n → ∃ t y z, exec (.tkapp c b a) s = .next t ∧ acted t (x.position + 1)
            ∧ t.seq d k = some y ∧ y.forkRep = BitVec.ofNat 32 (2 ^ 31 + seqHandle d n) ∧ y.stopped = false
            ∧ t.seq d n = some z ∧ z.parent = seqHandle d k ∧ z.ring = (wTarget i).toNat % 2 ^ 25 ∧ z.forkPos = x.position + 1
            ∧ z.position = x.position + 1 ∧ z.history = y.history ∧ z.total = y.total ∧ z.cls = y.cls ∧ z.watch = x.watch
            ∧ z.tag = mix (x.tag ^^^ (x.position + 1).setWidth 64) ∧ z.draft = [] ∧ z.iteration = 0)
          ∧ (wAction i = 1 → s.freeSeq d = none → ∃ t y, exec (.tkapp c b a) s = .next t
            ∧ WentWith s t c.toNat (word ((x.position + 1).toNat + 2 ^ 32 + 2 ^ 33)) ∧ t.seq d k = some y ∧ y.stopped = true
            ∧ y.stopRec = word (2 ^ 63 + 2 ^ 36 * 33 + 2 ^ 32 * e + (x.position + 1).toNat))
          ∧ (let forced := (wForced i).take (wCount i)
            wAction i = 2 → (∀ o, o < 16 → o ≠ e → wEn (x.entry o) = false) → x.history.length = 8 →
            ∃ t y, exec (.tkapp c b a) s = .next t ∧ acted t (x.position + 1 + BitVec.ofNat 32 forced.length) ∧ t.seq d k = some y
              ∧ y.position = x.position + 1 + BitVec.ofNat 32 forced.length
              ∧ y.history = (x.history ++ tok :: forced).drop (1 + forced.length)))
      ∧ (isTok → x.draft.length < 16 →
        ∃ t, exec (.tkdraft c b a) s = .next t ∧ PassesWith s t c.toNat (word (x.draft.length + 1))
          ∧ t.seq d k = some { x with draft := x.draft ++ [tok], provisional := x.provisional + 1 } ∧ t.mem = s.mem)
      ∧ (v.toNat ≤ 16 → v.toNat ≤ x.draft.length → quiet →
        ∃ t, exec (.tkconf c b a) s = .next t
          ∧ WentWith s t c.toNat (word (x.position + BitVec.ofNat 32 v.toNat).toNat) ∧ appended t v.toNat)
      ∧ (∀ th s1 logits s2, sampleOk (s.xo oxb 0) = true → hdrCheck (s.who s.curSid) v .no s = .ok th s1
          → th.efmt = 5 ∨ th.efmt = 6 → th.slay = 0 → th.spar = 0 → th.rows * th.cols ≤ 2 ^ 24
          → s1.seqNamed h.toNat = some (d, k, x)
          → readLogits (s1.who s1.curSid) th (th.rows * th.cols) [] s1 = (logits, none, s2) → s2.seq d k = some x →
          let pos := x.position + 1 + BitVec.ofNat 32 x.draft.length
          let pick := selectToken (logits.zipIdx.map (fun e => (e.2, e.1))) (bits (s.xo oxb 0) 31 0) (bits (s.xo oxb 0) 47 32)
            (s.xo oxb 1) x.tag
          (x.draft = [] → quiet → ∃ t, exec (.sample c b a oxb) s = .next t
              ∧ WentWith s2 t c.toNat (word (pick (x.position + 1) % 2 ^ 32)) ∧ appended t 1
              ∧ counted s2 t (BitVec.ofNat 32 (pick (x.position + 1))))
            ∧ (x.draft.length < 16 → ∃ t, exec (.sampleDraft c b a oxb) s = .next t
              ∧ PassesWith s2 t c.toNat (word (pick pos % 2 ^ 32))
              ∧ t.seq d k = some { x with draft := x.draft ++ [BitVec.ofNat 32 (pick pos)], provisional := x.provisional + 1 }))

/-- R398, R401 to R403: WSET and WGET move a watch entry; SQFORK makes a slot from a descriptor or a child of a slot; SQSTAT writes
the status block; SQITER iterates, closes, clears and resumes, and a stopped slot's iterate traps with the cause of its stop.  That bit 33
of SQFORK's result is the state of the source it copies, and that the operation that clears also clears the mark that an action has run, is
the model's reading (log 61). -/
def Obligations.SequenceSlots : Prop :=
  ∀ (s : State) (c b a : BitVec 5) (d k : Nat) (x : SeqSlot),
    let h := s.cur.rd b.toNat
    let v := s.cur.rd a.toNat
    s.cur.vq = [] →
      (∀ e, bits h 63 20 = 0 → bits h 15 13 = 0 → bits h 19 16 = e → s.seqNamed (bits h 12 0) = some (d, k, x) → x.stopped = false →
        (∀ i s1 s2, readMem (s.who s.curSid) v 128 .no s = .ok i s1 → wZeros i = true
            → (wEn i = true → wRules i = true ∧ s1.wTargetOk x i = true)
            → (if wEn i = true ∧ wAction i = 1 then
                rangeFault (s1.who s1.curSid) (s1.dieAddr d (wTarget i).toNat) (4 * 2 ^ x.log2cap) needW s1 = .ok none s2
              else s2 = s1) →
            ∃ t y, exec (.wset c b a) s = .next t ∧ PassesWith s2 t c.toNat 0 ∧ t.seq d k = some y ∧ y.entry e = i
              ∧ { y with watch := x.watch } = x)
          ∧ (∀ s1, v.toNat % 128 = 0 → storeParts (s.who s.curSid) v [(x.entry e).take 64, (x.entry e).drop 64] s = .ok () s1
            → s1.seq d k = some x →
            ∃ t, exec (.wget c b a) s = .next t ∧ PassesWith s1 t c.toNat 0))
      ∧ (∀ bs s1 s2 tag ring cap n, h = 0 → readMem (s.who s.curSid) v 64 .no s = .ok bs s1 → seqDescr bs = some (tag, ring, cap) →
          let die := dieOfCore s1.curCore
          rangeFault (s1.who s1.curSid) (s1.dieAddr die ring) (4 * 2 ^ cap) needW s1 = .ok none s2 → s2.freeSeq die = some n →
          ∃ t, exec (.sqfork c b a) s = .next t ∧ PassesWith s2 t c.toNat (word (seqHandle die n % 2 ^ 32))
            ∧ t.seq die n = some (newSeq s2.cur.tenant tag ring cap))
      ∧ (bits h 63 13 = 0 → s.seqNamed h.toNat = some (d, k, x) →
        (∀ n, h ≠ 0 → v = 0 → s.freeSeq d = some n →
            ∃ t, exec (.sqfork c b a) s = .next t ∧ PassesWith s t c.toNat (word (seqHandle d n + 2 ^ 33 * b2n x.stopped))
              ∧ t.seq d n = some (x.child (seqHandle d k) x.ring)
              ∧ t.seq d k = some { x with forkRep := BitVec.ofNat 32 (2 ^ 31 + seqHandle d n) })
          ∧ (∀ s1, v.toNat % 64 = 0
            → storeParts (s.who s.curSid) v ((List.range 4).map (fun i => (x.block.drop (64 * i)).take 64)) s = .ok () s1
            → s1.seq d k = some x → x.stopped = false →
            ∃ t, exec (.sqstat c b a) s = .next t ∧ PassesWith s1 t c.toNat 1)
          ∧ (v = 0 → x.stopped = true →
            Traps s (.sqiter c b a) 0 (bits x.stopRec 43 36)
              (word (2 ^ 48 * seqHandle d k + 2 ^ 32 * bits x.stopRec 35 32 + bits x.stopRec 31 0)))
          ∧ (v = 0 → x.stopped = false → ∃ t, exec (.sqiter c b a) s = .next t
              ∧ PassesWith s t c.toNat (word ((x.iteration + 1).toNat + 2 ^ 32 * b2n x.acted))
              ∧ t.seq d k = some { x with iteration := x.iteration + 1, acted := false })
          ∧ (v = 1 → ∃ t, exec (.sqiter c b a) s = .next t ∧ PassesWith s t c.toNat 0 ∧ t.seq d k = none)
          ∧ (v = 2 → x.stopped = false → ∃ t, exec (.sqiter c b a) s = .next t ∧ PassesWith s t c.toNat 0
              ∧ t.seq d k = some { x with notify := 0, supp := 0, suppcnt := 0, forkRep := 0, acted := false })
          ∧ (v = 3 → ∃ t y, exec (.sqiter c b a) s = .next t ∧ PassesWith s t c.toNat 0 ∧ t.seq d k = some y ∧ y.stopped = false
              ∧ bit y.stopRec 63 = false ∧ bits y.stopRec 62 0 = bits x.stopRec 62 0))

/-! ### The debug engine -/

/-- R408: DCAPQ gives the OR of the rights of the valid entries with the holder and the subject it names, to one of those two
alone; to any other issuer it gives 0. -/
def Obligations.DebugCapabilityQuery : Prop :=
  ∀ (s : State) (c a : BitVec 5),
    let x := s.cur.rd a.toNat
    let holder := bits x 31 16
    let subject := bits x 15 0
    bits x 63 32 = 0 →
      ((s.cur.pd = holder ∨ s.cur.pd = subject) →
          ∃ r, Gives s (.dcapq c a) c.toNat (BitVec.ofNat 64 r) 4
            ∧ ∀ k, r.testBit k = s.caps.any (fun e => e.2.holder = holder && e.2.subject = subject && e.2.rights.testBit k))
        ∧ (s.cur.pd ≠ holder → s.cur.pd ≠ subject → Gives s (.dcapq c a) c.toNat 0 4)

/-- R406, R407, R415 to R418: DCAPD makes an entry of the issuer's own domain, DCAPR takes one away, TRMARK goes on whatever the trace does,
with a record of its mark where ctl.trctl asks for it, SLIPRD reads a slip counter. -/
def Obligations.DebugInstructions : Prop :=
  ∀ (s : State) (c b a : BitVec 5),
    let x := s.cur.rd a.toNat
    let y := s.cur.rd b.toNat
    let holder := bits x 31 16
    let subject := bits x 15 0
    (∀ i, bits x 63 32 = 0 → y.toNat ≤ 31 → s.cur.pd = subject → firstBelow 1024 (fun i => (tfind s.caps i).isNone) = some i →
        ∃ t, exec (.dcapd c b a) s = .next t ∧ PassesWith s t c.toNat (word i)
          ∧ tfind t.caps i = some { subject := subject, holder := holder, rights := y.toNat, parent := none })
      ∧ (∀ e, x.toNat ≤ 1023 → tfind s.caps x.toNat = some e → e.subject = s.cur.pd → s.halts = []
          → (∀ i t k, (s.st i).wait ≠ .dbgHalt t (some k)) →
          ∃ t, exec (.dcapr c a) s = .next t ∧ PassesWith s t c.toNat 0 ∧ tfind t.caps x.toNat = none
            ∧ ∀ p, p ∈ t.caps → p ∈ s.caps)
      ∧ (∃ t, exec (.trmark a) s = .next t ∧ Went s t
          ∧ (bit (s.cur.ctl 0x240) 1 = true → TraceTaken s t s.curSid 1 s.cur x)
          ∧ (bit (s.cur.ctl 0x240) 1 = false → t.mem = s.mem ∧ t.dies = s.dies))
      ∧ (bits x 63 7 = 0 → bit x 3 = false → bits x 2 0 ≤ 4 → bits x 6 4 ≤ 4 → s.cur.status.mode ≠ .task ∨ bits x 6 4 = s.curSlot →
          ∃ t, exec (.sliprd c a) s = .next t
            ∧ PassesWith s t c.toNat ((s.st (s.curCore * 8 + bits x 6 4)).slipCount (s.cycleOf s.curCore) (bits x 2 0)))

/-- R405, R409 to R416: the commands that a strand of monitor mode gives in its registers, each with result 0, and those of the open
port; a strand whose stop is armed stops.  A stop and a resume of a strand give a trace record.  The model's readings: HALT completes without
the other packages (log 77); what RESUME names, CLRBP of another set's entry, and the port's result, value and fault (log 62); an issuer of
the tenant that it halts (log 90). -/
def Obligations.DebugCommands : Prop :=
  ∀ (s : State) (core slot tgt tenant : Nat),
    let sid := core * 8 + slot
    let me := s.st sid
    let a0 := me.ctl 0x248
    let a1 := me.ctl 0x249
    let a2 := me.ctl 0x24A
    let answers := fun (t : State) (v : Word) => (t.st sid).ctl 0x24C = 0 ∧ (t.st sid).ctl 0x24A = v
    let names := fun (op : Nat) => me.status.mode = .monitor ∧ s.strandNamed a0 = some tgt ∧ badArg op a0 a1 a2 = none
    let bps := (s.core (coreOfSid tgt)).bps
    let i := bits a1 19 8
    (names 3 → selectorOk tgt a1 = true → (s.st tgt).dbgHalted = true →
        ∃ t, exec (.rdreg core slot) s = .next t ∧ answers t (s.dbgRead tgt a1))
      ∧ (names 4 → selectorOk tgt a1 = true → (s.st tgt).dbgHalted = true →
          (bits a1 3 0 = 4 → ∃ t, exec (.wrreg core slot) s = .next t ∧ answers t a2 ∧ (t.st tgt).pc = a2 &&& ~~~1)
            ∧ (bits a1 3 0 = 0 → i ≠ 0 → s.busyReg tgt a1 = false →
                ∃ t, exec (.wrreg core slot) s = .next t ∧ answers t a2 ∧ (t.st tgt).rd i = a2))
      ∧ (∀ ea k rd x len r q, names 5 → (s.st tgt).wait = .fe ea k rd x len r q →
          ∃ t, exec (.dbgCancel core slot) s = .next t ∧ answers t a2 ∧ (t.st tgt).pc = (s.st tgt).pc
            ∧ (t.st tgt).wait = if k.loads = true ∧ s.feParked tgt = true then .none else (s.st tgt).wait)
      ∧ (∀ n, names 6 → firstBelow 8 (fun i => (tfind bps i).isNone) = some n →
          ∃ t e, exec (.setbp core slot) s = .next t ∧ answers t (setBits a2 2 0 n)
            ∧ tfind (t.core (coreOfSid tgt)).bps n = some e ∧ e.slot = slotOfSid tgt ∧ e.kind = bits a1 1 0 ∧ e.rd = bit a1 2
            ∧ e.wr = bit a1 3 ∧ e.len = bits a1 7 4 ∧ e.ord = bits a1 47 16 ∧ e.addr = a2 ∧ e.setter = sid)
      ∧ (∀ e, names 7 → tfind bps a1.toNat = some e → e.slot = slotOfSid tgt →
          ∃ t, exec (.clrbp core slot) s = .next t ∧ answers t a2 ∧ tfind (t.core (coreOfSid tgt)).bps a1.toNat = none)
      ∧ (names 8 → ∃ t, exec (.brkcap core slot) s = .next t ∧ answers t a2 ∧ (t.st tgt).brkCap = bit a1 0)
      ∧ (names 9 → ∃ t, exec (.trset core slot) s = .next t ∧ answers t a2 ∧ (t.st tgt).ctl 0x240 = a1)
      ∧ (names 2 → (s.st tgt).bpStop = true →
          ∃ t, exec (.dbgResume core slot) s = .next t ∧ answers t a2 ∧ (t.st tgt).bpStop = false
            ∧ ((s.st tgt).dbgHalted = false → (t.st tgt).st = .run ∧ TraceTaken s t tgt 3 (s.st tgt) 0))
      ∧ (∀ d s1, me.status.mode = .monitor → bits a0 63 6 = 0 → a1 = 0 → a2 = 0 → me.wait = .none
          → (∀ j, s.strandNamed a0 = some j → (s.st j).bpStop = false)
          → s.descr (bits a0 5 0) = (some d, s1) → (s.tenantSet (bits a0 5 0)).isSome = true →
          ((s1.haltTenant (bits a0 5 0) none).1 = true →
            ∃ t, exec (.dbgHalt core slot) s = .next t ∧ answers t 0 ∧ bits a0 5 0 ∈ t.holds
              ∧ ∀ j, j ∈ s.tenantStrands (bits a0 5 0) → (t.st j).st ≠ .run)
          ∧ (s.halts.any (fun h => h.1 = bits a0 5 0) = true →
            ∃ t, exec (.dbgResume core slot) s = .next t ∧ answers t 0 ∧ bits a0 5 0 ∉ t.holds
              ∧ t.halts.any (fun h => h.1 = bits a0 5 0) = false))
      ∧ (∀ x y, s.svc.portOpen = true → s.strandNamed x = some tgt → badArg 3 x y 0 = none → selectorOk tgt y = true
          → (s.st tgt).dbgHalted = true →
          ∃ t, exec (.debugPortCommand 3 x y 0) s = .next t ∧ t.svc.portResult = 0 ∧ t.svc.portValue = s.dbgRead tgt y
            ∧ t.svc.portFault = none)
      ∧ (∀ op x y z, s.svc.portOpen = true → op = 0 ∨ 9 < op →
          ∃ t, exec (.debugPortCommand op x y z) s = .next t ∧ t.svc.portFault = some (causeWord false false false 1 xDbgarg))
      ∧ (∃ t, exec (.debugHoldNotice tenant) s = .next t ∧ tenant ∈ t.holds ∧ { t with holds := s.holds } = s)
      ∧ (s.halts.any (fun h => h.1 = tenant) = false →
          ∃ t, exec (.debugHoldWithdrawal tenant) s = .next t ∧ tenant ∉ t.holds ∧ { t with holds := s.holds } = s)
      ∧ (∀ n, me.st = .run → me.bpArmed = some n → me.unissued = true → s.atStopPoint core slot = true →
          ∃ t, exec (.breakpointStop core slot) s = .next t ∧ (t.st sid).st = .held ∧ (t.st sid).bpStop = true
            ∧ (t.st sid).pc = me.pc ∧ (∀ n, (t.st sid).rd n = me.rd n) ∧ TraceTaken s t sid 2 me 0)

/-! ### The service processor -/

/-- R430 to R436: the instructions of the service processor, in the modes and states in which they are carried out.  The order of KEYNEW's
results 1, 3 and 4 is the model's reading (log 63). -/
def Obligations.ServiceInstructions : Prop :=
  ∀ (s : State) (c b a : BitVec 5), s.cur.vq = [] →
    let x := s.cur.rd a.toNat
    let y := s.cur.rd b.toNat
    let monitor := s.cur.status.mode = .monitor
    let n := bits x 2 0
    (∀ s1 s2 s3 s4 report, s.cur.status.mode ≠ .task → x.toNat % 64 = 0 → y.toNat % 64 = 0 → spanReadable x 64 s = .ok () s1
        → spanWritable y 30432 s1 = .ok () s2 → s.svc.lifecycle ≠ .manufacture → s.svc.lifecycle ≠ .retired
        → spanRead (blocksOf x 64) s2 = .ok report s3 → spanWrite (blocksOf y 30432) (s3.quote report) s3 = .ok () s4 →
        ∃ t, exec (.attest c b a) s = .next t ∧ PassesWith s4 t c.toNat 0)
      ∧ (monitor → bits x 63 14 = 0 → bits x 7 0 ≠ 0 →
          let k := s.keySlot (bits x 7 0)
          (k.live = true → ∃ t, exec (.keynew c a) s = .next t ∧ PassesWith s t c.toNat 1)
            ∧ (k.live = false → s.svc.portOpen = false → k.gen < 65535 →
              ∃ t, exec (.keynew c a) s = .next t ∧ PassesWith s t c.toNat 0 ∧ (t.keySlot (bits x 7 0)).live = true
                ∧ (t.keySlot (bits x 7 0)).owner = bits x 13 8 ∧ (t.keySlot (bits x 7 0)).gen = k.gen + 1))
      ∧ (monitor → x ≠ 0 → x.toNat ≤ 255 → (s.keySlot x.toNat).live = true →
          ∃ t, exec (.keydel c a) s = .next t ∧ WentWith s t c.toNat 0 ∧ (t.keySlot x.toNat).live = false
            ∧ ∀ core w, w ∈ (t.core core).l1 → w.2.key ≠ x.toNat)
      ∧ (x = 0 → Gives s (.fuserd c a) c.toNat (Config.deviceId.setWidth 64) 4)
      ∧ (x = 1 → Gives s (.fuserd c a) c.toNat ((Config.deviceId >>> 64).setWidth 64) 4)
      ∧ (x = 2 → Gives s (.fuserd c a) c.toNat (word (securityVersion * 256 + s.svc.lifecycle.code)) 4)
      ∧ (x = 3 → monitor → ∃ t v, exec (.fuserd c a) s = .next t ∧ PassesWith s t c.toNat v ∧ t.svc.nonce = some v)
      ∧ (x = 3 → ¬monitor → Traps s (.fuserd c a) 5 3 x)
      ∧ (x = 0 → Gives s (.lcstat c a) c.toNat (word (s.svc.lifecycle.code + 4 * b2n s.svc.portOpen + 8 * s.liveKeys)) 4)
      ∧ (x = 1 → monitor → s.svc.lifecycle ≠ .manufacture → s.svc.lifecycle ≠ .retired →
          ∃ t, exec (.lcstat c a) s = .next t ∧ WentWith s t c.toNat 0 ∧ t.svc.lifecycle = .retired)
      ∧ (∀ s1 s2 e, monitor → bits x 63 3 = 0 → 4 ≤ n → n ≤ 6 → y.toNat % 64 = 0 → spanReadable y 64 s = .ok () s1
          → spanRead (blocksOf y 64) s1 = .ok e s2 → 256 ≤ leField e 0 4 →
          ∃ t, exec (.measx c b a) s = .next t ∧ PassesWith s2 t c.toNat 0
            ∧ measOf t.svc.meas n = shake256 (measOf s2.svc.meas n ++ e) 64
            ∧ ∀ k, k ≠ n → measOf t.svc.meas k = measOf s2.svc.meas k)
      ∧ (∀ s1 s2, bits x 63 8 = 1 → bits x 7 3 = 0 → y.toNat % 64 = 0 → spanWritable y 64 s = .ok () s1
          → spanWrite (blocksOf y 64) (measOf s.svc.meas n) s1 = .ok () s2 →
          ∃ t, exec (.measx c b a) s = .next t ∧ PassesWith s2 t c.toNat 0)
      ∧ (∀ s1 s2 tok, monitor → x.toNat % 64 = 0 → spanReadable x 29856 s = .ok () s1
          → spanRead (blocksOf x 29856) s1 = .ok tok s2 →
          (s.svc.portOpen = true → ∃ t, exec (.dbgunlk c a) s = .next t ∧ PassesWith s2 t c.toNat 4)
            ∧ (s.svc.portOpen = false →
              let code := s.tokenCode s.svc.nonce tok
              ∃ t, exec (.dbgunlk c a) s = .next t ∧ WentWith s2 t c.toNat (word code) ∧ t.svc.portOpen = decide (code = 0)
                ∧ t.svc.nonce = none))

/-! ### Partitions, tenants and the units they share -/

/-- R337, R338, R361, R362, R375: MSCFL, HBMSLOT, TENSET and VCRES, and the commands of ctl.dcmd, each where its checks pass. -/
def Obligations.PartitionsAndTenants : Prop :=
  ∀ (s : State) (c b a : BitVec 5),
    let x := s.cur.rd a.toNat
    let y := s.cur.rd b.toNat
    let mine := (s.partitionOf s.curCore).mask
    let len := bits y 61 0
    let monitor := s.cur.status.mode = .monitor
    let op := bits x 63 8
    let tn := bits x 5 0
    let w := s.pctl 0x2C9
    let mask := bits w 7 0
    let wt := bits w 5 0
    let done := fun (i : Instr) (t : State) => exec i s = .next t ∧ (t.pctl 0x2CB) = 0
    (s.cur.status.mode ≠ .task → bits y 63 62 = 2 → bits x 63 8 = 0 → bit x 3 = false → bits x 7 4 ≤ 6 → mine.testBit (bits x 2 0) = true →
        Gives s (.mscfl c b a) c.toNat (word (s.saggerCounter (bits x 2 0) (bits x 7 4))) 4)
      ∧ (∀ ls v s1, s.cur.status.mode ≠ .task → bits y 63 62 < 2 → x.toNat % 4096 = 0 → len % 4096 = 0 → len ≤ 2 ^ 30
          → x.toNat + len ≤ 0xF0000000000000
          → s.underWay = none → leavesOf (s.who s.curSid).core (len / 4096) x.toNat (x.toNat + len) s = .ok (ls, v) s1 →
          let pages := ls.map (fun l => (l.2.2.1, l.2.2.2))
          let s2 := s1.flushRound (s1.inPages (s1.partitionOf s1.curCore) pages)
          s2.flushed (s2.inPages (s2.partitionOf s2.curCore) pages) = true →
          ∃ t, exec (.mscfl c b a) s = .next t ∧ WentWith s1 t c.toNat (word (min v (x.toNat + len) - x.toNat)))
      ∧ (monitor → bits x 63 17 = 0 → mine.testBit (bits x 2 0) = true → bit x 9 = false →
          (bit x 16 = false → Gives s (.hbmslot c b a) c.toNat (word ((s.die (bits x 2 0)).slotMask (bits x 8 3) (bits x 15 10))) 4)
            ∧ (bit x 16 = true → bit y 0 = false
                → (∀ k t, k < 64 → bit y k = true → (s.die (bits x 2 0)).slotTenant (bits x 8 3) k = some t → t = bits x 15 10) →
              ∃ t, exec (.hbmslot c b a) s = .next t ∧ PassesWith s t c.toNat 0
                ∧ (t.die (bits x 2 0)).slotMask (bits x 8 3) (bits x 15 10) = y.toNat))
      ∧ (monitor → bits x 7 6 = 0 →
          (∀ r, op = 0 → tenantOfWord y = some r → (s.placeTenant tn r).1 = 0 →
              ∃ t, exec (.tenset c b a) s = .next t ∧ MovedWith s t c.toNat 0 ∧ t.mem = s.mem ∧ t.tenantSet tn = some r)
            ∧ (op = 1 → y = 0 → (s.tenantSet tn).isSome = true → s.tenantBusy tn = false → s.fabric.packets = [] →
              ∃ t, exec (.tenset c b a) s = .next t ∧ PassesWith s t c.toNat 0 ∧ t.tenantSet tn = none)
            ∧ (∀ r, op = 2 → y = 0 → s.tenantSet tn = some r → r.x0 ≤ 15 → r.x1 ≤ 15 → r.y0 ≤ 3 → r.y1 ≤ 3 →
              Gives s (.tenset c b a) c.toNat (word (r.x0 + 16 * r.x1 + 256 * r.y0 + 1024 * r.y1 + 4096 * b2n r.remote + 2 ^ 63)) 4)
            ∧ (op = 0 → bits y 63 18 = 0 → bit y 0 = false → bits y 15 0 ≠ 0 → bits y 17 16 ≠ 0 → (s.reservePairs tn y).1 = 0 →
              ∃ t r, exec (.vcres c b a) s = .next t ∧ PassesWith s t c.toNat 0 ∧ tfind t.fabric.vcres tn = some r
                ∧ r.mask = bits y 15 0 ∧ r.core = bit y 16 ∧ r.memory = bit y 17 ∧ r.live = false)
            ∧ (op = 1 → y = 0 → (tfind s.fabric.vcres tn).isSome = true →
              ∃ t, exec (.vcres c b a) s = .next t ∧ PassesWith s t c.toNat 0 ∧ tfind t.fabric.vcres tn = none)
            ∧ (∀ r, op = 2 → y = 0 → tfind s.fabric.vcres tn = some r → Gives s (.vcres c b a) c.toNat r.toWord 4)
            ∧ (op = 3 → tn = 0 → y ≠ 0 → bits y 63 10 = 0 →
              let p := s.partitionOf s.curCore
              ∃ t, exec (.vcres c b a) s = .next t
                ∧ PassesWith s t c.toNat (word (s.escWait (dieCorner p.first).1 (dieCorner p.first).2))
                ∧ ∀ r, r ∈ p.routers → t.escWait r.1 r.2 = y.toNat))
      ∧ (mask ∈ [1, 2, 4, 8, 16, 32, 64, 128, 0x03, 0x0C, 0x30, 0xC0, 0x33, 0xCC, 0xFF]
          → (∀ d, d < 8 → mask.testBit d = true → (s.die d).absent = false) → s.disp.partitions = [] → bits w 12 8 ≤ 16 →
          ∃ t, done .pcreate t ∧ t.disp.partitions = [{ mask := mask, rb := 4096 * bits w 12 8, windows := 0 }])
      ∧ (∀ p, s.disp.partitions = [p] → p.mask = mask →
          (s.tenantOn mask = false → ∃ t, done .pdissolve t ∧ t.disp.partitions = [])
            ∧ (s.tenantOn mask = false → ∃ t, done .hwgrant t ∧ t.disp.partitions = [{ p with windows := bits w 11 8 }]))
      ∧ (∀ r d s1, tenantOfWord (word (bits w 24 12)) = some r → (s.placeTenant wt r).1 = 0 → s.descr wt = (some d, s1) → d.valid = true →
          ∃ t, done .tplace t ∧ t.tenantSet wt = some r)
      ∧ ((s.tenantSet wt).isSome = true → s.disp.nodes = [] → s.tenantBusy wt = false → s.fabric.packets = [] →
          ∃ t, done .tremove t ∧ t.tenantSet wt = none ∧ tfind t.disp.dets wt = none ∧ tfind t.fabric.vcres wt = none)
      ∧ ((s.reserve w).1 = 0 →
          ∃ t r, done .reserve t ∧ tfind t.disp.dets wt = some r ∧ r.locked = bit w 36 ∧ r.whole = bit w 37 ∧ r.ns = bits w 11 6
            ∧ r.nc = bits w 17 12)
      ∧ (∀ r, tfind s.disp.dets wt = some r →
          ∃ t, done .release t ∧ tfind t.disp.dets wt = none ∧ tfind t.fabric.vcres wt = none
            ∧ ∀ d k, tfind (t.die d).chanSlots k ≠ some wt ∧ tfind (t.die d).sliceSlots k ≠ some wt)

/-! ### The host ports -/

/-- R315, R316, R318, R356, R422, R423: a host's write is stamped and held, or refused and counted; a held write is performed at
its home or at the mailbox; a read answers with what memory holds, with the mailbox's state, or with poison; the mailbox's
commands.  What a port's configuration space answers before anything is written there is a free value (log 30); the numbering of a
LOGREAD's entries (log 37) and the layout of the mailbox's arguments (log 38) are the model's choice; that an address from 2^52 on is an
offset in the port's BAR0, so that 2^52 + 8 is the status word, and that DCMD and ROUTE at a refused port have status 0xFF are its readings
(logs 64 and 97). -/
def Obligations.HostSteps : Prop :=
  ∀ (s : State) (port addr len stamp : Nat) (data : List Byte),
    let p := s.port port
    let refusals := fun (t : State) => bits (t.pctl 0x1C8) (16 * port + 15) (16 * port)
    let arg := leWord (s.area port 0x40 8)
    let served := fun (t : State) (result : Nat) =>
      (t.port port).mbBusy = false ∧ (t.port port).mbResult = result ∧ t.svc.mboxQueue = s.svc.mboxQueue.drop 1
    let first := fun (code : Nat) => s.mbFirst port = true ∧ s.mbCode port = code
    (port < 4 → data ≠ [] → s.svc.safe = false →
        (s.hostMay port addr data.length true = true →
          ∃ t, exec (.hostPostedWrite port 0 addr data) s = .next t ∧ (t.port port).stamp = p.stamp + 1
            ∧ (t.port port).held = p.held ++ [{ stamp := p.stamp + 1, target := 0, addr := addr, data := data }] ∧ t.mem = s.mem)
        ∧ (s.hostMay port addr data.length true = false →
          ∃ t, exec (.hostPostedWrite port 0 addr data) s = .next t ∧ refusals t = min 65535 (refusals s + 1) ∧ t.mem = s.mem)
        ∧ (0x80000 ≤ addr → addr + 64 ≤ 0x81000 → addr % 64 = 0 → data.length = 64 →
          ∃ t, exec (.hostPostedWrite port 1 addr data) s = .next t
            ∧ (t.port port).held = p.held ++ [{ stamp := p.stamp + 1, target := 1, addr := addr, data := data }]))
      ∧ (∀ w, p.held.find? (fun w => w.stamp = stamp) = some w → stamp ≤ p.horizonA →
          (∀ x, x ∈ p.held → x.target = w.target → stamp ≤ x.stamp) →
          (w.target = 0 → w.addr % 8 = 0 → w.data.length = 8 → w.applied = false → s.resvs = [] → s.pendRegs = []
              → s.hostSlots w.addr 8 = true →
            ∃ t, exec (.hostWritePerform port stamp) s = .next t ∧ t.homeWord w.addr = leWord w.data
              ∧ tfind t.owners (w.addr / 8) = some (1024 + port)
              ∧ (s.notices = [] → (∀ o, tfind s.owners (w.addr / 8) = some o → 1024 ≤ o) →
                ∀ x, x ∈ (t.port port).held → x.stamp ≠ stamp))
          ∧ (w.target = 2 → w.addr = 0 → 8 ≤ w.data.length → p.mbBusy = false →
            ∃ t, exec (.hostWritePerform port stamp) s = .next t ∧ (t.port port).mbBusy = true
              ∧ (t.port port).mbCmd = leWord (w.data.take 8) ∧ t.svc.mboxQueue = s.svc.mboxQueue ++ [port]))
      ∧ (port < 4 → 0 < len → len ≤ 4096 → p.stamp ≤ p.horizonH →
          (addr < 2 ^ 52 → s.svc.safe = false →
            (s.hostMay port addr len false = true → s.hostSlots addr len = true → ∀ bs s1, homeRead addr len 0 s = .ok bs s1 →
              ∃ t, exec (.hostRead port addr len) s = .next t ∧ (t.port port).lastRead = bs ∧ (t.port port).lastPoison = false
                ∧ bs = mread s.mem addr len ∧ ∀ v, v < 2 ^ 60 → mget t.mem v = mget s.mem v)
            ∧ (s.hostMay port addr len false = false →
              ∃ t, exec (.hostRead port addr len) s = .next t ∧ (t.port port).lastPoison = true
                ∧ refusals t = min 65535 (refusals s + 1)))
          ∧ (addr < 2 ^ 52 → s.svc.safe = true →
            ∃ t, exec (.hostRead port addr len) s = .next t ∧ (t.port port).lastRead = List.replicate len 0xFF)
          ∧ (addr = 2 ^ 52 + 8 → len = 8 →
            ∃ t, exec (.hostRead port addr len) s = .next t
              ∧ (t.port port).lastRead = leBytes 8 (b2n p.mbBusy + 256 * p.mbResult)))
      ∧ (port < 4 → addr < 4096 →
          (∃ t, exec (.pcieConfigAccess port addr false len) s = .next t ∧ (t.port port).lastRead.length = 4 ∧ t.mem = s.mem
            ∧ ∃ u, exec (.pcieConfigAccess port addr false len) t = .next u ∧ (u.port port).lastRead = (t.port port).lastRead)
          ∧ (∃ t, exec (.pcieConfigAccess port addr true len) s = .next t ∧ t.mem = s.mem ∧ ∀ q, q ≠ port → t.port q = s.port q))
      ∧ (first 1 → ∃ t, exec (.mboxStatus port) s = .next t ∧ served t 0
          ∧ t.area port 0x40 16 = leBytes 8 s.svstat.toNat ++ leBytes 8 s.presentMask)
      ∧ (first 2 → ∃ t, exec (.logread port) s = .next t ∧ served t 0
          ∧ t.svc.diagNext = s.svc.diagNext + min 64 (s.svc.diag.length - s.svc.diagNext)
          ∧ let es := (((s.svc.diag.drop s.svc.diagNext).take 64).flatMap (fun e => e)).take 4032
            t.area port 0x40 es.length = es)
      ∧ (first 3 → ∃ t, exec (.stage port) s = .next t ∧ served t 0
          ∧ ∀ i, i < 4032 → tget 0 t.svc.flash (bits p.mbCmd 63 8 + i) = tget 0 p.mbArea (0x40 + i))
      ∧ (first 4 → ∃ t, exec (.mboxBoot port) s = .next t ∧ t.cores = [] ∧ t.svc.lifecycle = s.svc.lifecycle
          ∧ t.svc.portOpen = s.svc.lifecycle.opensPort)
      ∧ (first 5 → s.hostAllowed port = true → ∀ s', (s.setPctl 0x2C9 arg).dcmd (bits p.mbCmd 15 8) = some s' →
          ∃ t, exec (.dcmd port) s = .next t ∧ (t.port port).mbBusy = false
            ∧ (t.port port).mbResult = (s'.pctl 0x2CB).toNat % 256 ∧ t.disp = s'.disp
            ∧ t.pctl 0x2CB = s'.pctl 0x2CB)
      ∧ (first 6 → s.hostAllowed port = true → ∃ t, exec (.route port) s = .next t ∧ served t 0
          ∧ ∀ q, q < 12 → (q ∈ tget [] (t.switch (bits arg 16 16)).routes (bits arg 9 0)
              ↔ q / 6 = bits arg 16 16 ∧ bit arg (32 + q % 6) = true))
      ∧ (s.mbFirst port = true → 6 < s.mbCode port ∨ (5 ≤ s.mbCode port ∧ s.hostAllowed port = false) →
          ∃ t, exec (.mboxBadCommand port) s = .next t ∧ served t 0xFF ∧ t.mem = s.mem ∧ t.disp = s.disp ∧ t.fabric = s.fabric)

/-! ### The fabric -/

/-- R182, R327, R330, R341, R344 to R348, R349, R350, R359: a packet takes one hop or fails the membership check; a line reaches the
copies that joined; the escape channel; a flit's check; the frame's reservations; the time of day; a channel's slots, the writes
behind the Sagger's spill way, and an update at its home.  How many packets a buffer holds and which open channel set a packet takes
are free constants, and a cycle of the links is one of the reference clock: the model's choice (log 87).  How a step of the time of day
counts the slots it passes is its reading (log 91), and which unit key a link's error names its choice (log 36). -/
def Obligations.FabricSteps : Prop :=
  ∀ (s : State) (pkt link secs nanos n : Nat),
    (∀ p, s.packet pkt = some p →
        let to_ := routerOf (lget 0 p.dsts 0)
        let next := nextHop p.x p.y to_.1 to_.2
        let at_ := (p.x, p.y)
        ((∀ pa d j, p.payload ≠ .line pa d j) → p.there = false → s.atHead p = true → p.ahead = none →
          (∀ b vc, s.output p = some (b, vc) → b ∈ productive p.x p.y to_.1 to_.2
            ∧ (s.passes p b = true → s.mayCross p at_ b = true →
              ∃ t, exec (.packetRoute pkt) s = .next t
                ∧ t.packet pkt = some (if p.payload.flits = 1
                    then { p with x := b.1, y := b.2, hx := p.x, hy := p.y, vc := vc, waited := 0 } else { p with ahead := some (b, vc) }))
            ∧ (s.passes p b = true → s.mayCross p at_ b = false → exec (.packetRoute pkt) s = .next s)
            ∧ (∀ r ea k rd d len w c, s.passes p b = false → p.payload = .fe r → (s.st r.sid).wait = .fe ea k rd d len w c →
              ∃ t, exec (.packetRoute pkt) s = .next t ∧ t.packet pkt = none
                ∧ tget 0 t.fabric.refusals (p.y * 16 + p.x) = tget 0 s.fabric.refusals (p.y * 16 + p.x) + 1
                ∧ TrapRegs (s.st r.sid) (t.st r.sid) (causeWord false false false 5 3) ea (s.st r.sid).pc))
          ∧ (s.output p = none → s.passes p next = true → exec (.packetRoute pkt) s = .next s))
        ∧ (∀ b vc, p.ahead = some (b, vc) →
          (s.mayCross p at_ b = true → ∃ t, exec (.packetRoute pkt) s = .next t
              ∧ t.packet pkt = some { p with x := b.1, y := b.2, hx := p.x, hy := p.y, vc := vc, waited := 0, ahead := none })
            ∧ (s.mayCross p at_ b = false → exec (.packetRoute pkt) s = .next s))
        ∧ (∀ pa bs joined core, p.payload = .line pa bs joined → p.dsts = [core] → routerOf core = at_ → s.atHead p = true → p.ahead = none →
          ∃ t, exec (.packetRoute pkt) s = .next t ∧ t.packet pkt = none
            ∧ ∀ ent k, tfind (s.core core).copies ent = some k → joined.contains (core, k.id) = true →
                tfind (t.core core).copies ent = some { k with lines := tput k.lines (pa / 64) bs })
        ∧ (let vc := s.channelBase p.cls p.tenant
          (s.blocked p = true → s.escWait p.x p.y ≤ p.waited → 0 < s.credits at_ next p.cls.row vc → s.passes p next = true
              → s.mayCross p at_ next = true →
            ∃ t, exec (.escapeChannelMove pkt) s = .next t
              ∧ t.packet pkt = some (if p.payload.flits = 1
                  then { p with x := next.1, y := next.2, hx := p.x, hy := p.y, vc := vc, waited := 0, escaped := true }
                  else { p with ahead := some (next, vc), escaped := true }))
          ∧ (s.blocked p = false ∨ p.waited < s.escWait p.x p.y → exec (.escapeChannelMove pkt) s = .next s)))
      ∧ (let n := tget 0 s.fabric.replays link
        (∃ t, exec (.flitReceive link true) s = .next t ∧ tget 0 t.fabric.replays link = 0)
          ∧ (link < 65536 → ∃ t, exec (.flitReceive link false) s = .next t
            ∧ (n < 8 → tget 0 t.fabric.replays link = n + 1
              ∧ (tget {} t.svc.units (unitKey 8 link)).count = (tget {} s.svc.units (unitKey 8 link)).count + 1)
            ∧ (8 ≤ n → tget 0 t.fabric.replays link = 0 ∧ tget 0 t.fabric.retrains link = tget 0 s.fabric.retrains link + 1)))
      ∧ (∃ t, exec .linkFrameBoundary s = .next t
          ∧ ∀ k r, tfind s.fabric.vcres k = some r →
              tfind t.fabric.vcres k = some { r with live := r.live || decide (r.frame < s.clock / 16) })
      ∧ (let given := secs * 1000000000 + nanos
        s.devTime.running = true → s.devTime.pps = false →
          (s.time + 1000000 < given → ∃ t, exec (.ptpMessageReceive secs nanos) s = .next t ∧ t.time = given
              ∧ ((∀ f, f ∈ s.disp.firing → f.2.valid = true → s.timeSlot < f.2.next) →
                ∀ i e, tfind s.disp.firing i = some e → e.valid = true → 0 < e.period → e.next ≤ given / 10000 →
                let k := (given / 10000 - e.next) / e.period + 1
                tfind t.disp.firing i = some { e with skip := e.skip + BitVec.ofNat 32 k, next := e.next + k * e.period }))
            ∧ (given ≤ s.time + 1000000 → ∃ t, exec (.ptpMessageReceive secs nanos) s = .next t ∧ t.time = s.time
              ∧ t.devTime.ppb.natAbs ≤ 100000))
      ∧ (s.devTime.running = true → ∃ t, exec .ppsEdge s = .next t ∧ t.devTime.pps = true ∧ s.time ≤ t.time
          ∧ (500000000 ≤ s.time % 1000000000 → s.time % 1000000000 < 999000000 → t.time % 1000000000 = 0
              ∧ t.time < s.time + 1000000000))
      ∧ (∃ t e, exec .timeSyncLoss s = .next t ∧ t.devTime.holdover = true ∧ t.devTime.pps = false ∧ t.time = s.time
          ∧ t.svc.events.getLast? = some e ∧ bits e 7 0 = 5)
      ∧ (let d := s.die n
        (∀ q, d.spillWait.find? (fun q => !(d.writeback.any (fun w => w.1 = q.occ)) && !(d.spillWait.any (fun r => r.line.pa = q.occ)))
              = some q → d.spillWait.any (fun r => r.occ = q.line.pa) = false →
            ∃ t, exec (.spillWritebackDone n) s = .next t ∧ q.line ∈ (t.die n).sagger
              ∧ (t.die n).spillWait = d.spillWait.filter (fun r => r.line.pa ≠ q.line.pa)
              ∧ tget 0 (t.die n).counters 0 = (tget 0 d.counters 0 + 1) % 2 ^ 64)
          ∧ ((∀ q, q ∈ d.spillWait → ∃ w, w ∈ d.writeback ∧ w.1 = q.occ) → exec (.spillWritebackDone n) s = .next s))
      ∧ (n < 512 →
          let d := s.die (n / 64)
          let now := tget 0 d.chanNow (n % 64)
          let slot := s.clock / 32 % 64
          now ≠ slot →
          ∃ t, exec (.channelSlotBoundary n) s = .next t ∧ tget 0 (t.die (n / 64)).chanNow (n % 64) = slot
            ∧ (t.die (n / 64)).writeback.Sublist d.writeback
            ∧ ∀ w, d.writeback = [w] → (s.channelOf w.1).1 = n / 64 → (s.channelOf w.1).2.1 = n % 64
                → d.mayIssue (n % 64) slot (some w.2) = true → s.bankBusy (some w.2) (s.bankOf w.1) = false
                → (t.die (n / 64)).writeback = [])
      ∧ (∀ u bs s1, s.updates[n]? = some u → s.reserved u.pa = none → s.wordQueued u.pa = false → u.pa % 8 + u.size ≤ 8 → u.pa < 2 ^ 60
          → (s.updates.take n).any (fun o => o.core = u.core && o.slot = u.slot && o.pa / 8 = u.pa / 8) = false
          → s.slotOpen (some (s.tenantOf u.core)) u.pa = true
          → homeRead u.pa u.size u.key { s with updates := s.updates.eraseIdx n } = .ok bs s1 →
          ∃ t, exec (.vamoVrdmElementAtHome n) s = .next t ∧ t.updates = s.updates.eraseIdx n
            ∧ mread t.mem u.pa u.size = leBytes u.size (redOp u.efmt u.op u.uns (8 * u.size) .rne (leNat bs) u.data.toNat).1
            ∧ ∀ a, a < 2 ^ 60 → a < u.pa ∨ u.pa + u.size ≤ a → mget t.mem a = mget s.mem a)

/-! ### Power, calibration and errors -/

/-- R420, R421, R424 to R429: power-on and package reset, the end of reduced service, errors and their units, and the power cap's
moves, each of which leaves an island's count of cycles as it was.  Which unit a reported error names by which kind and index is the
model's choice (log 36); what power-on and a package reset keep is its reading of the rules (log 35), and that scratchpads read zero after power-on its
choice (log 3). -/
def Obligations.PowerAndErrors : Prop :=
  ∀ (s : State) (die kind unit island : Nat),
    let boots := fun (t : State) => t.cores = [] ∧ t.disp = {} ∧ t.svc.lifecycle = s.svc.lifecycle
      ∧ t.svc.portOpen = s.svc.lifecycle.opensPort ∧ t.pkg = s.pkg ∧ t.svc.nonce = none
    let lastEvent := fun (t : State) (k : Nat) => ∃ e, t.svc.events.getLast? = some e ∧ bits e 7 0 = k
    let e := tget {} s.svc.units (unitKey kind unit)
    let moves := fun (i : Instr) (k point : Nat) => ∃ t, exec i s = .next t ∧ (t.island k).point = point
      ∧ (t.island k).locked = false ∧ t.cyclesOf k = s.cyclesOf k
    (∃ t, exec .powerOn s = .next t ∧ boots t ∧ ∀ a, isHostPa a = false → mget t.mem a = 0)
      ∧ (∃ t, exec .packageReset s = .next t ∧ boots t
          ∧ ((∀ e, e ∈ s.dies → (∀ u, u ∈ e.2.l2 → ∀ x, x ∈ u.2 → x.under = none) ∧ (∀ l, l ∈ e.2.sagger → l.old = none)
              ∧ ∀ q, q ∈ e.2.spillWait → q.line.old = none) → ∀ a, a < 2 ^ 52 → mget t.mem a = mget s.mem a))
      ∧ (die < 8 → (s.die die).absent = false → (s.die die).full = false →
          ∃ t, exec (.calibrationComplete die) s = .next t ∧ (t.die die).full = true ∧ t.devTime.running = true ∧ t.time = s.time
            ∧ ∀ i, i ∈ islandsOfDie die → (t.island i).point = 17 ∧ t.cyclesOf i = s.cyclesOf i)
      ∧ (unitExists kind unit = true →
          (∃ t, exec (.correctedErrorEvent kind unit false) s = .next t
              ∧ (tget {} t.svc.units (unitKey kind unit)).count = e.count + 1)
            ∧ (kind = 1 → s.sagLine (unit * 32) = none → ∃ t, exec (.correctedErrorEvent kind unit true) s = .next t ∧ unit * 32 ∈ t.broken
              ∧ let c := s.channelOf (unit * 32)
                (tget {} t.svc.units (unitKey 2 (c.1 * 64 + c.2.1))).lasting = true))
      ∧ (s.svc.retiring.any (fun r => r.kind = kind && r.unit = unit) = true → kind ≠ 5 ∨ s.laneFree (unit / 8) = true →
          ∃ t, exec (.spareTakeover kind unit) s = .next t ∧ lastEvent t 3
            ∧ t.svc.retiring.any (fun r => r.kind = kind && r.unit = unit) = false)
      ∧ (island < 640 → (s.island island).locked = false →
          ((s.island island).point = 17 → moves (.powerCapLower island) island 15)
            ∧ ((s.island island).point = 15 → moves (.powerCapLower island) island 12)
            ∧ ((s.island island).point = 12 → moves (.powerCapLower island) island 8))
      ∧ (s.svc.capLowered.find? (fun i => !(s.island i).locked) = some island →
          ((s.island island).point = 8 → moves .powerCapRaise island 12)
            ∧ ((s.island island).point = 12 → moves .powerCapRaise island 15)
            ∧ ((s.island island).point = 15 → moves .powerCapRaise island 17))
      ∧ (∀ tn r, s.lockHolder island = some (tn, r) → (s.island island).locked = true
          → (∀ i, i < 640 → (s.die (dieOfIsland i)).absent = true ∨ (s.island i).locked = true ∨ (s.island i).point = 8) →
          ∃ t, exec (.lockBroken island) s = .next t ∧ lastEvent t 7
            ∧ tfind t.disp.dets tn = some { r with locked := false }
            ∧ ∀ i, i ∈ s.resIslands tn r.whole
                → (∀ o, o ∈ s.disp.dets → o.1 ≠ tn → o.2.locked = true → i ∉ s.resIslands o.1 o.2.whole) → (t.island i).locked = false)

/-! ### Privilege -/

/-- R59, R111, R112, R130: an instruction of a higher mode than the strand's takes ILLEGAL with its word; so does AMRET on a compute
strand, a matrix instruction on a stream core, any use of a control register that the mode does not have, and a write of one it
may only read. -/
def Obligations.PrivilegedInstructions : Prop :=
  ∀ (s : State) (rd rs1 rs2 : BitVec 6) (c b a : BitVec 5) (oxb : BitVec 3) (sat : BitVec 1) (reg : BitVec 10), s.cur.vq = [] →
    let traps := fun (i : Instr) => Traps s i 0 1 (wordOf i)
    let access := ctlAccess s.curCore reg.toNat s.cur.status.mode
    (s.cur.status.mode = .task →
        traps .rett ∧ traps .waiti ∧ traps .halt ∧ traps (.ipi rs1 rs2) ∧ traps (.ctxsave rd rs1 rs2)
          ∧ traps (.ctxload rd rs1 rs2) ∧ traps (.ftset c b a oxb) ∧ traps (.migr c b a) ∧ traps (.plbinv a)
          ∧ traps (.tlbinv b a) ∧ traps (.pgwake c a) ∧ traps (.pgqry c a) ∧ traps (.pgpin c b a) ∧ traps (.mscfl c b a)
          ∧ traps (.attest c b a))
      ∧ (s.cur.status.mode ≠ .monitor →
        traps (.tenset c b a) ∧ traps (.vcres c b a) ∧ traps (.hbmslot c b a) ∧ traps (.keynew c a) ∧ traps (.keydel c a)
          ∧ traps (.dbgunlk c a))
      ∧ (s.curSlot ≠ 4 → traps .amret)
      ∧ (isStreamCore s.curCore = true → 
        traps (.mzero c) ∧ traps (.mhdr c a) ∧ traps (.mop c b a sat) ∧ traps (.mopd c b a sat) ∧ traps (.mops c b a sat)
          ∧ traps (.mmas c b a oxb sat) ∧ traps (.mwr c b a) ∧ traps (.mld c a oxb) ∧ traps (.mst c b a oxb) ∧ traps (.mwait c)
          ∧ traps (.mprg c b) ∧ traps (.mrd c b a))
      ∧ (access = .none → traps (.ctlr rd reg) ∧ traps (.ctlw rd rs1 reg) ∧ traps (.ctlset rd rs1 reg) ∧ traps (.ctlclr rd rs1 reg))
      ∧ (access = .ro → traps (.ctlw rd rs1 reg) ∧ traps (.ctlset rd rs1 reg) ∧ traps (.ctlclr rd rs1 reg))

/-! ### The whole machine -/

/-- R99, R108, R112, R113, R271, R421: right after reset every strand is FREE in monitor mode, every control register to which the
spec gives a reset value reads as it, every vector header is that of a fresh register, and every full/empty bit is empty.  Only values the spec
gives are stated. -/
def Obligations.ResetState : Prop :=
  memOk State.reset
    ∧ (∀ sid, (State.reset.st sid).st = .free ∧ (State.reset.st sid).status.mode = .monitor ∧ State.reset.readCtl sid 0x000 = 2
      ∧ State.reset.readCtl sid 0x00C = BitVec.allOnes 64 ∧ State.reset.readCtl sid 0x021 = 1
      ∧ State.reset.readCtl sid 0x033 = 0x100000 ∧ State.reset.readCtl sid 0x034 = 0x10000
      ∧ State.reset.readCtl sid 0x2C3 = 0xFFFF ∧ State.reset.readCtl sid 0x204 = 0x200
      ∧ (∀ n, n ∈ [0x001, 0x002, 0x003, 0x004, 0x005, 0x006, 0x007, 0x008, 0x009, 0x00A, 0x00B, 0x010, 0x011, 0x012, 0x013, 0x014,
            0x020, 0x030, 0x031, 0x032, 0x035, 0x036, 0x037, 0x038, 0x040, 0x041, 0x044, 0x045, 0x051, 0x052, 0x100, 0x101, 0x102,
            0x108, 0x109, 0x10A, 0x10B, 0x10C, 0x10E, 0x140, 0x141, 0x142, 0x180, 0x181, 0x182, 0x1C0, 0x1C1, 0x1C2, 0x1C4, 0x1C5,
            0x1C6, 0x1C7, 0x1C8, 0x200, 0x201, 0x202, 0x203, 0x240, 0x241, 0x242, 0x243, 0x244, 0x245, 0x248, 0x249, 0x24A, 0x24C,
            0x24D, 0x281, 0x283, 0x285, 0x2C0, 0x2C1, 0x2C2, 0x2C4, 0x2C8, 0x2C9, 0x2CB, 0x300, 0x301, 0x302] →
          State.reset.readCtl sid n = 0)
      ∧ ∀ n, (State.reset.st sid).vhr n = { efmt := 0, rawsz := 3, count := 0 })
    ∧ (∀ core, (State.reset.core core).last = 4)
    ∧ ∀ a, State.reset.isFull a = false

/-- R40, R43, R59, R60, R107: a step in which a ready strand's turn comes runs the instruction that the word at its pc decodes to: with
no breakpoint of the strand, the state is the one exec gives, marked as issued.  A word that decodes to none takes ILLEGAL.  Whose turn
it is comes from the model's schedule (log 6); the statement holds for every schedule. -/
def Obligations.StepRunsDecodedInstruction : Prop :=
  ∀ (s s' : State) (core slot w : Nat) (rest : List Turn), s.sched = .issue core slot :: rest → slot < 5 →
    let sid := core * 8 + slot
    let s0 := { s with sched := rest, curCore := core, curSlot := slot }
    let a := s0.st sid
    a.st = .run → a.wait = .none → a.async = [] → a.readyAt ≤ s0.cycleOf core → s0.heldAtIssue core slot = false
      → (slot = 4 → (s0.core core).amRun.isSome = true) → s0.interruptDue sid = none → a.replayed = none
      → fetchWord (s0.forgetWalks sid 0) = .ok w s' →
      (∀ i, decodeWord w = .ok i →
        step s = runInstr i (if vectorStream i && s'.cur.replay.complete then s'.modCur Strand.dropReplay else s')
          ∧ (s'.cur.replay.complete = false → (s'.st sid).bpArmed = none → s'.breakpoints sid = [] → s'.curSid = sid →
              ∀ t, exec i s' = .next t → t.breakpoints sid = [] →
                ((t.st sid).wait = .poll → step s = .next (t.modSt sid (fun x => { x with issued := true, flying := some i })))
                  ∧ ((t.st sid).wait ≠ .poll → (t.st sid).wait ≠ .again → (∀ l, (t.st sid).wait ≠ .flight l) →
                    step s = .next (t.modSt sid (fun x => { x with issued := true, flying := none })))))
        ∧ ((∀ i, decodeWord w ≠ .ok i) → (s'.st sid).vq = [] → (s'.st sid).bpArmed = none → s'.breakpoints sid = [] → s'.curSid = sid →
          ∃ t, step s = .next t
            ∧ TrapRegs (s'.st sid) (t.st sid) (causeWord false false false 0 1) (BitVec.ofNat 64 w) (s'.st sid).pc)

/-- R40 to R42, R46, R48: words written out from the encodings of spec/ decode to their instructions. -/
def Obligations.DecodeWords : Prop :=
  decodeWord 0x0050C303 = .ok (.add 3 3 5)
    ∧ decodeWord 0xFFF14505 = .ok (.addi 5 5 0xFFF)
    ∧ decodeWord 0x3950 = .ok (.cLi 5 7)
    ∧ decodeWord 0x05100563 = .ok (.ctlr 5 0x051)
    ∧ decodeWord 0x000000B1 = .ok (.mzero 0)
    ∧ decodeWord 0x0006CE47 = .ok (.ldfe 14 27)
    ∧ decodeWord 0x10000069 = .ok .fenceA
    ∧ (∀ i, decodeWord 0 ≠ .ok i)

/-- R40 to R42 and the encodings of spec/: the encoding of every well-formed instruction decodes to it, and every word that
decodes is the encoding of the well-formed instruction it gives.  Nothing of a word is dropped, and no two words are one
instruction. -/
def Obligations.EncodeDecode : Prop :=
  (∀ (i : Instr) (n w : Nat), i.wellFormed = true → encode i = some (n, w) →
      decodeWord w = .ok i ∧ w < 2 ^ n ∧ n = 8 * wordLen w)
    ∧ ∀ (i : Instr) (w : Nat), w < 2 ^ 32 → decodeWord w = .ok i →
      i.wellFormed = true ∧ encode i = some (8 * wordLen w, w % 2 ^ (8 * wordLen w))

/-- R43, R59, R60: every instruction and every step of an engine leads to a next state, in every state, and so does every step of the
machine: a trap is a next state, and nothing stops the machine. -/
def Obligations.EveryStepGoesOn : Prop :=
  (∀ (i : Instr) (s : State), ∃ t, exec i s = .next t) ∧ ∀ s : State, Steps s

/-- The memory keeps its canonical form at every step: addresses strictly rising, and no listed byte equal to what an unlisted
address reads as.  The canonical form is the model's own representation (log 3). -/
def Obligations.MemoryStaysCanonical : Prop :=
  ∀ s t : State, memOk s → step s = .next t → memOk t
end

