-- ==== Sys2Proof/Laws/Table.lean ====
section
/-! SUPPORT. Tables and the byte memory: reading after writing, and the canonical form kept. -/

namespace Sys2Proof.Machine

/-! ### Tables -/

@[simp] theorem tget_nil {α : Type} (d : α) (k : Nat) : tget d ([] : Table α) k = d := rfl

@[simp] theorem tfind_nil {α : Type} (k : Nat) : tfind ([] : Table α) k = none := rfl

/-- A key reads what was put there. -/
@[simp] theorem tget_tput_same {α : Type} (d : α) (t : Table α) (k : Nat) (v : α) : tget d (tput t k v) k = v := by
  induction t with
  | nil => simp [tput, tget]
  | cons e r ih =>
    obtain ⟨k', v'⟩ := e
    by_cases h : k = k'
    · simp [tput, tget, h]
    · by_cases h2 : k < k'
      · simp [tput, tget, h, h2]
      · simp [tput, tget, h, h2, ih]

/-- Another key reads what it read before. -/
theorem tget_tput_ne {α : Type} (d : α) (t : Table α) (k j : Nat) (v : α) (h : j ≠ k) : tget d (tput t k v) j = tget d t j := by
  induction t with
  | nil => simp [tput, tget, h]
  | cons e r ih =>
    obtain ⟨k', v'⟩ := e
    by_cases h1 : k = k'
    · subst h1; simp [tput, tget, h]
    · by_cases h2 : k < k'
      · simp [tput, tget, h1, h2, h]
      · simp [tput, tget, h1, h2, ih]

/-- Any key after a put. -/
theorem tget_tput {α : Type} (d : α) (t : Table α) (k j : Nat) (v : α) :
    tget d (tput t k v) j = if j = k then v else tget d t j := by
  by_cases h : j = k
  · subst h; simp
  · simp [h, tget_tput_ne]

@[simp] theorem tfind_tput_same {α : Type} (t : Table α) (k : Nat) (v : α) : tfind (tput t k v) k = some v := by
  induction t with
  | nil => simp [tput, tfind]
  | cons e r ih =>
    obtain ⟨k', v'⟩ := e
    by_cases h : k = k'
    · simp [tput, tfind, h]
    · by_cases h2 : k < k'
      · simp [tput, tfind, h, h2]
      · simp [tput, tfind, h, h2, ih]

theorem tfind_tput_ne {α : Type} (t : Table α) (k j : Nat) (v : α) (h : j ≠ k) : tfind (tput t k v) j = tfind t j := by
  induction t with
  | nil => simp [tput, tfind, h]
  | cons e r ih =>
    obtain ⟨k', v'⟩ := e
    by_cases h1 : k = k'
    · subst h1; simp [tput, tfind, h]
    · by_cases h2 : k < k'
      · simp [tput, tfind, h1, h2, h]
      · simp [tput, tfind, h1, h2, ih]

/-- Two puts of one key: the later one counts. -/
@[simp] theorem tput_tput {α : Type} (t : Table α) (k : Nat) (v w : α) : tput (tput t k v) k w = tput t k w := by
  induction t with
  | nil => simp [tput]
  | cons e r ih =>
    obtain ⟨k', v'⟩ := e
    by_cases h : k = k'
    · simp [tput, h]
    · by_cases h2 : k < k'
      · simp [tput, h, h2]
      · simp [tput, h, h2, ih]

/-- A key that was taken out reads the default. -/
@[simp] theorem tget_tdel_same {α : Type} (d : α) (t : Table α) (k : Nat) : tget d (tdel t k) k = d := by
  induction t with
  | nil => rfl
  | cons e r ih =>
    obtain ⟨k', v'⟩ := e
    by_cases h : k' = k
    · simpa [tdel, h] using ih
    · simpa [tdel, h, tget, Ne.symm h] using ih

theorem tget_tdel_ne {α : Type} (d : α) (t : Table α) (k j : Nat) (h : j ≠ k) : tget d (tdel t k) j = tget d t j := by
  induction t with
  | nil => rfl
  | cons e r ih =>
    obtain ⟨k', v'⟩ := e
    by_cases h1 : k' = k
    · subst h1; simpa [tdel, tget, h] using ih
    · by_cases h2 : j = k'
      · subst h2; simp [tdel, tget, h]
      · simpa [tdel, tget, h1, h2] using ih

@[simp] theorem tfind_tdel_same {α : Type} (t : Table α) (k : Nat) : tfind (tdel t k) k = none := by
  induction t with
  | nil => rfl
  | cons e r ih =>
    obtain ⟨k', v'⟩ := e
    by_cases h : k' = k
    · simpa [tdel, h] using ih
    · simpa [tdel, h, tfind, Ne.symm h] using ih

/-! ### The memory's canonical form -/

/-- A memory that rises from a bound rises from every lower one. -/
theorem risingFrom_mono (m : Memory) (a b : Nat) (h : a ≤ b) (hm : risingFrom (some b) m = true) : risingFrom (some a) m = true := by
  cases m with
  | nil => rfl
  | cons e r =>
    obtain ⟨k, v⟩ := e
    simp only [risingFrom, Bool.and_eq_true, decide_eq_true_eq] at hm ⊢
    exact ⟨⟨by omega, hm.1.2⟩, hm.2⟩

theorem risingFrom_none (m : Memory) (a : Nat) (hm : risingFrom (some a) m = true) : risingFrom none m = true := by
  cases m with
  | nil => rfl
  | cons e r =>
    obtain ⟨k, v⟩ := e
    simp only [risingFrom, Bool.and_eq_true, decide_eq_true_eq] at hm ⊢
    exact ⟨⟨trivial, hm.1.2⟩, hm.2⟩

/-- Leaving entries out keeps the form above a bound. -/
theorem filter_rising (m : Memory) (lo : Nat) (p : Host.Cell → Bool) (hm : risingFrom (some lo) m = true) :
    risingFrom (some lo) (m.filter p) = true := by
  induction m generalizing lo with
  | nil => simp [risingFrom]
  | cons e r ih =>
    obtain ⟨k, v⟩ := e
    simp only [risingFrom, Bool.and_eq_true, decide_eq_true_eq] at hm
    obtain ⟨⟨h1, h2⟩, h3⟩ := hm
    by_cases hp : p (k, v) = true
    · simp [hp, risingFrom, h1, ih k h3] at h2 ⊢; exact h2
    · simp only [List.filter_cons, hp]
      exact ih lo (risingFrom_mono r lo k (by omega) h3)

/-- Forgetting bytes keeps the canonical form. -/
theorem filter_wf (m : Memory) (p : Host.Cell → Bool) (hm : Memory.wf m = true) : Memory.wf (m.filter p) = true := by
  cases m with
  | nil => rfl
  | cons e r =>
    obtain ⟨k, v⟩ := e
    simp only [Memory.wf, risingFrom, Bool.and_eq_true, Bool.true_and] at hm
    obtain ⟨h2, h3⟩ := hm
    by_cases hp : p (k, v) = true
    · simp [hp, Memory.wf, risingFrom, filter_rising r k p h3] at h2 ⊢; exact h2
    · simp only [List.filter_cons, hp]
      exact risingFrom_none _ k (filter_rising r k p h3)

/-- Setting a byte that is not 0 above a bound keeps the form above it. -/
theorem tput_rising (m : Memory) (lo a : Nat) (b : Byte) (hb : b ≠ 0#8) (h : lo < a) (hm : risingFrom (some lo) m = true) :
    risingFrom (some lo) (tput m a b) = true := by
  induction m generalizing lo with
  | nil => simp [tput, hb, risingFrom, h]
  | cons e r ih =>
    obtain ⟨k, v⟩ := e
    simp only [risingFrom, Bool.and_eq_true, decide_eq_true_eq] at hm
    obtain ⟨⟨h1, h2⟩, h3⟩ := hm
    by_cases hk : a = k
    · subst hk
      simp [tput, hb, risingFrom, h, h3]
    · by_cases hl : a < k
      · simp [tput, hk, hl, hb, risingFrom, h, h3] at h2 ⊢; exact h2
      · have := ih k (by omega) h3
        simp [tput, hk, hl, risingFrom, h1, this] at h2 ⊢; exact h2

/-- Writing a byte keeps the canonical form. -/
theorem mput_wf (m : Memory) (a : Nat) (b : Byte) (hm : Memory.wf m = true) : Memory.wf (mput m a b) = true := by
  by_cases hb : b = 0#8
  · simpa [mput, hb, tdel] using filter_wf m _ hm
  · simp only [mput, BitVec.ofNat_eq_ofNat, hb, if_false]
    cases m with
    | nil => simp [tput, Memory.wf, risingFrom, hb]
    | cons e r =>
      obtain ⟨k, v⟩ := e
      simp only [Memory.wf, risingFrom, Bool.and_eq_true, Bool.true_and] at hm
      obtain ⟨h2, h3⟩ := hm
      by_cases hk : a = k
      · subst hk
        simp [tput, hb, Memory.wf, risingFrom, h3]
      · by_cases hl : a < k
        · simp [tput, hk, hl, hb, Memory.wf, risingFrom, h3] at h2 ⊢; exact h2
        · have := tput_rising r k a b hb (by omega) h3
          simp [tput, hk, hl, Memory.wf, risingFrom, this] at h2 ⊢; exact h2

/-- Writing bytes keeps the canonical form. -/
theorem mwrite_wf (m : Memory) (a : Nat) (bs : List Byte) (hm : Memory.wf m = true) : Memory.wf (mwrite m a bs) = true := by
  induction bs generalizing m a with
  | nil => simpa [mwrite] using hm
  | cons b r ih => exact ih _ _ (mput_wf m a b hm)

/-- Writing a word under a mask keeps the canonical form. -/
theorem maskWrite_wf (m : Memory) (a : Nat) (mask : BitVec 8) (x : Word) (hm : Memory.wf m = true) :
    Memory.wf (maskWrite m a mask x) = true := by
  unfold maskWrite
  generalize List.range 8 = l
  induction l generalizing m with
  | nil => simpa using hm
  | cons i r ih =>
    simp only [List.foldl_cons]
    apply ih
    split
    · exact mput_wf _ _ _ hm
    · exact hm

/-- The byte written is read. -/
@[simp] theorem mget_mput_same (m : Memory) (a : Nat) (b : Byte) : mget (mput m a b) a = b := by
  by_cases hb : b = 0#8
  · subst hb; simp [mget, mput]
  · simp [mget, mput, hb]

/-- Every other byte reads as before. -/
theorem mget_mput_ne (m : Memory) (a x : Nat) (b : Byte) (h : x ≠ a) : mget (mput m a b) x = mget m x := by
  by_cases hb : b = 0#8
  · simpa [mget, mput, hb] using tget_tdel_ne 0#8 m a x h
  · simpa [mget, mput, hb] using tget_tput_ne 0#8 m a x b h

/-- Bytes outside a run written read as before. -/
theorem mget_mwrite_ne (m : Memory) (a x : Nat) (bs : List Byte) (h : x < a ∨ a + bs.length ≤ x) :
    mget (mwrite m a bs) x = mget m x := by
  induction bs generalizing m a with
  | nil => rfl
  | cons b r ih =>
    simp only [List.length_cons] at h
    rw [mwrite, ih _ _ (by omega), mget_mput_ne _ _ _ _ (by omega)]

end Sys2Proof.Machine
end

