-- ==== Sys2Proof/Laws/State.lean ====
section
/-! SUPPORT. What each named update of the state leaves: one lemma for each field and update, and reading back what was
written. -/

namespace Sys2Proof.Machine

/-! ### State.setCore -/

@[simp] theorem State.setCore_clusters (s : State) (c : Nat) (x : Core) : (s.setCore c x).clusters = s.clusters := rfl
@[simp] theorem State.setCore_dies (s : State) (c : Nat) (x : Core) : (s.setCore c x).dies = s.dies := rfl
@[simp] theorem State.setCore_mem (s : State) (c : Nat) (x : Core) : (s.setCore c x).mem = s.mem := rfl
@[simp] theorem State.setCore_full (s : State) (c : Nat) (x : Core) : (s.setCore c x).full = s.full := rfl
@[simp] theorem State.setCore_owners (s : State) (c : Nat) (x : Core) : (s.setCore c x).owners = s.owners := rfl
@[simp] theorem State.setCore_lineKey (s : State) (c : Nat) (x : Core) : (s.setCore c x).lineKey = s.lineKey := rfl
@[simp] theorem State.setCore_poison (s : State) (c : Nat) (x : Core) : (s.setCore c x).poison = s.poison := rfl
@[simp] theorem State.setCore_broken (s : State) (c : Nat) (x : Core) : (s.setCore c x).broken = s.broken := rfl
@[simp] theorem State.setCore_flawed (s : State) (c : Nat) (x : Core) : (s.setCore c x).flawed = s.flawed := rfl
@[simp] theorem State.setCore_resvs (s : State) (c : Nat) (x : Core) : (s.setCore c x).resvs = s.resvs := rfl
@[simp] theorem State.setCore_pendRegs (s : State) (c : Nat) (x : Core) : (s.setCore c x).pendRegs = s.pendRegs := rfl
@[simp] theorem State.setCore_notices (s : State) (c : Nat) (x : Core) : (s.setCore c x).notices = s.notices := rfl
@[simp] theorem State.setCore_updates (s : State) (c : Nat) (x : Core) : (s.setCore c x).updates = s.updates := rfl
@[simp] theorem State.setCore_merges (s : State) (c : Nat) (x : Core) : (s.setCore c x).merges = s.merges := rfl
@[simp] theorem State.setCore_scOps (s : State) (c : Nat) (x : Core) : (s.setCore c x).scOps = s.scOps := rfl
@[simp] theorem State.setCore_disp (s : State) (c : Nat) (x : Core) : (s.setCore c x).disp = s.disp := rfl
@[simp] theorem State.setCore_fabric (s : State) (c : Nat) (x : Core) : (s.setCore c x).fabric = s.fabric := rfl
@[simp] theorem State.setCore_svc (s : State) (c : Nat) (x : Core) : (s.setCore c x).svc = s.svc := rfl
@[simp] theorem State.setCore_ports (s : State) (c : Nat) (x : Core) : (s.setCore c x).ports = s.ports := rfl
@[simp] theorem State.setCore_shared (s : State) (c : Nat) (x : Core) : (s.setCore c x).shared = s.shared := rfl
@[simp] theorem State.setCore_caps (s : State) (c : Nat) (x : Core) : (s.setCore c x).caps = s.caps := rfl
@[simp] theorem State.setCore_halts (s : State) (c : Nat) (x : Core) : (s.setCore c x).halts = s.halts := rfl
@[simp] theorem State.setCore_holds (s : State) (c : Nat) (x : Core) : (s.setCore c x).holds = s.holds := rfl
@[simp] theorem State.setCore_pcr (s : State) (c : Nat) (x : Core) : (s.setCore c x).pcr = s.pcr := rfl
@[simp] theorem State.setCore_tcr (s : State) (c : Nat) (x : Core) : (s.setCore c x).tcr = s.tcr := rfl
@[simp] theorem State.setCore_devTime (s : State) (c : Nat) (x : Core) : (s.setCore c x).devTime = s.devTime := rfl
@[simp] theorem State.setCore_clock (s : State) (c : Nat) (x : Core) : (s.setCore c x).clock = s.clock := rfl
@[simp] theorem State.setCore_pkg (s : State) (c : Nat) (x : Core) : (s.setCore c x).pkg = s.pkg := rfl
@[simp] theorem State.setCore_curCore (s : State) (c : Nat) (x : Core) : (s.setCore c x).curCore = s.curCore := rfl
@[simp] theorem State.setCore_curSlot (s : State) (c : Nat) (x : Core) : (s.setCore c x).curSlot = s.curSlot := rfl
@[simp] theorem State.setCore_sched (s : State) (c : Nat) (x : Core) : (s.setCore c x).sched = s.sched := rfl
@[simp] theorem State.setCore_freeCtr (s : State) (c : Nat) (x : Core) : (s.setCore c x).freeCtr = s.freeCtr := rfl
@[simp] theorem State.setCore_nextId (s : State) (c : Nat) (x : Core) : (s.setCore c x).nextId = s.nextId := rfl

/-! ### State.modCore -/

@[simp] theorem State.modCore_clusters (s : State) (c : Nat) (f : Core → Core) : (s.modCore c f).clusters = s.clusters := rfl
@[simp] theorem State.modCore_dies (s : State) (c : Nat) (f : Core → Core) : (s.modCore c f).dies = s.dies := rfl
@[simp] theorem State.modCore_mem (s : State) (c : Nat) (f : Core → Core) : (s.modCore c f).mem = s.mem := rfl
@[simp] theorem State.modCore_full (s : State) (c : Nat) (f : Core → Core) : (s.modCore c f).full = s.full := rfl
@[simp] theorem State.modCore_owners (s : State) (c : Nat) (f : Core → Core) : (s.modCore c f).owners = s.owners := rfl
@[simp] theorem State.modCore_lineKey (s : State) (c : Nat) (f : Core → Core) : (s.modCore c f).lineKey = s.lineKey := rfl
@[simp] theorem State.modCore_poison (s : State) (c : Nat) (f : Core → Core) : (s.modCore c f).poison = s.poison := rfl
@[simp] theorem State.modCore_broken (s : State) (c : Nat) (f : Core → Core) : (s.modCore c f).broken = s.broken := rfl
@[simp] theorem State.modCore_flawed (s : State) (c : Nat) (f : Core → Core) : (s.modCore c f).flawed = s.flawed := rfl
@[simp] theorem State.modCore_resvs (s : State) (c : Nat) (f : Core → Core) : (s.modCore c f).resvs = s.resvs := rfl
@[simp] theorem State.modCore_pendRegs (s : State) (c : Nat) (f : Core → Core) : (s.modCore c f).pendRegs = s.pendRegs := rfl
@[simp] theorem State.modCore_notices (s : State) (c : Nat) (f : Core → Core) : (s.modCore c f).notices = s.notices := rfl
@[simp] theorem State.modCore_updates (s : State) (c : Nat) (f : Core → Core) : (s.modCore c f).updates = s.updates := rfl
@[simp] theorem State.modCore_merges (s : State) (c : Nat) (f : Core → Core) : (s.modCore c f).merges = s.merges := rfl
@[simp] theorem State.modCore_scOps (s : State) (c : Nat) (f : Core → Core) : (s.modCore c f).scOps = s.scOps := rfl
@[simp] theorem State.modCore_disp (s : State) (c : Nat) (f : Core → Core) : (s.modCore c f).disp = s.disp := rfl
@[simp] theorem State.modCore_fabric (s : State) (c : Nat) (f : Core → Core) : (s.modCore c f).fabric = s.fabric := rfl
@[simp] theorem State.modCore_svc (s : State) (c : Nat) (f : Core → Core) : (s.modCore c f).svc = s.svc := rfl
@[simp] theorem State.modCore_ports (s : State) (c : Nat) (f : Core → Core) : (s.modCore c f).ports = s.ports := rfl
@[simp] theorem State.modCore_shared (s : State) (c : Nat) (f : Core → Core) : (s.modCore c f).shared = s.shared := rfl
@[simp] theorem State.modCore_caps (s : State) (c : Nat) (f : Core → Core) : (s.modCore c f).caps = s.caps := rfl
@[simp] theorem State.modCore_halts (s : State) (c : Nat) (f : Core → Core) : (s.modCore c f).halts = s.halts := rfl
@[simp] theorem State.modCore_holds (s : State) (c : Nat) (f : Core → Core) : (s.modCore c f).holds = s.holds := rfl
@[simp] theorem State.modCore_pcr (s : State) (c : Nat) (f : Core → Core) : (s.modCore c f).pcr = s.pcr := rfl
@[simp] theorem State.modCore_tcr (s : State) (c : Nat) (f : Core → Core) : (s.modCore c f).tcr = s.tcr := rfl
@[simp] theorem State.modCore_devTime (s : State) (c : Nat) (f : Core → Core) : (s.modCore c f).devTime = s.devTime := rfl
@[simp] theorem State.modCore_clock (s : State) (c : Nat) (f : Core → Core) : (s.modCore c f).clock = s.clock := rfl
@[simp] theorem State.modCore_pkg (s : State) (c : Nat) (f : Core → Core) : (s.modCore c f).pkg = s.pkg := rfl
@[simp] theorem State.modCore_curCore (s : State) (c : Nat) (f : Core → Core) : (s.modCore c f).curCore = s.curCore := rfl
@[simp] theorem State.modCore_curSlot (s : State) (c : Nat) (f : Core → Core) : (s.modCore c f).curSlot = s.curSlot := rfl
@[simp] theorem State.modCore_sched (s : State) (c : Nat) (f : Core → Core) : (s.modCore c f).sched = s.sched := rfl
@[simp] theorem State.modCore_freeCtr (s : State) (c : Nat) (f : Core → Core) : (s.modCore c f).freeCtr = s.freeCtr := rfl
@[simp] theorem State.modCore_nextId (s : State) (c : Nat) (f : Core → Core) : (s.modCore c f).nextId = s.nextId := rfl

/-! ### State.setSt -/

@[simp] theorem State.setSt_clusters (s : State) (i : Nat) (x : Strand) : (s.setSt i x).clusters = s.clusters := rfl
@[simp] theorem State.setSt_dies (s : State) (i : Nat) (x : Strand) : (s.setSt i x).dies = s.dies := rfl
@[simp] theorem State.setSt_mem (s : State) (i : Nat) (x : Strand) : (s.setSt i x).mem = s.mem := rfl
@[simp] theorem State.setSt_full (s : State) (i : Nat) (x : Strand) : (s.setSt i x).full = s.full := rfl
@[simp] theorem State.setSt_owners (s : State) (i : Nat) (x : Strand) : (s.setSt i x).owners = s.owners := rfl
@[simp] theorem State.setSt_lineKey (s : State) (i : Nat) (x : Strand) : (s.setSt i x).lineKey = s.lineKey := rfl
@[simp] theorem State.setSt_poison (s : State) (i : Nat) (x : Strand) : (s.setSt i x).poison = s.poison := rfl
@[simp] theorem State.setSt_broken (s : State) (i : Nat) (x : Strand) : (s.setSt i x).broken = s.broken := rfl
@[simp] theorem State.setSt_flawed (s : State) (i : Nat) (x : Strand) : (s.setSt i x).flawed = s.flawed := rfl
@[simp] theorem State.setSt_resvs (s : State) (i : Nat) (x : Strand) : (s.setSt i x).resvs = s.resvs := rfl
@[simp] theorem State.setSt_pendRegs (s : State) (i : Nat) (x : Strand) : (s.setSt i x).pendRegs = s.pendRegs := rfl
@[simp] theorem State.setSt_notices (s : State) (i : Nat) (x : Strand) : (s.setSt i x).notices = s.notices := rfl
@[simp] theorem State.setSt_updates (s : State) (i : Nat) (x : Strand) : (s.setSt i x).updates = s.updates := rfl
@[simp] theorem State.setSt_merges (s : State) (i : Nat) (x : Strand) : (s.setSt i x).merges = s.merges := rfl
@[simp] theorem State.setSt_scOps (s : State) (i : Nat) (x : Strand) : (s.setSt i x).scOps = s.scOps := rfl
@[simp] theorem State.setSt_disp (s : State) (i : Nat) (x : Strand) : (s.setSt i x).disp = s.disp := rfl
@[simp] theorem State.setSt_fabric (s : State) (i : Nat) (x : Strand) : (s.setSt i x).fabric = s.fabric := rfl
@[simp] theorem State.setSt_svc (s : State) (i : Nat) (x : Strand) : (s.setSt i x).svc = s.svc := rfl
@[simp] theorem State.setSt_ports (s : State) (i : Nat) (x : Strand) : (s.setSt i x).ports = s.ports := rfl
@[simp] theorem State.setSt_shared (s : State) (i : Nat) (x : Strand) : (s.setSt i x).shared = s.shared := rfl
@[simp] theorem State.setSt_caps (s : State) (i : Nat) (x : Strand) : (s.setSt i x).caps = s.caps := rfl
@[simp] theorem State.setSt_halts (s : State) (i : Nat) (x : Strand) : (s.setSt i x).halts = s.halts := rfl
@[simp] theorem State.setSt_holds (s : State) (i : Nat) (x : Strand) : (s.setSt i x).holds = s.holds := rfl
@[simp] theorem State.setSt_pcr (s : State) (i : Nat) (x : Strand) : (s.setSt i x).pcr = s.pcr := rfl
@[simp] theorem State.setSt_tcr (s : State) (i : Nat) (x : Strand) : (s.setSt i x).tcr = s.tcr := rfl
@[simp] theorem State.setSt_devTime (s : State) (i : Nat) (x : Strand) : (s.setSt i x).devTime = s.devTime := rfl
@[simp] theorem State.setSt_clock (s : State) (i : Nat) (x : Strand) : (s.setSt i x).clock = s.clock := rfl
@[simp] theorem State.setSt_pkg (s : State) (i : Nat) (x : Strand) : (s.setSt i x).pkg = s.pkg := rfl
@[simp] theorem State.setSt_curCore (s : State) (i : Nat) (x : Strand) : (s.setSt i x).curCore = s.curCore := rfl
@[simp] theorem State.setSt_curSlot (s : State) (i : Nat) (x : Strand) : (s.setSt i x).curSlot = s.curSlot := rfl
@[simp] theorem State.setSt_sched (s : State) (i : Nat) (x : Strand) : (s.setSt i x).sched = s.sched := rfl
@[simp] theorem State.setSt_freeCtr (s : State) (i : Nat) (x : Strand) : (s.setSt i x).freeCtr = s.freeCtr := rfl
@[simp] theorem State.setSt_nextId (s : State) (i : Nat) (x : Strand) : (s.setSt i x).nextId = s.nextId := rfl

/-! ### State.modSt -/

@[simp] theorem State.modSt_clusters (s : State) (i : Nat) (f : Strand → Strand) : (s.modSt i f).clusters = s.clusters := rfl
@[simp] theorem State.modSt_dies (s : State) (i : Nat) (f : Strand → Strand) : (s.modSt i f).dies = s.dies := rfl
@[simp] theorem State.modSt_mem (s : State) (i : Nat) (f : Strand → Strand) : (s.modSt i f).mem = s.mem := rfl
@[simp] theorem State.modSt_full (s : State) (i : Nat) (f : Strand → Strand) : (s.modSt i f).full = s.full := rfl
@[simp] theorem State.modSt_owners (s : State) (i : Nat) (f : Strand → Strand) : (s.modSt i f).owners = s.owners := rfl
@[simp] theorem State.modSt_lineKey (s : State) (i : Nat) (f : Strand → Strand) : (s.modSt i f).lineKey = s.lineKey := rfl
@[simp] theorem State.modSt_poison (s : State) (i : Nat) (f : Strand → Strand) : (s.modSt i f).poison = s.poison := rfl
@[simp] theorem State.modSt_broken (s : State) (i : Nat) (f : Strand → Strand) : (s.modSt i f).broken = s.broken := rfl
@[simp] theorem State.modSt_flawed (s : State) (i : Nat) (f : Strand → Strand) : (s.modSt i f).flawed = s.flawed := rfl
@[simp] theorem State.modSt_resvs (s : State) (i : Nat) (f : Strand → Strand) : (s.modSt i f).resvs = s.resvs := rfl
@[simp] theorem State.modSt_pendRegs (s : State) (i : Nat) (f : Strand → Strand) : (s.modSt i f).pendRegs = s.pendRegs := rfl
@[simp] theorem State.modSt_notices (s : State) (i : Nat) (f : Strand → Strand) : (s.modSt i f).notices = s.notices := rfl
@[simp] theorem State.modSt_updates (s : State) (i : Nat) (f : Strand → Strand) : (s.modSt i f).updates = s.updates := rfl
@[simp] theorem State.modSt_merges (s : State) (i : Nat) (f : Strand → Strand) : (s.modSt i f).merges = s.merges := rfl
@[simp] theorem State.modSt_scOps (s : State) (i : Nat) (f : Strand → Strand) : (s.modSt i f).scOps = s.scOps := rfl
@[simp] theorem State.modSt_disp (s : State) (i : Nat) (f : Strand → Strand) : (s.modSt i f).disp = s.disp := rfl
@[simp] theorem State.modSt_fabric (s : State) (i : Nat) (f : Strand → Strand) : (s.modSt i f).fabric = s.fabric := rfl
@[simp] theorem State.modSt_svc (s : State) (i : Nat) (f : Strand → Strand) : (s.modSt i f).svc = s.svc := rfl
@[simp] theorem State.modSt_ports (s : State) (i : Nat) (f : Strand → Strand) : (s.modSt i f).ports = s.ports := rfl
@[simp] theorem State.modSt_shared (s : State) (i : Nat) (f : Strand → Strand) : (s.modSt i f).shared = s.shared := rfl
@[simp] theorem State.modSt_caps (s : State) (i : Nat) (f : Strand → Strand) : (s.modSt i f).caps = s.caps := rfl
@[simp] theorem State.modSt_halts (s : State) (i : Nat) (f : Strand → Strand) : (s.modSt i f).halts = s.halts := rfl
@[simp] theorem State.modSt_holds (s : State) (i : Nat) (f : Strand → Strand) : (s.modSt i f).holds = s.holds := rfl
@[simp] theorem State.modSt_pcr (s : State) (i : Nat) (f : Strand → Strand) : (s.modSt i f).pcr = s.pcr := rfl
@[simp] theorem State.modSt_tcr (s : State) (i : Nat) (f : Strand → Strand) : (s.modSt i f).tcr = s.tcr := rfl
@[simp] theorem State.modSt_devTime (s : State) (i : Nat) (f : Strand → Strand) : (s.modSt i f).devTime = s.devTime := rfl
@[simp] theorem State.modSt_clock (s : State) (i : Nat) (f : Strand → Strand) : (s.modSt i f).clock = s.clock := rfl
@[simp] theorem State.modSt_pkg (s : State) (i : Nat) (f : Strand → Strand) : (s.modSt i f).pkg = s.pkg := rfl
@[simp] theorem State.modSt_curCore (s : State) (i : Nat) (f : Strand → Strand) : (s.modSt i f).curCore = s.curCore := rfl
@[simp] theorem State.modSt_curSlot (s : State) (i : Nat) (f : Strand → Strand) : (s.modSt i f).curSlot = s.curSlot := rfl
@[simp] theorem State.modSt_sched (s : State) (i : Nat) (f : Strand → Strand) : (s.modSt i f).sched = s.sched := rfl
@[simp] theorem State.modSt_freeCtr (s : State) (i : Nat) (f : Strand → Strand) : (s.modSt i f).freeCtr = s.freeCtr := rfl
@[simp] theorem State.modSt_nextId (s : State) (i : Nat) (f : Strand → Strand) : (s.modSt i f).nextId = s.nextId := rfl

/-! ### State.setCur -/

@[simp] theorem State.setCur_clusters (s : State) (x : Strand) : (s.setCur x).clusters = s.clusters := rfl
@[simp] theorem State.setCur_dies (s : State) (x : Strand) : (s.setCur x).dies = s.dies := rfl
@[simp] theorem State.setCur_mem (s : State) (x : Strand) : (s.setCur x).mem = s.mem := rfl
@[simp] theorem State.setCur_full (s : State) (x : Strand) : (s.setCur x).full = s.full := rfl
@[simp] theorem State.setCur_owners (s : State) (x : Strand) : (s.setCur x).owners = s.owners := rfl
@[simp] theorem State.setCur_lineKey (s : State) (x : Strand) : (s.setCur x).lineKey = s.lineKey := rfl
@[simp] theorem State.setCur_poison (s : State) (x : Strand) : (s.setCur x).poison = s.poison := rfl
@[simp] theorem State.setCur_broken (s : State) (x : Strand) : (s.setCur x).broken = s.broken := rfl
@[simp] theorem State.setCur_flawed (s : State) (x : Strand) : (s.setCur x).flawed = s.flawed := rfl
@[simp] theorem State.setCur_resvs (s : State) (x : Strand) : (s.setCur x).resvs = s.resvs := rfl
@[simp] theorem State.setCur_pendRegs (s : State) (x : Strand) : (s.setCur x).pendRegs = s.pendRegs := rfl
@[simp] theorem State.setCur_notices (s : State) (x : Strand) : (s.setCur x).notices = s.notices := rfl
@[simp] theorem State.setCur_updates (s : State) (x : Strand) : (s.setCur x).updates = s.updates := rfl
@[simp] theorem State.setCur_merges (s : State) (x : Strand) : (s.setCur x).merges = s.merges := rfl
@[simp] theorem State.setCur_scOps (s : State) (x : Strand) : (s.setCur x).scOps = s.scOps := rfl
@[simp] theorem State.setCur_disp (s : State) (x : Strand) : (s.setCur x).disp = s.disp := rfl
@[simp] theorem State.setCur_fabric (s : State) (x : Strand) : (s.setCur x).fabric = s.fabric := rfl
@[simp] theorem State.setCur_svc (s : State) (x : Strand) : (s.setCur x).svc = s.svc := rfl
@[simp] theorem State.setCur_ports (s : State) (x : Strand) : (s.setCur x).ports = s.ports := rfl
@[simp] theorem State.setCur_shared (s : State) (x : Strand) : (s.setCur x).shared = s.shared := rfl
@[simp] theorem State.setCur_caps (s : State) (x : Strand) : (s.setCur x).caps = s.caps := rfl
@[simp] theorem State.setCur_halts (s : State) (x : Strand) : (s.setCur x).halts = s.halts := rfl
@[simp] theorem State.setCur_holds (s : State) (x : Strand) : (s.setCur x).holds = s.holds := rfl
@[simp] theorem State.setCur_pcr (s : State) (x : Strand) : (s.setCur x).pcr = s.pcr := rfl
@[simp] theorem State.setCur_tcr (s : State) (x : Strand) : (s.setCur x).tcr = s.tcr := rfl
@[simp] theorem State.setCur_devTime (s : State) (x : Strand) : (s.setCur x).devTime = s.devTime := rfl
@[simp] theorem State.setCur_clock (s : State) (x : Strand) : (s.setCur x).clock = s.clock := rfl
@[simp] theorem State.setCur_pkg (s : State) (x : Strand) : (s.setCur x).pkg = s.pkg := rfl
@[simp] theorem State.setCur_curCore (s : State) (x : Strand) : (s.setCur x).curCore = s.curCore := rfl
@[simp] theorem State.setCur_curSlot (s : State) (x : Strand) : (s.setCur x).curSlot = s.curSlot := rfl
@[simp] theorem State.setCur_sched (s : State) (x : Strand) : (s.setCur x).sched = s.sched := rfl
@[simp] theorem State.setCur_freeCtr (s : State) (x : Strand) : (s.setCur x).freeCtr = s.freeCtr := rfl
@[simp] theorem State.setCur_nextId (s : State) (x : Strand) : (s.setCur x).nextId = s.nextId := rfl

/-! ### State.modCur -/

@[simp] theorem State.modCur_clusters (s : State) (f : Strand → Strand) : (s.modCur f).clusters = s.clusters := rfl
@[simp] theorem State.modCur_dies (s : State) (f : Strand → Strand) : (s.modCur f).dies = s.dies := rfl
@[simp] theorem State.modCur_mem (s : State) (f : Strand → Strand) : (s.modCur f).mem = s.mem := rfl
@[simp] theorem State.modCur_full (s : State) (f : Strand → Strand) : (s.modCur f).full = s.full := rfl
@[simp] theorem State.modCur_owners (s : State) (f : Strand → Strand) : (s.modCur f).owners = s.owners := rfl
@[simp] theorem State.modCur_lineKey (s : State) (f : Strand → Strand) : (s.modCur f).lineKey = s.lineKey := rfl
@[simp] theorem State.modCur_poison (s : State) (f : Strand → Strand) : (s.modCur f).poison = s.poison := rfl
@[simp] theorem State.modCur_broken (s : State) (f : Strand → Strand) : (s.modCur f).broken = s.broken := rfl
@[simp] theorem State.modCur_flawed (s : State) (f : Strand → Strand) : (s.modCur f).flawed = s.flawed := rfl
@[simp] theorem State.modCur_resvs (s : State) (f : Strand → Strand) : (s.modCur f).resvs = s.resvs := rfl
@[simp] theorem State.modCur_pendRegs (s : State) (f : Strand → Strand) : (s.modCur f).pendRegs = s.pendRegs := rfl
@[simp] theorem State.modCur_notices (s : State) (f : Strand → Strand) : (s.modCur f).notices = s.notices := rfl
@[simp] theorem State.modCur_updates (s : State) (f : Strand → Strand) : (s.modCur f).updates = s.updates := rfl
@[simp] theorem State.modCur_merges (s : State) (f : Strand → Strand) : (s.modCur f).merges = s.merges := rfl
@[simp] theorem State.modCur_scOps (s : State) (f : Strand → Strand) : (s.modCur f).scOps = s.scOps := rfl
@[simp] theorem State.modCur_disp (s : State) (f : Strand → Strand) : (s.modCur f).disp = s.disp := rfl
@[simp] theorem State.modCur_fabric (s : State) (f : Strand → Strand) : (s.modCur f).fabric = s.fabric := rfl
@[simp] theorem State.modCur_svc (s : State) (f : Strand → Strand) : (s.modCur f).svc = s.svc := rfl
@[simp] theorem State.modCur_ports (s : State) (f : Strand → Strand) : (s.modCur f).ports = s.ports := rfl
@[simp] theorem State.modCur_shared (s : State) (f : Strand → Strand) : (s.modCur f).shared = s.shared := rfl
@[simp] theorem State.modCur_caps (s : State) (f : Strand → Strand) : (s.modCur f).caps = s.caps := rfl
@[simp] theorem State.modCur_halts (s : State) (f : Strand → Strand) : (s.modCur f).halts = s.halts := rfl
@[simp] theorem State.modCur_holds (s : State) (f : Strand → Strand) : (s.modCur f).holds = s.holds := rfl
@[simp] theorem State.modCur_pcr (s : State) (f : Strand → Strand) : (s.modCur f).pcr = s.pcr := rfl
@[simp] theorem State.modCur_tcr (s : State) (f : Strand → Strand) : (s.modCur f).tcr = s.tcr := rfl
@[simp] theorem State.modCur_devTime (s : State) (f : Strand → Strand) : (s.modCur f).devTime = s.devTime := rfl
@[simp] theorem State.modCur_clock (s : State) (f : Strand → Strand) : (s.modCur f).clock = s.clock := rfl
@[simp] theorem State.modCur_pkg (s : State) (f : Strand → Strand) : (s.modCur f).pkg = s.pkg := rfl
@[simp] theorem State.modCur_curCore (s : State) (f : Strand → Strand) : (s.modCur f).curCore = s.curCore := rfl
@[simp] theorem State.modCur_curSlot (s : State) (f : Strand → Strand) : (s.modCur f).curSlot = s.curSlot := rfl
@[simp] theorem State.modCur_sched (s : State) (f : Strand → Strand) : (s.modCur f).sched = s.sched := rfl
@[simp] theorem State.modCur_freeCtr (s : State) (f : Strand → Strand) : (s.modCur f).freeCtr = s.freeCtr := rfl
@[simp] theorem State.modCur_nextId (s : State) (f : Strand → Strand) : (s.modCur f).nextId = s.nextId := rfl

/-! ### State.complete -/

@[simp] theorem State.complete_clusters (s : State) (len lat : Nat) : (s.complete len lat).clusters = s.clusters := rfl
@[simp] theorem State.complete_dies (s : State) (len lat : Nat) : (s.complete len lat).dies = s.dies := rfl
@[simp] theorem State.complete_mem (s : State) (len lat : Nat) : (s.complete len lat).mem = s.mem := rfl
@[simp] theorem State.complete_full (s : State) (len lat : Nat) : (s.complete len lat).full = s.full := rfl
@[simp] theorem State.complete_owners (s : State) (len lat : Nat) : (s.complete len lat).owners = s.owners := rfl
@[simp] theorem State.complete_lineKey (s : State) (len lat : Nat) : (s.complete len lat).lineKey = s.lineKey := rfl
@[simp] theorem State.complete_poison (s : State) (len lat : Nat) : (s.complete len lat).poison = s.poison := rfl
@[simp] theorem State.complete_broken (s : State) (len lat : Nat) : (s.complete len lat).broken = s.broken := rfl
@[simp] theorem State.complete_flawed (s : State) (len lat : Nat) : (s.complete len lat).flawed = s.flawed := rfl
@[simp] theorem State.complete_resvs (s : State) (len lat : Nat) : (s.complete len lat).resvs = s.resvs := rfl
@[simp] theorem State.complete_pendRegs (s : State) (len lat : Nat) : (s.complete len lat).pendRegs = s.pendRegs := rfl
@[simp] theorem State.complete_notices (s : State) (len lat : Nat) : (s.complete len lat).notices = s.notices := rfl
@[simp] theorem State.complete_updates (s : State) (len lat : Nat) : (s.complete len lat).updates = s.updates := rfl
@[simp] theorem State.complete_merges (s : State) (len lat : Nat) : (s.complete len lat).merges = s.merges := rfl
@[simp] theorem State.complete_scOps (s : State) (len lat : Nat) : (s.complete len lat).scOps = s.scOps := rfl
@[simp] theorem State.complete_disp (s : State) (len lat : Nat) : (s.complete len lat).disp = s.disp := rfl
@[simp] theorem State.complete_fabric (s : State) (len lat : Nat) : (s.complete len lat).fabric = s.fabric := rfl
@[simp] theorem State.complete_svc (s : State) (len lat : Nat) : (s.complete len lat).svc = s.svc := rfl
@[simp] theorem State.complete_ports (s : State) (len lat : Nat) : (s.complete len lat).ports = s.ports := rfl
@[simp] theorem State.complete_shared (s : State) (len lat : Nat) : (s.complete len lat).shared = s.shared := rfl
@[simp] theorem State.complete_caps (s : State) (len lat : Nat) : (s.complete len lat).caps = s.caps := rfl
@[simp] theorem State.complete_halts (s : State) (len lat : Nat) : (s.complete len lat).halts = s.halts := rfl
@[simp] theorem State.complete_holds (s : State) (len lat : Nat) : (s.complete len lat).holds = s.holds := rfl
@[simp] theorem State.complete_pcr (s : State) (len lat : Nat) : (s.complete len lat).pcr = s.pcr := rfl
@[simp] theorem State.complete_tcr (s : State) (len lat : Nat) : (s.complete len lat).tcr = s.tcr := rfl
@[simp] theorem State.complete_devTime (s : State) (len lat : Nat) : (s.complete len lat).devTime = s.devTime := rfl
@[simp] theorem State.complete_clock (s : State) (len lat : Nat) : (s.complete len lat).clock = s.clock := rfl
@[simp] theorem State.complete_pkg (s : State) (len lat : Nat) : (s.complete len lat).pkg = s.pkg := rfl
@[simp] theorem State.complete_curCore (s : State) (len lat : Nat) : (s.complete len lat).curCore = s.curCore := rfl
@[simp] theorem State.complete_curSlot (s : State) (len lat : Nat) : (s.complete len lat).curSlot = s.curSlot := rfl
@[simp] theorem State.complete_sched (s : State) (len lat : Nat) : (s.complete len lat).sched = s.sched := rfl
@[simp] theorem State.complete_freeCtr (s : State) (len lat : Nat) : (s.complete len lat).freeCtr = s.freeCtr := rfl
@[simp] theorem State.complete_nextId (s : State) (len lat : Nat) : (s.complete len lat).nextId = s.nextId := rfl

/-! ### State.jump -/

@[simp] theorem State.jump_clusters (s : State) (a : Word) : (s.jump a).clusters = s.clusters := rfl
@[simp] theorem State.jump_dies (s : State) (a : Word) : (s.jump a).dies = s.dies := rfl
@[simp] theorem State.jump_mem (s : State) (a : Word) : (s.jump a).mem = s.mem := rfl
@[simp] theorem State.jump_full (s : State) (a : Word) : (s.jump a).full = s.full := rfl
@[simp] theorem State.jump_owners (s : State) (a : Word) : (s.jump a).owners = s.owners := rfl
@[simp] theorem State.jump_lineKey (s : State) (a : Word) : (s.jump a).lineKey = s.lineKey := rfl
@[simp] theorem State.jump_poison (s : State) (a : Word) : (s.jump a).poison = s.poison := rfl
@[simp] theorem State.jump_broken (s : State) (a : Word) : (s.jump a).broken = s.broken := rfl
@[simp] theorem State.jump_flawed (s : State) (a : Word) : (s.jump a).flawed = s.flawed := rfl
@[simp] theorem State.jump_resvs (s : State) (a : Word) : (s.jump a).resvs = s.resvs := rfl
@[simp] theorem State.jump_pendRegs (s : State) (a : Word) : (s.jump a).pendRegs = s.pendRegs := rfl
@[simp] theorem State.jump_notices (s : State) (a : Word) : (s.jump a).notices = s.notices := rfl
@[simp] theorem State.jump_updates (s : State) (a : Word) : (s.jump a).updates = s.updates := rfl
@[simp] theorem State.jump_merges (s : State) (a : Word) : (s.jump a).merges = s.merges := rfl
@[simp] theorem State.jump_scOps (s : State) (a : Word) : (s.jump a).scOps = s.scOps := rfl
@[simp] theorem State.jump_disp (s : State) (a : Word) : (s.jump a).disp = s.disp := rfl
@[simp] theorem State.jump_fabric (s : State) (a : Word) : (s.jump a).fabric = s.fabric := rfl
@[simp] theorem State.jump_svc (s : State) (a : Word) : (s.jump a).svc = s.svc := rfl
@[simp] theorem State.jump_ports (s : State) (a : Word) : (s.jump a).ports = s.ports := rfl
@[simp] theorem State.jump_shared (s : State) (a : Word) : (s.jump a).shared = s.shared := rfl
@[simp] theorem State.jump_caps (s : State) (a : Word) : (s.jump a).caps = s.caps := rfl
@[simp] theorem State.jump_halts (s : State) (a : Word) : (s.jump a).halts = s.halts := rfl
@[simp] theorem State.jump_holds (s : State) (a : Word) : (s.jump a).holds = s.holds := rfl
@[simp] theorem State.jump_pcr (s : State) (a : Word) : (s.jump a).pcr = s.pcr := rfl
@[simp] theorem State.jump_tcr (s : State) (a : Word) : (s.jump a).tcr = s.tcr := rfl
@[simp] theorem State.jump_devTime (s : State) (a : Word) : (s.jump a).devTime = s.devTime := rfl
@[simp] theorem State.jump_clock (s : State) (a : Word) : (s.jump a).clock = s.clock := rfl
@[simp] theorem State.jump_pkg (s : State) (a : Word) : (s.jump a).pkg = s.pkg := rfl
@[simp] theorem State.jump_curCore (s : State) (a : Word) : (s.jump a).curCore = s.curCore := rfl
@[simp] theorem State.jump_curSlot (s : State) (a : Word) : (s.jump a).curSlot = s.curSlot := rfl
@[simp] theorem State.jump_sched (s : State) (a : Word) : (s.jump a).sched = s.sched := rfl
@[simp] theorem State.jump_freeCtr (s : State) (a : Word) : (s.jump a).freeCtr = s.freeCtr := rfl
@[simp] theorem State.jump_nextId (s : State) (a : Word) : (s.jump a).nextId = s.nextId := rfl

/-! ### State.finish -/

@[simp] theorem State.finish_clusters (s : State) (i rd : Nat) (x : Word) : (s.finish i rd x).clusters = s.clusters := rfl
@[simp] theorem State.finish_dies (s : State) (i rd : Nat) (x : Word) : (s.finish i rd x).dies = s.dies := rfl
@[simp] theorem State.finish_mem (s : State) (i rd : Nat) (x : Word) : (s.finish i rd x).mem = s.mem := rfl
@[simp] theorem State.finish_full (s : State) (i rd : Nat) (x : Word) : (s.finish i rd x).full = s.full := rfl
@[simp] theorem State.finish_owners (s : State) (i rd : Nat) (x : Word) : (s.finish i rd x).owners = s.owners := rfl
@[simp] theorem State.finish_lineKey (s : State) (i rd : Nat) (x : Word) : (s.finish i rd x).lineKey = s.lineKey := rfl
@[simp] theorem State.finish_poison (s : State) (i rd : Nat) (x : Word) : (s.finish i rd x).poison = s.poison := rfl
@[simp] theorem State.finish_broken (s : State) (i rd : Nat) (x : Word) : (s.finish i rd x).broken = s.broken := rfl
@[simp] theorem State.finish_flawed (s : State) (i rd : Nat) (x : Word) : (s.finish i rd x).flawed = s.flawed := rfl
@[simp] theorem State.finish_resvs (s : State) (i rd : Nat) (x : Word) : (s.finish i rd x).resvs = s.resvs := rfl
@[simp] theorem State.finish_pendRegs (s : State) (i rd : Nat) (x : Word) : (s.finish i rd x).pendRegs = s.pendRegs := rfl
@[simp] theorem State.finish_notices (s : State) (i rd : Nat) (x : Word) : (s.finish i rd x).notices = s.notices := rfl
@[simp] theorem State.finish_updates (s : State) (i rd : Nat) (x : Word) : (s.finish i rd x).updates = s.updates := rfl
@[simp] theorem State.finish_merges (s : State) (i rd : Nat) (x : Word) : (s.finish i rd x).merges = s.merges := rfl
@[simp] theorem State.finish_scOps (s : State) (i rd : Nat) (x : Word) : (s.finish i rd x).scOps = s.scOps := rfl
@[simp] theorem State.finish_disp (s : State) (i rd : Nat) (x : Word) : (s.finish i rd x).disp = s.disp := rfl
@[simp] theorem State.finish_fabric (s : State) (i rd : Nat) (x : Word) : (s.finish i rd x).fabric = s.fabric := rfl
@[simp] theorem State.finish_svc (s : State) (i rd : Nat) (x : Word) : (s.finish i rd x).svc = s.svc := rfl
@[simp] theorem State.finish_ports (s : State) (i rd : Nat) (x : Word) : (s.finish i rd x).ports = s.ports := rfl
@[simp] theorem State.finish_shared (s : State) (i rd : Nat) (x : Word) : (s.finish i rd x).shared = s.shared := rfl
@[simp] theorem State.finish_caps (s : State) (i rd : Nat) (x : Word) : (s.finish i rd x).caps = s.caps := rfl
@[simp] theorem State.finish_halts (s : State) (i rd : Nat) (x : Word) : (s.finish i rd x).halts = s.halts := rfl
@[simp] theorem State.finish_holds (s : State) (i rd : Nat) (x : Word) : (s.finish i rd x).holds = s.holds := rfl
@[simp] theorem State.finish_pcr (s : State) (i rd : Nat) (x : Word) : (s.finish i rd x).pcr = s.pcr := rfl
@[simp] theorem State.finish_tcr (s : State) (i rd : Nat) (x : Word) : (s.finish i rd x).tcr = s.tcr := rfl
@[simp] theorem State.finish_devTime (s : State) (i rd : Nat) (x : Word) : (s.finish i rd x).devTime = s.devTime := rfl
@[simp] theorem State.finish_clock (s : State) (i rd : Nat) (x : Word) : (s.finish i rd x).clock = s.clock := rfl
@[simp] theorem State.finish_pkg (s : State) (i rd : Nat) (x : Word) : (s.finish i rd x).pkg = s.pkg := rfl
@[simp] theorem State.finish_curCore (s : State) (i rd : Nat) (x : Word) : (s.finish i rd x).curCore = s.curCore := rfl
@[simp] theorem State.finish_curSlot (s : State) (i rd : Nat) (x : Word) : (s.finish i rd x).curSlot = s.curSlot := rfl
@[simp] theorem State.finish_sched (s : State) (i rd : Nat) (x : Word) : (s.finish i rd x).sched = s.sched := rfl
@[simp] theorem State.finish_freeCtr (s : State) (i rd : Nat) (x : Word) : (s.finish i rd x).freeCtr = s.freeCtr := rfl
@[simp] theorem State.finish_nextId (s : State) (i rd : Nat) (x : Word) : (s.finish i rd x).nextId = s.nextId := rfl

/-! ### State.setCluster -/

@[simp] theorem State.setCluster_cores (s : State) (c : Nat) (x : Cluster) : (s.setCluster c x).cores = s.cores := rfl
@[simp] theorem State.setCluster_dies (s : State) (c : Nat) (x : Cluster) : (s.setCluster c x).dies = s.dies := rfl
@[simp] theorem State.setCluster_mem (s : State) (c : Nat) (x : Cluster) : (s.setCluster c x).mem = s.mem := rfl
@[simp] theorem State.setCluster_full (s : State) (c : Nat) (x : Cluster) : (s.setCluster c x).full = s.full := rfl
@[simp] theorem State.setCluster_owners (s : State) (c : Nat) (x : Cluster) : (s.setCluster c x).owners = s.owners := rfl
@[simp] theorem State.setCluster_lineKey (s : State) (c : Nat) (x : Cluster) : (s.setCluster c x).lineKey = s.lineKey := rfl
@[simp] theorem State.setCluster_poison (s : State) (c : Nat) (x : Cluster) : (s.setCluster c x).poison = s.poison := rfl
@[simp] theorem State.setCluster_broken (s : State) (c : Nat) (x : Cluster) : (s.setCluster c x).broken = s.broken := rfl
@[simp] theorem State.setCluster_flawed (s : State) (c : Nat) (x : Cluster) : (s.setCluster c x).flawed = s.flawed := rfl
@[simp] theorem State.setCluster_resvs (s : State) (c : Nat) (x : Cluster) : (s.setCluster c x).resvs = s.resvs := rfl
@[simp] theorem State.setCluster_pendRegs (s : State) (c : Nat) (x : Cluster) : (s.setCluster c x).pendRegs = s.pendRegs := rfl
@[simp] theorem State.setCluster_notices (s : State) (c : Nat) (x : Cluster) : (s.setCluster c x).notices = s.notices := rfl
@[simp] theorem State.setCluster_updates (s : State) (c : Nat) (x : Cluster) : (s.setCluster c x).updates = s.updates := rfl
@[simp] theorem State.setCluster_merges (s : State) (c : Nat) (x : Cluster) : (s.setCluster c x).merges = s.merges := rfl
@[simp] theorem State.setCluster_scOps (s : State) (c : Nat) (x : Cluster) : (s.setCluster c x).scOps = s.scOps := rfl
@[simp] theorem State.setCluster_disp (s : State) (c : Nat) (x : Cluster) : (s.setCluster c x).disp = s.disp := rfl
@[simp] theorem State.setCluster_fabric (s : State) (c : Nat) (x : Cluster) : (s.setCluster c x).fabric = s.fabric := rfl
@[simp] theorem State.setCluster_svc (s : State) (c : Nat) (x : Cluster) : (s.setCluster c x).svc = s.svc := rfl
@[simp] theorem State.setCluster_ports (s : State) (c : Nat) (x : Cluster) : (s.setCluster c x).ports = s.ports := rfl
@[simp] theorem State.setCluster_shared (s : State) (c : Nat) (x : Cluster) : (s.setCluster c x).shared = s.shared := rfl
@[simp] theorem State.setCluster_caps (s : State) (c : Nat) (x : Cluster) : (s.setCluster c x).caps = s.caps := rfl
@[simp] theorem State.setCluster_halts (s : State) (c : Nat) (x : Cluster) : (s.setCluster c x).halts = s.halts := rfl
@[simp] theorem State.setCluster_holds (s : State) (c : Nat) (x : Cluster) : (s.setCluster c x).holds = s.holds := rfl
@[simp] theorem State.setCluster_pcr (s : State) (c : Nat) (x : Cluster) : (s.setCluster c x).pcr = s.pcr := rfl
@[simp] theorem State.setCluster_tcr (s : State) (c : Nat) (x : Cluster) : (s.setCluster c x).tcr = s.tcr := rfl
@[simp] theorem State.setCluster_devTime (s : State) (c : Nat) (x : Cluster) : (s.setCluster c x).devTime = s.devTime := rfl
@[simp] theorem State.setCluster_clock (s : State) (c : Nat) (x : Cluster) : (s.setCluster c x).clock = s.clock := rfl
@[simp] theorem State.setCluster_pkg (s : State) (c : Nat) (x : Cluster) : (s.setCluster c x).pkg = s.pkg := rfl
@[simp] theorem State.setCluster_curCore (s : State) (c : Nat) (x : Cluster) : (s.setCluster c x).curCore = s.curCore := rfl
@[simp] theorem State.setCluster_curSlot (s : State) (c : Nat) (x : Cluster) : (s.setCluster c x).curSlot = s.curSlot := rfl
@[simp] theorem State.setCluster_sched (s : State) (c : Nat) (x : Cluster) : (s.setCluster c x).sched = s.sched := rfl
@[simp] theorem State.setCluster_freeCtr (s : State) (c : Nat) (x : Cluster) : (s.setCluster c x).freeCtr = s.freeCtr := rfl
@[simp] theorem State.setCluster_nextId (s : State) (c : Nat) (x : Cluster) : (s.setCluster c x).nextId = s.nextId := rfl

/-! ### State.modCluster -/

@[simp] theorem State.modCluster_cores (s : State) (c : Nat) (f : Cluster → Cluster) : (s.modCluster c f).cores = s.cores := rfl
@[simp] theorem State.modCluster_dies (s : State) (c : Nat) (f : Cluster → Cluster) : (s.modCluster c f).dies = s.dies := rfl
@[simp] theorem State.modCluster_mem (s : State) (c : Nat) (f : Cluster → Cluster) : (s.modCluster c f).mem = s.mem := rfl
@[simp] theorem State.modCluster_full (s : State) (c : Nat) (f : Cluster → Cluster) : (s.modCluster c f).full = s.full := rfl
@[simp] theorem State.modCluster_owners (s : State) (c : Nat) (f : Cluster → Cluster) : (s.modCluster c f).owners = s.owners := rfl
@[simp] theorem State.modCluster_lineKey (s : State) (c : Nat) (f : Cluster → Cluster) : (s.modCluster c f).lineKey = s.lineKey := rfl
@[simp] theorem State.modCluster_poison (s : State) (c : Nat) (f : Cluster → Cluster) : (s.modCluster c f).poison = s.poison := rfl
@[simp] theorem State.modCluster_broken (s : State) (c : Nat) (f : Cluster → Cluster) : (s.modCluster c f).broken = s.broken := rfl
@[simp] theorem State.modCluster_flawed (s : State) (c : Nat) (f : Cluster → Cluster) : (s.modCluster c f).flawed = s.flawed := rfl
@[simp] theorem State.modCluster_resvs (s : State) (c : Nat) (f : Cluster → Cluster) : (s.modCluster c f).resvs = s.resvs := rfl
@[simp] theorem State.modCluster_pendRegs (s : State) (c : Nat) (f : Cluster → Cluster) : (s.modCluster c f).pendRegs = s.pendRegs := rfl
@[simp] theorem State.modCluster_notices (s : State) (c : Nat) (f : Cluster → Cluster) : (s.modCluster c f).notices = s.notices := rfl
@[simp] theorem State.modCluster_updates (s : State) (c : Nat) (f : Cluster → Cluster) : (s.modCluster c f).updates = s.updates := rfl
@[simp] theorem State.modCluster_merges (s : State) (c : Nat) (f : Cluster → Cluster) : (s.modCluster c f).merges = s.merges := rfl
@[simp] theorem State.modCluster_scOps (s : State) (c : Nat) (f : Cluster → Cluster) : (s.modCluster c f).scOps = s.scOps := rfl
@[simp] theorem State.modCluster_disp (s : State) (c : Nat) (f : Cluster → Cluster) : (s.modCluster c f).disp = s.disp := rfl
@[simp] theorem State.modCluster_fabric (s : State) (c : Nat) (f : Cluster → Cluster) : (s.modCluster c f).fabric = s.fabric := rfl
@[simp] theorem State.modCluster_svc (s : State) (c : Nat) (f : Cluster → Cluster) : (s.modCluster c f).svc = s.svc := rfl
@[simp] theorem State.modCluster_ports (s : State) (c : Nat) (f : Cluster → Cluster) : (s.modCluster c f).ports = s.ports := rfl
@[simp] theorem State.modCluster_shared (s : State) (c : Nat) (f : Cluster → Cluster) : (s.modCluster c f).shared = s.shared := rfl
@[simp] theorem State.modCluster_caps (s : State) (c : Nat) (f : Cluster → Cluster) : (s.modCluster c f).caps = s.caps := rfl
@[simp] theorem State.modCluster_halts (s : State) (c : Nat) (f : Cluster → Cluster) : (s.modCluster c f).halts = s.halts := rfl
@[simp] theorem State.modCluster_holds (s : State) (c : Nat) (f : Cluster → Cluster) : (s.modCluster c f).holds = s.holds := rfl
@[simp] theorem State.modCluster_pcr (s : State) (c : Nat) (f : Cluster → Cluster) : (s.modCluster c f).pcr = s.pcr := rfl
@[simp] theorem State.modCluster_tcr (s : State) (c : Nat) (f : Cluster → Cluster) : (s.modCluster c f).tcr = s.tcr := rfl
@[simp] theorem State.modCluster_devTime (s : State) (c : Nat) (f : Cluster → Cluster) : (s.modCluster c f).devTime = s.devTime := rfl
@[simp] theorem State.modCluster_clock (s : State) (c : Nat) (f : Cluster → Cluster) : (s.modCluster c f).clock = s.clock := rfl
@[simp] theorem State.modCluster_pkg (s : State) (c : Nat) (f : Cluster → Cluster) : (s.modCluster c f).pkg = s.pkg := rfl
@[simp] theorem State.modCluster_curCore (s : State) (c : Nat) (f : Cluster → Cluster) : (s.modCluster c f).curCore = s.curCore := rfl
@[simp] theorem State.modCluster_curSlot (s : State) (c : Nat) (f : Cluster → Cluster) : (s.modCluster c f).curSlot = s.curSlot := rfl
@[simp] theorem State.modCluster_sched (s : State) (c : Nat) (f : Cluster → Cluster) : (s.modCluster c f).sched = s.sched := rfl
@[simp] theorem State.modCluster_freeCtr (s : State) (c : Nat) (f : Cluster → Cluster) : (s.modCluster c f).freeCtr = s.freeCtr := rfl
@[simp] theorem State.modCluster_nextId (s : State) (c : Nat) (f : Cluster → Cluster) : (s.modCluster c f).nextId = s.nextId := rfl

/-! ### State.setDie -/

@[simp] theorem State.setDie_cores (s : State) (d : Nat) (x : Die) : (s.setDie d x).cores = s.cores := rfl
@[simp] theorem State.setDie_clusters (s : State) (d : Nat) (x : Die) : (s.setDie d x).clusters = s.clusters := rfl
@[simp] theorem State.setDie_mem (s : State) (d : Nat) (x : Die) : (s.setDie d x).mem = s.mem := rfl
@[simp] theorem State.setDie_full (s : State) (d : Nat) (x : Die) : (s.setDie d x).full = s.full := rfl
@[simp] theorem State.setDie_owners (s : State) (d : Nat) (x : Die) : (s.setDie d x).owners = s.owners := rfl
@[simp] theorem State.setDie_lineKey (s : State) (d : Nat) (x : Die) : (s.setDie d x).lineKey = s.lineKey := rfl
@[simp] theorem State.setDie_poison (s : State) (d : Nat) (x : Die) : (s.setDie d x).poison = s.poison := rfl
@[simp] theorem State.setDie_broken (s : State) (d : Nat) (x : Die) : (s.setDie d x).broken = s.broken := rfl
@[simp] theorem State.setDie_flawed (s : State) (d : Nat) (x : Die) : (s.setDie d x).flawed = s.flawed := rfl
@[simp] theorem State.setDie_resvs (s : State) (d : Nat) (x : Die) : (s.setDie d x).resvs = s.resvs := rfl
@[simp] theorem State.setDie_pendRegs (s : State) (d : Nat) (x : Die) : (s.setDie d x).pendRegs = s.pendRegs := rfl
@[simp] theorem State.setDie_notices (s : State) (d : Nat) (x : Die) : (s.setDie d x).notices = s.notices := rfl
@[simp] theorem State.setDie_updates (s : State) (d : Nat) (x : Die) : (s.setDie d x).updates = s.updates := rfl
@[simp] theorem State.setDie_merges (s : State) (d : Nat) (x : Die) : (s.setDie d x).merges = s.merges := rfl
@[simp] theorem State.setDie_scOps (s : State) (d : Nat) (x : Die) : (s.setDie d x).scOps = s.scOps := rfl
@[simp] theorem State.setDie_disp (s : State) (d : Nat) (x : Die) : (s.setDie d x).disp = s.disp := rfl
@[simp] theorem State.setDie_fabric (s : State) (d : Nat) (x : Die) : (s.setDie d x).fabric = s.fabric := rfl
@[simp] theorem State.setDie_svc (s : State) (d : Nat) (x : Die) : (s.setDie d x).svc = s.svc := rfl
@[simp] theorem State.setDie_ports (s : State) (d : Nat) (x : Die) : (s.setDie d x).ports = s.ports := rfl
@[simp] theorem State.setDie_shared (s : State) (d : Nat) (x : Die) : (s.setDie d x).shared = s.shared := rfl
@[simp] theorem State.setDie_caps (s : State) (d : Nat) (x : Die) : (s.setDie d x).caps = s.caps := rfl
@[simp] theorem State.setDie_halts (s : State) (d : Nat) (x : Die) : (s.setDie d x).halts = s.halts := rfl
@[simp] theorem State.setDie_holds (s : State) (d : Nat) (x : Die) : (s.setDie d x).holds = s.holds := rfl
@[simp] theorem State.setDie_pcr (s : State) (d : Nat) (x : Die) : (s.setDie d x).pcr = s.pcr := rfl
@[simp] theorem State.setDie_tcr (s : State) (d : Nat) (x : Die) : (s.setDie d x).tcr = s.tcr := rfl
@[simp] theorem State.setDie_devTime (s : State) (d : Nat) (x : Die) : (s.setDie d x).devTime = s.devTime := rfl
@[simp] theorem State.setDie_clock (s : State) (d : Nat) (x : Die) : (s.setDie d x).clock = s.clock := rfl
@[simp] theorem State.setDie_pkg (s : State) (d : Nat) (x : Die) : (s.setDie d x).pkg = s.pkg := rfl
@[simp] theorem State.setDie_curCore (s : State) (d : Nat) (x : Die) : (s.setDie d x).curCore = s.curCore := rfl
@[simp] theorem State.setDie_curSlot (s : State) (d : Nat) (x : Die) : (s.setDie d x).curSlot = s.curSlot := rfl
@[simp] theorem State.setDie_sched (s : State) (d : Nat) (x : Die) : (s.setDie d x).sched = s.sched := rfl
@[simp] theorem State.setDie_freeCtr (s : State) (d : Nat) (x : Die) : (s.setDie d x).freeCtr = s.freeCtr := rfl
@[simp] theorem State.setDie_nextId (s : State) (d : Nat) (x : Die) : (s.setDie d x).nextId = s.nextId := rfl

/-! ### State.modDie -/

@[simp] theorem State.modDie_cores (s : State) (d : Nat) (f : Die → Die) : (s.modDie d f).cores = s.cores := rfl
@[simp] theorem State.modDie_clusters (s : State) (d : Nat) (f : Die → Die) : (s.modDie d f).clusters = s.clusters := rfl
@[simp] theorem State.modDie_mem (s : State) (d : Nat) (f : Die → Die) : (s.modDie d f).mem = s.mem := rfl
@[simp] theorem State.modDie_full (s : State) (d : Nat) (f : Die → Die) : (s.modDie d f).full = s.full := rfl
@[simp] theorem State.modDie_owners (s : State) (d : Nat) (f : Die → Die) : (s.modDie d f).owners = s.owners := rfl
@[simp] theorem State.modDie_lineKey (s : State) (d : Nat) (f : Die → Die) : (s.modDie d f).lineKey = s.lineKey := rfl
@[simp] theorem State.modDie_poison (s : State) (d : Nat) (f : Die → Die) : (s.modDie d f).poison = s.poison := rfl
@[simp] theorem State.modDie_broken (s : State) (d : Nat) (f : Die → Die) : (s.modDie d f).broken = s.broken := rfl
@[simp] theorem State.modDie_flawed (s : State) (d : Nat) (f : Die → Die) : (s.modDie d f).flawed = s.flawed := rfl
@[simp] theorem State.modDie_resvs (s : State) (d : Nat) (f : Die → Die) : (s.modDie d f).resvs = s.resvs := rfl
@[simp] theorem State.modDie_pendRegs (s : State) (d : Nat) (f : Die → Die) : (s.modDie d f).pendRegs = s.pendRegs := rfl
@[simp] theorem State.modDie_notices (s : State) (d : Nat) (f : Die → Die) : (s.modDie d f).notices = s.notices := rfl
@[simp] theorem State.modDie_updates (s : State) (d : Nat) (f : Die → Die) : (s.modDie d f).updates = s.updates := rfl
@[simp] theorem State.modDie_merges (s : State) (d : Nat) (f : Die → Die) : (s.modDie d f).merges = s.merges := rfl
@[simp] theorem State.modDie_scOps (s : State) (d : Nat) (f : Die → Die) : (s.modDie d f).scOps = s.scOps := rfl
@[simp] theorem State.modDie_disp (s : State) (d : Nat) (f : Die → Die) : (s.modDie d f).disp = s.disp := rfl
@[simp] theorem State.modDie_fabric (s : State) (d : Nat) (f : Die → Die) : (s.modDie d f).fabric = s.fabric := rfl
@[simp] theorem State.modDie_svc (s : State) (d : Nat) (f : Die → Die) : (s.modDie d f).svc = s.svc := rfl
@[simp] theorem State.modDie_ports (s : State) (d : Nat) (f : Die → Die) : (s.modDie d f).ports = s.ports := rfl
@[simp] theorem State.modDie_shared (s : State) (d : Nat) (f : Die → Die) : (s.modDie d f).shared = s.shared := rfl
@[simp] theorem State.modDie_caps (s : State) (d : Nat) (f : Die → Die) : (s.modDie d f).caps = s.caps := rfl
@[simp] theorem State.modDie_halts (s : State) (d : Nat) (f : Die → Die) : (s.modDie d f).halts = s.halts := rfl
@[simp] theorem State.modDie_holds (s : State) (d : Nat) (f : Die → Die) : (s.modDie d f).holds = s.holds := rfl
@[simp] theorem State.modDie_pcr (s : State) (d : Nat) (f : Die → Die) : (s.modDie d f).pcr = s.pcr := rfl
@[simp] theorem State.modDie_tcr (s : State) (d : Nat) (f : Die → Die) : (s.modDie d f).tcr = s.tcr := rfl
@[simp] theorem State.modDie_devTime (s : State) (d : Nat) (f : Die → Die) : (s.modDie d f).devTime = s.devTime := rfl
@[simp] theorem State.modDie_clock (s : State) (d : Nat) (f : Die → Die) : (s.modDie d f).clock = s.clock := rfl
@[simp] theorem State.modDie_pkg (s : State) (d : Nat) (f : Die → Die) : (s.modDie d f).pkg = s.pkg := rfl
@[simp] theorem State.modDie_curCore (s : State) (d : Nat) (f : Die → Die) : (s.modDie d f).curCore = s.curCore := rfl
@[simp] theorem State.modDie_curSlot (s : State) (d : Nat) (f : Die → Die) : (s.modDie d f).curSlot = s.curSlot := rfl
@[simp] theorem State.modDie_sched (s : State) (d : Nat) (f : Die → Die) : (s.modDie d f).sched = s.sched := rfl
@[simp] theorem State.modDie_freeCtr (s : State) (d : Nat) (f : Die → Die) : (s.modDie d f).freeCtr = s.freeCtr := rfl
@[simp] theorem State.modDie_nextId (s : State) (d : Nat) (f : Die → Die) : (s.modDie d f).nextId = s.nextId := rfl

/-! ### State.modPort -/

@[simp] theorem State.modPort_cores (s : State) (p : Nat) (f : HostPort → HostPort) : (s.modPort p f).cores = s.cores := rfl
@[simp] theorem State.modPort_clusters (s : State) (p : Nat) (f : HostPort → HostPort) : (s.modPort p f).clusters = s.clusters := rfl
@[simp] theorem State.modPort_dies (s : State) (p : Nat) (f : HostPort → HostPort) : (s.modPort p f).dies = s.dies := rfl
@[simp] theorem State.modPort_mem (s : State) (p : Nat) (f : HostPort → HostPort) : (s.modPort p f).mem = s.mem := rfl
@[simp] theorem State.modPort_full (s : State) (p : Nat) (f : HostPort → HostPort) : (s.modPort p f).full = s.full := rfl
@[simp] theorem State.modPort_owners (s : State) (p : Nat) (f : HostPort → HostPort) : (s.modPort p f).owners = s.owners := rfl
@[simp] theorem State.modPort_lineKey (s : State) (p : Nat) (f : HostPort → HostPort) : (s.modPort p f).lineKey = s.lineKey := rfl
@[simp] theorem State.modPort_poison (s : State) (p : Nat) (f : HostPort → HostPort) : (s.modPort p f).poison = s.poison := rfl
@[simp] theorem State.modPort_broken (s : State) (p : Nat) (f : HostPort → HostPort) : (s.modPort p f).broken = s.broken := rfl
@[simp] theorem State.modPort_flawed (s : State) (p : Nat) (f : HostPort → HostPort) : (s.modPort p f).flawed = s.flawed := rfl
@[simp] theorem State.modPort_resvs (s : State) (p : Nat) (f : HostPort → HostPort) : (s.modPort p f).resvs = s.resvs := rfl
@[simp] theorem State.modPort_pendRegs (s : State) (p : Nat) (f : HostPort → HostPort) : (s.modPort p f).pendRegs = s.pendRegs := rfl
@[simp] theorem State.modPort_notices (s : State) (p : Nat) (f : HostPort → HostPort) : (s.modPort p f).notices = s.notices := rfl
@[simp] theorem State.modPort_updates (s : State) (p : Nat) (f : HostPort → HostPort) : (s.modPort p f).updates = s.updates := rfl
@[simp] theorem State.modPort_merges (s : State) (p : Nat) (f : HostPort → HostPort) : (s.modPort p f).merges = s.merges := rfl
@[simp] theorem State.modPort_scOps (s : State) (p : Nat) (f : HostPort → HostPort) : (s.modPort p f).scOps = s.scOps := rfl
@[simp] theorem State.modPort_disp (s : State) (p : Nat) (f : HostPort → HostPort) : (s.modPort p f).disp = s.disp := rfl
@[simp] theorem State.modPort_fabric (s : State) (p : Nat) (f : HostPort → HostPort) : (s.modPort p f).fabric = s.fabric := rfl
@[simp] theorem State.modPort_svc (s : State) (p : Nat) (f : HostPort → HostPort) : (s.modPort p f).svc = s.svc := rfl
@[simp] theorem State.modPort_shared (s : State) (p : Nat) (f : HostPort → HostPort) : (s.modPort p f).shared = s.shared := rfl
@[simp] theorem State.modPort_caps (s : State) (p : Nat) (f : HostPort → HostPort) : (s.modPort p f).caps = s.caps := rfl
@[simp] theorem State.modPort_halts (s : State) (p : Nat) (f : HostPort → HostPort) : (s.modPort p f).halts = s.halts := rfl
@[simp] theorem State.modPort_holds (s : State) (p : Nat) (f : HostPort → HostPort) : (s.modPort p f).holds = s.holds := rfl
@[simp] theorem State.modPort_pcr (s : State) (p : Nat) (f : HostPort → HostPort) : (s.modPort p f).pcr = s.pcr := rfl
@[simp] theorem State.modPort_tcr (s : State) (p : Nat) (f : HostPort → HostPort) : (s.modPort p f).tcr = s.tcr := rfl
@[simp] theorem State.modPort_devTime (s : State) (p : Nat) (f : HostPort → HostPort) : (s.modPort p f).devTime = s.devTime := rfl
@[simp] theorem State.modPort_clock (s : State) (p : Nat) (f : HostPort → HostPort) : (s.modPort p f).clock = s.clock := rfl
@[simp] theorem State.modPort_pkg (s : State) (p : Nat) (f : HostPort → HostPort) : (s.modPort p f).pkg = s.pkg := rfl
@[simp] theorem State.modPort_curCore (s : State) (p : Nat) (f : HostPort → HostPort) : (s.modPort p f).curCore = s.curCore := rfl
@[simp] theorem State.modPort_curSlot (s : State) (p : Nat) (f : HostPort → HostPort) : (s.modPort p f).curSlot = s.curSlot := rfl
@[simp] theorem State.modPort_sched (s : State) (p : Nat) (f : HostPort → HostPort) : (s.modPort p f).sched = s.sched := rfl
@[simp] theorem State.modPort_freeCtr (s : State) (p : Nat) (f : HostPort → HostPort) : (s.modPort p f).freeCtr = s.freeCtr := rfl
@[simp] theorem State.modPort_nextId (s : State) (p : Nat) (f : HostPort → HostPort) : (s.modPort p f).nextId = s.nextId := rfl

/-! ### State.setPctl -/

@[simp] theorem State.setPctl_cores (s : State) (n : Nat) (x : Word) : (s.setPctl n x).cores = s.cores := rfl
@[simp] theorem State.setPctl_clusters (s : State) (n : Nat) (x : Word) : (s.setPctl n x).clusters = s.clusters := rfl
@[simp] theorem State.setPctl_dies (s : State) (n : Nat) (x : Word) : (s.setPctl n x).dies = s.dies := rfl
@[simp] theorem State.setPctl_mem (s : State) (n : Nat) (x : Word) : (s.setPctl n x).mem = s.mem := rfl
@[simp] theorem State.setPctl_full (s : State) (n : Nat) (x : Word) : (s.setPctl n x).full = s.full := rfl
@[simp] theorem State.setPctl_owners (s : State) (n : Nat) (x : Word) : (s.setPctl n x).owners = s.owners := rfl
@[simp] theorem State.setPctl_lineKey (s : State) (n : Nat) (x : Word) : (s.setPctl n x).lineKey = s.lineKey := rfl
@[simp] theorem State.setPctl_poison (s : State) (n : Nat) (x : Word) : (s.setPctl n x).poison = s.poison := rfl
@[simp] theorem State.setPctl_broken (s : State) (n : Nat) (x : Word) : (s.setPctl n x).broken = s.broken := rfl
@[simp] theorem State.setPctl_flawed (s : State) (n : Nat) (x : Word) : (s.setPctl n x).flawed = s.flawed := rfl
@[simp] theorem State.setPctl_resvs (s : State) (n : Nat) (x : Word) : (s.setPctl n x).resvs = s.resvs := rfl
@[simp] theorem State.setPctl_pendRegs (s : State) (n : Nat) (x : Word) : (s.setPctl n x).pendRegs = s.pendRegs := rfl
@[simp] theorem State.setPctl_notices (s : State) (n : Nat) (x : Word) : (s.setPctl n x).notices = s.notices := rfl
@[simp] theorem State.setPctl_updates (s : State) (n : Nat) (x : Word) : (s.setPctl n x).updates = s.updates := rfl
@[simp] theorem State.setPctl_merges (s : State) (n : Nat) (x : Word) : (s.setPctl n x).merges = s.merges := rfl
@[simp] theorem State.setPctl_scOps (s : State) (n : Nat) (x : Word) : (s.setPctl n x).scOps = s.scOps := rfl
@[simp] theorem State.setPctl_disp (s : State) (n : Nat) (x : Word) : (s.setPctl n x).disp = s.disp := rfl
@[simp] theorem State.setPctl_fabric (s : State) (n : Nat) (x : Word) : (s.setPctl n x).fabric = s.fabric := rfl
@[simp] theorem State.setPctl_svc (s : State) (n : Nat) (x : Word) : (s.setPctl n x).svc = s.svc := rfl
@[simp] theorem State.setPctl_ports (s : State) (n : Nat) (x : Word) : (s.setPctl n x).ports = s.ports := rfl
@[simp] theorem State.setPctl_shared (s : State) (n : Nat) (x : Word) : (s.setPctl n x).shared = s.shared := rfl
@[simp] theorem State.setPctl_caps (s : State) (n : Nat) (x : Word) : (s.setPctl n x).caps = s.caps := rfl
@[simp] theorem State.setPctl_halts (s : State) (n : Nat) (x : Word) : (s.setPctl n x).halts = s.halts := rfl
@[simp] theorem State.setPctl_holds (s : State) (n : Nat) (x : Word) : (s.setPctl n x).holds = s.holds := rfl
@[simp] theorem State.setPctl_tcr (s : State) (n : Nat) (x : Word) : (s.setPctl n x).tcr = s.tcr := rfl
@[simp] theorem State.setPctl_devTime (s : State) (n : Nat) (x : Word) : (s.setPctl n x).devTime = s.devTime := rfl
@[simp] theorem State.setPctl_clock (s : State) (n : Nat) (x : Word) : (s.setPctl n x).clock = s.clock := rfl
@[simp] theorem State.setPctl_pkg (s : State) (n : Nat) (x : Word) : (s.setPctl n x).pkg = s.pkg := rfl
@[simp] theorem State.setPctl_curCore (s : State) (n : Nat) (x : Word) : (s.setPctl n x).curCore = s.curCore := rfl
@[simp] theorem State.setPctl_curSlot (s : State) (n : Nat) (x : Word) : (s.setPctl n x).curSlot = s.curSlot := rfl
@[simp] theorem State.setPctl_sched (s : State) (n : Nat) (x : Word) : (s.setPctl n x).sched = s.sched := rfl
@[simp] theorem State.setPctl_freeCtr (s : State) (n : Nat) (x : Word) : (s.setPctl n x).freeCtr = s.freeCtr := rfl
@[simp] theorem State.setPctl_nextId (s : State) (n : Nat) (x : Word) : (s.setPctl n x).nextId = s.nextId := rfl

/-! ### State.gw -/

@[simp] theorem State.gw_clusters {w : Nat} (s : State) (r : BitVec w) (x : Word) : (s.gw r x).clusters = s.clusters := rfl
@[simp] theorem State.gw_dies {w : Nat} (s : State) (r : BitVec w) (x : Word) : (s.gw r x).dies = s.dies := rfl
@[simp] theorem State.gw_mem {w : Nat} (s : State) (r : BitVec w) (x : Word) : (s.gw r x).mem = s.mem := rfl
@[simp] theorem State.gw_full {w : Nat} (s : State) (r : BitVec w) (x : Word) : (s.gw r x).full = s.full := rfl
@[simp] theorem State.gw_owners {w : Nat} (s : State) (r : BitVec w) (x : Word) : (s.gw r x).owners = s.owners := rfl
@[simp] theorem State.gw_lineKey {w : Nat} (s : State) (r : BitVec w) (x : Word) : (s.gw r x).lineKey = s.lineKey := rfl
@[simp] theorem State.gw_poison {w : Nat} (s : State) (r : BitVec w) (x : Word) : (s.gw r x).poison = s.poison := rfl
@[simp] theorem State.gw_broken {w : Nat} (s : State) (r : BitVec w) (x : Word) : (s.gw r x).broken = s.broken := rfl
@[simp] theorem State.gw_flawed {w : Nat} (s : State) (r : BitVec w) (x : Word) : (s.gw r x).flawed = s.flawed := rfl
@[simp] theorem State.gw_resvs {w : Nat} (s : State) (r : BitVec w) (x : Word) : (s.gw r x).resvs = s.resvs := rfl
@[simp] theorem State.gw_pendRegs {w : Nat} (s : State) (r : BitVec w) (x : Word) : (s.gw r x).pendRegs = s.pendRegs := rfl
@[simp] theorem State.gw_notices {w : Nat} (s : State) (r : BitVec w) (x : Word) : (s.gw r x).notices = s.notices := rfl
@[simp] theorem State.gw_updates {w : Nat} (s : State) (r : BitVec w) (x : Word) : (s.gw r x).updates = s.updates := rfl
@[simp] theorem State.gw_merges {w : Nat} (s : State) (r : BitVec w) (x : Word) : (s.gw r x).merges = s.merges := rfl
@[simp] theorem State.gw_scOps {w : Nat} (s : State) (r : BitVec w) (x : Word) : (s.gw r x).scOps = s.scOps := rfl
@[simp] theorem State.gw_disp {w : Nat} (s : State) (r : BitVec w) (x : Word) : (s.gw r x).disp = s.disp := rfl
@[simp] theorem State.gw_fabric {w : Nat} (s : State) (r : BitVec w) (x : Word) : (s.gw r x).fabric = s.fabric := rfl
@[simp] theorem State.gw_svc {w : Nat} (s : State) (r : BitVec w) (x : Word) : (s.gw r x).svc = s.svc := rfl
@[simp] theorem State.gw_ports {w : Nat} (s : State) (r : BitVec w) (x : Word) : (s.gw r x).ports = s.ports := rfl
@[simp] theorem State.gw_shared {w : Nat} (s : State) (r : BitVec w) (x : Word) : (s.gw r x).shared = s.shared := rfl
@[simp] theorem State.gw_caps {w : Nat} (s : State) (r : BitVec w) (x : Word) : (s.gw r x).caps = s.caps := rfl
@[simp] theorem State.gw_halts {w : Nat} (s : State) (r : BitVec w) (x : Word) : (s.gw r x).halts = s.halts := rfl
@[simp] theorem State.gw_holds {w : Nat} (s : State) (r : BitVec w) (x : Word) : (s.gw r x).holds = s.holds := rfl
@[simp] theorem State.gw_pcr {w : Nat} (s : State) (r : BitVec w) (x : Word) : (s.gw r x).pcr = s.pcr := rfl
@[simp] theorem State.gw_tcr {w : Nat} (s : State) (r : BitVec w) (x : Word) : (s.gw r x).tcr = s.tcr := rfl
@[simp] theorem State.gw_devTime {w : Nat} (s : State) (r : BitVec w) (x : Word) : (s.gw r x).devTime = s.devTime := rfl
@[simp] theorem State.gw_clock {w : Nat} (s : State) (r : BitVec w) (x : Word) : (s.gw r x).clock = s.clock := rfl
@[simp] theorem State.gw_pkg {w : Nat} (s : State) (r : BitVec w) (x : Word) : (s.gw r x).pkg = s.pkg := rfl
@[simp] theorem State.gw_curCore {w : Nat} (s : State) (r : BitVec w) (x : Word) : (s.gw r x).curCore = s.curCore := rfl
@[simp] theorem State.gw_curSlot {w : Nat} (s : State) (r : BitVec w) (x : Word) : (s.gw r x).curSlot = s.curSlot := rfl
@[simp] theorem State.gw_sched {w : Nat} (s : State) (r : BitVec w) (x : Word) : (s.gw r x).sched = s.sched := rfl
@[simp] theorem State.gw_freeCtr {w : Nat} (s : State) (r : BitVec w) (x : Word) : (s.gw r x).freeCtr = s.freeCtr := rfl
@[simp] theorem State.gw_nextId {w : Nat} (s : State) (r : BitVec w) (x : Word) : (s.gw r x).nextId = s.nextId := rfl

/-! ### Core.setStrand -/

@[simp] theorem Core.setStrand_last (c : Core) (k : Nat) (x : Strand) : (c.setStrand k x).last = c.last := rfl
@[simp] theorem Core.setStrand_cr (c : Core) (k : Nat) (x : Strand) : (c.setStrand k x).cr = c.cr := rfl
@[simp] theorem Core.setStrand_amq (c : Core) (k : Nat) (x : Strand) : (c.setStrand k x).amq = c.amq := rfl
@[simp] theorem Core.setStrand_amRun (c : Core) (k : Nat) (x : Strand) : (c.setStrand k x).amRun = c.amRun := rfl
@[simp] theorem Core.setStrand_vicq (c : Core) (k : Nat) (x : Strand) : (c.setStrand k x).vicq = c.vicq := rfl
@[simp] theorem Core.setStrand_tlb (c : Core) (k : Nat) (x : Strand) : (c.setStrand k x).tlb = c.tlb := rfl
@[simp] theorem Core.setStrand_plb (c : Core) (k : Nat) (x : Strand) : (c.setStrand k x).plb = c.plb := rfl
@[simp] theorem Core.setStrand_saveRec (c : Core) (k : Nat) (x : Strand) : (c.setStrand k x).saveRec = c.saveRec := rfl
@[simp] theorem Core.setStrand_l1 (c : Core) (k : Nat) (x : Strand) : (c.setStrand k x).l1 = c.l1 := rfl
@[simp] theorem Core.setStrand_icache (c : Core) (k : Nat) (x : Strand) : (c.setStrand k x).icache = c.icache := rfl
@[simp] theorem Core.setStrand_rvq (c : Core) (k : Nat) (x : Strand) : (c.setStrand k x).rvq = c.rvq := rfl
@[simp] theorem Core.setStrand_rvqOvf (c : Core) (k : Nat) (x : Strand) : (c.setStrand k x).rvqOvf = c.rvqOvf := rfl
@[simp] theorem Core.setStrand_rvqOvcnt (c : Core) (k : Nat) (x : Strand) : (c.setStrand k x).rvqOvcnt = c.rvqOvcnt := rfl
@[simp] theorem Core.setStrand_acc (c : Core) (k : Nat) (x : Strand) : (c.setStrand k x).acc = c.acc := rfl
@[simp] theorem Core.setStrand_accHdr (c : Core) (k : Nat) (x : Strand) : (c.setStrand k x).accHdr = c.accHdr := rfl
@[simp] theorem Core.setStrand_mq (c : Core) (k : Nat) (x : Strand) : (c.setStrand k x).mq = c.mq := rfl
@[simp] theorem Core.setStrand_copies (c : Core) (k : Nat) (x : Strand) : (c.setStrand k x).copies = c.copies := rfl
@[simp] theorem Core.setStrand_lfmt (c : Core) (k : Nat) (x : Strand) : (c.setStrand k x).lfmt = c.lfmt := rfl
@[simp] theorem Core.setStrand_cbs (c : Core) (k : Nat) (x : Strand) : (c.setStrand k x).cbs = c.cbs := rfl
@[simp] theorem Core.setStrand_rows (c : Core) (k : Nat) (x : Strand) : (c.setStrand k x).rows = c.rows := rfl
@[simp] theorem Core.setStrand_parked (c : Core) (k : Nat) (x : Strand) : (c.setStrand k x).parked = c.parked := rfl
@[simp] theorem Core.setStrand_mbHi (c : Core) (k : Nat) (x : Strand) : (c.setStrand k x).mbHi = c.mbHi := rfl
@[simp] theorem Core.setStrand_mbLo (c : Core) (k : Nat) (x : Strand) : (c.setStrand k x).mbLo = c.mbLo := rfl
@[simp] theorem Core.setStrand_mbWait (c : Core) (k : Nat) (x : Strand) : (c.setStrand k x).mbWait = c.mbWait := rfl
@[simp] theorem Core.setStrand_fwd (c : Core) (k : Nat) (x : Strand) : (c.setStrand k x).fwd = c.fwd := rfl
@[simp] theorem Core.setStrand_bps (c : Core) (k : Nat) (x : Strand) : (c.setStrand k x).bps = c.bps := rfl
@[simp] theorem Core.setStrand_fills (c : Core) (k : Nat) (x : Strand) : (c.setStrand k x).fills = c.fills := rfl
@[simp] theorem Core.setStrand_moving (c : Core) (k : Nat) (x : Strand) : (c.setStrand k x).moving = c.moving := rfl
@[simp] theorem Core.setStrand_stores (c : Core) (k : Nat) (x : Strand) : (c.setStrand k x).stores = c.stores := rfl

/-! ### Core.setCtl -/

@[simp] theorem Core.setCtl_strands (c : Core) (n : Nat) (x : Word) : (c.setCtl n x).strands = c.strands := rfl
@[simp] theorem Core.setCtl_last (c : Core) (n : Nat) (x : Word) : (c.setCtl n x).last = c.last := rfl
@[simp] theorem Core.setCtl_amq (c : Core) (n : Nat) (x : Word) : (c.setCtl n x).amq = c.amq := rfl
@[simp] theorem Core.setCtl_amRun (c : Core) (n : Nat) (x : Word) : (c.setCtl n x).amRun = c.amRun := rfl
@[simp] theorem Core.setCtl_vicq (c : Core) (n : Nat) (x : Word) : (c.setCtl n x).vicq = c.vicq := rfl
@[simp] theorem Core.setCtl_tlb (c : Core) (n : Nat) (x : Word) : (c.setCtl n x).tlb = c.tlb := rfl
@[simp] theorem Core.setCtl_plb (c : Core) (n : Nat) (x : Word) : (c.setCtl n x).plb = c.plb := rfl
@[simp] theorem Core.setCtl_saveRec (c : Core) (n : Nat) (x : Word) : (c.setCtl n x).saveRec = c.saveRec := rfl
@[simp] theorem Core.setCtl_l1 (c : Core) (n : Nat) (x : Word) : (c.setCtl n x).l1 = c.l1 := rfl
@[simp] theorem Core.setCtl_icache (c : Core) (n : Nat) (x : Word) : (c.setCtl n x).icache = c.icache := rfl
@[simp] theorem Core.setCtl_rvq (c : Core) (n : Nat) (x : Word) : (c.setCtl n x).rvq = c.rvq := rfl
@[simp] theorem Core.setCtl_rvqOvf (c : Core) (n : Nat) (x : Word) : (c.setCtl n x).rvqOvf = c.rvqOvf := rfl
@[simp] theorem Core.setCtl_rvqOvcnt (c : Core) (n : Nat) (x : Word) : (c.setCtl n x).rvqOvcnt = c.rvqOvcnt := rfl
@[simp] theorem Core.setCtl_acc (c : Core) (n : Nat) (x : Word) : (c.setCtl n x).acc = c.acc := rfl
@[simp] theorem Core.setCtl_accHdr (c : Core) (n : Nat) (x : Word) : (c.setCtl n x).accHdr = c.accHdr := rfl
@[simp] theorem Core.setCtl_mq (c : Core) (n : Nat) (x : Word) : (c.setCtl n x).mq = c.mq := rfl
@[simp] theorem Core.setCtl_copies (c : Core) (n : Nat) (x : Word) : (c.setCtl n x).copies = c.copies := rfl
@[simp] theorem Core.setCtl_lfmt (c : Core) (n : Nat) (x : Word) : (c.setCtl n x).lfmt = c.lfmt := rfl
@[simp] theorem Core.setCtl_cbs (c : Core) (n : Nat) (x : Word) : (c.setCtl n x).cbs = c.cbs := rfl
@[simp] theorem Core.setCtl_rows (c : Core) (n : Nat) (x : Word) : (c.setCtl n x).rows = c.rows := rfl
@[simp] theorem Core.setCtl_parked (c : Core) (n : Nat) (x : Word) : (c.setCtl n x).parked = c.parked := rfl
@[simp] theorem Core.setCtl_mbHi (c : Core) (n : Nat) (x : Word) : (c.setCtl n x).mbHi = c.mbHi := rfl
@[simp] theorem Core.setCtl_mbLo (c : Core) (n : Nat) (x : Word) : (c.setCtl n x).mbLo = c.mbLo := rfl
@[simp] theorem Core.setCtl_mbWait (c : Core) (n : Nat) (x : Word) : (c.setCtl n x).mbWait = c.mbWait := rfl
@[simp] theorem Core.setCtl_fwd (c : Core) (n : Nat) (x : Word) : (c.setCtl n x).fwd = c.fwd := rfl
@[simp] theorem Core.setCtl_bps (c : Core) (n : Nat) (x : Word) : (c.setCtl n x).bps = c.bps := rfl
@[simp] theorem Core.setCtl_fills (c : Core) (n : Nat) (x : Word) : (c.setCtl n x).fills = c.fills := rfl
@[simp] theorem Core.setCtl_moving (c : Core) (n : Nat) (x : Word) : (c.setCtl n x).moving = c.moving := rfl
@[simp] theorem Core.setCtl_stores (c : Core) (n : Nat) (x : Word) : (c.setCtl n x).stores = c.stores := rfl

/-! ### Strand.setCtl -/

@[simp] theorem Strand.setCtl_st (t : Strand) (n : Nat) (x : Word) : (t.setCtl n x).st = t.st := rfl
@[simp] theorem Strand.setCtl_pc (t : Strand) (n : Nat) (x : Word) : (t.setCtl n x).pc = t.pc := rfl
@[simp] theorem Strand.setCtl_status (t : Strand) (n : Nat) (x : Word) : (t.setCtl n x).status = t.status := rfl
@[simp] theorem Strand.setCtl_g (t : Strand) (n : Nat) (x : Word) : (t.setCtl n x).g = t.g := rfl
@[simp] theorem Strand.setCtl_ox (t : Strand) (n : Nat) (x : Word) : (t.setCtl n x).ox = t.ox := rfl
@[simp] theorem Strand.setCtl_efc (t : Strand) (n : Nat) (x : Word) : (t.setCtl n x).efc = t.efc := rfl
@[simp] theorem Strand.setCtl_v (t : Strand) (n : Nat) (x : Word) : (t.setCtl n x).v = t.v := rfl
@[simp] theorem Strand.setCtl_vh (t : Strand) (n : Nat) (x : Word) : (t.setCtl n x).vh = t.vh := rfl
@[simp] theorem Strand.setCtl_k (t : Strand) (n : Nat) (x : Word) : (t.setCtl n x).k = t.k := rfl
@[simp] theorem Strand.setCtl_vq (t : Strand) (n : Nat) (x : Word) : (t.setCtl n x).vq = t.vq := rfl
@[simp] theorem Strand.setCtl_hold (t : Strand) (n : Nat) (x : Word) : (t.setCtl n x).hold = t.hold := rfl
@[simp] theorem Strand.setCtl_replay (t : Strand) (n : Nat) (x : Word) : (t.setCtl n x).replay = t.replay := rfl
@[simp] theorem Strand.setCtl_lanes (t : Strand) (n : Nat) (x : Word) : (t.setCtl n x).lanes = t.lanes := rfl
@[simp] theorem Strand.setCtl_wait (t : Strand) (n : Nat) (x : Word) : (t.setCtl n x).wait = t.wait := rfl
@[simp] theorem Strand.setCtl_readyAt (t : Strand) (n : Nat) (x : Word) : (t.setCtl n x).readyAt = t.readyAt := rfl
@[simp] theorem Strand.setCtl_feTimer (t : Strand) (n : Nat) (x : Word) : (t.setCtl n x).feTimer = t.feTimer := rfl
@[simp] theorem Strand.setCtl_feLimit (t : Strand) (n : Nat) (x : Word) : (t.setCtl n x).feLimit = t.feLimit := rfl
@[simp] theorem Strand.setCtl_async (t : Strand) (n : Nat) (x : Word) : (t.setCtl n x).async = t.async := rfl
@[simp] theorem Strand.setCtl_dbgHalted (t : Strand) (n : Nat) (x : Word) : (t.setCtl n x).dbgHalted = t.dbgHalted := rfl
@[simp] theorem Strand.setCtl_heldFrom (t : Strand) (n : Nat) (x : Word) : (t.setCtl n x).heldFrom = t.heldFrom := rfl
@[simp] theorem Strand.setCtl_bpStop (t : Strand) (n : Nat) (x : Word) : (t.setCtl n x).bpStop = t.bpStop := rfl
@[simp] theorem Strand.setCtl_bpIdx (t : Strand) (n : Nat) (x : Word) : (t.setCtl n x).bpIdx = t.bpIdx := rfl
@[simp] theorem Strand.setCtl_brkCap (t : Strand) (n : Nat) (x : Word) : (t.setCtl n x).brkCap = t.brkCap := rfl
@[simp] theorem Strand.setCtl_bpArmed (t : Strand) (n : Nat) (x : Word) : (t.setCtl n x).bpArmed = t.bpArmed := rfl
@[simp] theorem Strand.setCtl_slip (t : Strand) (n : Nat) (x : Word) : (t.setCtl n x).slip = t.slip := rfl
@[simp] theorem Strand.setCtl_sampled (t : Strand) (n : Nat) (x : Word) : (t.setCtl n x).sampled = t.sampled := rfl
@[simp] theorem Strand.setCtl_issued (t : Strand) (n : Nat) (x : Word) : (t.setCtl n x).issued = t.issued := rfl
@[simp] theorem Strand.setCtl_loadOut (t : Strand) (n : Nat) (x : Word) : (t.setCtl n x).loadOut = t.loadOut := rfl
@[simp] theorem Strand.setCtl_node (t : Strand) (n : Nat) (x : Word) : (t.setCtl n x).node = t.node := rfl
@[simp] theorem Strand.setCtl_farm (t : Strand) (n : Nat) (x : Word) : (t.setCtl n x).farm = t.farm := rfl
@[simp] theorem Strand.setCtl_saveFail (t : Strand) (n : Nat) (x : Word) : (t.setCtl n x).saveFail = t.saveFail := rfl
@[simp] theorem Strand.setCtl_epLimit (t : Strand) (n : Nat) (x : Word) : (t.setCtl n x).epLimit = t.epLimit := rfl
@[simp] theorem Strand.setCtl_brkBy (t : Strand) (n : Nat) (x : Word) : (t.setCtl n x).brkBy = t.brkBy := rfl
@[simp] theorem Strand.setCtl_amoBack (t : Strand) (n : Nat) (x : Word) : (t.setCtl n x).amoBack = t.amoBack := rfl
@[simp] theorem Strand.setCtl_flying (t : Strand) (n : Nat) (x : Word) : (t.setCtl n x).flying = t.flying := rfl
@[simp] theorem Strand.setCtl_moves (t : Strand) (n : Nat) (x : Word) : (t.setCtl n x).moves = t.moves := rfl

/-! ### Strand.wr -/

@[simp] theorem Strand.wr_st (t : Strand) (n : Nat) (x : Word) : (t.wr n x).st = t.st := by unfold Strand.wr; split <;> rfl
@[simp] theorem Strand.wr_pc (t : Strand) (n : Nat) (x : Word) : (t.wr n x).pc = t.pc := by unfold Strand.wr; split <;> rfl
@[simp] theorem Strand.wr_status (t : Strand) (n : Nat) (x : Word) : (t.wr n x).status = t.status := by unfold Strand.wr; split <;> rfl
@[simp] theorem Strand.wr_ox (t : Strand) (n : Nat) (x : Word) : (t.wr n x).ox = t.ox := by unfold Strand.wr; split <;> rfl
@[simp] theorem Strand.wr_efc (t : Strand) (n : Nat) (x : Word) : (t.wr n x).efc = t.efc := by unfold Strand.wr; split <;> rfl
@[simp] theorem Strand.wr_v (t : Strand) (n : Nat) (x : Word) : (t.wr n x).v = t.v := by unfold Strand.wr; split <;> rfl
@[simp] theorem Strand.wr_vh (t : Strand) (n : Nat) (x : Word) : (t.wr n x).vh = t.vh := by unfold Strand.wr; split <;> rfl
@[simp] theorem Strand.wr_k (t : Strand) (n : Nat) (x : Word) : (t.wr n x).k = t.k := by unfold Strand.wr; split <;> rfl
@[simp] theorem Strand.wr_cr (t : Strand) (n : Nat) (x : Word) : (t.wr n x).cr = t.cr := by unfold Strand.wr; split <;> rfl
@[simp] theorem Strand.wr_vq (t : Strand) (n : Nat) (x : Word) : (t.wr n x).vq = t.vq := by unfold Strand.wr; split <;> rfl
@[simp] theorem Strand.wr_hold (t : Strand) (n : Nat) (x : Word) : (t.wr n x).hold = t.hold := by unfold Strand.wr; split <;> rfl
@[simp] theorem Strand.wr_replay (t : Strand) (n : Nat) (x : Word) : (t.wr n x).replay = t.replay := by unfold Strand.wr; split <;> rfl
@[simp] theorem Strand.wr_lanes (t : Strand) (n : Nat) (x : Word) : (t.wr n x).lanes = t.lanes := by unfold Strand.wr; split <;> rfl
@[simp] theorem Strand.wr_wait (t : Strand) (n : Nat) (x : Word) : (t.wr n x).wait = t.wait := by unfold Strand.wr; split <;> rfl
@[simp] theorem Strand.wr_readyAt (t : Strand) (n : Nat) (x : Word) : (t.wr n x).readyAt = t.readyAt := by unfold Strand.wr; split <;> rfl
@[simp] theorem Strand.wr_feTimer (t : Strand) (n : Nat) (x : Word) : (t.wr n x).feTimer = t.feTimer := by unfold Strand.wr; split <;> rfl
@[simp] theorem Strand.wr_feLimit (t : Strand) (n : Nat) (x : Word) : (t.wr n x).feLimit = t.feLimit := by unfold Strand.wr; split <;> rfl
@[simp] theorem Strand.wr_async (t : Strand) (n : Nat) (x : Word) : (t.wr n x).async = t.async := by unfold Strand.wr; split <;> rfl
@[simp] theorem Strand.wr_dbgHalted (t : Strand) (n : Nat) (x : Word) : (t.wr n x).dbgHalted = t.dbgHalted := by unfold Strand.wr; split <;> rfl
@[simp] theorem Strand.wr_heldFrom (t : Strand) (n : Nat) (x : Word) : (t.wr n x).heldFrom = t.heldFrom := by unfold Strand.wr; split <;> rfl
@[simp] theorem Strand.wr_bpStop (t : Strand) (n : Nat) (x : Word) : (t.wr n x).bpStop = t.bpStop := by unfold Strand.wr; split <;> rfl
@[simp] theorem Strand.wr_bpIdx (t : Strand) (n : Nat) (x : Word) : (t.wr n x).bpIdx = t.bpIdx := by unfold Strand.wr; split <;> rfl
@[simp] theorem Strand.wr_brkCap (t : Strand) (n : Nat) (x : Word) : (t.wr n x).brkCap = t.brkCap := by unfold Strand.wr; split <;> rfl
@[simp] theorem Strand.wr_bpArmed (t : Strand) (n : Nat) (x : Word) : (t.wr n x).bpArmed = t.bpArmed := by unfold Strand.wr; split <;> rfl
@[simp] theorem Strand.wr_slip (t : Strand) (n : Nat) (x : Word) : (t.wr n x).slip = t.slip := by unfold Strand.wr; split <;> rfl
@[simp] theorem Strand.wr_sampled (t : Strand) (n : Nat) (x : Word) : (t.wr n x).sampled = t.sampled := by unfold Strand.wr; split <;> rfl
@[simp] theorem Strand.wr_issued (t : Strand) (n : Nat) (x : Word) : (t.wr n x).issued = t.issued := by unfold Strand.wr; split <;> rfl
@[simp] theorem Strand.wr_loadOut (t : Strand) (n : Nat) (x : Word) : (t.wr n x).loadOut = t.loadOut := by unfold Strand.wr; split <;> rfl
@[simp] theorem Strand.wr_node (t : Strand) (n : Nat) (x : Word) : (t.wr n x).node = t.node := by unfold Strand.wr; split <;> rfl
@[simp] theorem Strand.wr_farm (t : Strand) (n : Nat) (x : Word) : (t.wr n x).farm = t.farm := by unfold Strand.wr; split <;> rfl
@[simp] theorem Strand.wr_saveFail (t : Strand) (n : Nat) (x : Word) : (t.wr n x).saveFail = t.saveFail := by unfold Strand.wr; split <;> rfl
@[simp] theorem Strand.wr_epLimit (t : Strand) (n : Nat) (x : Word) : (t.wr n x).epLimit = t.epLimit := by unfold Strand.wr; split <;> rfl
@[simp] theorem Strand.wr_brkBy (t : Strand) (n : Nat) (x : Word) : (t.wr n x).brkBy = t.brkBy := by unfold Strand.wr; split <;> rfl
@[simp] theorem Strand.wr_amoBack (t : Strand) (n : Nat) (x : Word) : (t.wr n x).amoBack = t.amoBack := by unfold Strand.wr; split <;> rfl
@[simp] theorem Strand.wr_flying (t : Strand) (n : Nat) (x : Word) : (t.wr n x).flying = t.flying := by unfold Strand.wr; split <;> rfl
@[simp] theorem Strand.wr_moves (t : Strand) (n : Nat) (x : Word) : (t.wr n x).moves = t.moves := by unfold Strand.wr; split <;> rfl

/-! ### Strand.complete -/

@[simp] theorem Strand.complete_st (t : Strand) (cycle len lat : Nat) : (t.complete cycle len lat).st = t.st := rfl
@[simp] theorem Strand.complete_status (t : Strand) (cycle len lat : Nat) : (t.complete cycle len lat).status = t.status := rfl
@[simp] theorem Strand.complete_g (t : Strand) (cycle len lat : Nat) : (t.complete cycle len lat).g = t.g := rfl
@[simp] theorem Strand.complete_ox (t : Strand) (cycle len lat : Nat) : (t.complete cycle len lat).ox = t.ox := rfl
@[simp] theorem Strand.complete_efc (t : Strand) (cycle len lat : Nat) : (t.complete cycle len lat).efc = t.efc := rfl
@[simp] theorem Strand.complete_v (t : Strand) (cycle len lat : Nat) : (t.complete cycle len lat).v = t.v := rfl
@[simp] theorem Strand.complete_vh (t : Strand) (cycle len lat : Nat) : (t.complete cycle len lat).vh = t.vh := rfl
@[simp] theorem Strand.complete_k (t : Strand) (cycle len lat : Nat) : (t.complete cycle len lat).k = t.k := rfl
@[simp] theorem Strand.complete_vq (t : Strand) (cycle len lat : Nat) : (t.complete cycle len lat).vq = t.vq := rfl
@[simp] theorem Strand.complete_hold (t : Strand) (cycle len lat : Nat) : (t.complete cycle len lat).hold = t.hold := rfl
@[simp] theorem Strand.complete_replay (t : Strand) (cycle len lat : Nat) : (t.complete cycle len lat).replay = t.replay := rfl
@[simp] theorem Strand.complete_lanes (t : Strand) (cycle len lat : Nat) : (t.complete cycle len lat).lanes = t.lanes := rfl
@[simp] theorem Strand.complete_feTimer (t : Strand) (cycle len lat : Nat) : (t.complete cycle len lat).feTimer = t.feTimer := rfl
@[simp] theorem Strand.complete_feLimit (t : Strand) (cycle len lat : Nat) : (t.complete cycle len lat).feLimit = t.feLimit := rfl
@[simp] theorem Strand.complete_async (t : Strand) (cycle len lat : Nat) : (t.complete cycle len lat).async = t.async := rfl
@[simp] theorem Strand.complete_dbgHalted (t : Strand) (cycle len lat : Nat) : (t.complete cycle len lat).dbgHalted = t.dbgHalted := rfl
@[simp] theorem Strand.complete_heldFrom (t : Strand) (cycle len lat : Nat) : (t.complete cycle len lat).heldFrom = t.heldFrom := rfl
@[simp] theorem Strand.complete_bpStop (t : Strand) (cycle len lat : Nat) : (t.complete cycle len lat).bpStop = t.bpStop := rfl
@[simp] theorem Strand.complete_bpIdx (t : Strand) (cycle len lat : Nat) : (t.complete cycle len lat).bpIdx = t.bpIdx := rfl
@[simp] theorem Strand.complete_brkCap (t : Strand) (cycle len lat : Nat) : (t.complete cycle len lat).brkCap = t.brkCap := rfl
@[simp] theorem Strand.complete_bpArmed (t : Strand) (cycle len lat : Nat) : (t.complete cycle len lat).bpArmed = t.bpArmed := rfl
@[simp] theorem Strand.complete_slip (t : Strand) (cycle len lat : Nat) : (t.complete cycle len lat).slip = t.slip := rfl
@[simp] theorem Strand.complete_sampled (t : Strand) (cycle len lat : Nat) : (t.complete cycle len lat).sampled = t.sampled := rfl
@[simp] theorem Strand.complete_issued (t : Strand) (cycle len lat : Nat) : (t.complete cycle len lat).issued = t.issued := rfl
@[simp] theorem Strand.complete_node (t : Strand) (cycle len lat : Nat) : (t.complete cycle len lat).node = t.node := rfl
@[simp] theorem Strand.complete_farm (t : Strand) (cycle len lat : Nat) : (t.complete cycle len lat).farm = t.farm := rfl
@[simp] theorem Strand.complete_saveFail (t : Strand) (cycle len lat : Nat) : (t.complete cycle len lat).saveFail = t.saveFail := rfl
@[simp] theorem Strand.complete_epLimit (t : Strand) (cycle len lat : Nat) : (t.complete cycle len lat).epLimit = t.epLimit := rfl
@[simp] theorem Strand.complete_brkBy (t : Strand) (cycle len lat : Nat) : (t.complete cycle len lat).brkBy = t.brkBy := rfl
@[simp] theorem Strand.complete_amoBack (t : Strand) (cycle len lat : Nat) : (t.complete cycle len lat).amoBack = t.amoBack := rfl
@[simp] theorem Strand.complete_flying (t : Strand) (cycle len lat : Nat) : (t.complete cycle len lat).flying = t.flying := rfl
@[simp] theorem Strand.complete_moves (t : Strand) (cycle len lat : Nat) : (t.complete cycle len lat).moves = t.moves := rfl

/-! ### Reading back -/

@[simp] theorem State.core_setCore (s : State) (c : Nat) (x : Core) : (s.setCore c x).core c = x := tget_tput_same _ _ _ _

theorem State.core_setCore_ne (s : State) (c d : Nat) (x : Core) (h : d ≠ c) : (s.setCore c x).core d = s.core d :=
  tget_tput_ne _ _ _ _ _ h

@[simp] theorem State.core_modCore (s : State) (c : Nat) (f : Core → Core) : (s.modCore c f).core c = f (s.core c) :=
  tget_tput_same _ _ _ _

theorem State.core_modCore_ne (s : State) (c d : Nat) (f : Core → Core) (h : d ≠ c) : (s.modCore c f).core d = s.core d :=
  tget_tput_ne _ _ _ _ _ h

@[simp] theorem State.cluster_setCluster (s : State) (c : Nat) (x : Cluster) : (s.setCluster c x).cluster c = x :=
  tget_tput_same _ _ _ _

@[simp] theorem State.cluster_modCluster (s : State) (c : Nat) (f : Cluster → Cluster) :
    (s.modCluster c f).cluster c = f (s.cluster c) := tget_tput_same _ _ _ _

@[simp] theorem State.die_setDie (s : State) (d : Nat) (x : Die) : (s.setDie d x).die d = x := tget_tput_same _ _ _ _

@[simp] theorem State.die_modDie (s : State) (d : Nat) (f : Die → Die) : (s.modDie d f).die d = f (s.die d) := tget_tput_same _ _ _ _

@[simp] theorem State.port_modPort (s : State) (p : Nat) (f : HostPort → HostPort) : (s.modPort p f).port p = f (s.port p) :=
  tget_tput_same _ _ _ _

@[simp] theorem State.pctl_setPctl (s : State) (n : Nat) (x : Word) : (s.setPctl n x).pctl n = x := tget_tput_same _ _ _ _

theorem State.pctl_setPctl_ne (s : State) (n m : Nat) (x : Word) (h : m ≠ n) : (s.setPctl n x).pctl m = s.pctl m :=
  tget_tput_ne _ _ _ _ _ h

@[simp] theorem Core.strand_setStrand (c : Core) (k : Nat) (x : Strand) : (c.setStrand k x).strand k = x := tget_tput_same _ _ _ _

theorem Core.strand_setStrand_ne (c : Core) (k j : Nat) (x : Strand) (h : j ≠ k) : (c.setStrand k x).strand j = c.strand j :=
  tget_tput_ne _ _ _ _ _ h

@[simp] theorem State.st_setSt (s : State) (i : Nat) (x : Strand) : (s.setSt i x).st i = x := by
  simp [State.st, State.setSt]

@[simp] theorem State.st_modSt (s : State) (i : Nat) (f : Strand → Strand) : (s.modSt i f).st i = f (s.st i) := by
  simp [State.modSt]

@[simp] theorem State.curSid_modCur (s : State) (f : Strand → Strand) : (s.modCur f).curSid = s.curSid := rfl

@[simp] theorem State.cur_modCur (s : State) (f : Strand → Strand) : (s.modCur f).cur = f s.cur := by
  simp [State.cur, State.modCur, State.curSid]

@[simp] theorem Strand.rd_zero (t : Strand) : t.rd 0 = 0 := rfl

/-- A general register after a write. -/
theorem Strand.rd_wr (t : Strand) (n m : Nat) (x : Word) : (t.wr n x).rd m = if m = n ∧ m ≠ 0 then x else t.rd m := by
  by_cases hm : m = 0
  · subst hm; simp [Strand.rd]
  · by_cases hn : n = 0
    · subst hn; simp [Strand.wr, hm]
    · by_cases h : m = n
      · subst h; simp [Strand.rd, Strand.wr, hm]
      · simp [Strand.rd, Strand.wr, hm, hn, h, tget_tput_ne]

@[simp] theorem Strand.ctl_setCtl (t : Strand) (n : Nat) (x : Word) : (t.setCtl n x).ctl n = x := tget_tput_same _ _ _ _

theorem Strand.ctl_setCtl_ne (t : Strand) (n m : Nat) (x : Word) (h : m ≠ n) : (t.setCtl n x).ctl m = t.ctl m :=
  tget_tput_ne _ _ _ _ _ h

@[simp] theorem Strand.rd_setCtl (t : Strand) (n m : Nat) (x : Word) : (t.setCtl n x).rd m = t.rd m := rfl

@[simp] theorem Strand.ctl_wr (t : Strand) (n m : Nat) (x : Word) : (t.wr n x).ctl m = t.ctl m := by
  unfold Strand.wr; split <;> rfl

@[simp] theorem Strand.rd_complete (t : Strand) (cycle len lat n : Nat) : (t.complete cycle len lat).rd n = t.rd n := rfl

@[simp] theorem Strand.pc_complete (t : Strand) (cycle len lat : Nat) : (t.complete cycle len lat).pc = t.pc + word len := rfl

@[simp] theorem Strand.wait_complete (t : Strand) (cycle len lat : Nat) : (t.complete cycle len lat).wait = .none := rfl

@[simp] theorem Strand.instret_complete (t : Strand) (cycle len lat : Nat) :
    (t.complete cycle len lat).ctl cInstret = t.ctl cInstret + 1 := tget_tput_same _ _ _ _

theorem Strand.ctl_complete (t : Strand) (cycle len lat n : Nat) (h : n ≠ cInstret) : (t.complete cycle len lat).ctl n = t.ctl n :=
  tget_tput_ne _ _ _ _ _ h

end Sys2Proof.Machine
end

