-- ==== Sys2Proof/Laws/Results.lean ====
section
/-! SUPPORT. What the shared ways of completing an instruction leave, in the terms of Safety. -/

namespace Sys2Proof.Safety

open Sys2Proof.Machine

/-- A change of one strand leaves everything outside it. -/
theorem onlyStrand_modSt (s : State) (i : Nat) (f : Strand → Strand) : OnlyStrand s (s.modSt i f) i := by
  refine ⟨⟨rfl, fun d h => State.core_modCore_ne _ _ _ _ h⟩, ?_, fun k h => ?_⟩
  · simp [State.modSt, State.setSt, Core.setStrand]
  · simp [State.modSt, State.setSt, Core.strand_setStrand_ne _ _ _ _ h]

theorem onlyStrand_modCur (s : State) (f : Strand → Strand) : OnlyStrand s (s.modCur f) s.curSid := onlyStrand_modSt s _ f

/-- Two changes of the current strand are one. -/
theorem modCur_modCur (s : State) (f g : Strand → Strand) : (s.modCur f).modCur g = s.modCur (fun t => g (f t)) := by
  simp [State.modCur, State.modSt, State.setSt, State.modCore, State.setCore, State.curSid, State.st, State.core, Core.setStrand,
    Core.strand]

/-- A register written and the instruction completed. -/
theorem gw_complete {w : Nat} (s : State) (rd : BitVec w) (x : Word) (len lat : Nat) :
    (s.gw rd x).complete len lat = s.modCur (fun t => (t.wr rd.toNat x).complete ((s.gw rd x).cycleOf s.curCore) len lat) :=
  modCur_modCur s _ _

theorem regResult_complete {w : Nat} (s : State) (rd : BitVec w) (x : Word) (len lat : Nat) :
    RegResult s ((s.gw rd x).complete len lat) rd.toNat x len := by
  rw [gw_complete]
  refine ⟨fun n => ?_, by simp, by simp, fun n h => ?_, ?_, by simp, onlyStrand_modCur s _⟩
  · simp [Strand.rd_wr]
  · simp [Strand.ctl_complete _ _ _ _ _ h]
  · simp [SameUnits]

/-- The result of an integer instruction. -/
theorem gives_putReg {w : Nat} (s : State) (i : Instr) (rd : BitVec w) (x y : Word) (len lat : Nat)
    (h : exec i s = s.putReg rd x len lat) (e : x = y) : Gives s i rd.toNat y len :=
  ⟨_, h, e ▸ regResult_complete s rd x len lat⟩

end Sys2Proof.Safety
end

