-- ==== Sys2Proof/Tests/Slice0.lean ====
section
/-! SUPPORT. Small tests: ill-formed terms, words decoded, single steps, and for each statement with hypotheses a state and
operands that meet them. -/

set_option Elab.async false

namespace Sys2Proof.Tests

open Sys2Proof Sys2Proof.Machine Sys2Proof.Safety

/-! ### Helpers -/

/-- The action has succeeded. -/
def okR {ε σ α : Type} (r : EStateM.Result ε σ α) : Bool := match r with | .ok _ _ => true | .error _ _ => false

/-- Where an action succeeded: what it left. -/
def left_ {ε σ α : Type} (d : σ) (r : EStateM.Result ε σ α) : σ := match r with | .ok _ s => s | .error _ _ => d

/-- Where an action succeeded: what it gave. -/
def got {ε σ α : Type} (d : α) (r : EStateM.Result ε σ α) : α := match r with | .ok x _ => x | .error _ _ => d

/-- The next state has a property. -/
def after (o : Host.Outcome State Fault Refusal) (p : State → Bool) : Bool := match o with | .next t => p t | _ => false

/-- A segment over every address below 2^56 with every right. -/
def allRights : Seg := { base := 0, lsize := 56, r := true, w := true, x := true, s := true, d := true }

/-- A leaf over the whole translated space that gives each address itself. -/
def flat : TlbEntry :=
  { vbase := 0, lsize := 56, frame := 0, rid := 0, key := 0, im := false, pinned := false, dirty := true, uo := false, gt := false,
    leafPa := 0x100000 }

/-- Strand 0 of core 0 runs in task mode, tenant 0 holds the die, domain 0 has every right. -/
def base : State :=
  { State.reset.modCore 0 (fun c => { c with
      strands := [(0, { st := .run, pc := 0x1000, status := { mode := .task } })]
      plb := [{ pd := 0, segs := [allRights], complete := true }]
      tlb := [flat] }) with
    disp := { partitions := [{ mask := 1, rb := 65536, windows := 0 }]
              tenants := [(0, { x0 := 0, x1 := 3, y0 := 0, y1 := 1, remote := false })] }
    -- past slot 0 of the memory channels, which serves refresh
    clock := 32 }

/-- Registers of the current strand set. -/
def regs (s : State) (l : List (Nat × Word)) : State := l.foldl (fun s e => s.modCur (fun t => t.wr e.1 e.2)) s

/-- The current strand in a mode. -/
def inMode (s : State) (m : Mode) : State := s.modCur (fun t => { t with status := { t.status with mode := m } })

/-- An address in the current core's scratchpad. -/
def pad : Word := word selfBase

/-! ### Words written out from the encoding tables of spec/ -/

theorem test_decode_1 :
    decodeWord 0x01F50903 = .ok (.add 9 20 31)
      ∧ decodeWord 0x05F50903 = .ok (.sub 9 20 31)
      ∧ decodeWord 0x09F50903 = .ok (.mul 9 20 31)
      ∧ decodeWord 0x0DF50903 = .ok (.mulh 9 20 31)
      ∧ decodeWord 0x11F50903 = .ok (.mulhu 9 20 31)
      ∧ decodeWord 0x15F50903 = .ok (.div 9 20 31)
      ∧ decodeWord 0x19F50903 = .ok (.divu 9 20 31)
      ∧ decodeWord 0x1DF50903 = .ok (.rem 9 20 31)
      ∧ decodeWord 0x21F50903 = .ok (.remu 9 20 31)
      ∧ decodeWord 0x25F50903 = .ok (.and 9 20 31)
      ∧ decodeWord 0x29F50903 = .ok (.or 9 20 31)
      ∧ decodeWord 0x2DF50903 = .ok (.xor 9 20 31)
      ∧ decodeWord 0x31F50903 = .ok (.andn 9 20 31)
      ∧ decodeWord 0x35F50903 = .ok (.shl 9 20 31)
      ∧ decodeWord 0x39F50903 = .ok (.shr 9 20 31)
      ∧ decodeWord 0x3DF50903 = .ok (.sha 9 20 31)
      ∧ decodeWord 0x41F50903 = .ok (.rot 9 20 31)
      ∧ decodeWord 0x45F50903 = .ok (.slt 9 20 31)
      ∧ decodeWord 0x49F50903 = .ok (.sltu 9 20 31)
      ∧ decodeWord 0x4DF50903 = .ok (.min 9 20 31)
      ∧ decodeWord 0x51F50903 = .ok (.max 9 20 31)
      ∧ decodeWord 0x55F50903 = .ok (.minu 9 20 31)
      ∧ decodeWord 0x59F50903 = .ok (.maxu 9 20 31)
      ∧ decodeWord 0x5C050903 = .ok (.clz 9 20)
      ∧ decodeWord 0x60050903 = .ok (.ctz 9 20)
      ∧ decodeWord 0x64050903 = .ok (.popc 9 20)
      ∧ decodeWord 0x69F50903 = .ok (.sext 9 20 31)
      ∧ decodeWord 0x6DF50903 = .ok (.zext 9 20 31)
      ∧ decodeWord 0x01F50905 = .ok (.addi 9 20 31)
      ∧ decodeWord 0x01F50907 = .ok (.andi 9 20 31)
      ∧ decodeWord 0x01F50909 = .ok (.ori 9 20 31)
      ∧ decodeWord 0x01F5090B = .ok (.xori 9 20 31) := by decide +kernel

theorem test_decode_2 :
    decodeWord 0x01F5090D = .ok (.shli 9 20 31)
      ∧ decodeWord 0x05F5090D = .ok (.shri 9 20 31)
      ∧ decodeWord 0x09F5090D = .ok (.shai 9 20 31)
      ∧ decodeWord 0x01F5090F = .ok (.slti 9 20 31)
      ∧ decodeWord 0x01F50911 = .ok (.sltiu 9 20 31)
      ∧ decodeWord 0x00050913 = .ok (.lih 9 20)
      ∧ decodeWord 0x00050815 = .ok (.loxi 1 20)
      ∧ decodeWord 0x00050915 = .ok (.loxiSh 1 20)
      ∧ decodeWord 0x00050117 = .ok (.lox 1 20)
      ∧ decodeWord 0x04010117 = .ok (.movox 1 4)
      ∧ decodeWord 0x81F50921 = .ok (.fadd 9 20 31 2)
      ∧ decodeWord 0x85F50921 = .ok (.fsub 9 20 31 2)
      ∧ decodeWord 0x89F50921 = .ok (.fmul 9 20 31 2)
      ∧ decodeWord 0x8DF50921 = .ok (.fdiv 9 20 31 2)
      ∧ decodeWord 0xD0050921 = .ok (.fsqrt 9 20 3)
      ∧ decodeWord 0x95F50921 = .ok (.fmin 9 20 31 2)
      ∧ decodeWord 0x99F50921 = .ok (.fmax 9 20 31 2)
      ∧ decodeWord 0x9DF50921 = .ok (.fcmp 9 20 31 2)
      ∧ decodeWord 0xE0050921 = .ok (.fclass 9 20 3)
      ∧ decodeWord 0x69F50923 = .ok (.ffma 9 20 31 10 1)
      ∧ decodeWord 0x4430C225 = .ok (.fcvt 2 3 3 1 2)
      ∧ decodeWord 0x01F50931 = .ok (.ldb 9 20 31)
      ∧ decodeWord 0x01F50933 = .ok (.ldbu 9 20 31)
      ∧ decodeWord 0x01F50935 = .ok (.ldh 9 20 31)
      ∧ decodeWord 0x01F50937 = .ok (.ldhu 9 20 31)
      ∧ decodeWord 0x01F50939 = .ok (.ldw 9 20 31)
      ∧ decodeWord 0x01F5093B = .ok (.ldwu 9 20 31)
      ∧ decodeWord 0x01F5093D = .ok (.ldd 9 20 31)
      ∧ decodeWord 0xA9F5093F = .ok (.stb 9 20 31 42)
      ∧ decodeWord 0xA9F50941 = .ok (.sth 9 20 31 42)
      ∧ decodeWord 0xA9F50943 = .ok (.stw 9 20 31 42)
      ∧ decodeWord 0xA9F50945 = .ok (.std 9 20 31 42) := by decide +kernel

theorem test_decode_3 :
    decodeWord 0x00050947 = .ok (.ldfe 9 20)
      ∧ decodeWord 0x04050947 = .ok (.ldff 9 20)
      ∧ decodeWord 0x01424049 = .ok (.stfe 9 20)
      ∧ decodeWord 0x05424049 = .ok (.stff 9 20)
      ∧ decodeWord 0x09F5094B = .ok (.rsv 9 20 31 2)
      ∧ decodeWord 0x0D42404D = .ok (.rls 9 20 3)
      ∧ decodeWord 0x0DF5094F = .ok (.aadd 9 20 31 1 1)
      ∧ decodeWord 0x2DF5094F = .ok (.aswp 9 20 31 1 1)
      ∧ decodeWord 0x4DF5094F = .ok (.acas 9 20 31 1 1)
      ∧ decodeWord 0x6DF5094F = .ok (.aminSigned 9 20 31 1 1)
      ∧ decodeWord 0x8DF5094F = .ok (.amaxSigned 9 20 31 1 1)
      ∧ decodeWord 0xADF5094F = .ok (.aminUnsigned 9 20 31 1 1)
      ∧ decodeWord 0xCDF5094F = .ok (.amaxUnsigned 9 20 31 1 1)
      ∧ decodeWord 0xA9F50951 = .ok (.beq 9 20 31 42)
      ∧ decodeWord 0xA9F50953 = .ok (.bne 9 20 31 42)
      ∧ decodeWord 0xA9F50955 = .ok (.blt 9 20 31 42)
      ∧ decodeWord 0xA9F50957 = .ok (.bge 9 20 31 42)
      ∧ decodeWord 0xA9F50959 = .ok (.bltu 9 20 31 42)
      ∧ decodeWord 0xA9F5095B = .ok (.bgeu 9 20 31 42)
      ∧ decodeWord 0x0005095D = .ok (.jal 9 20)
      ∧ decodeWord 0x01F5095F = .ok (.jalr 9 20 31)
      ∧ decodeWord 0x00024061 = .ok (.svc 9)
      ∧ decodeWord 0x04024061 = .ok (.brk 9)
      ∧ decodeWord 0x08000061 = .ok .rett
      ∧ decodeWord 0x0C000061 = .ok .waiti
      ∧ decodeWord 0x10000061 = .ok .halt
      ∧ decodeWord 0x15424061 = .ok (.ipi 9 20)
      ∧ decodeWord 0x05100963 = .ok (.ctlr 9 81)
      ∧ decodeWord 0x45150963 = .ok (.ctlw 9 20 81)
      ∧ decodeWord 0x85150963 = .ok (.ctlset 9 20 81)
      ∧ decodeWord 0xC5150963 = .ok (.ctlclr 9 20 81)
      ∧ decodeWord 0x01F50965 = .ok (.ctxsave 9 20 31) := by decide +kernel

theorem test_decode_4 :
    decodeWord 0x05F50965 = .ok (.ctxload 9 20 31)
      ∧ decodeWord 0x03828967 = .ok (.amsend 9 20 7)
      ∧ decodeWord 0x04000067 = .ok .amret
      ∧ decodeWord 0x00000069 = .ok .fenceI
      ∧ decodeWord 0x04000069 = .ok .fenceSv
      ∧ decodeWord 0x08000069 = .ok .fenceVs
      ∧ decodeWord 0x0C000069 = .ok .fenceVv
      ∧ decodeWord 0x10000069 = .ok .fenceA
      ∧ decodeWord 0x0140016B = .ok (.acq 1 20)
      ∧ decodeWord 0x0140096B = .ok (.rel 1 20)
      ∧ decodeWord 0x0005096D = .ok (.scld 9 20)
      ∧ decodeWord 0x0542406D = .ok (.scst 9 20)
      ∧ decodeWord 0x09F5096D = .ok (.scswp 9 20 31)
      ∧ decodeWord 0x0140016F = .ok (.flushr 1 20)
      ∧ decodeWord 0x00650981 = .ok (.setvl 9 20 6)
      ∧ decodeWord 0x80650981 = .ok (.setmvl 9 20 6)
      ∧ decodeWord 0x0D7E8983 = .ok (.vaddIvv 9 20 31 10 1)
      ∧ decodeWord 0x1D7E8983 = .ok (.vsubIvv 9 20 31 10 1)
      ∧ decodeWord 0x2D7E8983 = .ok (.vmulIvv 9 20 31 10 1)
      ∧ decodeWord 0x3D7E8983 = .ok (.vmulh 9 20 31 10 1)
      ∧ decodeWord 0x4D7E8983 = .ok (.vdivIvv 9 20 31 10 1)
      ∧ decodeWord 0x5D7E8983 = .ok (.vminIvv 9 20 31 10 1)
      ∧ decodeWord 0x6D7E8983 = .ok (.vmaxIvv 9 20 31 10 1)
      ∧ decodeWord 0x7D7E8983 = .ok (.vandIvv 9 20 31 10 1)
      ∧ decodeWord 0x8D7E8983 = .ok (.vor 9 20 31 10 1)
      ∧ decodeWord 0x9D7E8983 = .ok (.vxor 9 20 31 10 1)
      ∧ decodeWord 0xAD7E8983 = .ok (.vshlIvv 9 20 31 10 1)
      ∧ decodeWord 0xBD7E8983 = .ok (.vshrIvv 9 20 31 10 1)
      ∧ decodeWord 0xCD7E8983 = .ok (.vadds 9 20 31 10 1)
      ∧ decodeWord 0xDD7E8983 = .ok (.vsubs 9 20 31 10 1)
      ∧ decodeWord 0xD47E8985 = .ok (.vaddIvx 9 20 15 1 53)
      ∧ decodeWord 0xD4FE8985 = .ok (.vsubIvx 9 20 15 1 53) := by decide +kernel

theorem test_decode_5 :
    decodeWord 0xD57E8985 = .ok (.vmulIvx 9 20 15 1 53)
      ∧ decodeWord 0xD5FE8985 = .ok (.vminIvx 9 20 15 1 53)
      ∧ decodeWord 0xD67E8985 = .ok (.vmaxIvx 9 20 15 1 53)
      ∧ decodeWord 0xD6FE8985 = .ok (.vandIvx 9 20 15 1 53)
      ∧ decodeWord 0xD77E8985 = .ok (.vshlIvx 9 20 15 1 53)
      ∧ decodeWord 0xD7FE8985 = .ok (.vshrIvx 9 20 15 1 53)
      ∧ decodeWord 0x057E8987 = .ok (.vaddFvv 9 20 31 10)
      ∧ decodeWord 0x157E8987 = .ok (.vsubFvv 9 20 31 10)
      ∧ decodeWord 0x257E8987 = .ok (.vmulFvv 9 20 31 10)
      ∧ decodeWord 0x357E8987 = .ok (.vdivFvv 9 20 31 10)
      ∧ decodeWord 0x457E8987 = .ok (.vminFvv 9 20 31 10)
      ∧ decodeWord 0x557E8987 = .ok (.vmaxFvv 9 20 31 10)
      ∧ decodeWord 0xA87E8989 = .ok (.vaddFvx 9 20 31 42)
      ∧ decodeWord 0xA8FE8989 = .ok (.vsubFvx 9 20 31 42)
      ∧ decodeWord 0xA97E8989 = .ok (.vmulFvx 9 20 31 42)
      ∧ decodeWord 0xA9FE8989 = .ok (.vdivFvx 9 20 31 42)
      ∧ decodeWord 0xAA7E8989 = .ok (.vminFvx 9 20 31 42)
      ∧ decodeWord 0xAAFE8989 = .ok (.vmaxFvx 9 20 31 42)
      ∧ decodeWord 0x057E898B = .ok (.vfma 9 20 31 10)
      ∧ decodeWord 0x157E898B = .ok (.vfms 9 20 31 10)
      ∧ decodeWord 0x257E898B = .ok (.vfnma 9 20 31 10)
      ∧ decodeWord 0x3D7E898D = .ok (.vcmp 9 20 31 10 1 3)
      ∧ decodeWord 0xA87E898F = .ok (.vsel 9 20 31 42)
      ∧ decodeWord 0xA8FE898F = .ok (.vbcast 9 20 31 42)
      ∧ decodeWord 0xA942898F = .ok (.vext 9 20 1 42)
      ∧ decodeWord 0x7D82898F = .ok (.vins 9 20 31)
      ∧ decodeWord 0xA87E8991 = .ok (.vslideup 9 20 31 42)
      ∧ decodeWord 0xA8FE8991 = .ok (.vslidedn 9 20 31 42)
      ∧ decodeWord 0x017E8991 = .ok (.vperm 9 20 31)
      ∧ decodeWord 0x01FE8991 = .ok (.vcompress 9 20 31)
      ∧ decodeWord 0x027E8991 = .ok (.vexpand 9 20 31)
      ∧ decodeWord 0x02D00991 = .ok (.viota 9 20) := by decide +kernel

theorem test_decode_6 :
    decodeWord 0x3F828993 = .ok (.vred 9 20 15 1 3)
      ∧ decodeWord 0xBF828993 = .ok (.vscan 9 20 15 1 3)
      ∧ decodeWord 0x0D7E8995 = .ok (.vdot 9 20 31 10 1)
      ∧ decodeWord 0x0F828997 = .ok (.vsqrt 9 20 31)
      ∧ decodeWord 0x1F828997 = .ok (.vrcp 9 20 31)
      ∧ decodeWord 0x2F828997 = .ok (.vrsq 9 20 31)
      ∧ decodeWord 0x3F828997 = .ok (.vexp2 9 20 31)
      ∧ decodeWord 0x4F828997 = .ok (.vlog2 9 20 31)
      ∧ decodeWord 0x161E8999 = .ok (.vcvt 9 20 7 0 0 2 5)
      ∧ decodeWord 0x0010099B = .ok (.efget 9 1)
      ∧ decodeWord 0x0412409B = .ok (.efset 9 1)
      ∧ decodeWord 0x007E899D = .ok (.kand 9 20 31)
      ∧ decodeWord 0x107E899D = .ok (.kor 9 20 31)
      ∧ decodeWord 0x207E899D = .ok (.kxor 9 20 31)
      ∧ decodeWord 0x307E899D = .ok (.kandn 9 20 31)
      ∧ decodeWord 0x4002899D = .ok (.knot 9 20)
      ∧ decodeWord 0x5002899D = .ok (.kmov 9 20)
      ∧ decodeWord 0x6002899D = .ok (.kpop 9 20)
      ∧ decodeWord 0x7002899D = .ok (.kfirst 9 20)
      ∧ decodeWord 0x800E899D = .ok (.kset 9 20 3)
      ∧ decodeWord 0x900E899D = .ok (.kget 9 20 3)
      ∧ decodeWord 0x7C5009A1 = .ok (.vld 9 20 31)
      ∧ decodeWord 0xA8FE89A1 = .ok (.vlds 9 20 31 42)
      ∧ decodeWord 0xA97E89A1 = .ok (.vldx 9 20 31 42)
      ∧ decodeWord 0x7DD009A1 = .ok (.vldSl 9 20 31)
      ∧ decodeWord 0x7C5009A3 = .ok (.vst 9 20 31)
      ∧ decodeWord 0xA8FE89A3 = .ok (.vsts 9 20 31 42)
      ∧ decodeWord 0xA97E89A3 = .ok (.vstx 9 20 31 42)
      ∧ decodeWord 0x7DD009A3 = .ok (.vstSl 9 20 31)
      ∧ decodeWord 0xA87E89A5 = .ok (.vldt 9 20 31 42)
      ∧ decodeWord 0x7C8289A5 = .ok (.vstt 9 20 31)
      ∧ decodeWord 0xA87E89A7 = .ok (.vldc 9 20 31 42) := by decide +kernel

theorem test_decode_7 :
    decodeWord 0x7C0281A9 = .ok (.vpf 1 20 31)
      ∧ decodeWord 0x05FE89AB = .ok (.vamo 9 20 15 1 3 1)
      ∧ decodeWord 0x05FE89AD = .ok (.vrdm 9 20 15 1 3 1)
      ∧ decodeWord 0x000003B1 = .ok (.mzero 3)
      ∧ decodeWord 0x040003B1 = .ok (.mwait 3)
      ∧ decodeWord 0x085003B1 = .ok (.mprg 3 20)
      ∧ decodeWord 0x0C5003B1 = .ok (.mhdr 3 20)
      ∧ decodeWord 0x107E83B3 = .ok (.mop 3 20 31 1)
      ∧ decodeWord 0x147E83B3 = .ok (.mopd 3 20 31 1)
      ∧ decodeWord 0x187E83B3 = .ok (.mops 3 20 31 1)
      ∧ decodeWord 0x117E83B5 = .ok (.mmas 3 20 31 2 1)
      ∧ decodeWord 0x007C69B7 = .ok (.mrd 9 3 31)
      ∧ decodeWord 0x047C69B7 = .ok (.mwr 9 3 31)
      ∧ decodeWord 0x03D003B9 = .ok (.mld 3 20 7)
      ∧ decodeWord 0x057E83B9 = .ok (.mst 3 20 31 2)
      ∧ decodeWord 0x017E89C1 = .ok (.cpy 9 20 31 2)
      ∧ decodeWord 0x057E89C1 = .ok (.cpyf 9 20 31 2)
      ∧ decodeWord 0x097E89C1 = .ok (.cpym 9 20 31 2)
      ∧ decodeWord 0x0D7E89C1 = .ok (.cpys 9 20 31 2)
      ∧ decodeWord 0x000003C3 = .ok (.rowcls 3)
      ∧ decodeWord 0x040009C3 = .ok (.cpwait 9)
      ∧ decodeWord 0x085009C3 = .ok (.cpqry 9 20)
      ∧ decodeWord 0x007E87C5 = .ok (.cbinit 7 20 31)
      ∧ decodeWord 0x047C27C5 = .ok (.cbacq 7 1 31)
      ∧ decodeWord 0x080027C5 = .ok (.cbrel 7 1)
      ∧ decodeWord 0x007E87C7 = .ok (.lfmt 7 20 31)
      ∧ decodeWord 0x005007C9 = .ok (.binit 7 20)
      ∧ decodeWord 0x045007C9 = .ok (.barv 7 20)
      ∧ decodeWord 0x087E87C9 = .ok (.bwait 7 20 31)
      ∧ decodeWord 0x0C0007C9 = .ok (.bfree 7)
      ∧ decodeWord 0x007E81CB = .ok (.mbsend 1 20 31)
      ∧ decodeWord 0x047E82CB = .ok (.mbrecv 2 20 31) := by decide +kernel

theorem test_decode_8 :
    decodeWord 0x080282CB = .ok (.mbpeek 2 20)
      ∧ decodeWord 0x005009D1 = .ok (.gsub 9 20)
      ∧ decodeWord 0x047E89D1 = .ok (.gdep 9 20 31)
      ∧ decodeWord 0x080000D1 = .ok .gdone
      ∧ decodeWord 0x0C5009D1 = .ok (.gwait 9 20)
      ∧ decodeWord 0x03D009D3 = .ok (.sfdecl 9 20 7)
      ∧ decodeWord 0x047E89D3 = .ok (.sfnext 9 20 31)
      ∧ decodeWord 0x085009D3 = .ok (.sfend 9 20)
      ∧ decodeWord 0x017E89D5 = .ok (.ftset 9 20 31 2)
      ∧ decodeWord 0x047E89D5 = .ok (.migr 9 20 31)
      ∧ decodeWord 0x017E89D9 = .ok (.sample 9 20 31 2)
      ∧ decodeWord 0x057E89D9 = .ok (.sampleDraft 9 20 31 2)
      ∧ decodeWord 0x007E89DB = .ok (.tkapp 9 20 31)
      ∧ decodeWord 0x047E89DB = .ok (.tkdraft 9 20 31)
      ∧ decodeWord 0x087E89DB = .ok (.tkconf 9 20 31)
      ∧ decodeWord 0x007E89DD = .ok (.wset 9 20 31)
      ∧ decodeWord 0x047E89DD = .ok (.wget 9 20 31)
      ∧ decodeWord 0x087E89DD = .ok (.sqfork 9 20 31)
      ∧ decodeWord 0x0C7E89DD = .ok (.sqstat 9 20 31)
      ∧ decodeWord 0x107E89DD = .ok (.sqiter 9 20 31)
      ∧ decodeWord 0x007E89E1 = .ok (.dcapd 9 20 31)
      ∧ decodeWord 0x045009E1 = .ok (.dcapr 9 20)
      ∧ decodeWord 0x085009E1 = .ok (.dcapq 9 20)
      ∧ decodeWord 0x0C2400E1 = .ok (.trmark 9)
      ∧ decodeWord 0x105009E1 = .ok (.sliprd 9 20)
      ∧ decodeWord 0x007E89E3 = .ok (.attest 9 20 31)
      ∧ decodeWord 0x045009E3 = .ok (.keynew 9 20)
      ∧ decodeWord 0x085009E3 = .ok (.keydel 9 20)
      ∧ decodeWord 0x0C5009E3 = .ok (.fuserd 9 20)
      ∧ decodeWord 0x105009E3 = .ok (.lcstat 9 20)
      ∧ decodeWord 0x145009E3 = .ok (.dbgunlk 9 20)
      ∧ decodeWord 0x187E89E3 = .ok (.measx 9 20 31) := by decide +kernel

theorem test_decode_9 :
    decodeWord 0x002400E5 = .ok (.plbinv 9)
      ∧ decodeWord 0x045120E5 = .ok (.tlbinv 9 20)
      ∧ decodeWord 0x085009E5 = .ok (.pgwake 9 20)
      ∧ decodeWord 0x0C5009E5 = .ok (.pgqry 9 20)
      ∧ decodeWord 0x107E89E5 = .ok (.pgpin 9 20 31)
      ∧ decodeWord 0x007E89E7 = .ok (.mscfl 9 20 31)
      ∧ decodeWord 0x047E89E7 = .ok (.hbmslot 9 20 31)
      ∧ decodeWord 0x087E89E7 = .ok (.tenset 9 20 31)
      ∧ decodeWord 0x0C7E89E7 = .ok (.vcres 9 20 31)
      ∧ decodeWord 0xA242 = .ok (.cMv 9 20)
      ∧ decodeWord 0xA244 = .ok (.cAdd 9 20)
      ∧ decodeWord 0xA246 = .ok (.cSub 9 20)
      ∧ decodeWord 0xA248 = .ok (.cAnd 9 20)
      ∧ decodeWord 0xA24A = .ok (.cOr 9 20)
      ∧ decodeWord 0xA24C = .ok (.cXor 9 20)
      ∧ decodeWord 0xA24E = .ok (.cSlt 9 20)
      ∧ decodeWord 0xA250 = .ok (.cLi 9 20)
      ∧ decodeWord 0xA252 = .ok (.cAddi 9 20)
      ∧ decodeWord 0xA254 = .ok (.cShli 9 20)
      ∧ decodeWord 0xA256 = .ok (.cShri 9 20)
      ∧ decodeWord 0xA258 = .ok (.cShai 9 20)
      ∧ decodeWord 0xA25A = .ok (.cLdw 9 20)
      ∧ decodeWord 0xA25C = .ok (.cLdd 9 20)
      ∧ decodeWord 0xA25E = .ok (.cStw 9 20)
      ∧ decodeWord 0xA260 = .ok (.cStd 9 20)
      ∧ decodeWord 0xA262 = .ok (.cLdsp 9 20)
      ∧ decodeWord 0xA264 = .ok (.cStsp 9 20)
      ∧ decodeWord 0xA266 = .ok (.cBeqz 9 20)
      ∧ decodeWord 0xA268 = .ok (.cBnez 9 20)
      ∧ decodeWord 0x026A = .ok (.cJr 9)
      ∧ decodeWord 0x026C = .ok (.cJal 9)
      ∧ decodeWord 0x026E = .ok (.cAddsp 9) := by decide +kernel

theorem test_decode_10 :
    decodeWord 0xA270 = .ok (.cNeg 9 20) := by decide +kernel

/-! ### Hypotheses met: the scalar instructions

Each theorem names the statement whose hypotheses, at this state and these operands, hold; where a step is taken, its outcome
is what the rules say. -/

/-- CLZ with a second operand in its word. -/
def clzTwo : State := State.reset.withFetchWord 32 (3 + 23 * 2 ^ 26 + 2 ^ 20)

theorem met_integerOperations_illegal :
    let s' := left_ clzTwo (fetchWord clzTwo)
    clzTwo.cur.replayed = none ∧ okR (fetchWord clzTwo) = true ∧ got 0 (fetchWord clzTwo) = 3 + 23 * 2 ^ 26 + 2 ^ 20
      ∧ s'.curSid = clzTwo.curSid ∧ s'.cur.vq = [] ∧ s'.cur.bpArmed = none ∧ s'.breakpoints clzTwo.curSid = []
      ∧ after (issueWord clzTwo) (fun t => decide (t.cur.ctl cMcause = 1 ∧ t.cur.ctl cMtval = 3 + 23 * 2 ^ 26 + 2 ^ 20)) = true := by
  decide +kernel

theorem met_branchesAndJumps :
    let s := regs base [(1, 5), (2, 5), (3, -1)]
    s.cur.rd 1 = s.cur.rd 2 ∧ s.cur.rd 1 ≠ s.cur.rd 3 ∧ (s.cur.rd 3).toInt < (s.cur.rd 1).toInt ∧ (s.cur.rd 2).toInt ≤ (s.cur.rd 1).toInt
      ∧ (s.cur.rd 1).toNat < (s.cur.rd 3).toNat ∧ s.cur.rd 4 = 0 ∧ s.cur.rd 1 ≠ 0
      ∧ after (exec (.bne 0x3C 1 3 0x3F) s) (fun t => t.cur.pc = 0x1000 - 8) = true
      ∧ after (exec (.beq 0x3C 1 3 0x3F) s) (fun t => t.cur.pc = 0x1004) = true := by decide +kernel

/-- g1 and g2 at the core's scratchpad, whose first bytes are 0xFF 0xFE 0x01. -/
def atPad : State := { regs base [(1, pad), (2, pad)] with mem := mwrite [] padBase [0xFF, 0xFE, 0x01] }

theorem met_loadsComplete :
    ([1, 2, 4, 8].all fun n => okR (readMem (atPad.who 0) pad n .no atPad)) = true
      ∧ after (exec (.ldb 5 1 0) atPad) (fun t => t.cur.rd 5 = -1) = true
      ∧ after (exec (.ldhu 5 1 0) atPad) (fun t => t.cur.rd 5 = 0xFEFF) = true
      ∧ after (exec (.ldw 5 1 0) atPad) (fun t => t.cur.rd 5 = 0x1FEFF) = true
      ∧ after (exec (.cLdsp 5 0) atPad) (fun t => decide (t.cur.rd 5 = 0x1FEFF ∧ t.cur.pc = 0x1002)) = true := by decide +kernel

theorem met_storesComplete :
    (List.all [1, 2, 4, 8] fun n => okR (writeMem (atPad.who 0) pad (leBytes n 7) .no atPad)) = true
      ∧ atPad.placeOf (atPad.who 0) pad.toNat = some (.pad padBase) ∧ atPad.admits (atPad.who 0) (.pad padBase) = true
      ∧ okR (checkRights (atPad.who 0) pad.toNat needW atPad) = true
      ∧ after (exec (.sth 0 1 1 0) atPad) (fun t => mread t.mem padBase 4 = [0, 0, 1, 0]) = true := by decide +kernel

/-- g1 names a translated word, g2 is 9; and its line in the L1, with no translation. -/
def toPage : State := regs base [(1, 0x2000), (2, 9)]

def inL1 : State := toPage.modCore 0 fun c => { c with
  l1 := [(0x400, { pa := 0x2000, rid := 0, key := 0, valid := true, own := true, dirty := 0, data := 7 })], tlb := [] }

theorem met_storesComplete_translated :
    let page := fun (s : State) => match checkAccess (s.who 0) 0x2000 8 needW s with
      | .ok .translated s1 => some (storePage (s.who 0) 0x2000 .no s1)
      | _ => none
    let reads := fun (t : State) => match readMem (t.who 0) 0x2000 8 .no t with | .ok bs _ => bs = leBytes 8 9 | _ => false
    ((page toPage).any fun r => match r with
        | .ok (some e) s => decide (s.resvs = [] ∧ (linesOf (s.core 0).l1).length < l1Lines ∧ e.paOf (s.partitionOf 0) 0x2000 = 0x2000)
        | _ => false) = true
      ∧ ((page inL1).any fun r => match r with | .ok none s => decide (s.resvs = []) && (s.l1Line 0 0x2000).isSome | _ => false) = true
      ∧ after (exec (.std 0 1 2 0) toPage) reads = true ∧ after (exec (.std 0 1 2 0) inL1) reads = true := by decide +kernel

theorem met_accessesKeepStrands :
    okR (readMem (base.who 0) 0x2000 8 .no base) = true ∧ okR (writeMem (base.who 0) 0x2000 [1, 2] .no base) = true
      ∧ base.placeOf (base.who 0) pad.toNat = some (.pad padBase) := by decide +kernel

theorem met_trapEntryAndReturn :
    let m := inMode base .monitor
    let s := (inMode base .supervisor).modCur fun t =>
      { t with status := { t.status with vhold := true }, hold := [{ pc := 0, ins := .viota 1 0, ox := [], g1 := 0, g2 := 0, vl := 4, frm := 1, grant := 1, lfmt := 0, start := 0 }] }
    m.cur.status.mode = .monitor ∧ s.cur.status.mode = .supervisor ∧ s.cur.status.vhold = true ∧ s.cur.hold ≠ []
      ∧ (inMode base .supervisor).cur.status.vhold = false
      ∧ after (exec .rett s) (fun t => decide (t.cur.vq.length = 1 ∧ t.cur.hold = [])) = true := by decide +kernel

/-- Supervisor mode, source 48 pending and enabled. -/
def pendingOne : State := (inMode base .supervisor).modCur fun t => (t.setCtl cIenable (2 ^ 48)).setCtl cIpend (2 ^ 48)

theorem met_systemInstructions :
    let s := inMode base .supervisor
    let i := regs s [(1, 0), (2, 48)]
    pendingOne.ipend 0 &&& pendingOne.cur.ctl cIenable ≠ 0 ∧ s.ipend 0 &&& s.cur.ctl cIenable = 0 ∧ s.cur.vq = []
      ∧ s.settled s.curSid = true ∧ i.coreInTenant 0 i.cur.tenant = true ∧ i.coreTraffic 0 0 = false
      ∧ after (exec .waiti s) (fun t => t.cur.wait = .waiti) = true
      ∧ after (exec (.ipi 1 2) i) (fun t => decide (t.cur.ctl cIpend = 2 ^ 48 ∧ t.cur.pc = 0x1004)) = true
      ∧ base.cur.brkCap = false ∧ (base.modCur fun t => { t with brkCap := true }).cur.brkCap = true
      ∧ after (exec (.brk 1) (base.modCur fun t => { t with brkCap := true })) (fun t => t.cur.st = .held) = true := by decide +kernel

/-- Monitor mode on stream core 8, which is the holding core of its partition, with a victim page and rings. -/
def onStream : State :=
  { (base.modCore 8 fun c => { c with
      strands := [(0, { st := .run, status := { mode := .monitor } })]
      vicq := [7]
      cr := [(0x109, 0x84), (0x10A, 5)] }).modDie 0 (fun d => { d with cr := [(0x242, 8), (0x243, 3)] }) with curCore := 8 }

theorem met_controlRegisters :
    let t := inMode base .task
    let m := inMode base .monitor
    ctlAccess 0 0x001 .monitor = .rw ∧ ctlAccess 0 0x282 .monitor = .wo ∧ t.cur.status.mode = .task ∧ coreExists 8 = true
      ∧ (onStream.st 64).status.mode = .monitor ∧ isStreamCore 8 = true ∧ onStream.isHolding 8 = true ∧ (onStream.core 8).vicq = 7 :: []
      ∧ tailMoves ((onStream.core 8).ctl 0x10A).toNat 1 (bits ((onStream.core 8).ctl 0x109) 4 0) = true
      ∧ tailMoves (tget 0 (onStream.die 0).cr 0x243).toNat 1 (bits (tget 0 (onStream.die 0).cr 0x242) 4 0) = true
      ∧ bit (onStream.pctl 0x1C5) 0 = false ∧ (onStream.pctl 0x283).toNat < 640 ∧ (onStream.island 0).locked = false
      ∧ ctlAccess 8 0x020 .monitor = .rw
      ∧ after (exec (.vqpop 8 0 7) onStream) (fun t => (t.core 8).vicq = []) = true
      ∧ after (exec (.fqtailWrite 8 0 1) onStream) (fun t => (t.core 8).ctl 0x10B = 1) = true
      ∧ after (exec (.trtailWrite 8 0 1) onStream) (fun t => tget 0 (t.die 0).cr 0x244 = 1) = true
      ∧ after (exec (.ipointWrite 8 0 8) onStream) (fun t => (t.island 0).point = 8) = true
      ∧ after (exec (.ctlclr 5 0 0x021) m) (fun t => decide (t.cur.rd 5 = 1 ∧ t.cur.pc = 0x1004)) = true
      ∧ after (exec (.registerWrite 0 0 0x004 0x1001) m) (fun t => t.cur.ctl cTvec = 0x1000) = true := by decide +kernel

/-! ### Hypotheses met: the vector stream -/

theorem met_vectorIssue :
    base.cur.status.vhold = false ∧ base.cur.vq.length < 16
      ∧ after (exec (.vor 1 2 3 0 0) base) (fun t => decide (t.cur.vq.length = 1 ∧ t.cur.pc = 0x1004)) = true := by decide +kernel

/-- A queue entry with 4 elements and one lane cluster. -/
def entry (i : Instr) : VEntry :=
  { pc := 0x1000, ins := i, ox := [], g1 := pad, g2 := 0, vl := 4, frm := 1, grant := 1, lfmt := 0, start := 0, lanes := [0] }

/-- Strand 0 with one lane cluster, its queue holding one instruction, v2 and v3 of a format with given bits. -/
def queued (i : Instr) (efmt : BitVec 8) (raw : BitVec 2) (x y : BitVec 2048) : State :=
  base.modCur fun t => { t with
    vq := [entry i], lanes := [0], cr := tput t.cr cGrant 1
    v := [(1, 0), (2, x), (3, y)]
    vh := [(1, { efmt := efmt, rawsz := raw }), (2, { efmt := efmt, rawsz := raw }), (3, { efmt := efmt, rawsz := raw })] }

/-- The oldest entry of strand 0 can be performed. -/
abbrev performs (s : State) (e : VEntry) : Prop :=
  (s.st 0).vq = [e] ∧ (s.st 0).st = .run ∧ e.stopped = false ∧ (s.st 0).lanesHeld = true ∧ (s.core 0).copies = []

theorem met_vectorIntegerElements :
    let i := Instr.vsubIvv 1 2 3 0 0
    let s := queued i 0 3 5 7
    performs s (entry i) ∧ (match checkOperands (s.st 0) (entry i) { fam := .int, noSlay := true, noSpar := true, same := 1 } none [2, 3] with
        | .ok _ => true | .error _ => false) = true
      ∧ after (exec (.vectorEntryComplete 0 0) s) (fun t => elemAt ((t.st 0).vr 1) 64 0 = 2 ^ 64 - 2) = true := by decide +kernel

/-- The operands of the oldest entry pass their checks. -/
def operandsOk (s : State) (r : OpRule) (regs : List Nat) : Bool :=
  (s.st 0).vq.head?.any fun e => match checkOperands (s.st 0) e r none regs with | .ok _ => true | .error _ => false

/-- The first elements of v1. -/
def elems (t : State) (eb n : Nat) : List Nat := (List.range n).map (elemAt ((t.st 0).vr 1) eb)

/-- The captured operands of strand 0's entries set. -/
def withOperands (s : State) (x y : Word) : State := s.modCur fun t => { t with vq := t.vq.map fun e => { e with g1 := x, g2 := y } }

/-- Four elements of 64 bits, 5 to 8. -/
def ramp : BitVec 2048 := 5 + 6 * 2 ^ 64 + 7 * 2 ^ 128 + 8 * 2 ^ 192

/-- v2 holds 5 to 8, v3 1 and zeros, the captured scalars 2 and 1. -/
def onRamp (i : Instr) : State := withOperands (queued i 0 3 ramp 1) 2 1

theorem met_vectorIntegerElements_scalar :
    let codes : OpRule := { fam := .int, noSlay := true, noSpar := true, same := 1 }
    let moves : OpRule := { noSpar := true, same := 2 }
    let after' := fun (i : Instr) (l : List Nat) => after (exec (.vectorEntryComplete 0 0) (onRamp i)) (fun t => elems t 64 4 = l) = true
    operandsOk (onRamp (.vaddIvx 1 2 0 0 4)) codes [2] = true ∧ operandsOk (onRamp (.vsel 1 2 0 4)) moves [2] = true
      ∧ operandsOk (onRamp (.vperm 1 2 3)) { fam := .int, noSpar := true } [3] = true
      ∧ operandsOk (onRamp (.viota 1 0)) { fam := .int, noSpar := true, same := 2 } [1] = true
      ∧ operandsOk (onRamp (.vins 1 3 4)) moves [1] = true
      ∧ after' (.vaddIvx 1 2 0 0 4) [7, 8, 9, 10] ∧ after' (.vslideup 1 2 0 4) [0, 0, 5, 6] ∧ after' (.vslidedn 1 2 0 4) [7, 8, 0, 0]
      ∧ after' (.vbcast 1 2 0 4) [7, 7, 7, 7] ∧ after' (.vperm 1 2 3) [6, 5, 5, 5] ∧ after' (.viota 1 0) [0, 1, 2, 3]
      ∧ after' (.vins 1 3 4) [0, 2, 0, 0] := by decide +kernel

theorem met_vectorFloatElements :
    let i := Instr.vaddFvv 1 2 3 0
    let s := queued i 5 3 0x3F800000 0x40000000
    performs s (entry i)
      ∧ (match checkOperands (s.st 0) (entry i) { fam := .flt, noSlay := true, noSpar := true, noB8 := true, same := 1 } none [2, 3] with
        | .ok _ => true | .error _ => false) = true
      ∧ (match checkOperands (s.st 0) (entry i) { fam := .flt, noSlay := true, noSpar := true, noB8 := true, same := 1 } none [2, 3, 1] with
        | .ok _ => true | .error _ => false) = true
      ∧ after (exec (.vectorEntryComplete 0 0) s) (fun t => elemAt ((t.st 0).vr 1) 32 0 = 0x40400000) = true := by decide +kernel

/-- binary32 1.0 to 4.0. -/
def singles : BitVec 2048 := 0x3F800000 + 0x40000000 * 2 ^ 32 + 0x40400000 * 2 ^ 64 + 0x40800000 * 2 ^ 96

/-- v2 and v3 hold 1.0 to 4.0, the captured scalar is 1.0. -/
def onSingles (i : Instr) : State := withOperands (queued i 6 3 singles singles) 0x3F800000 0

/-- v2 holds the INT8 numbers 1 to 4, v3 two -1 and two 1, v1 an INT32 sum. -/
def onBytes : State :=
  (queued (.vdot 1 2 3 0 0) 1 3 0x04030201 0x0101FFFF).modCur fun t => { t with vh := tput t.vh 1 { efmt := 3, rawsz := 0 } }

theorem met_vectorFloatElements_reduced :
    let reduces : OpRule := { noSlay := true, noB8 := true }
    let after' := fun (s : State) (eb : Nat) (l : List Nat) =>
      after (exec (.vectorEntryComplete 0 0) s) (fun t => elems t eb l.length = l) = true
    let v := onSingles (.vcvt 1 2 0 0 1 3 5)
    operandsOk (onSingles (.vred 1 2 0 0 0)) reduces [2] = true ∧ operandsOk onBytes { noSlay := true } [2, 3] = true
      ∧ (onBytes.st 0).vhr 1 = { efmt := 3, rawsz := 0 } ∧ ((onSingles (.vdot 1 2 3 0 0)).st 0).vhr 1 = { efmt := 6, rawsz := 3 }
      ∧ ((v.st 0).vhr 2).spar = 0 ∧ targetFmt 5 = 5 ∧ (entry (.vcvt 1 2 0 0 1 3 5)).fits 4 = true ∧ isFloat 5 = true
      ∧ after' (onSingles (.vaddFvx 1 2 0 4)) 32 [0x40000000, 0x40400000, 0x40800000, 0x40A00000]
      ∧ after' (onSingles (.vred 1 2 0 0 0)) 32 [0x41200000]
      ∧ after' (onSingles (.vscan 1 2 0 0 0)) 32 [0x3F800000, 0x40400000, 0x40C00000, 0x41200000]
      ∧ after' onBytes 32 [4] ∧ after' (onSingles (.vdot 1 2 3 0 0)) 32 [0x41F00000] ∧ after' v 16 [0x3F80, 0x4000, 0x4040, 0x4080] := by
  decide +kernel

/-- binary8 codes: a NaN, a non-zero value within range, and one beyond it. -/
theorem met_vectorFloatElements_binary8 :
    binary8Code 19 = true ∧ (fmtOf 19).val 0x80 = .nan false
      ∧ (let f := fmtOf 19
        let x : Dy := { neg := false, m := 3, e := 0 }
        let big : Dy := { neg := false, m := 1, e := 40 }
        let beyond := fun (x : Dy) =>
          let q := min x.e (f.qmin - 2)
          let grid := fun (n : Nat) => scaleTo (f.mag n).m (f.mag n).e q
          decide (3 * grid f.maxCode - grid (f.maxCode - 1) ≤ 2 * scaleTo x.m x.e q)
        beyond x = false ∧ beyond big = true ∧ (f.narrow .rne (.fin x)).2 = 0) := by decide +kernel

theorem met_predicateEntries :
    let s := (queued (.kpop 5 0) 0 3 0 0).modCur fun t => { t with wait := .vres }
    performs s (entry (.kpop 5 0)) ∧ (s.st 0).wait = .vres ∧ performs (queued (.kand 1 2 3) 0 3 0 0) (entry (.kand 1 2 3))
      ∧ after (exec (.vectorEntryComplete 0 0) s) (fun t => decide ((t.st 0).rd 5 = 256 ∧ (t.st 0).wait = .none)) = true := by
  decide +kernel

theorem met_predicateEntries_elements :
    let c := queued (.vcmp 1 2 3 0 0 2) 0 3 5 7
    let x := (withOperands (queued (.vext 5 2 0 4) 0 3 5 7) 0 0).modCur fun t => { t with wait := .vres }
    operandsOk c {} [2, 3] = true ∧ (c.st 0).vhr 2 = (c.st 0).vhr 3 ∧ operandsOk x { noSpar := true, same := 2 } [2] = true
      ∧ after (exec (.vectorEntryComplete 0 0) c) (fun t => (t.st 0).kr 1 = 1) = true
      ∧ after (exec (.vectorEntryComplete 0 0) x) (fun t => (t.st 0).rd 5 = 5) = true := by decide +kernel

theorem met_vectorMemoryElements :
    let i := Instr.vld 1 0 0
    let j := Instr.vst 2 0 0
    let s := { queued i 0 3 5 7 with mem := mwrite [] padBase [1, 2] }
    let u := queued j 0 3 5 7
    performs s (entry i) ∧ performs u (entry j) ∧ (entry i).fits ((s.st 0).vhr 1).esize = true ∧ s.breakpoints 0 = []
      ∧ ((List.range 4).all fun k => s.placeOf (s.who 0) (pad.toNat + 8 * k) = some (.pad (padBase + 8 * k))
          && s.admits (s.who 0) (.pad (padBase + 8 * k))) = true
      ∧ (s.core 0).plb.find? (fun q => q.pd = (s.who 0).pd) = some { pd := 0, segs := [allRights], complete := true }
      ∧ ([allRights].find? (·.covers (pad.toNat + 24))) = some allRights
      ∧ after (exec (.vectorEntryComplete 0 0) s) (fun t => elemAt ((t.st 0).vr 1) 64 0 = 0x201) = true
      ∧ after (exec (.vectorEntryComplete 0 0) u) (fun t => mread t.mem padBase 2 = [5, 0]) = true := by decide +kernel

/-- The scratchpad holds 1 to 4 in 64-bit words, v1 5 to 8, v2 the offsets of the words; the entry's base is the scratchpad. -/
def onPad (i : Instr) (y : Word) : State :=
  { (withOperands (queued i 0 3 (8 * 2 ^ 64 + 16 * 2 ^ 128 + 24 * 2 ^ 192) 0) pad y).modCur (fun t => { t with v := tput t.v 1 ramp }) with
    mem := mwrite [] padBase ([1, 2, 3, 4].flatMap (leBytes 8)) }

/-- The first 64-bit words of the scratchpad. -/
def padWords (t : State) (n : Nat) : List Nat := (List.range n).map fun k => leNat (mread t.mem (padBase + 8 * k) 8)

theorem met_vectorMemoryElements_forms :
    let loads := fun (i : Instr) (y : Word) (l : List Nat) =>
      after (exec (.vectorEntryComplete 0 0) (onPad i y)) (fun t => elems t 64 4 = l) = true
    let stores := fun (i : Instr) (y : Word) (l : List Nat) =>
      after (exec (.vectorEntryComplete 0 0) (onPad i y)) (fun t => padWords t 4 = l) = true
    let s := onPad (.vamo 1 2 0 0 0 4) 0
    (s.st 0).amoBack = none ∧ s.amoWaits 0 = false ∧ ((s.st 0).vhr 2).efmt = 0 ∧ okR (mayEnter (s.entryWho 0) (.pad padBase) s) = true
      ∧ s.padFlawed padBase 32 = false
      ∧ loads (.vlds 1 0 0 4) 16 [1, 3, 0, 0] ∧ loads (.vldx 1 2 0 4) 0 [1, 2, 3, 4] ∧ loads (.vldc 1 0 0 4) 8 [2, 3, 4, 0]
      ∧ stores (.vstx 1 2 0 4) 0 [5, 6, 7, 8] ∧ stores (.vsts 1 0 0 4) 16 [5, 2, 6, 4]
      ∧ loads (.vamo 1 2 0 0 0 4) 0 [1, 2, 3, 4] ∧ stores (.vamo 1 2 0 0 0 4) 0 [6, 8, 10, 12]
      ∧ stores (.vrdm 1 2 0 0 0 4) 0 [6, 8, 10, 12] := by decide +kernel

/-- The entry names byte 64 of the slices, where one byte is 9. -/
def onSlices (i : Instr) : State := (withOperands (onPad i 0) 64 0).modCluster 0 fun c => { c with slices := tput c.slices 64 9 }

/-- One element at a translated address, whose page is marked as gathered. -/
def onPage (i : Instr) : State :=
  ((withOperands (onPad i 0) 0x2000 100).modCur fun t => { t with vq := t.vq.map fun e => { e with vl := 1, begun := true } }).modCore 0
    fun c => { c with tlb := [{ flat with gt := true }] }

theorem met_vectorMemoryElements_places :
    let u := onPage (.vrdm 1 2 0 0 0 4)
    let z := (onPad (.vld 1 0 4) 0).modCur fun t => { t with vq := t.vq.map fun e => { e with vl := 0 } }
    (match checkAccess (u.entryWho 0) 0x2000 8 needRW u with
        | .ok .translated s1 => okR (translate (u.entryWho 0) 0x2000 true .gather s1)
        | _ => false) = true
      ∧ (onPage (.vpf 1 2 4)).placeOf (u.entryWho 0) 0x2000 = some .translated
      ∧ after (exec (.vectorEntryComplete 0 0) (onSlices (.vldSl 1 0 4))) (fun t => elems t 64 2 = [9, 0]) = true
      ∧ after (exec (.vectorEntryComplete 0 0) (onSlices (.vstSl 1 0 4))) (fun t =>
          decide ((t.st 0).heldLanes = [0] ∧ tget 0 (t.cluster 0).slices 72 = 6)) = true
      ∧ after (exec (.vectorEntryComplete 0 0) u) (fun t => t.updates.map (·.data) = [5]) = true
      ∧ after (exec (.vectorEntryComplete 0 0) (onPage (.vpf 1 2 4))) (fun t => (t.core 0).fills = [(0x2000, 1), (0x2040, 1)]) = true
      ∧ after (exec (.vectorEntryComplete 0 0) z) (fun t => (t.st 0).vq = []) = true := by decide +kernel

/-- A tile with its header stands at the scratchpad. -/
def onTile (i : Instr) (y : Word) (h : TileHdr) (rest : List Byte) : State :=
  { onPad i y with mem := mwrite [] padBase (h.bytes ++ rest) }

theorem met_vectorMemoryElements_tiles :
    let h := mstHdr pad 6 4 4 0
    let z : TileHdr := { mstHdr pad 1 2 8 0 with spar := 1 }
    let d := onTile (.vldt 1 2 0 4) 0 h ([1, 2, 3, 4].flatMap (leBytes 4))
    let p := onTile (.vldt 1 2 1 4) 0 z ([1, 2, 3, 4] ++ List.replicate 60 0 ++ [0x4E])
    let w := (onPad (.vstt 1 2 4) 0x40001).modCur fun t => { t with vh := tput t.vh 1 { efmt := 3, rawsz := 0 } }
    let q := mread p.mem padBase 32
    let x := leNat q
    tileOf pad q = z ∧ z.supported = true ∧ h.supported = true ∧ x % 65536 = 0x7A1E ∧ x / 2 ^ 16 % 16 = 1 ∧ x / 2 ^ 240 = crc16 (q.take 30)
      ∧ x / 2 ^ 188 % 2 ^ 52 = 0 ∧ z.lines = 2 ∧ z.lineLen = 4 ∧ z.groupByte 0 0 = 96
      ∧ (tileForm pad { efmt := 3, rawsz := 0 } 0x40001).supported = true
      ∧ after (exec (.vectorEntryComplete 0 0) d) (fun t => elems t 32 4 = [1, 2, 3, 4]) = true
      ∧ after (exec (.vectorEntryComplete 0 0) p) (fun t => decide (elems t 8 4 = [1, 2, 3, 4] ∧ (t.st 0).kr 1 % 256 = 0x4E)) = true
      ∧ after (exec (.vectorEntryComplete 0 0) w) (fun t => padWords { t with mem := mwrite [] padBase (mread t.mem (padBase + 32) 16) } 2 = [5, 6]) = true := by
  decide +kernel

/-- The allocator of cluster 0 with a request at the head of its order and every lane free. -/
def asked (kind : Nat) : State :=
  (base.modCur fun t => { t with wait := .lanes }).modCluster 0 fun c =>
    { c with laneOrder := [{ core := 0, slot := 0, count := 2, kind := kind, rd := 5, avl := 9, eb := 64 }] }

theorem met_lanesAndLengths :
    let s := regs base [(1, 9)]
    let held := s.modCur fun t => { t with lanes := [0, 1, 2, 3, 4, 5, 6, 7], cr := tput t.cr cGrant 4 }
    s.cur.status.vhold = false ∧ (s.cluster 0).laneOrder = [] ∧ s.cur.grant = 0 ∧ 8 ≤ (s.freeLanes 0).length ∧ s.cur.lanes = []
      ∧ held.cur.grant = 4 ∧ ((asked 0).cluster 0).laneOrder ≠ []
      ∧ after (exec (.setvl 5 1 0) s) (fun t => decide (t.cur.rd 5 = 9 ∧ t.cur.grant = 2)) = true
      ∧ after (exec (.setmvl 5 1 5) s) (fun t => decide (t.cur.rd 5 = 9 ∧ t.cur.ctl cMvl = 9)) = true
      ∧ after (exec (.setvl 5 1 0) (asked 0)) (fun t => t.cur.rd 5 = 0) = true
      ∧ isStreamCore onStream.curCore = true
      ∧ after (exec (.laneGrant 0) (asked 0)) (fun t => decide (t.cur.rd 5 = 9 ∧ t.cur.pc = 0x1004)) = true
      ∧ after (exec (.laneGrant 0) (asked 1)) (fun t => decide (t.cur.rd 5 = 9 ∧ t.cur.pc = 0x1004)) = true := by decide +kernel

/-- Strand 0 holds lane cluster 0 by a grant of 1, and traces its strips. -/
def oneLane : State := (regs base [(1, 9)]).modCur fun t => { t with lanes := [0], cr := tput (tput t.cr cGrant 1) 0x240 1 }

/-- Strand 3 waits for lanes. -/
def behindOne (s : State) : State := s.modCluster 0 fun c =>
  { c with laneOrder := [{ core := 0, slot := 3, count := 2, kind := 0, rd := 5, avl := 9, eb := 64 }] }

/-- Strand 0 has a grant and an entry that counts it, but no lanes; its restore heads the order. -/
def restoring : State :=
  ((queued (.viota 1 0) 0 3 0 0).modCur fun t => { t with lanes := [], vq := t.vq.map fun e => { e with lanes := [] } }).modCluster 0
    fun c => { c with laneOrder := [{ core := 0, slot := 0, count := 1, kind := 2, rd := 0, avl := 0, eb := 64 }] }

theorem met_lanesAndLengths_held :
    let b := behindOne (regs base [(1, 9)])
    oneLane.cur.lanesHeld = true ∧ bit (oneLane.cur.ctl 0x240) 0 = true ∧ restoring.cur.lanesHeld = false ∧ b.cur.entriesHeld = true
      ∧ restoring.cur.wait = .none ∧ (restoring.st 0).lanesNeeded - (restoring.st 0).heldLanes.length ≤ (restoring.freeLanes 0).length
      ∧ after (exec (.setvl 5 1 0) oneLane) (fun t =>
          decide (t.cur.rd 5 = 9 ∧ t.cur.grant = 2 ∧ tget 0 (t.die 0).cr 0x245 = 1)) = true
      ∧ after (exec (.setvl 5 1 0) (behindOne oneLane)) (fun t => decide (t.cur.rd 5 = 8 ∧ t.cur.grant = 1)) = true
      ∧ after (exec (.setmvl 5 1 0) b) (fun t => t.cur.wait = .lanes) = true
      ∧ after (exec (.laneGrant 0) restoring) (fun t =>
          decide ((t.st 0).lanesHeld = true ∧ (t.cluster 0).laneOrder = [])) = true := by decide +kernel

/-! ### Hypotheses met: strand events and translation -/

/-- Interrupts enabled with source 48 pending. -/
def interruptible : State := base.modCur fun t =>
  { (t.setCtl cIenable (2 ^ 48)).setCtl cIpend (2 ^ 48) with status := { t.status with ie := true } }

theorem met_interruptsAndTimer :
    let w := interruptible.modCur fun t => { t with wait := .waiti }
    let c := base.modCur fun t => t.setCtl cTcmp 0
    (interruptible.st 0).atIssue (interruptible.cycleOf 0) = true ∧ interruptible.interruptDue 0 = some 48
      ∧ (w.st 0).atIssue (w.cycleOf 0) = true ∧ w.interruptDue 0 = some 48
      ∧ (interruptible.st 0).vq = [] ∧ (interruptible.st 0).async = [] ∧ (c.st 0).st ≠ .free ∧ ((c.st 0).ctl cTcmp).toNat ≤ c.time
      ∧ after (exec (.interruptEntry 0 0) w) (fun t => t.cur.ctl cEpc = 0x1004) = true
      ∧ after (exec (.timerInterrupt 0 0) c) (fun t => t.cur.ctl cIpend = 1) = true := by decide +kernel

/-- A record of strand 0. -/
def rec0 : FaultRec := { va := 0x5000, sid := 0, tenant := 0, type := 1, kind := 4, level := 1, progress := 0, time := 0 }

theorem met_asynchronousFaults :
    let f := base.modCur fun t => { t with async := [.fault 3 5 9] }
    let v := base.modCur fun t => { t with async := [.vfault 0x1003 9 0x800 2] }
    let d := base.modCur fun t => { t with async := [.drop rec0] }
    let e := (queued (.vld 1 0 0) 0 3 0 0).modCur fun t => t.setCtl cEptime 0x200000
    (f.st 0).bpArmed = .none ∧ (f.st 0).vq = [] ∧ rec0.sid = 0 ∧ (e.st 0).status.mode = .task
      ∧ (e.st 0).ctl cEplimit ≤ (e.st 0).ctl cEptime ∧ (e.st 0).tenant ∉ e.holds
      ∧ e.stalledAt 0 (entry (.vld 1 0 0)) = some (0, pad)
      ∧ after (exec (.asyncFaultTrap 0 0) f) (fun t => decide (t.cur.ctl cCause = 0x2503 ∧ t.cur.async = [])) = true
      ∧ after (exec (.asyncFaultTrap 0 0) v) (fun t => decide (t.cur.ctl cCause = 0x1003 ∧ t.cur.ctl cVelem = 2)) = true
      ∧ after (exec (.asyncPageFaultDrop 0 0) d) (fun t => t.cur.st = .dropped) = true
      ∧ after (exec (.eptimeout 0 0) e) (fun t => decide (t.cur.ctl cCause = 0x130E ∧ t.cur.hold.length = 1)) = true := by decide +kernel

/-- A page table that maps page 5 to itself, in region 1, and no other page; the TLB is empty. -/
def tables : State :=
  let node := fun (pa next : Nat) (m : Memory) => mwrite m pa (leBytes 8 (next + 1))
  let m := node 0x100000 0x102000 (node 0x102000 0x104000 (node 0x104000 0x106000 (node 0x106000 0x108000 [])))
  { base.modCore 0 (fun c => { c with tlb := [], cr := [(0x100, 0x100000)] }) with
    mem := mwrite m 0x108050 (leBytes 8 (2 ^ 52 + 0x5003)) }

/-- A load of strand 0 has missed on a page and asked the walker, which may have answered. -/
def missed (page : Nat) (res : Option WalkRes) : State :=
  (tables.modCur fun t => { t with wait := .poll, flying := some (.ldd 5 6 0) }).modCluster 0 fun c =>
    { c with walkQ := [{ sid := 0, core := 0, page := page, res := res }] }

theorem met_walkerSteps :
    let noPage := regs (missed 6 (some (.ended (.fault 1 0)))) [(6, 0x6000)]
    let bare := base.modCore 0 fun c => { c with plb := [] }
    let ring := (base.modCore 8 fun c => { c with cr := [(0x108, 0x200000), (0x109, 0x84)] }).modCluster 0 fun c => { c with recWait := [rec0] }
    ((missed 5 none).cluster 0).walkQ.find? (fun q => q.res.isNone) = some { sid := 0, core := 0, page := 5, res := none }
      ∧ ((missed 5 none).cluster 0).recWait = [] ∧ (match walk 0 0x5000 (missed 5 none) with | .ok (.leaf _ _ _ _) _ => true | _ => false) = true
      ∧ (missed 5 none).keyServes 0 0 = true ∧ noPage.cur.vq = [] ∧ noPage.cur.rd 6 = 0x6000
      ∧ (noPage.joined (noPage.who 0) 0x6000).any (fun q => q.res = some (.ended (.fault 1 0))) = true
      ∧ (match checkRights (noPage.who 0) 0x6000 needR noPage with | .ok () _ => true | _ => false) = true ∧ (noPage.core 0).l1 = []
      ∧ (bare.core 0).plb.any (fun p => p.pd = 0) = false ∧ (bare.core 0).strands.any (fun e => e.2.st = .run && e.2.pd = 0) = true
      ∧ okR (plbFill 0 0 bare) = true ∧ ring.isHolding 8 = true ∧ (ring.core 8).ringRoom = true ∧ ring.resvs = [] ∧ ring.pendRegs = []
      ∧ ring.clusters.find? (fun e => (ring.partitionOf 8).mask.testBit (e.1 / 8) && !e.2.recWait.isEmpty) = some (0, ring.cluster 0)
      ∧ (missed 5 none).walksInFlight 0 = [{ sid := 0, core := 0, page := 5, res := none }]
      ∧ (match walk 0 0x5000 (missed 5 none).draw.2 with
          | .ok e s => decide (((s.endWalk 0 { sid := 0, core := 0, page := 5, res := none } (.ended e)).core 0).tlb.length = 1)
          | _ => false) = true
      ∧ after (exec (.ldd 5 6 0) noPage) (fun t => decide (t.cur.st = .dropped ∧ (t.cluster 0).recWait.map (·.va) = [0x6000])) = true
      ∧ after (exec (.plbFill 0 0) bare) (fun t => (t.core 0).plb.length = 1) = true
      ∧ after (exec (.faultRecordWrite 8) ring) (fun t => decide (mread t.mem 0x200000 2 = [0, 0x50] ∧ (t.core 8).ctl 0x10A = 1)) = true := by
  decide +kernel

/-- Supervisor mode over the page table, with registers. -/
def pages (l : List (Nat × Word)) : State := regs (inMode tables .supervisor) l

/-- Strand 1 of core 0 in DROPPED. -/
def droppedOne : State := (pages [(6, 1)]).modSt 1 fun t => { t with st := .dropped }

theorem met_translationInstructions :
    let s := pages [(6, 0x5000), (7, 0x1000)]
    s.cur.status.mode = .supervisor ∧ s.cur.vq = [] ∧ bits (s.cur.rd 6) 63 17 = 0
      ∧ droppedOne.strandNamed 1 = some 1 ∧ droppedOne.coreInTenant 0 0 = true ∧ (droppedOne.core 0).fwd = [] ∧ droppedOne.disp.parked = []
      ∧ (match walk 0 0x5000 s with | .ok (.leaf _ _ _ _) _ => true | _ => false) = true
      ∧ (match walk 0 0x6000 s with | .ok (.fault 1 0) _ => true | _ => false) = true
      ∧ (got ([], 0) (leavesOf 0 1 0x5000 0x6000 s)).1.length = 1
      ∧ after (exec (.pgwake 5 6) droppedOne) (fun t => decide ((t.st 1).st = .run ∧ t.cur.rd 5 = 0)) = true
      ∧ after (exec (.pgqry 5 6) s) (fun t => t.cur.rd 5 = 2 ^ 52 + 0x5003) = true
      ∧ after (exec (.pgqry 5 6) (pages [(6, 0x6000)])) (fun t => t.cur.rd 5 = 4096) = true
      ∧ after (exec (.pgpin 5 7 6) s) (fun t => decide (t.cur.rd 5 = 0x1000 ∧ bit (t.homeWord 0x108050) 5 = true)) = true
      ∧ after (exec (.tlbinv 7 6) (s.modCore 0 fun c => { c with tlb := [flat] })) (fun t => (t.core 0).tlb = []) = true
      ∧ after (exec (.plbinv 0) s) (fun t => (t.core 0).plb = []) = true := by decide +kernel

/-! ### Hypotheses met: messages -/

/-- A message for core 1, and a packet with it at core 1's router. -/
def hello : AmMsg := { index := 2, sender := 0, tenant := 0, reply := false, args := [11, 12, 13, 14, 15, 16] }
def packetTo (core : Nat) (p : Payload) (waiter : Option Nat) : Packet :=
  { id := 9, cls := .core, tenant := 0, src := 0, dsts := [core], x := (routerOf core).1, y := (routerOf core).2, hx := (routerOf core).1, hy := (routerOf core).2, vc := 0, waited := 0,
    escaped := false, payload := p, waiter := waiter, fwd := false }
def carrying (s : State) (p : Packet) : State := { s with fabric := { s.fabric with packets := [p] } }

/-- A message waits at core 0, whose handler table at 0x300000 has entry 2 valid, with pc 0x4000. -/
def toHandle : State :=
  { base.modCore 0 (fun c => { c with amq := [hello], cr := [(0x044, 0x300000)] }) with
    mem := mwrite [] 0x300020 (leBytes 8 0x4001 ++ leBytes 8 0) }

theorem met_activeMessages :
    let s := regs base [(3, 16), (4, 2)]
    let far := regs base [(3, 1024 * 16), (4, 2)]
    let a := carrying (base.modCur fun t => { t with wait := .send 9 }) (packetTo 1 (.am hello 1) (some 0))
    let m := { base.modCore 0 (fun c => { c with amRun := some false, strands := tput c.strands 4 { st := .run } }) with curSlot := 4 }
    bits (s.cur.rd 3) 63 20 = 0 ∧ bits (s.cur.rd 3) 3 0 < 10 ∧ bits (s.cur.rd 4) 63 8 = 0 ∧ s.samePartition 0 16 = true
      ∧ bits (far.cur.rd 3) 19 0 / 1024 ≠ far.pkg % 1024
      ∧ (a.packet 9).isSome = true ∧ (packetTo 1 (.am hello 1) (some 0)).there = true ∧ a.inTurn (packetTo 1 (.am hello 1) (some 0)) = true
      ∧ a.arrival 1 0 = .here ∧ (a.core 1).amRoom false = true
      ∧ (toHandle.core 0).amq = [hello] ∧ (toHandle.core 0).amRun = none ∧ (toHandle.st 4).st = .free
      ∧ (toHandle.clusterTenant 0).isSome = true ∧ okR (amEntry (toHandle.who 4) ((toHandle.core 0).ctl cAmtab) 2 toHandle) = true
      ∧ m.cur.vq = [] ∧ m.settled m.curSid = true
      ∧ after (exec (.amsend 3 4 0) s) (fun t => decide (t.fabric.packets.length = 1 ∧ t.cur.pc = 0x1000)) = true
      ∧ after (exec (.amsend 3 4 0) far) (fun t => t.cur.pc = 0x1004) = true
      ∧ after (exec (.amArrival 9) a) (fun t => decide ((t.core 1).amq = [hello] ∧ t.cur.pc = 0x1004)) = true
      ∧ after (exec (.amHandlerStart 0) toHandle) (fun t => decide ((t.st 4).pc = 0x4000 ∧ (t.st 4).rd 3 = 11 ∧ (t.st 4).rd 10 = 2)) = true
      ∧ after (exec .amret m) (fun t => (t.core 0).amRun = none) = true := by decide +kernel

/-- Tenant 0 may be reached from other packages. -/
def remote : State := { base with disp := { base.disp with tenants := [(0, { x0 := 0, x1 := 3, y0 := 0, y1 := 1, remote := true })] } }

theorem met_messageSwitches :
    let p := { packetTo 0 (.am hello 1) none with dsts := [8192], x := 16, y := 0 }
    let q := { p with payload := .am hello 1025 }
    let home := carrying base p
    let away := carrying base q
    let routed := carrying { base with fabric := { base.fabric with switches := [(0, { routes := [(1, [3])] })] } } q
    p.there = true ∧ home.inTurn p = true ∧ (home.switch 0).buffer.length < 256 ∧ tget [] (routed.switch 0).routes 1 ≠ []
      ∧ tget [] (away.switch 0).routes 1 = [] ∧ (hello.bytes 1).length = 64 ∧ messageOf (hello.bytes 1) = (hello, 1)
      ∧ remote.remoteAllowed 1 = true ∧ base.remoteAllowed 1 = false
      ∧ after (exec (.msgSwitchArrival 9) home) (fun t => (t.switch 0).buffer.length = 1) = true
      ∧ after (exec (.msgSwitchArrival 9) routed) (fun t => t.fabric.sent.map (·.2) = [hello.bytes 1025]) = true
      ∧ after (exec (.msgSwitchArrival 9) away) (fun t => (t.switch 0).discards = 1) = true
      ∧ after (exec (.ualinkMessageReceive 2 (hello.bytes 1)) remote) (fun t => (t.switch 0).buffer.length = 1) = true
      ∧ after (exec (.ualinkMessageReceive 2 (hello.bytes 1)) base) (fun t => (t.switch 0).discards = 1) = true
      ∧ after (exec (.ualinkRemoteRequest 2) base) (fun t => t.fabric.ualinkErrors = 1) = true := by decide +kernel

/-! ### Hypotheses met: the memory model and synchronisation -/

theorem met_acquireAndRelease :
    let w : L1Word := { pa := 0x2000, rid := 0, key := 0, valid := true, own := true, dirty := 0xFF, data := 7 }
    let s := base.modCore 0 fun c => { c with l1 := [(0x400, w)] }
    let late := { base with ports := [(0, { stamp := 3 })] }
    base.cur.vq = [] ∧ base.portsReached [0, 0, 0, 0] = true ∧ late.portsReached [3, 0, 0, 0] = false
      ∧ s.relReady 0 = true ∧ (s.release 0 1 0).releasePending 0 = false
      ∧ after (exec (.acq 3 0) late) (fun t => t.cur.wait = .acqs [3, 0, 0, 0] 0) = true
      ∧ after (exec (.acq 1 0) (base.modCore 0 fun c => { c with l1 := [(0x400, { w with own := false, dirty := 0 })] }))
          (fun t => (t.core 0).l1.all fun e => !e.2.valid) = true
      ∧ after (exec (.rel 1 0) s) (fun t => decide (t.homeWord 0x2000 = 7 ∧ t.cur.pc = 0x1004)) = true
      ∧ after (exec (.flushr 1 0) s) (fun t => t.homeWord 0x2000 = 7) = true
      ∧ after (exec .fenceA s) (fun t => (t.core 0).l1.all fun e => e.2.dirty = 0) = true := by decide +kernel

/-- One dirty word of core 0 in its L1, and one in its cluster's cache. -/
def dirtyL1 : L1Word := { pa := 0x2000, rid := 0, key := 0, valid := true, own := true, dirty := 0xFF, data := 7 }
def dirtyCc : CcWord := { rid := 0, key := 0, valid := true, dirty := 0xFF, data := 7, writer := 0, cowner := some 0 }

theorem met_acquireAndRelease_words :
    let s := base.modCore 0 fun c => { c with l1 := [(0x400, dirtyL1)] }
    let u := base.modCluster 0 fun c => { c with cc := [(0x400, dirtyCc)] }
    (s.core 0).l1.filter (fun e => e.2.dirty != 0 && inRegion 0 e.2.rid) = [(0x400, dirtyL1)] ∧ (s.cluster 0).cc = [] ∧ (u.core 0).l1 = []
      ∧ (u.cluster 0).cc.filter (fun x => x.2.dirty != 0 && inRegion 0 x.2.rid) = [(0x400, dirtyCc)] ∧ isHostCell 0x2000 = false
      ∧ s.resvs = [] ∧ s.pendRegs = [] ∧ u.resvs = [] ∧ u.pendRegs = [] ∧ s.relReady 0 = true ∧ u.relReady 0 = true
      ∧ (s.release 0 0 0).relDone 0 = true ∧ (s.release 0 1 0).relDone 1 = true ∧ ((u.release 0 1 0).flushCc 0 1 0).relDone 1 = true
      ∧ after (exec (.rel 0 0) s) (fun t =>
          (tfind (t.cluster 0).cc 0x400).any fun w => decide (w.writer = 0 ∧ w.cowner = some 0 ∧ w.data = 7)) = true
      ∧ after (exec (.flushr 1 0) u) (fun t => decide (tfind t.owners 0x400 = some 0 ∧ t.homeWord 0x2000 = 7)) = true
      ∧ after (exec (.acq 1 0) u) (fun t => (t.cluster 0).cc = [(0x400, dirtyCc)]) = true := by decide +kernel

/-- A store announced in window 0 by strand 0, to 0x2000, when the window's delivery is due. -/
def announced (op : Nat) : State :=
  { base.modCur (fun t => { t with wait := .sc 1 (op != 1) }) with
    scOps := [{ id := 1, core := 0, slot := 0, op := op, ea := 0x2000, pa := 0x2000, rid := 0, key := 0, data := 9, rd := 5, readyT := 0, window := some 0 }]
    mem := mwrite [] 0x2000 [4], clock := 200 }

theorem met_sequentiallyConsistent :
    let s := regs base [(1, 0x2000), (2, 9)]
    (([needSR, needSW, needSRW].all fun n => okR (checkRights (s.who 0) 0x2000 n s)) && okR (translate (s.who 0) 0x2000 true .no s)) = true
      ∧ performedAll s = true ∧ (s.registerWord 0 0x2000).pendRegs = []
      ∧ (announced 1).windowOps 0 = (announced 1).scOps ∧ 16 * (0 + 1) + 48 ≤ (announced 1).netCycle ∧ (announced 1).resvs = []
      ∧ okR (homeRead 0x2000 8 0 (announced 0)) = true
      ∧ after (exec (.scst 1 2) s) (fun t => decide (t.scOps.length = 1 ∧ t.cur.pc = 0x1000)) = true
      ∧ after (exec .scWindowDeliver (announced 1)) (fun t => decide (t.homeWord 0x2000 = 9 ∧ t.cur.pc = 0x1004)) = true
      ∧ after (exec .scWindowDeliver (announced 0)) (fun t => decide (t.cur.rd 5 = 4 ∧ t.cur.wait = .none)) = true
      ∧ after (exec .scWindowDeliver (announced 2)) (fun t => decide (t.cur.rd 5 = 4 ∧ t.homeWord 0x2000 = 9)) = true := by decide +kernel

/-- g1 names a word of the own scratchpad, which holds 6; g2 holds 9; the word is full. -/
def fullWord : State := { regs base [(1, pad), (2, 9)] with mem := mwrite [] padBase [6], full := [padBase] }

theorem met_fullEmptyAccesses :
    let e := { fullWord with full := [] }
    fullWord.placeOf (fullWord.who 0) pad.toNat = some (.pad padBase) ∧ okR (checkRights (fullWord.who 0) pad.toNat needSR fullWord) = true
      ∧ okR (checkRights (e.who 0) pad.toNat needSW e) = true ∧ fullWord.admits (fullWord.who 0) (.pad padBase) = true
      ∧ ownerOf padBase = .core 0 ∧ (fullWord.core 0).parked = [] ∧ performedAll fullWord = true ∧ fullWord.isFull padBase = true
      ∧ e.isFull padBase = false
      ∧ after (exec (.ldfe 5 1) fullWord) (fun t => decide (t.cur.rd 5 = 6 ∧ t.full = [])) = true
      ∧ after (exec (.stfe 1 2) e) (fun t => decide (leWord (mread t.mem padBase 8) = 9 ∧ t.full = [padBase])) = true
      ∧ after (exec (.stff 1 2) fullWord) (fun t => leWord (mread t.mem padBase 8) = 9) = true
      ∧ after (exec (.ldfe 5 1) e) (fun t => decide ((t.core 0).parked.length = 1 ∧ t.cur.pc = 0x1000)) = true := by decide +kernel

theorem met_fullEmptyAccesses_timed :
    let s := fullWord.modCur Strand.startFe
    s.placeOf (s.who 0) pad.toNat = some (.pad padBase) ∧ okR (checkRights (s.who 0) pad.toNat needSR s) = true
      ∧ okR (mayEnter (s.who 0) (.pad padBase) s) = true ∧ s.padFlawed padBase 8 = false := by decide +kernel

/-- Strand 0 waits for its full/empty load of a word at an address; its timer has reached its limit of 8. -/
def waitingFe (refused : Bool) (ea : Word) : State := base.modCur fun t =>
  { t with wait := .fe ea .ldfe 5 0 4 refused false, feTimer := 9, feLimit := 8 }

theorem met_fullEmptySteps :
    let r : FeReq := { sid := 0, tenant := 0, addr := padBase + 2 ^ 28, kind := .ldfe, data := 0, acc := 4 }
    let far := word (padBase + 2 ^ 28)
    let a := carrying { waitingFe false far with full := [padBase + 2 ^ 28], mem := mwrite [] (padBase + 2 ^ 28) [6] } (packetTo 1 (.fe r) none)
    let c := carrying ((waitingFe false far).modCore 1 fun c => { c with parked := [r] }) (packetTo 1 (.feCancel 0 (padBase + 2 ^ 28) 4) none)
    (a.packet 9).isSome = true ∧ (packetTo 1 (.fe r) none).there = true ∧ a.inTurn (packetTo 1 (.fe r) none) = true
      ∧ (a.core 1).fwd = [] ∧ ownerOf (padBase + 2 ^ 28) = .core 1 ∧ (a.core 1).parked = [] ∧ r.kind.holds (a.isFull r.addr) = true
      ∧ ((waitingFe true far).st 0).feLimit ≠ 0 ∧ ((waitingFe true far).st 0).tenant ∉ (waitingFe true far).holds
      ∧ (waitingFe false far).placeOf ((waitingFe false far).who 0) far.toNat = some (.pad (padBase + 2 ^ 28))
      ∧ c.cores.find? (fun e => e.2.parked.any (fun r => r.sid = 0 && r.acc = 4)) = some (1, c.core 1)
      ∧ after (exec (.feAccessArrive 9) a) (fun t => decide (t.cur.rd 5 = 6 ∧ t.full = [] ∧ t.cur.wait = .none)) = true
      ∧ after (exec (.fetimeout 0 0) (waitingFe true far)) (fun t => decide (t.cur.ctl cCause = 13 ∧ t.cur.ctl cTval = far)) = true
      ∧ after (exec (.fetimeout 0 0) (waitingFe false far)) (fun t => t.fabric.packets.length = 1) = true
      ∧ after (exec (.feCancel 9) c) (fun t => decide (t.cur.ctl cCause = 13 ∧ (t.core 1).parked = [])) = true := by decide +kernel

/-- Strand 0 waits for a reservation of 0x2000. -/
def waitingRsv (asked : Bool) : State :=
  { base.modCur (fun t => { t with wait := .rsv 0x2000 0 0x2000 asked (.hold 5 1 0) }) with mem := mwrite [] 0x2000 [4] }

theorem met_reservations :
    let s := regs base [(1, 0x2000)]
    let r : Resv := { holder := 0, sid := 0, value := 9, queue := [], grantTo := none }
    let taken := { waitingRsv false with resvs := [(0x400, { r with holder := 1, sid := 8 })] }
    let behind := taken.modCur (fun t => { t with wait := .rsv 0x2000 0 0x2000 false (.atomic 5 0 true 3 0) })
    let handed := { waitingRsv true with resvs := [(0x400, { r with grantTo := some 0 })] }
    let holding := { (regs base [(1, 0x2000)]).modCur (fun t => t.setCtl cRsvhold 0x2003) with resvs := [(0x400, r)] }
    let queued := { holding with resvs := [(0x400, { r with queue := [8] })] }
    (okR (checkRights (s.who 0) 0x2000 needSRW s) && okR (translate (s.who 0) 0x2000 true .no s)) = true
      ∧ bit (s.cur.ctl cRsvhold) 0 = false ∧ (waitingRsv false).rsvFree 0 0x2000 = true
      ∧ okR (homeRead 0x2000 8 0 (waitingRsv false)) = true ∧ taken.rsvQueued 0x2000 < 256
      ∧ bit (holding.cur.ctl cRsvhold) 0 = true ∧ 0x2000 = bits (holding.cur.ctl cRsvhold) 55 3 * 8 ∧ performedAll holding = true
      ∧ holding.relReady 0 = true ∧ (holding.release 0 1 0).pendRegs = [] ∧ holding.heldWord 0 = some (0x2000, r)
      ∧ queued.heldWord 0 = some (0x2000, { r with queue := [8] })
      ∧ after (exec (.rsv 5 1 2 1) s) (fun t => t.cur.wait = .rsv 0x2000 0 0x2000 false (.hold 5 1 0)) = true
      ∧ after (exec (.rsvRequest 0 0) (waitingRsv false)) (fun t => decide (t.cur.rd 5 = 4 ∧ t.cur.ctl cRsvhold = 0x2003)) = true
      ∧ after (exec (.rsvRequest 0 0) taken) (fun t => (tfind t.resvs 0x400).any (fun r => r.queue = [0])) = true
      ∧ (behind.reserved 0x2000).any (fun r => r.holder != 0) = true ∧ behind.rsvQueued 0x2000 < 256
      ∧ after (exec (.rsvRequest 0 0) behind) (fun t => decide (t.pendRegs.length = 1 ∧ (t.servePending 0x2000).cur.rd 5 = 4
          ∧ (t.servePending 0x2000).homeWord 0x2000 = 7)) = true
      ∧ after (exec (.rsvGrant 0 0) handed) (fun t => decide (t.cur.rd 5 = 9 ∧ t.cur.pc = 0x1004)) = true
      ∧ after (exec (.rls 1 2 1) holding) (fun t => decide (t.homeWord 0x2000 = 9 ∧ t.resvs = [])) = true
      ∧ after (exec (.rls 1 2 1) queued) (fun t => (tfind t.resvs 0x400).any (fun r => r.grantTo = some 8)) = true := by decide +kernel

theorem met_atomics :
    (match checkAccess (fullWord.who 0) pad 8 needSRW fullWord with | .ok (.pad _) s => performedAll s | _ => false) = true
      ∧ (match checkAccess (fullWord.who 0) pad 4 needSRW fullWord with | .ok (.pad _) s => performedAll s | _ => false) = true
      ∧ after (exec (.aadd 5 1 2 1 1) fullWord) (fun t => decide (t.cur.rd 5 = 6 ∧ leWord (mread t.mem padBase 8) = 15)) = true
      ∧ after (exec (.acas 5 1 2 0 1) (regs fullWord [(5, 6)])) (fun t => decide (t.cur.rd 5 = 6 ∧ leWord (mread t.mem padBase 8) = 9)) = true := by
  decide +kernel

/-- g1 names a translated word, which holds 4, g2 is 9; the word may be reserved. -/
def atPage (r : Option Resv) : State :=
  { regs base [(1, 0x2000), (2, 9)] with mem := mwrite [] 0x2000 [4], resvs := (r.map fun r => (0x400, r)).toList }

theorem met_atomics_translated :
    let r : Resv := { holder := 0, sid := 1, value := 6, queue := [], grantTo := none }
    let free := atPage none
    let held := atPage (some r)
    let other := atPage (some { r with holder := 9, sid := 72 })
    let sent := free.modCur fun t => { t with wait := .rsv 0x2000 0 0x2000 false (.atomic 5 0 true 9 0) }
    let met := fun (s : State) => match checkAccess (s.who 0) 0x2000 8 needSRW s with
      | .ok .translated s1 =>
        match translate (s1.who 0) 0x2000 true .no s1 with
        | .ok e s2 => performedAll s2 && decide (e.paOf (s2.partitionOf 0) 0x2000 = 0x2000)
        | _ => false
      | _ => false
    met free = true ∧ met held = true ∧ met other = true ∧ held.heldBy 0 0x2000 = some r ∧ other.heldBy 0 0x2000 = none
      ∧ (other.registerWord 0 0x2000).rsvFree 0 0x2000 = false ∧ (free.registerWord 0 0x2000).rsvFree 0 0x2000 = true
      ∧ okR (homeRead 0x2000 8 0 (free.registerWord 0 0x2000)) = true ∧ sent.reserved 0x2000 = none ∧ sent.rsvFree 0 0x2000 = true
      ∧ after (exec (.aadd 5 1 2 1 1) free) (fun t => decide (t.cur.rd 5 = 4 ∧ t.homeWord 0x2000 = 13)) = true
      ∧ after (exec (.aadd 5 1 2 1 1) held) (fun t => decide (t.cur.rd 5 = 6 ∧ (t.heldBy 0 0x2000).any (fun r => r.value = 15))) = true
      ∧ after (exec (.aadd 5 1 2 1 1) other) (fun t => t.cur.wait = .rsv 0x2000 0 0x2000 false (.atomic 5 0 true 9 0)) = true
      ∧ after (exec (.rsvRequest 0 0) sent) (fun t => decide (t.cur.rd 5 = 4 ∧ t.homeWord 0x2000 = 13)) = true := by decide +kernel

/-- Barrier 3 of cluster 0 in a state, with strand 8 waiting. -/
def barrier (arrived : BitVec 16) : State :=
  (regs base [(6, 2)]).modCluster 0 fun c =>
    { c with bars := [(3, { valid := true, gen := 5, expected := 2, arrived := arrived, waiters := [8] })] }

theorem met_barriers :
    let w := (barrier 1).modSt 8 fun t => { t with st := .run, wait := .bwait 3 9 }
    (barrier 1).cur.wait = .none ∧ (base.curBar 3).valid = false ∧ ((barrier 1).curBar 3).arrived + 1 = ((barrier 1).curBar 3).expected
      ∧ ((barrier 0).curBar 3).arrived + 1 ≠ ((barrier 0).curBar 3).expected ∧ performedAll w = true ∧ (w.st 8).wait = .bwait 3 9
      ∧ (regs (barrier 1) [(7, 5)]).cur.rd 7 = 5
      ∧ after (exec (.binit 3 6) w) (fun t => decide ((t.st 8).rd 9 = 1 ∧ (t.curBar 3).waiters = [])) = true
      ∧ after (exec (.bfree 3) w) (fun t => (t.st 8).wait = .none) = true
      ∧ after (exec (.barv 3 5) w) (fun t => decide (t.cur.rd 5 = 5 ∧ (t.st 8).rd 9 = 0 ∧ (t.curBar 3).gen = 6)) = true
      ∧ after (exec (.barv 3 5) (barrier 0)) (fun t => (t.curBar 3).arrived = 1) = true
      ∧ after (exec (.bwait 3 7 5) (regs (barrier 1) [(7, 5)])) (fun t => decide (t.cur.wait = .bwait 3 5 ∧ (t.curBar 3).waiters = [8, 0])) = true
      ∧ after (exec (.bwait 3 7 5) (barrier 1)) (fun t => t.cur.rd 5 = 0) = true := by decide +kernel

/-- A mailbox message. -/
def mail : MbMsg := { sender := 9, data := List.replicate 64 7 }

theorem met_mailboxes :
    let s := regs base [(1, 1), (2, pad)]
    let a := carrying (base.modCur fun t => { t with wait := .send 9 }) (packetTo 1 (.mb 1 mail) (some 0))
    let r := s.modCore 0 fun c => { c with mbLo := [mail] }
    bits (s.cur.rd 1) 63 20 = 0 ∧ s.coreInTenant 1 0 = true ∧ okR (readMem (s.who 0) pad 64 .no s) = true
      ∧ (a.packet 9).isSome = true ∧ a.arrival 1 0 = .here ∧ ((a.core 1).mbox 1).length < 16 ∧ (a.core 1).mbWait = []
      ∧ (r.core 0).mbox ((r.core 0).mbChoice 1) = [mail] ∧ okR (probeStore (r.who 0) pad 64 r) = true
      ∧ okR (writeMem (r.who 0) pad mail.data .no (left_ r (probeStore (r.who 0) pad 64 r))) = true
      ∧ (s.core 0).mbox ((s.core 0).mbChoice 1) = []
      ∧ after (exec (.mbsend 1 1 2) s) (fun t => decide (t.fabric.packets.length = 1 ∧ t.cur.pc = 0x1000)) = true
      ∧ after (exec (.mailboxArrival 9) a) (fun t => decide ((t.core 1).mbox 1 = [mail] ∧ t.cur.pc = 0x1004)) = true
      ∧ after (exec (.mbrecv 1 5 2) r) (fun t => decide (t.cur.rd 5 = 2 ^ 32 + 9 ∧ mread t.mem padBase 2 = [7, 7])) = true
      ∧ after (exec (.mbrecv 1 5 2) s) (fun t => (t.core 0).mbWait = [0]) = true
      ∧ after (exec (.mbpeek 1 5) r) (fun t => t.cur.rd 5 = 1 + 256 * 9) = true := by decide +kernel

/-! ### Hypotheses met: the matrix unit and the copy engine -/

/-- The die serves in full. -/
def inFull (s : State) : State := s.modDie 0 fun d => { d with full := true }

/-- A vector header of 128 INT8 elements. -/
def bytes128 (order spar : BitVec 4) : VHdr := { efmt := 1, order := order, spar := spar, rawsz := 0, count := 128 }

/-- A vector header of 64 fp16 elements. -/
def halves : VHdr := { efmt := 4, rawsz := 1, count := 64 }

/-- A tile of float32 elements, 4 by 4, at the core's scratchpad, its elements 1.0; g1 names it, and ox0 and ox1 a window. -/
def tiled (efmt : Nat) (x0 x1 : Word) : State :=
  { (regs (inFull base) [(1, pad), (2, pad)]).modCur (fun t => { t with ox := [(0, x0), (1, x1)] }) with
    mem := mwrite [] padBase ((mstHdr pad efmt 4 4 0).bytes ++ (List.replicate 4 ((List.replicate 4 (leBytes (esizeOf efmt) 1)).flatten
      ++ List.replicate (32 - 4 * esizeOf efmt) 0)).flatten) }

theorem met_matrixIssue :
    let s := (inFull base).modCur fun t => { t.setCtl cMvl 4 with v := [(1, 1), (2, 1)], vh := [(1, halves), (2, halves), (3, { efmt := 3 })] }
    let q := (inFull base).modCur fun t => { t.setCtl cMvl 4 with vh := [(1, bytes128 2 0), (2, bytes128 2 0)] }
    let z := (inFull base).modCur fun t => { t.setCtl cMvl 1 with vh := [(1, bytes128 0 1), (2, bytes128 2 0)], k := [(1, 4)] }
    isStreamCore s.curCore = false ∧ (s.core 0).mqRoom = true ∧ s.followHolds 0 = false ∧ s.cur.vq = []
      ∧ mopCause s 0 0 1 2 false = none ∧ mopCause q 1 0 1 2 true = none ∧ mopCause z 2 0 1 2 false = none
      ∧ imageOf (List.replicate 2 (0 : Byte) ++ [64, 64] ++ List.replicate 28 0) ≠ none ∧ okR (readMem (s.who 0) pad 32 .no s) = true
      ∧ s.cur.rd 4 = 0 ∧ (s.cur.vhr 3).efmt = 3 ∧ ((s.core 0).accHeader 0).efmt = 0
      ∧ after (exec (.mzero 0) s) (fun t => decide ((t.core 0).mq.length = 1 ∧ t.cur.pc = 0x1004)) = true
      ∧ after (exec (.mop 0 2 1 0) s) (fun t => decide (((t.core 0).accHeader 0).lock = true ∧ ((t.core 0).accHeader 0).efmt = 6)) = true
      ∧ after (exec (.mwr 3 0 4) s) (fun t => decide ((t.core 0).mq.length = 1)) = true := by decide +kernel

theorem met_matrixIssue_tiles :
    let s := tiled 4 0x0004000000000000 0x404
    let d := tiled 6 0 0x404
    okR (mmasPlan (s.who 0) 0 pad pad (s.xo 0 0) (s.xo 0 1) false s) = true ∧ okR (mldPlan (d.who 0) pad (d.xo 0 0) (d.xo 0 1) d) = true
      ∧ after (exec (.mmas 0 2 1 0 0) s) (fun t => decide ((t.core 0).mq.length = 1)) = true
      ∧ after (exec (.mld 0 1 0) d) (fun t => decide ((t.core 0).mq.length = 1)) = true := by decide +kernel

/-- Strand 0's command on accumulator 0 in the unit's queue. -/
def unit (k : MKind) (p : MPhase) (s : State) : State :=
  s.modCore 0 fun c => { c with mq := [{ id := 1, slot := 0, acc := 0, kind := k, phase := p, pd := 0, major := 0, before := {} }] }

theorem met_matrixProgress :
    isStreamCore base.curCore = false
      ∧ after (exec (.mprg 0 5) (unit (.mld (mstHdr pad 6 4 4 0) 0 0 4 4) .paused base)) (fun t => t.cur.rd 5 = 0x600000000) = true := by
  decide +kernel

/-- g1 names the scratchpad, g2 a 1 by 1 tile; accumulator 0 holds 7 in float32's result format INT32. -/
def toStore : State :=
  (regs base [(1, pad), (2, 0x10001)]).modCur (fun t => { t with ox := [(1, 0x101), (2, 3)] }) |>.modCore 0 fun c =>
    { c with accHdr := [(0, { efmt := 3 })], acc := [(0, 7)] }

theorem met_matrixResults :
    let w := toStore.who 0
    let p := padBase
    ((toStore.core 0).mq.any (fun m => m.acc = 0)) = false ∧ (toStore.core 0).copies = [] ∧ ((toStore.core 0).accHeader 0).lock = false
      ∧ ((toStore.core 0).accHeader 0).rslay = 0 ∧ ((toStore.core 0).accHeader 0).cslay = 0 ∧ toStore.xo 0 0 = 0 ∧ toStore.xo 0 1 = 0x101
      ∧ mstCause toStore 0 pad 0x10001 0 0x101 3 = none ∧ toStore.mstTarget 3 pad = 3
      ∧ (List.range 36).all (fun k => decide (toStore.placeOf w (pad.toNat + k) = some (.pad (p + k))) && toStore.admits w (.pad (p + k)))
      ∧ (toStore.core 0).plb.head?.map (·.segs) = some [allRights]
      ∧ after (exec (.mst 0 2 1 0) toStore) (fun t => mread t.mem (p + 32) 5 = [7, 0, 0, 0, 0]) = true
      ∧ after (exec (.mrd 3 0 4) toStore) (fun t => decide (t.cur.vr 3 = 7 ∧ (t.cur.vhr 3).efmt = 3)) = true
      ∧ after (exec (.mwait 0) toStore) (fun t => t.cur.pc = 0x1004) = true
      ∧ after (exec (.mwait 0) (unit .mzero .queued base)) (fun t => decide (t.cur.wait = .mwait [1] [])) = true := by decide +kernel

theorem met_matrixSteps :
    let h : VHdr := { efmt := 1, rawsz := 0, count := 128 }
    let o := unit (.mop 0 false 2 0x0302 0x0504 h h 0) .queued base
    let d := tiled 3 0 0x404
    let l := unit (.mld (mstHdr pad 3 4 4 0) 0 0 4 4) .performing d
    let m := tiled 1 0 0x404
    let a := unit (.mmas false (mstHdr pad 1 4 4 0) (mstHdr pad 1 4 4 0) 0 0 0 4 4 4) .performing m
    let f := unit .mzero .done base
    let held := o.modSt 1 fun t => { t with st := .run, pc := 0x5000, wait := .poll, flying := some (.mzero 1) }
    (o.core 0).copies = [] ∧ held.heldCommand 1 = some (.mzero 1) ∧ (held.core 0).mqRoom = true
      ∧ after (exec (.matrixCmdAccept 0 1) held) (fun t => decide ((t.core 0).mq.map (·.acc) = [0, 1] ∧ (t.st 1).pc = 0x5004)) = true
      ∧ after (exec (.matrixCmdPerform 0) o) (fun t =>
          decide ((t.core 0).accRow 0 0 = 0x0000000A00000008 ∧ (t.core 0).accRow 0 1 = 0x0000000F0000000C)) = true
      ∧ after (exec (.matrixCmdPerform 0) (unit (.mwr 3 5 3) .queued base)) (fun t => (t.core 0).accRow 0 3 = 5) = true
      ∧ okR (mldRow (l.who 0) (mstHdr pad 3 4 4 0) 0 0 4 l) = true
      ∧ after (exec (.mmasKrowApply 0) l) (fun t => elemAt ((t.core 0).accRow 0 0) 32 3 = 1) = true
      ∧ okR (mmasStep (a.who 0) (mstHdr pad 1 4 4 0) (mstHdr pad 1 4 4 0) 0 0 0 0 4 4 a) = true
      ∧ after (exec (.mmasKrowApply 0) a) (fun t => decide (elemAt ((t.core 0).accRow 0 3) 32 3 = 2 ∧ ((t.core 0).accHeader 0).progress = 2)) = true
      ∧ after (exec (.matrixCmdFinish 0) f) (fun t => (t.core 0).mq = []) = true
      ∧ decodeMajor58 0x000000B1 = .ok (.mzero 0) := by decide +kernel

/-- g1 names the scratchpad, whose first bytes are 1 and 2, g2 an address 4096 above; ox0 orders 64 bytes at scope c. -/
def toCopy : State :=
  { (regs base [(1, pad), (2, pad + 4096)]).modCur (fun t => { t with ox := [(0, 64)] }) with mem := mwrite [] padBase [1, 2] }

theorem met_copyIssue :
    let m := regs (toCopy.modCur fun t => { t with ox := [(0, 64), (1, 3), (2, 3)] }) [(1, 0x2000)]
    let r := regs (toCopy.modCur fun t => { t with ox := [(0, 0x200400)] }) [(1, 0x2000)]
    let src := toCopy.cur.rd 1
    let dst := toCopy.cur.rd 2
    toCopy.cur.wait = .none ∧ toCopy.cur.vq = [] ∧ (toCopy.core 0).freeCopy = some 0 ∧ toCopy.chunkReg 0 0 = false
      ∧ okR (copyWords toCopy 0 src dst false 0 toCopy) = true ∧ bit (toCopy.xo 0 0) 19 = false ∧ bit (toCopy.xo 0 0) 22 = false
      ∧ src.toNat % 8 = 0 ∧ dst.toNat % 8 = 0 ∧ rangeLeaves src.toNat 64 = false ∧ src.toNat + 64 ≤ dst.toNat
      ∧ (match rangeFault (toCopy.who 0) src.toNat 64 needR toCopy with
          | .ok none s1 => (match rangeFault (s1.who 0) dst.toNat 64 needW s1 with | .ok none _ => true | _ => false)
          | _ => false) = true
      ∧ after (exec (.cpy 0 2 1 0) toCopy) (fun t => decide ((t.core 0).copies.length = 1 ∧ t.cur.pc = 0x1004)) = true
      ∧ after (exec (.cpyf 0 2 1 0) toCopy) (fun t => decide ((t.core 0).copies.length = 1)) = true
      ∧ after (exec (.cpym 0 2 1 0) m) (fun t => decide ((t.core 0).copies.length = 1)) = true
      ∧ after (exec (.cpys 0 2 1 0) r) (fun t => decide ((t.core 0).copies.length = 1)) = true := by decide +kernel

/-- A tile at the scratchpad to copy 4096 above, its chunks' bits in k1; circular buffer 2 stands at the destination. -/
def tileCopy : State :=
  { (regs base [(1, pad), (2, pad + 4096)]).modCur (fun t => { t with ox := [(0, 0x80000)], k := [(1, 7)] }) with
    mem := mwrite [] padBase (mstHdr pad 6 4 4 0).bytes }

theorem met_copyIssue_tiles :
    let h := mstHdr pad 6 4 4 0
    let l := tileCopy.modCore 0 fun c => { c with lfmt := [(0, 5)] }
    let cb := fun (free : Nat) => (toCopy.modCur fun t => { t with ox := [(0, 0x1400040)] }).modCore 0 fun c =>
      { c with cbs := [(2, { valid := true, base := pad + 4096, ssize := 1, nslots := 2, free := free, filled := 0 })] }
    (match hdrCheck (l.who 0) pad .no l with
        | .ok h' s => decide (h' = h ∧ s.bankFor (s.who 0) (pad + 4096) = some 0 ∧ (s.core 0).landing 0 = 5
            ∧ (h.converted 5 (pad + 4096)).supported = true)
        | _ => false) = true
      ∧ bit (tileCopy.xo 0 0) 19 = true ∧ bit ((cb 2).xo 0 0) 22 = true ∧ bits ((cb 2).xo 0 0) 25 23 = 2
      ∧ after (exec (.cpy 1 2 1 0) tileCopy) (fun t => decide ((t.core 0).copies.map (fun k => (k.2.hdr, k.2.conv)) = [(some h, none)]
          ∧ t.cur.kr 1 = 6 ∧ t.cur.pc = 0x1004)) = true
      ∧ after (exec (.cpy 0 2 1 0) l) (fun t => (t.core 0).copies.map (fun k => k.2.conv) = [some (5, 0, 0)]) = true
      ∧ after (exec (.cpy 0 0 1 0) (cb 2)) (fun t => (t.core 0).copies.map (fun k => (k.2.state, k.2.dst)) = [(.moving, pad + 4096)]) = true
      ∧ after (exec (.cpy 0 0 1 0) (cb 0)) (fun t =>
          decide ((t.core 0).copies.map (fun k => k.2.state) = [.waiting] ∧ ((t.core 0).cb 2).pwait = [16])) = true := by decide +kernel

/-- A copy of 64 bytes as entry 0, its chunk bits in k1. -/
def theCopy : CopyCmd :=
  { id := 4, slot := 0, kind := 0, src := pad, dst := pad + 4096, extent := 64, kc := 1, scope := 0, cbv := false, cb := 0, rs := 0, dir := false,
    tile := false, hdr := none, conv := none, follow := none, mset := 0, state := .moving, done := 0, lines := [], pd := 0 }

/-- Circular buffer 2: two slots of 64 bytes. -/
def ring (free filled : Nat) : CbDesc :=
  { valid := true, base := pad, ssize := 1, nslots := 2, free := free, filled := filled }

/-- The core's copies and circular buffer 2. -/
def copying (k : List CopyCmd) (d : CbDesc) : State :=
  (regs base [(1, pad), (6, 0x20001), (8, 0x803)]).modCore 0 fun c => { c with copies := k.map (fun x => (0, x)), cbs := [(2, d)] }

theorem met_copyInstructions :
    let i := copying [] (ring 2 0)
    let f := copying [] { ring 1 1 with phead := 1 }
    let e := copying [] { ring 0 2 with pheld := [(0, 1, false), (1, 1, false)] }
    let h := copying [] { ring 1 0 with cheld := [(0, 0, false)] }
    let k := copying [theCopy] (ring 2 0)
    i.cur.wait = .none ∧ i.myCopies 1 = [] ∧ i.cur.async = [] ∧ k.myCopies 1 = [theCopy] ∧ geometryOk (i.cur.rd 6) = true
      ∧ (match rangeFault (i.who 0) pad.toNat 128 needRW i with | .ok none _ => true | _ => false) = true
      ∧ performedAll h = true ∧ landingOk 0x803 = true ∧ landingOk 6 = true
      ∧ after (exec (.rowcls 1) i) (fun t => t.cur.pc = 0x1004) = true
      ∧ after (exec (.cpwait 1) i) (fun t => t.cur.pc = 0x1004) = true
      ∧ after (exec (.cpqry 1 5) k) (fun t => t.cur.rd 5 = 1) = true
      ∧ after (exec (.cbinit 2 6 1) i) (fun t => decide (((t.core 0).cb 2).free = 2 ∧ t.cur.pc = 0x1004)) = true
      ∧ after (exec (.cbacq 2 1 5) f) (fun t => decide (t.cur.rd 5 = pad + 64 ∧ ((t.core 0).cb 2).pheld = [(1, 0, false)])) = true
      ∧ after (exec (.cbacq 2 0 5) f) (fun t => decide (t.cur.rd 5 = pad ∧ ((t.core 0).cb 2).filled = 0)) = true
      ∧ after (exec (.cbacq 2 1 5) e) (fun t => t.cur.wait = .cbacq 2 true 5) = true
      ∧ after (exec (.cbrel 2 0) h) (fun t => decide (((t.core 0).cb 2).free = 2 ∧ ((t.core 0).cb 2).cheld = [])) = true
      ∧ after (exec (.lfmt 3 5 8) i) (fun t => decide (t.cur.rd 5 = 0 ∧ t.cur.pc = 0x1004)) = true := by decide +kernel

/-- The copy moving in a state with its source's bytes. -/
def moving (k : CopyCmd) (d : CbDesc) : State := { copying [k] d with mem := mwrite [] padBase [1, 2] }

theorem met_copySteps :
    let s := moving theCopy (ring 2 0)
    let w := s.copyWho 0 theCopy
    let kw := { theCopy with state := .waiting, cbv := true, cb := 2 }
    let b := moving kw { ring 2 0 with pwait := [16] }
    let ff : FollowOn := { kind := 1, sat := false, acc := 0, role := 0, other := 0, w0 := 0, w1 := 0x404 }
    let kf := { theCopy with state := .followOn, dst := pad, follow := some ff }
    let f := (tiled 6 0 0x404).modCore 0 fun c => { c with copies := [(0, kf)] }
    let mc := { theCopy with kind := 2, mset := 3, src := 0x2000 }
    let g := (copying [mc] (ring 2 0)).modCore 0 fun c => { c with tlb := [{ flat with uo := true }] }
    let mg : Merge := { pa := 0x2000, mset := 3, tenant := 0, joined := [(0, 4)], opened := 0, key := 0, taken := none }
    (s.core 0).copyTurn theCopy = true
      ∧ (match chunkWork w theCopy 0 s with
          | .ok (ts, bs, _, _) s' => decide (s'.targetsHeld 0 ts = []) && okR (copyStore w theCopy.id 0 ts bs s')
          | _ => false) = true
      ∧ after (exec (.copyChunkRegister 0 0) s) (fun t =>
          decide (mread t.mem (padBase + 4096) 3 = [1, 2, 0] ∧ (t.st 0).kr 1 = 1 ∧ tfind (t.core 0).copies 0 = none)) = true
      ∧ ((b.core 0).cb 2).pwait = [16] ∧ ((b.core 0).cb 2).cwait = [] ∧ 0 < ((b.core 0).cb 2).free
      ∧ after (exec (.copySlotTake 0 0) b) (fun t => decide (((t.core 0).cb 2).free = 1 ∧ (tfind (t.core 0).copies 0).any (·.state = .moving))) = true
      ∧ (f.core 0).mqRoom = true ∧ f.coreHalted 0 = false ∧ okR (mldPlan (f.copyWho 0 kf) pad 0 0x404 f) = true
      ∧ after (exec (.copyFollowonIssue 0 0) f) (fun t => decide ((t.core 0).mq.map (·.id) = [4] ∧ (t.core 0).copies = [])) = true
      ∧ (match chunkWork (g.copyWho 0 mc) mc 0 g with
          | .error (.other 0 0 _, va) _ => okR (translate (g.copyWho 0 mc) va.toNat false .useOnce g)
          | _ => false) = true
      ∧ g.merges = [] ∧ g.fabric.packets = []
      ∧ after (exec (.mergeRequest 0 0) g) (fun t => decide (t.merges.map (·.joined) = [[(0, 4)]] ∧ t.merges.map (·.pa) = [0x2000])) = true
      ∧ after (exec (.mergeRequest 0 0) g) (fun t =>
          decide (t.merges.map (·.opened) = [32] ∧ t.merges.map (·.taken) = [none])) = true
      ∧ ({ g with merges := [mg], clock := 64 } : State).slotOpen (some 0) 0x2000 = true
      ∧ after (exec (.mergeEntryClose 0) { g with merges := [mg], clock := 64 }) (fun t =>
          decide (t.merges = [] ∧ t.fabric.packets.map (·.dsts) = [[0]])) = true := by decide +kernel

/-! ### Hypotheses met: saved strands, the dispatcher and sequences -/

/-- Supervisor mode; g1 names the scratchpad, g2 slot 1, which is DROPPED with a register set. -/
def toSave : State :=
  (regs (inMode base .supervisor) [(1, pad), (2, 1)]).modSt 1 fun t => { t with st := .dropped, pc := 0x3000, g := [(5, 77)] }

/-- The words of slot 1 are written to the area. -/
def areaWritten : Bool :=
  let s1 := (toSave.withdrawWait 1).enterPending 1
  okR (saveSlots (s1.who 0) pad 0 (runs64 195 ((s1.st 1).image 1)) s1)

/-- The area of a state is read, and is one that CTXLOAD accepts. -/
def areaRead (t : State) : Bool :=
  let u := t.acquire 0 scP 0
  (got none (loadArea (u.who 0) 0 pad u)).isSome

/-- Slot 1 is FREE, and an area with entry point 0x3000 and g5 = 77 stands at the scratchpad. -/
def toLoad : State :=
  { toSave.modSt 1 (fun _ => {}) with
    mem := mwrite (mwrite (mwrite [] padBase (leBytes 4 0x1DC70001 ++ leBytes 4 12480)) (padBase + 0x10) [0, 0x30]) (padBase + 0x168) [77] }

theorem met_contextSwitch :
    (toSave.st 1).vq = [] ∧ (toSave.st 1).async = [] ∧ toSave.saveBusy 1 = false ∧ areaWritten = true ∧ (toLoad.st 1).st = .free
      ∧ (toLoad.core 0).saveRec = none ∧ toLoad.cur.vq = [] ∧ areaRead toLoad = true := by decide +kernel

theorem test_ctxload :
    after (exec (.ctxload 6 1 2) toLoad) (fun u => decide (u.cur.rd 6 = 0 ∧ (u.st 1).st = .run ∧ (u.st 1).pc = 0x3000 ∧ (u.st 1).rd 5 = 77))
      = true := by
  decide +kernel

/-- Node 7 of tenant 0 under key 9. -/
def aNode (st : NodeState) (preds : Nat) (members : List (Nat × Nat)) : Node :=
  { id := 7, key := some 9, tenant := 0, prio := 0, cls := 0, strands := 1, entry := 0x4000, succ := 0, preds := preds, ops := [0, 0, 0, 0],
    state := st, ready := 0, front := false, waits := 0, toPlace := [], members := members }

/-- A pool with one node; tenant 0's descriptor is valid for every port; a record with entry 0x4000 stands at the scratchpad. -/
def pool (n : List Node) : State :=
  let s := regs base [(1, pad), (2, 9), (3, -1), (4, 1)]
  { s with disp := { s.disp with nodes := n }, mem := mwrite (mwrite [] 18 [0x8F]) padBase ([0, 0x40] ++ List.replicate 25 0 ++ [4]) }

theorem met_graphInstructions :
    let s := pool []
    let w := pool [aNode .waiting 1 []]
    let m := (pool [aNode .running 0 [(0, 0)]]).modCur fun t => { t with node := some 7 }
    let r := s.release 0 scP 0
    okR (checkAccess (s.who 0) pad 64 needR s) = true ∧ s.relReady 0 = true ∧ r.releasePending 0 = false
      ∧ okR (readHome (r.who 0) (.pad padBase) pad.toNat 64 r) = true
      ∧ w.waitingNode 9 = some (aNode .waiting 1 []) ∧ w.relReady 0 = true ∧ (w.release 0 scP 0).releasePending 0 = false
      ∧ s.waitingNode 9 = none ∧ s.nodeByKey 0 9 = none ∧ (w.nodeByKey 0 9).isSome = true ∧ s.settled 0 = true
      ∧ (s.closeRowsOf 0).relReady 0 = true ∧ s.lastMember 0 = none ∧ (m.lastMember 0).any (fun n => n.succ = 0) = true
      ∧ after (exec (.gsub 5 1) s) (fun t => decide (t.cur.rd 5 = 0 ∧ t.disp.nodes.map (·.entry) = [0x4000])) = true
      ∧ after (exec (.gsub 5 1) { s with mem := mwrite [] padBase ([0, 0x40] ++ List.replicate 25 0 ++ [4]) }) (fun t => t.cur.rd 5 = 3) = true
      ∧ after (exec (.gdep 5 4 2) w) (fun t => decide (t.cur.rd 5 = 2 ∧ t.disp.nodes.map (·.preds) = [2])) = true
      ∧ after (exec (.gdep 5 3 2) w) (fun t => decide (t.cur.rd 5 = 0 ∧ t.disp.nodes.map (·.state) = [.ready])) = true
      ∧ after (exec (.gdep 5 0 2) s) (fun t => t.cur.rd 5 = -1) = true
      ∧ after (exec (.gwait 5 2) s) (fun t => t.cur.rd 5 = 1) = true
      ∧ after (exec (.gwait 5 2) w) (fun t => t.cur.wait = .gwait 7 5) = true
      ∧ after (exec .gdone s) (fun t => t.cur.st = .free) = true
      ∧ after (exec .gdone m) (fun t => decide (t.cur.st = .free ∧ t.disp.nodes = [])) = true := by decide +kernel

/-- A record stands in page 5, whose translation is known. -/
def onPage5 : State :=
  let s := (regs tables [(1, 0x5000)]).modCore 0 fun c =>
    { c with tlb := [{ flat with vbase := 0x5000, frame := 0x5000, lsize := 12, leafPa := 0x108050 }] }
  { s with mem := mwrite (mwrite s.mem 18 [0x8F]) 0x5000 ([0, 0x40] ++ List.replicate 25 0 ++ [4]) }

/-- The last member of node 7, whose one successor has a key; node 8 has key 11. -/
def beforeKey (k : Nat) : State :=
  let s := { pool [{ aNode .running 0 [(0, 0)] with succ := pad + 256 }, { aNode .waiting 1 [] with id := 8, key := some 11 }] with
    mem := mwrite [] (padBase + 256) (leBytes 8 k) }
  s.modCur fun t => { t with node := some 7 }

theorem met_graphInstructions_translated :
    let met : Bool := match checkAccess (onPage5.who 0) 0x5000 64 needR onPage5 with
      | .ok .translated s0 =>
        match translate (onPage5.who 0) 0x5000 false .no s0 with
        | .ok _ s1 =>
          let r := s1.release 0 scP 0
          decide (s1.underWay = none) && s1.relReady 0 && r.relDone scP && okR (readHome (r.who 0) .translated 0x5000 64 r)
        | _ => false
      | _ => false
    let keys := fun (s : State) => got [] (succKeys ((s.release 0 scP 0).who 0) 255 (pad + 256) (s.release 0 scP 0))
    let rest := fun (s : State) => left_ s (succKeys ((s.release 0 scP 0).who 0) 255 (pad + 256) (s.release 0 scP 0))
    met = true ∧ keys (beforeKey 11) = [11] ∧ keys (beforeKey 12) = [12] ∧ (rest (beforeKey 11)).disp.firing = []
      ∧ ((rest (beforeKey 11)).nodeByKey 0 11).any (fun m => m.id = 8) = true ∧ (rest (beforeKey 12)).nodeByKey 0 12 = none
      ∧ after (exec (.gsub 5 1) onPage5) (fun t => decide (t.cur.rd 5 = 0 ∧ t.disp.nodes.map (·.entry) = [0x4000])) = true
      ∧ after (exec .gdone (beforeKey 11)) (fun t => decide (t.cur.st = .free ∧ t.disp.nodes.map (fun n => (n.id, n.preds)) = [(8, 0)])) = true
      ∧ after (exec .gdone (beforeKey 12)) (fun t => decide (t.cur.st = .free ∧ t.disp.orphan = 1)) = true := by decide +kernel

/-- Farm 1 of node 7: ten strips of work, of which 8 have been handed out. -/
def aFarm (next parts : Nat) : Farm := { node := 7, base := 0x5000, count := 10, strip := 2, parts := parts, next := next, ended := [] }

/-- Strand 0 belongs to node 7 and holds seat 0 of farm 1. -/
def farming (f : Farm) : State :=
  let s := (regs base [(1, 1), (2, 0)]).modCur fun t =>
    { t with node := some 7, farm := some { farm := 1, part := 0, ended := false }, ox := [(0, 0x5000), (1, 0x20000000A)] }
  { s with disp := { s.disp with nodes := [aNode .running 0 [(0, 0)]], farms := [(1, f)] } }

/-- Supervisor mode; g1 is the operand of FTSET or MIGR. -/
def firing (x : Word) (e : List (Nat × FireEntry)) : State :=
  let s := (regs (inMode base .supervisor) [(1, x)]).modCur fun t => { t with ox := [(0, 5), (1, 3)] }
  { s with disp := { s.disp with firing := e } }

/-- A firing entry of tenant 0 whose record is due at slot 1. -/
def fires (inst : Option Nat) : FireEntry :=
  { valid := true, tenant := 0, record := 0x2000, next := 1, period := 3, rule := 0, inst := inst, pending := false, skip := 0, evfail := 0, last := 0 }

theorem met_farmsAndFiring :
    let n := farming (aFarm 4 1)
    let z := regs n [(1, 0)]
    let two := farming (aFarm 5 2)
    let old := firing 0x103 [(3, fires none)]
    let fwd := (firing 0x300000 []).modCore 0 fun c => { c with fwd := [{ tenant := 0, target := 1, held := false }] }
    let g := (firing 0 []).modCore 1 fun c => { c with strands := [] }
    farmBad (z.xo 0 1) = false ∧ (z.cur.node.bind z.node).isSome = true ∧ n.farm 1 = some (aFarm 4 1) ∧ (firing 3 []).timeSlot < 5
      ∧ (match g.startMigrate 0 0 1 with | .ok _ => true | .error _ => false) = true
      ∧ (match g.startMigrate 1 0 1 with | .ok _ => false | .error k => k = 1) = true
      ∧ after (exec (.sfdecl 5 1 0) z) (fun t => t.cur.pc = 0x1004) = true
      ∧ after (exec (.sfnext 5 6 1) n) (fun t => decide (t.cur.rd 5 = 0x5008 ∧ t.cur.rd 6 = 0x40002)) = true
      ∧ after (exec (.sfnext 5 6 1) (farming (aFarm 5 1))) (fun t => decide (t.cur.rd 5 = -1 ∧ t.cur.rd 6 = 0)) = true
      ∧ after (exec (.sfend 5 1) two) (fun t => t.cur.wait = .sfend 5) = true
      ∧ after (exec (.sfend 5 1) (farming (aFarm 5 1))) (fun t => t.cur.rd 5 = 5) = true
      ∧ after (exec (.ftset 5 0 1 0) (firing 3 [])) (fun t => decide (t.cur.rd 5 = 0 ∧ (tfind t.disp.firing 3).isSome)) = true
      ∧ after (exec (.ftset 5 0 1 0) old) (fun t => (tfind t.disp.firing 3).any (fun e => !e.valid)) = true
      ∧ after (exec (.ftset 5 0 1 0) (firing 0x203 [(3, fires none)])) (fun t => t.cur.rd 5 = 2 ^ 32) = true
      ∧ after (exec (.migr 5 0 1) fwd) (fun t => decide (t.cur.rd 5 = 0 ∧ (t.core 0).fwd = [])) = true
      ∧ after (exec (.migr 5 0 1) (firing 0x300000 [])) (fun t => t.cur.rd 5 = 1) = true
      ∧ after (exec (.migr 5 2 1) (regs g [(2, 1)])) (fun t => decide (t.disp.migrations.length = 1 ∧ t.cur.pc = 0x1000)) = true := by
  decide +kernel

theorem met_dispatcherSteps :
    let rec0 : List Byte := [0, 0x40] ++ List.replicate 25 0 ++ [4] ++ List.replicate 36 0
    let sub := { pool [] with ports := [(0, { stamp := 1, horizonH := 1, held := [{ stamp := 1, target := 1, addr := 0, data := rec0 }] })] }
    let pl := { pool [{ aNode .ready 0 [] with ready := 1 }] with clock := 16 }
    let timed := fun (e : FireEntry) => { firing 0 [(3, e)] with clock := 20000, devTime := { running := true } }
    let running := timed (fires (some 7))
    let pn := { running with disp := { running.disp with nodes := [aNode .running 0 []] } }
    let m : Migration := { id := 1, src := 0, dst := 1, tenant := 0, kind := 0, slotNo := 0 }
    let mv := { regs base [(5, 77)] with disp := { base.disp with migrations := [m] } }
    let s1 := (List.range 4).foldl (fun s k => s.holdMoving k) mv
    pn.timeSlot = 1 ∧ (pn.tenantSet 0).isSome = true ∧ pn.node 7 = some (aNode .running 0 [])
      ∧ s1.canMove m = true ∧ (s1.release 0 scP 0).releasePending 0 = false
      ∧ after (exec .firingSlotBoundary pn) (fun t => (tfind t.disp.firing 3).any (fun e => decide (e.skip = 1 ∧ e.next = 4))) = true
      ∧ after (exec .firingSlotBoundary (timed (fires none))) (fun t => (tfind t.disp.firing 3).any (fun e => e.next = 4)) = true
      ∧ after (exec (.migrationTransfer 0) mv) (fun t => decide ((t.st 8).rd 5 = 77 ∧ (t.st 0).st = .free)) = true ∧
      (sub.port 0).held.map (·.target) = [1] ∧ pl.disp.decideAt ≤ pl.clock ∧ pl.placeable.length = 1 ∧ (pl.bestCore (aNode .ready 0 [])).isSome = true
      ∧ (pl.descr 0).1.isSome = true
      ∧ after (exec (.submitRecord 0) sub) (fun t => decide ((t.port 0).lastResult = 0 ∧ (t.port 0).held = [] ∧ t.disp.nodes.length = 1)) = true
      ∧ after (exec .placementDecision pl) (fun t =>
          match t.disp.nodes with
          | [n] => (match n.members with | [(sid, 0)] => decide ((t.st sid).st = .run ∧ (t.st sid).pc = 0x4000 ∧ (t.st sid).rd 3 = 9) | _ => false)
          | _ => false) = true := by
  decide +kernel

/-- Slot 0 of die 0 belongs to tenant 0. -/
def seqSlot : SeqSlot := newSeq 0 5 0 4

/-- A state with a sequence slot; g1 is the second operand, g2 the handle. -/
def inSeq (x : SeqSlot) (v : Word) : State := (regs base [(1, v), (2, 1)]).modDie 0 fun d => { d with seqs := [(0, x)] }

/-- A watch entry for the single token 9 that stops the slot. -/
def stopOn9 : WatchImage := [1, 1] ++ List.replicate 30 0 ++ [9] ++ List.replicate 95 0

theorem met_sequenceTokens :
    let s := inSeq seqSlot 9
    let w := inSeq { seqSlot with watch := [(2, stopOn9)] } 9
    let d := inSeq { seqSlot with draft := [4, 5], provisional := 2 } 1
    let p := { inSeq seqSlot pad with mem := mwrite [] padBase ((mstHdr pad 6 1 2 0).bytes ++ [0, 0, 0, 0, 0, 0, 0x80, 0x3F]) }
    let th := mstHdr pad 6 1 2 0
    s.seqNamed 1 = some (0, 0, seqSlot) ∧ bits (s.cur.rd 2) 63 13 = 0 ∧ bits (s.cur.rd 1) 63 32 = 0 ∧ s.cur.rd 1 ≠ 0xFFFFFFFF
      ∧ (List.range 16).all (fun e => !wEn (seqSlot.entry e)) = true
      ∧ (let x := { seqSlot with watch := [(2, stopOn9)] }
         watchHolds x (w.confirm 0 0 x 9).1 (x.entry 2) = true ∧ (List.range 2).all (fun o => !watchHolds x (w.confirm 0 0 x 9).1 (x.entry o)) = true
          ∧ wAction (x.entry 2) = 0)
      ∧ sampleOk (p.xo 0 0) = true ∧ (match hdrCheck (p.who 0) pad .no p with | .ok t _ => decide (t = th) | _ => false) = true
      ∧ (readLogits (p.who 0) th (th.rows * th.cols) [] p).2.1.isNone = true ∧ (readLogits (p.who 0) th (th.rows * th.cols) [] p).1.length = 2
      ∧ after (exec (.tkapp 5 2 1) s) (fun t => decide (t.cur.rd 5 = 1 ∧ (t.seq 0 0).any (fun y => y.history.getLast? = some 9))) = true
      ∧ after (exec (.tkapp 5 2 1) w) (fun t => decide (t.cur.rd 5 = 1 + 2 ^ 32 + 2 ^ 33
          ∧ (t.seq 0 0).any (fun y => y.stopRec = 0x8000020200000001))) = true
      ∧ after (exec (.tkdraft 5 2 1) s) (fun t => decide (t.cur.rd 5 = 1 ∧ (t.seq 0 0).any (fun y => y.draft = [9]))) = true
      ∧ after (exec (.tkconf 5 2 1) d) (fun t => decide (t.cur.rd 5 = 1 ∧ (t.seq 0 0).any (fun y => y.draft = []))) = true
      ∧ after (exec (.sample 5 2 1 0) p) (fun t => t.cur.rd 5 = 1) = true
      ∧ after (exec (.sampleDraft 5 2 1 0) p) (fun t => (t.seq 0 0).any (fun y => y.draft = [1])) = true := by decide +kernel

/-- A watch entry for the single token 9 that forks, injects or notifies. -/
def watchOn9 (action count : Byte) (target : Word) (forced : List Byte) : WatchImage :=
  [1 + 4 * action, 1, count] ++ List.replicate 13 0 ++ leBytes 8 target.toNat ++ List.replicate 8 0 ++ [9] ++ List.replicate 31 0
    ++ forced ++ List.replicate (64 - forced.length) 0

/-- Entry 2 of the slot has an image, and token 9 comes. -/
def acting (i : WatchImage) : State := inSeq { seqSlot with watch := [(2, i)] } 9

theorem met_sequenceTokens_actions :
    let fork := watchOn9 1 0 0x1000 []
    let inject := watchOn9 2 2 0 [3, 0, 0, 0, 4, 0, 0, 0]
    let notify := watchOn9 3 0 1 []
    let alone := fun (i : WatchImage) =>
      let x : SeqSlot := { seqSlot with watch := [(2, i)] }
      (List.range 16).all fun o => watchHolds x ((acting i).confirm 0 0 x 9).1 (x.entry o) == (o == 2)
    let full := (acting fork).modDie 0 fun d =>
      { d with seqs := (List.range 512).map fun k => (k, if k = 0 then { seqSlot with watch := [(2, fork)] } else seqSlot) }
    alone fork = true ∧ alone inject = true ∧ alone notify = true ∧ wAction fork = 1 ∧ wAction inject = 2 ∧ wAction notify = 3
      ∧ (acting fork).freeSeq 0 = some 1 ∧ full.freeSeq 0 = none ∧ seqSlot.history.length = 8
      ∧ (acting notify).strandNamed (wTarget notify) = some 1 ∧ (acting notify).coreInTenant 0 seqSlot.owner = true
      ∧ after (exec (.tkapp 5 2 1) (acting notify)) (fun t => decide (t.cur.rd 5 = 1 + 2 ^ 32 ∧ bit ((t.st 1).ctl cIpend) 32 = true)) = true
      ∧ after (exec (.tkapp 5 2 1) (acting fork)) (fun t => decide (t.cur.rd 5 = 1 + 2 ^ 32
          ∧ (t.seq 0 1).any (fun z => z.position = 1 ∧ z.ring = 0x1000))) = true
      ∧ after (exec (.tkapp 5 2 1) (acting inject)) (fun t => decide (t.cur.rd 5 = 3 + 2 ^ 32
          ∧ (t.seq 0 0).any (fun y => y.history.drop 5 = [9, 3, 4]))) = true
      ∧ after (exec (.tkapp 5 2 1) full) (fun t => t.cur.rd 5 = 1 + 2 ^ 32 + 2 ^ 33) = true := by decide +kernel

theorem met_sequenceSlots :
    let e := { regs base [(1, pad), (2, 0x20001)] with mem := mwrite [] padBase stopOn9 }
    let e := e.modDie 0 fun d => { d with seqs := [(0, seqSlot)] }
    let f := { regs base [(1, pad)] with mem := mwrite [] padBase (List.replicate 16 0 ++ [4]) }
    let i := inSeq seqSlot pad
    let stop := inSeq { seqSlot with stopped := true, stopRec := 0x8000020200000001 }
    let blk := storeParts (i.who 0) pad ((List.range 4).map (fun n => (seqSlot.block.drop (64 * n)).take 64)) i
    e.seqNamed 1 = some (0, 0, seqSlot) ∧ okR (readMem (e.who 0) pad 128 .no e) = true ∧ wZeros stopOn9 = true ∧ wRules stopOn9 = true
      ∧ e.wTargetOk seqSlot stopOn9 = true ∧ okR (writeMem (e.who 0) pad (seqSlot.entry 2) .no e) = true
      ∧ okR (readMem (f.who 0) pad 64 .no f) = true ∧ seqDescr (List.replicate 16 0 ++ [4] ++ List.replicate 47 0) = some (0, 0, 4)
      ∧ (match rangeFault (f.who 0) (f.dieAddr 0 0) 64 needW f with | .ok none _ => true | _ => false) = true ∧ f.freeSeq 0 = some 0
      ∧ i.freeSeq 0 = some 1 ∧ okR blk = true
      ∧ after (exec (.wset 5 2 1) e) (fun t => decide (t.cur.rd 5 = 0 ∧ (t.seq 0 0).any (fun y => y.entry 2 = stopOn9))) = true
      ∧ after (exec (.wget 5 2 1) e) (fun t => decide (t.cur.rd 5 = 0 ∧ mget t.mem padBase = 0)) = true
      ∧ after (exec (.sqfork 5 0 1) f) (fun t => decide (t.cur.rd 5 = 1 ∧ (t.seq 0 0).isSome)) = true
      ∧ after (exec (.sqfork 5 2 1) (inSeq seqSlot 0)) (fun t => decide (t.cur.rd 5 = 2 ∧ (t.seq 0 0).any (fun y => y.forkRep = 0x80000002))) = true
      ∧ after (exec (.sqstat 5 2 1) i) (fun t => t.cur.rd 5 = 1) = true
      ∧ after (exec (.sqiter 5 2 1) (stop 0)) (fun t => decide (t.cur.ctl cCause = 32 ∧ t.cur.ctl cTval = 0x0001000200000001)) = true
      ∧ after (exec (.sqiter 5 2 1) (inSeq seqSlot 0)) (fun t => t.cur.rd 5 = 1) = true
      ∧ after (exec (.sqiter 5 2 1) (inSeq seqSlot 1)) (fun t => t.seq 0 0 = none) = true
      ∧ after (exec (.sqiter 5 2 1) (inSeq seqSlot 2)) (fun t => t.cur.rd 5 = 0) = true
      ∧ after (exec (.sqiter 5 2 1) (stop 3)) (fun t => (t.seq 0 0).any (fun y => !y.stopped)) = true := by decide +kernel

/-! ### Hypotheses met: the debug engine and the service processor -/

theorem met_debugCapabilityQuery :
    let s := { regs base [(1, 0x10000), (3, 0x20001)] with caps := [(0, { subject := 0, holder := 1, rights := 3, parent := none })] }
    bits (s.cur.rd 1) 63 32 = 0 ∧ s.cur.pd = bits (s.cur.rd 1) 15 0 ∧ s.cur.pd ≠ bits (s.cur.rd 3) 31 16 ∧ s.cur.pd ≠ bits (s.cur.rd 3) 15 0
      ∧ after (exec (.dcapq 5 1) s) (fun t => t.cur.rd 5 = 3) = true ∧ after (exec (.dcapq 5 3) s) (fun t => t.cur.rd 5 = 0) = true := by
  decide +kernel

theorem met_debugInstructions :
    let s := { regs base [(1, 0x10000), (2, 31)] with caps := [(0, { subject := 0, holder := 1, rights := 3, parent := none })] }
    let r := regs s [(1, 0)]
    bits (s.cur.rd 1) 63 32 = 0 ∧ s.cur.pd = bits (s.cur.rd 1) 15 0 ∧ firstBelow 1024 (fun i => (tfind s.caps i).isNone) = some 1
      ∧ (tfind r.caps 0).any (fun e => e.subject = r.cur.pd) = true ∧ r.halts = []
      ∧ after (exec (.dcapd 5 2 1) s) (fun t => decide (t.cur.rd 5 = 1 ∧ t.caps.length = 2)) = true
      ∧ after (exec (.dcapr 5 1) r) (fun t => decide (t.cur.rd 5 = 0 ∧ t.caps = [])) = true
      ∧ after (exec (.trmark 1) s) (fun t => t.cur.pc = 0x1004) = true
      ∧ after (exec (.sliprd 5 1) r) (fun t => t.cur.pc = 0x1004) = true := by decide +kernel

/-- TRMARK is traced; the collector is off, or its ring stands at 0x10000. -/
def tracing : State := (regs base [(1, 77)]).modCur fun t => t.setCtl 0x240 2
def tracingOn : State := tracing.modDie 0 fun d => { d with cr := [(0x241, 0x10000), (0x242, 0x84)] }

theorem met_debugInstructions_traced :
    bit (tracing.cur.ctl 0x240) 1 = true ∧ tracingOn.resvs = [] ∧ tracingOn.pendRegs = []
      ∧ after (exec (.trmark 1) tracing) (fun t => tget 0 (t.die 0).cr 0x245 = 1) = true
      ∧ after (exec (.trmark 1) tracingOn) (fun t =>
          decide (tget 0 (t.die 0).cr 0x243 = 1 ∧ leNat (mread t.mem 0x10000 16) = 2 ^ 56 + 77 * 2 ^ 64)) = true := by decide +kernel

/-- A monitor strand with a command's arguments; strand 1 is its target. -/
def commanding (a0 a1 a2 : Word) (t : Strand) : State :=
  ((inMode base .monitor).modCur fun c => ((c.setCtl 0x248 a0).setCtl 0x249 a1).setCtl 0x24A a2).modSt 1 fun _ => t

/-- Breakpoint entry 0 of a core, set for slot 1. -/
def stopAt : Breakpoint := { slot := 1, kind := 0, rd := false, wr := false, len := 0, ord := 0, addr := 0x40, setter := 0, cap := none }

theorem met_debugCommands :
    let h : Strand := { st := .held, dbgHalted := true, g := [(5, 77)], pc := 0x3000 }
    let b : Strand := { st := .held, bpStop := true }
    let c := (commanding 1 0 0 {}).modCore 0 fun c => { c with bps := [(0, stopAt)] }
    let n := { commanding 0 0 0 { st := .run } with mem := mwrite [] 18 [0x8F] }
    let r := { n with halts := [(0, none)], holds := [0] }
    let reqFe : FeReq := { sid := 1, tenant := 0, addr := padBase, kind := .ldfe, data := 0 }
    let unparkedFe := commanding 1 0 0 { st := .run, wait := .fe 0x2000 .ldfe 5 0 4 false false }
    let parkedFe := unparkedFe.modCore 0 fun c => { c with parked := [reqFe] }
    let armed := { commanding 0 0 0 { st := .run, pc := pad, bpArmed := some 2 } with mem := mwrite [] padBase (leBytes 4 0x0C000061) }
    let p := { commanding 0 0 0 h with svc := { State.reset.svc with portOpen := true } }
    (n.strandNamed 1 = some 1 ∧ badArg 3 1 0x500 0 = none ∧ badArg 4 1 0x500 9 = none ∧ badArg 4 1 4 9 = none ∧ badArg 5 1 0 0 = none
        ∧ badArg 6 1 0 0x40 = none ∧ badArg 7 1 0 0 = none ∧ badArg 8 1 1 0 = none ∧ badArg 9 1 3 0 = none ∧ badArg 2 1 0 0 = none
        ∧ selectorOk 1 0x500 = true ∧ selectorOk 1 4 = true ∧ (commanding 1 0x500 9 h).busyReg 1 0x500 = false ∧ n.strandNamed 0 = some 0 ∧ n.cur.bpStop = false
        ∧ (n.descr 0).1.isSome = true ∧ ((n.descr 0).2.haltTenant 0 none).1 = true)
      ∧ after (exec (.rdreg 0 0) (commanding 1 0x500 0 h)) (fun t => decide (t.cur.ctl 0x24A = 77 ∧ t.cur.ctl 0x24C = 0)) = true
      ∧ after (exec (.wrreg 0 0) (commanding 1 0x500 9 h)) (fun t => (t.st 1).rd 5 = 9) = true
      ∧ after (exec (.wrreg 0 0) (commanding 1 4 9 h)) (fun t => (t.st 1).pc = 8) = true
      ∧ after (exec (.dbgCancel 0 0) parkedFe) (fun t => decide ((t.st 1).wait = .none ∧ (t.core 0).parked = [])) = true
      ∧ after (exec (.dbgCancel 0 0) unparkedFe) (fun t => (t.st 1).wait = (unparkedFe.st 1).wait) = true
      ∧ parkedFe.feParked 1 = true ∧ unparkedFe.feParked 1 = false ∧ (armed.st 1).unissued = true ∧ armed.atStopPoint 0 1 = true
      ∧ after (exec (.debugPortCommand 10 0 0 0) p) (fun t => t.svc.portFault.isSome) = true
      ∧ after (exec (.setbp 0 0) (commanding 1 0 0x40 {})) (fun t => tfind (t.core 0).bps 0 = some stopAt) = true
      ∧ after (exec (.clrbp 0 0) c) (fun t => (t.core 0).bps = []) = true
      ∧ after (exec (.brkcap 0 0) (commanding 1 1 0 {})) (fun t => (t.st 1).brkCap) = true
      ∧ after (exec (.trset 0 0) (commanding 1 3 0 {})) (fun t => (t.st 1).ctl 0x240 = 3) = true
      ∧ after (exec (.dbgResume 0 0) (commanding 1 0 0 b)) (fun t => (t.st 1).st = .run) = true
      ∧ after (exec (.dbgHalt 0 0) n) (fun t => decide (t.holds = [0] ∧ (t.st 1).st ≠ .run)) = true
      ∧ after (exec (.dbgResume 0 0) r) (fun t => decide (t.holds = [] ∧ t.halts = [])) = true
      ∧ after (exec (.debugPortCommand 3 1 0x500 0) p) (fun t => decide (t.svc.portValue = 77)) = true
      ∧ after (exec (.debugHoldNotice 3) base) (fun t => t.holds = [3]) = true
      ∧ after (exec (.debugHoldWithdrawal 3) { base with holds := [3] }) (fun t => t.holds = []) = true
      ∧ after (exec (.breakpointStop 0 1) armed) (fun t => decide ((t.st 1).st = .held ∧ (t.st 1).bpStop)) = true := by
  decide +kernel

/-- Monitor mode; g1 and g2 as given. -/
def asMonitor (x y : Word) : State := regs (inMode base .monitor) [(1, x), (2, y)]

theorem met_serviceInstructions :
    let k := { asMonitor 7 0 with svc := { State.reset.svc with keys := [(7, { live := true })] } }
    let r := { asMonitor 1 0 with svc := { State.reset.svc with lifecycle := .rma } }
    let m := { asMonitor 4 pad with mem := mwrite [] (padBase + 1) [1] }
    let o := asMonitor 0x100 pad
    let u := asMonitor pad 0
    (k.keySlot 7).live = true ∧ ((asMonitor 7 0).keySlot 7).live = false ∧ (asMonitor 7 0).svc.portOpen = false
      ∧ okR (spanReadable pad 64 m) = true ∧ 256 ≤ leField (got [] (spanRead (blocksOf pad 64) m)) 0 4 ∧ okR (spanWritable pad 64 o) = true
      ∧ okR (spanWrite (blocksOf pad 64) (measOf o.svc.meas 0) o) = true ∧ okR (spanReadable pad 29856 u) = true
      ∧ okR (spanRead (blocksOf pad 29856) u) = true
      ∧ after (exec (.keynew 5 1) (asMonitor 7 0)) (fun t => decide (t.cur.rd 5 = 0) && (t.keySlot 7).live) = true
      ∧ after (exec (.keynew 5 1) k) (fun t => t.cur.rd 5 = 1) = true
      ∧ after (exec (.keydel 5 1) k) (fun t => !(t.keySlot 7).live) = true
      ∧ after (exec (.fuserd 5 1) (asMonitor 3 0)) (fun t => t.svc.nonce.isSome) = true
      ∧ after (exec (.fuserd 5 1) (inMode (asMonitor 3 0) .supervisor)) (fun t => decide (t.cur.ctl cCause = causeWord false false false 5 3
          ∨ t.cur.ctl cMcause = causeWord false false false 5 3)) = true
      ∧ after (exec (.lcstat 5 1) (asMonitor 0 0)) (fun t => t.cur.pc = 0x1004) = true
      ∧ after (exec (.lcstat 5 1) r) (fun t => t.svc.lifecycle = .retired) = true
      ∧ after (exec (.measx 5 2 1) m) (fun t => t.cur.pc = 0x1004) = true
      ∧ after (exec (.measx 5 2 1) o) (fun t => t.cur.pc = 0x1004) = true := by decide +kernel

/-- Supervisor mode; g1 names the report data and g2 the quote. -/
def quoting : State := regs (inMode base .supervisor) [(1, pad), (2, pad + 4096)]

theorem met_serviceInstructions_attest :
    okR (spanReadable pad 64 quoting) = true ∧ okR (spanWritable (pad + 4096) 30432 quoting) = true
      ∧ okR (spanRead (blocksOf pad 64) quoting) = true
      ∧ okR (spanWrite (blocksOf (pad + 4096) 30432) (quoting.quote (List.replicate 64 0)) quoting) = true := by decide +kernel

theorem met_serviceInstructions_unlock :
    okR (spanReadable pad 29856 (asMonitor pad 0)) = true ∧ okR (spanRead (blocksOf pad 29856) (asMonitor pad 0)) = true := by decide +kernel

/-! ### Hypotheses met: caches, partitions, the host ports, the fabric, power and errors -/

theorem met_homeSteps :
    let r := { base with pendRegs := [{ pa := 0x2000, mask := 0xFF, data := 7, owner := some 0, key := 0, tenant := 0 }] }
    let n := { base with notices := [{ core := 0, pa := 0x2000, cause := 0 }] }
    let o := { base.modCore 0 (fun c => { c with rvq := List.replicate 64 1 }) with notices := [{ core := 0, pa := 0x2000, cause := 0 }] }
    let f := base.modCore 0 fun c => { c with fills := [(0x2000, 1)] }
    r.reserved 0x2000 = none ∧ (r.pendRegs.take 0).any (fun q => q.pa / 8 = 0x400) = false ∧ (n.core 0).fwd = [] ∧ coreExists 0 = true
      ∧ r.pendRegs.all (fun p => r.slotOpen p.slotUser p.pa) = true ∧ okR (fillLine (f.who 4) 0x2000 1 f) = true
      ∧ after (exec (.registration 0) r) (fun t => decide (t.homeWord 0x2000 = 7 ∧ t.pendRegs = [] ∧ tfind t.owners 0x400 = some 0)) = true
      ∧ after (exec (.revocationNotice 0) n) (fun t => (t.core 0).rvq = [0x2000]) = true
      ∧ after (exec (.revocationNotice 0) o) (fun t => (t.core 0).rvqOvf) = true
      ∧ after (exec (.homeReadResponse 0 0) f) (fun t => (t.core 0).fills = []) = true := by decide +kernel

/-- Monitor mode with a command word for the dispatcher. -/
def commands (w : Word) (d : Dispatch) : State := { (inMode base .monitor).setPctl 0x2C9 w with disp := d }

theorem met_partitionsAndTenants :
    let sup := fun (x y : Word) => regs (inMode base .supervisor) [(1, x), (2, y)]
    let map := regs (inMode tables .supervisor) [(1, 0x5000), (2, 0x1000)]
    let quiet := asMonitor 0x105 0
    let held := { asMonitor 0x203 0 with fabric := { vcres := [(3, { mask := 2, core := true, memory := false, corePair := 0, memPair := 0, live := true, frame := 0 })] } }
    let gone := { held with disp := { held.disp with tenants := [(3, { x0 := 1, x1 := 1, y0 := 0, y1 := 0, remote := false })] } }
    let part : Dispatch := { partitions := [{ mask := 1, rb := 0, windows := 0 }] }
    let det := { base.disp with dets := [(0, { whole := true, ns := 0, nc := 0, locked := false })] }
    let res := commands 0x2000000000 base.disp
    let described := { commands 0x33001 part with mem := mwrite [] 82 [0x8F] }
    let slots := { (commands 0 det).modDie 0 (fun d => { d with chanSlots := [(5, 0)], sliceSlots := [(6, 0)] }) with fabric := held.fabric }
    ((sup 0x11 (2 ^ 63)).partitionOf 0).mask.testBit 1 = false ∧ ((sup 0x10 (2 ^ 63)).partitionOf 0).mask.testBit 0 = true
      ∧ (match leavesOf 0 1 0x5000 0x6000 map with
          | .ok (ls, _) t =>
            let ps := ls.map (fun l => (l.2.2.1, l.2.2.2))
            let u := t.flushRound (t.inPages (t.partitionOf 0) ps)
            u.flushed (u.inPages (u.partitionOf 0) ps)
          | .error _ _ => false) = true
      ∧ map.underWay = none ∧ after (exec (.vcres 5 2 1) (asMonitor 0x300 9)) (fun t => decide (t.cur.rd 5 = 64 ∧ t.escWait 1 1 = 9)) = true
      ∧ (asMonitor 1 0x13).coreInTenant 0 0 = true
      ∧ tenantOfWord 0x33 = some { x0 := 3, x1 := 3, y0 := 0, y1 := 0, remote := false }
      ∧ ((commands 0 part).placeTenant 1 { x0 := 3, x1 := 3, y0 := 0, y1 := 0, remote := false }).1 = 0
      ∧ (gone.tenantSet 3).isSome = true ∧ gone.tenantBusy 3 = false ∧ quiet.fabric.packets = []
      ∧ ((asMonitor 0 0x30002).reservePairs 0 0x30002).1 = 0
      ∧ (List.range 8).all (fun d => !((1 : Nat).testBit d) || !((commands 1 {}).die d).absent) = true
      ∧ (commands 1 part).tenantOn 1 = false ∧ (described.descr 1).1.any (·.valid) = true ∧ (res.reserve 0x2000000000).1 = 0
      ∧ after (exec (.mscfl 5 2 1) (sup 0x50 (2 ^ 63))) (fun t => t.cur.rd 5 = 65536) = true
      ∧ after (exec (.mscfl 5 2 1) map) (fun t => t.cur.rd 5 = 0x1000) = true
      ∧ after (exec (.hbmslot 5 2 1) (asMonitor 0x10000 6)) (fun t => (t.die 0).slotMask 0 0 = 6) = true
      ∧ after (exec (.hbmslot 5 2 1) (asMonitor 0 0)) (fun t => t.cur.rd 5 = 0) = true
      ∧ after (exec (.tenset 5 2 1) { asMonitor 1 0x33 with disp := part }) (fun t => (t.tenantSet 1).isSome) = true
      ∧ after (exec (.tenset 5 2 1) (regs gone [(1, 0x103)])) (fun t => t.tenantSet 3 = none) = true
      ∧ after (exec (.tenset 5 2 1) (asMonitor 0x200 0)) (fun t => t.cur.rd 5 = 0x8000000000000430) = true
      ∧ after (exec (.vcres 5 2 1) (asMonitor 0 0x30002)) (fun t => (tfind t.fabric.vcres 0).isSome) = true
      ∧ after (exec (.vcres 5 2 1) (regs held [(1, 0x103)])) (fun t => t.fabric.vcres = []) = true
      ∧ after (exec (.vcres 5 2 1) held) (fun t => decide (t.cur.rd 5 ≠ 0)) = true
      ∧ after (exec .pcreate (commands 0x101 {})) (fun t => t.disp.partitions = [{ mask := 1, rb := 4096, windows := 0 }]) = true
      ∧ after (exec .pdissolve (commands 1 part)) (fun t => t.disp.partitions = []) = true
      ∧ after (exec .hwgrant (commands 0x301 part)) (fun t => t.disp.partitions = [{ mask := 1, rb := 0, windows := 3 }]) = true
      ∧ after (exec .tplace described) (fun t => (t.tenantSet 1).isSome) = true
      ∧ after (exec .tremove { commands 3 gone.disp with fabric := held.fabric }) (fun t => t.tenantSet 3 = none) = true
      ∧ after (exec .reserve res) (fun t => (tfind t.disp.dets 0).isSome) = true
      ∧ after (exec .release slots) (fun t => decide (t.disp.dets = [] ∧ (t.die 0).chanSlots = [])) = true := by decide +kernel

/-- Host port 0 as given, its command at the head of the order. -/
def hosting (p : HostPort) : State :=
  { base with ports := [(0, p)], svc := { State.reset.svc with mboxQueue := [0] },
              shared := [(0, { valid := true, base := 0, size := 1, rights := 3 })] }

/-- The dispatcher and the route tables open to port 0. -/
def opened (p : HostPort) : State := (hosting p).setPctl 0x285 1

theorem met_hostSteps :
    let s := hosting {}
    let w := fun (t a : Nat) => hosting { stamp := 1, horizonA := 1, held := [{ stamp := 1, target := t, addr := a, data := [1, 0, 0, 0, 0, 0, 0, 0] }] }
    let q := fun (c : Word) => hosting { mbCmd := c, mbBusy := true }
    let rt := opened { mbCmd := 6, mbBusy := true, mbArea := [(0x40, 3), (0x44, 2)] }
    s.hostMay 0 0x2000 8 true = true ∧ s.hostMay 0 0x200000 8 true = false ∧ s.hostMay 0 0x2000 8 false = true ∧ s.svc.safe = false
      ∧ s.hostSlots 0x2000 8 = true ∧ (w 0 0x2000).hostSlots 0x2000 8 = true ∧ (w 0 0x2000).resvs = [] ∧ (w 0 0x2000).notices = []
      ∧ after (exec (.pcieConfigAccess 0 0x10 false 0) s) (fun t => (t.port 0).lastRead.length = 4) = true
      ∧ okR (homeRead 0x2000 8 0 s) = true ∧ (q 1).mbFirst 0 = true ∧ (q 1).mbCode 0 = 1 ∧ (q 3).mbCode 0 = 3 ∧ (q 4).mbCode 0 = 4 ∧ (opened {}).hostAllowed 0 = true
      ∧ ((opened { mbCmd := 0x105 }).setPctl 0x2C9 0).dcmd 1 ≠ none ∧ s.hostAllowed 0 = false
      ∧ after (exec (.hostPostedWrite 0 0 0x2000 [7]) s) (fun t => (t.port 0).held.length = 1) = true
      ∧ after (exec (.hostPostedWrite 0 0 0x200000 [7]) s) (fun t => t.pctl 0x1C8 = 1) = true
      ∧ after (exec (.hostPostedWrite 0 1 0x80000 (List.replicate 64 0)) s) (fun t => (t.port 0).held.length = 1) = true
      ∧ after (exec (.hostWritePerform 0 1) (w 0 0x2000)) (fun t => decide (t.homeWord 0x2000 = 1 ∧ tfind t.owners 0x400 = some 1024)) = true
      ∧ after (exec (.hostWritePerform 0 1) (w 2 0)) (fun t => (t.port 0).mbBusy) = true
      ∧ after (exec (.hostRead 0 0x2000 8) s) (fun t => (t.port 0).lastRead = List.replicate 8 0) = true
      ∧ after (exec (.hostRead 0 0x200000 8) s) (fun t => decide ((t.port 0).lastPoison ∧ t.pctl 0x1C8 = 1)) = true
      ∧ after (exec (.hostRead 0 0x2000 2) { s with svc := { s.svc with safe := true } }) (fun t => (t.port 0).lastRead = [0xFF, 0xFF]) = true
      ∧ after (exec (.hostRead 0 (2 ^ 52 + 8) 8) (q 1)) (fun t => (t.port 0).lastRead = [1, 0, 0, 0, 0, 0, 0, 0]) = true
      ∧ after (exec (.mboxStatus 0) (q 1)) (fun t => t.area 0 0x48 1 = [0xFF]) = true
      ∧ after (exec (.logread 0) { q 2 with svc := { (q 2).svc with diag := [List.replicate 64 9] } }) (fun t => t.area 0 0x40 2 = [9, 9]) = true
      ∧ after (exec (.dcmd 0) (opened { mbCmd := 0x105, mbBusy := true })) (fun t => (t.port 0).mbResult = 1) = true
      ∧ after (exec (.route 0) rt) (fun t => tget [] (t.switch 0).routes 3 = [1]) = true
      ∧ after (exec (.mboxBadCommand 0) (q 9)) (fun t => (t.port 0).mbResult = 0xFF) = true := by decide +kernel

/-- A packet on its way from core 64 to core 1, at core 64's router, whose next router is (0, 1). -/
def onItsWay (cls : PClass) (p : Payload) : Packet :=
  { packetTo 64 p none with cls := cls, src := 64, dsts := [1] }

/-- Tenant 0 holds cycle 1 of every frame and a pair of the core group. -/
def inFrame (clock : Nat) : State :=
  { base with
    clock := clock
    fabric := { vcres := [(0, { mask := 2, core := true, memory := false, corePair := 0, memPair := 0, live := true, frame := 0 })] } }

theorem met_fabricSteps :
    let hop := onItsWay .core (.am hello 1)
    let go := carrying (inFrame 33) hop
    let wait := carrying (inFrame 34) hop
    let r : FeReq := { sid := 0, tenant := 9, addr := padBase + 2 ^ 28, kind := .ldfe, data := 0 }
    let fe := { onItsWay .core (.fe r) with tenant := 9 }
    let sf := carrying (waitingFe false 0x77) fe
    let mc := { theCopy with kind := 2 }
    let line := packetTo 0 (.line 0x2000 [5] [(0, 4)]) none
    let sl := carrying (copying [mc] (ring 2 0)) line
    (hop.there = false ∧ go.atHead hop = true ∧ go.output hop = some ((0, 1), 5) ∧ go.passes hop (0, 1) = true
        ∧ go.mayCross hop (0, 2) (0, 1) = true ∧ wait.output hop = some ((0, 1), 5) ∧ wait.mayCross hop (0, 2) (0, 1) = false)
      ∧ (fe.there = false ∧ sf.atHead fe = true ∧ (sf.output fe).map (·.1) = some (0, 1) ∧ sf.passes fe (0, 1) = false)
      ∧ routerOf 0 = (line.x, line.y) ∧ sl.atHead line = true
      ∧ after (exec (.packetRoute 9) go) (fun t => (t.packet 9).any (fun p => decide (p.ahead = some ((0, 1), 5) ∧ p.y = 2))) = true
      ∧ after (exec (.packetRoute 9) (carrying (inFrame 33) { hop with ahead := some ((0, 1), 5) })) (fun t =>
          (t.packet 9).any (fun p => decide ((p.x, p.y, p.vc) = (0, 1, 5) ∧ p.ahead = none))) = true
      ∧ after (exec (.packetRoute 9) wait) (fun t => (t.packet 9).any (fun p => decide ((p.x, p.y) = (0, 2)))) = true
      ∧ after (exec (.packetRoute 9) sf) (fun t => decide (t.fabric.packets = [] ∧ t.cur.ctl cTval = 0x77)) = true
      ∧ after (exec (.packetRoute 9) sl) (fun t => (tfind (t.core 0).copies 0).any (fun k => k.lines = [(0x80, [5])])) = true := by decide +kernel

/-- A request of tenant 0, which holds a pair of the memory group, behind a full buffer of its one adaptive channel. -/
def blockedRequest : Packet := { onItsWay .req (.am hello 1) with x := 0, y := 2, hx := 0, hy := 2, waited := 64 }
def fullBuffer : State :=
  { base with
    clock := 33
    fabric := {
      vcres := [(0, { mask := 2, core := false, memory := true, corePair := 0, memPair := 0, live := true, frame := 0 })]
      packets := blockedRequest ::
        List.replicate (Config.channelDepth + 1) { blockedRequest with id := 10, y := 1, hx := 0, hy := 2, vc := 5 } } }

theorem fullBuffer_inBuffer (a : Nat × Nat) (row vc : Nat) :
    fullBuffer.inBuffer a (0, 1) row vc =
      if (0, 2) = a ∧ 0 = row ∧ 5 = vc then
        List.replicate (Config.channelDepth + 1) { blockedRequest with id := 10, y := 1, hx := 0, hy := 2, vc := 5 }
      else [] := by
  have h : PClass.row blockedRequest.cls = 0 := rfl
  have hb : blockedRequest.buffered = false := by decide
  simp only [State.inBuffer, fullBuffer, List.filter_cons, hb, List.filter_replicate, h]
  have hx : blockedRequest.x = 0 := rfl
  simp [Packet.buffered, and_assoc, hx]

theorem fullBuffer_entering (vc : Nat) : fullBuffer.entering (0, 2) (0, 1) 0 vc = [] := by
  simp [State.entering, fullBuffer, blockedRequest, onItsWay, packetTo]

theorem fullBuffer_credits (vc : Nat) :
    fullBuffer.credits (0, 2) (0, 1) 0 vc = if 5 = vc then 0 else Config.channelDepth + 1 := by
  simp only [State.credits, fullBuffer_inBuffer, fullBuffer_entering]
  by_cases h : 5 = vc <;> simp [h]

theorem fullBuffer_adaptiveOuts : fullBuffer.adaptiveOuts blockedRequest = [] := by
  have hr : routerOf (lget 0 blockedRequest.dsts 0) = (0, 0) := by decide
  have hc : fullBuffer.adaptiveChannels .req 0 = [5] := rfl
  have hp : productive 0 2 0 0 = [(0, 1)] := rfl
  simp only [State.adaptiveOuts, hr]
  simp [blockedRequest, onItsWay, packetTo, hc, hp, PClass.row, fullBuffer_credits]

theorem fullBuffer_atHead : fullBuffer.atHead blockedRequest = true := by
  have h : blockedRequest.buffered = false := by decide
  simp [State.atHead, State.inTurn, fullBuffer, h]

theorem met_fabricEscape :
    fullBuffer.blocked blockedRequest = true ∧ fullBuffer.escWait 0 2 ≤ blockedRequest.waited
      ∧ 0 < fullBuffer.credits (0, 2) (0, 1) 0 4 ∧ fullBuffer.passes blockedRequest (0, 1) = true
      ∧ fullBuffer.mayCross blockedRequest (0, 2) (0, 1) = true ∧ fullBuffer.output blockedRequest = none := by
  have h : blockedRequest.adaptive = true := by decide
  refine ⟨?_, by decide +kernel, by simp [fullBuffer_credits], by decide +kernel, by decide +kernel, ?_⟩
  · simp [State.blocked, h, fullBuffer_atHead, fullBuffer_adaptiveOuts]
    decide
  · simp [State.output, h, fullBuffer_adaptiveOuts]

theorem met_fabricLinks :
    let run := { base with devTime := { running := true, base := 5 } }
    let half := { base with devTime := { running := true, base := 600000000 } }
    let due := { run with disp := { run.disp with firing := [(3, { fires none with next := 5 })] } }
    let u : Update := { pa := 0x2000, core := 0, slot := 0, rid := 0, key := 0, size := 4, op := 0, uns := true, efmt := 3, data := 2 }
    let up := { base with updates := [u], mem := mwrite [] 0x2000 [4] }
    let ch := { base.modDie 0 (fun d => { d with writeback := [(0, 0)] }) with clock := 64 }
    let sag : SagLine := { pa := 0, key := 0, gen := 0, dirty := true, tenant := 0, way := 15, block := 0, blocks := 4, old := none }
    let spill := base.modDie 0 fun d => { d with spillWait := [{ line := sag, occ := 64 }] }
    let held := spill.modDie 0 fun d => { d with writeback := [(64, 0)] }
    let frame := { base with fabric := { vcres := [(3, { mask := 2, core := true, memory := false, corePair := 0, memPair := 0, live := false, frame := 0 })] } }
    (tget 0 (ch.die 0).chanNow 0 ≠ ch.clock / 32 % 64 ∧ (ch.channelOf 0).1 = 0 ∧ (ch.channelOf 0).2.1 = 0
        ∧ (ch.die 0).mayIssue 0 2 (some 0) = true ∧ ch.bankBusy (some 0) (ch.bankOf 0) = false)
      ∧ up.reserved 0x2000 = none ∧ up.wordQueued 0x2000 = false ∧ u.pa % 8 + u.size ≤ 8 ∧ okR (homeRead 0x2000 4 0 up) = true ∧ up.slotOpen (some (up.tenantOf 0)) 0x2000 = true
      ∧ due.disp.firing.all (fun f => decide (due.timeSlot < f.2.next)) = true
      ∧ after (exec (.flitReceive 3 false) base) (fun t => tget 0 t.fabric.replays 3 = 1) = true
      ∧ after (exec (.flitReceive 3 false) { base with fabric := { replays := [(3, 8)] } }) (fun t => tget 0 t.fabric.retrains 3 = 1) = true
      ∧ after (exec (.flitReceive 3 true) base) (fun t => tget 0 t.fabric.replays 3 = 0) = true
      ∧ after (exec .linkFrameBoundary frame) (fun t => (tfind t.fabric.vcres 3).any (·.live)) = true
      ∧ after (exec (.ptpMessageReceive 1 7) run) (fun t => t.time = 1000000007) = true
      ∧ after (exec (.ptpMessageReceive 0 2000000) due) (fun t => (tfind t.disp.firing 3).any (fun e => e.skip = 66 ∧ e.next = 203)) = true
      ∧ after (exec .ppsEdge half) (fun t => t.time = 1000000000) = true
      ∧ after (exec .timeSyncLoss run) (fun t => t.devTime.holdover) = true
      ∧ after (exec (.spillWritebackDone 0) spill) (fun t => decide ((t.die 0).spillWait = [] ∧ sag ∈ (t.die 0).sagger)) = true
      ∧ after (exec (.spillWritebackDone 0) held) (fun t => (t.die 0).spillWait.length = 1) = true
      ∧ after (exec (.channelSlotBoundary 0) ch) (fun t => decide (tget 0 (t.die 0).chanNow 0 = 2 ∧ (t.die 0).writeback = [])) = true
      ∧ after (exec (.vamoVrdmElementAtHome 0) up) (fun t => mread t.mem 0x2000 5 = [6, 0, 0, 0, 0]) = true := by decide +kernel

/-- Every core island at a point. -/
def allAt (p : Nat) (s : State) : State :=
  { s with svc := { s.svc with islands := (List.range 640).map fun i => (i, { point := p, locked := false, base := 0, mark := 0 }) } }

theorem met_powerAndErrors :
    let cal := { base with clock := 5 }
    let at3 := fun (p : Nat) => [(3, ({ point := p, locked := false, base := 0, mark := 0 } : Island))]
    let isl := fun (p : Nat) => { base with svc := { State.reset.svc with islands := at3 p, capLowered := [3] } }
    let retire := { base with svc := { State.reset.svc with retiring := [{ kind := 5, unit := 9 }] } }
    let locked := { allAt 8 base with disp := { base.disp with dets := [(0, { whole := true, ns := 0, nc := 0, locked := true })] } }
    let locked := { locked with svc := { locked.svc with islands := tput locked.svc.islands 0 { point := 17, locked := true, base := 0, mark := 0 } } }
    (cal.die 0).absent = false ∧ (cal.die 0).full = false ∧ unitExists 1 4 = true ∧ unitExists 8 9 = true ∧ retire.laneFree 1 = true
      ∧ (locked.lockHolder 0).any (fun e => e.1 = 0) = true ∧ (locked.island 0).locked = true
      ∧ (List.range 640).all (fun i => (locked.die (dieOfIsland i)).absent || (locked.island i).locked || (locked.island i).point = 8) = true
      ∧ after (exec (.calibrationComplete 0) cal) (fun t => decide ((t.die 0).full ∧ (t.island 0).point = 17)) = true
      ∧ after (exec (.correctedErrorEvent 8 9 false) base) (fun t => (tget {} t.svc.units (unitKey 8 9)).count = 1) = true
      ∧ after (exec (.correctedErrorEvent 1 4 true) base) (fun t => t.broken = [128]) = true
      ∧ after (exec (.spareTakeover 5 9) retire) (fun t => t.svc.retiring = []) = true
      ∧ after (exec (.powerCapLower 3) (isl 17)) (fun t => (t.island 3).point = 15) = true
      ∧ after (exec (.powerCapLower 3) (isl 15)) (fun t => (t.island 3).point = 12) = true
      ∧ after (exec (.powerCapLower 3) (isl 12)) (fun t => (t.island 3).point = 8) = true
      ∧ after (exec .powerCapRaise (isl 8)) (fun t => (t.island 3).point = 12) = true
      ∧ after (exec .powerCapRaise (isl 12)) (fun t => (t.island 3).point = 15) = true
      ∧ after (exec .powerCapRaise (isl 15)) (fun t => (t.island 3).point = 17) = true
      ∧ after (exec (.lockBroken 0) locked) (fun t => !(t.island 0).locked) = true := by decide +kernel

/-! ### Hypotheses met: the machine as a whole -/

theorem met_privilegedInstructions :
    base.cur.vq = [] ∧ base.cur.status.mode = .task ∧ base.cur.status.mode ≠ .monitor ∧ base.curSlot ≠ 4 ∧ isStreamCore onStream.curCore = true
      ∧ onStream.cur.vq = [] ∧ ctlAccess 0 0x2C9 .task = .none ∧ ctlAccess 0 0x051 .task = .ro
      ∧ after (exec .rett base) (fun t => decide (t.cur.ctl cCause = 1 ∧ t.cur.ctl cTval = wordOf .rett)) = true
      ∧ after (exec (.keynew 1 2) base) (fun t => t.cur.ctl cCause = 1) = true
      ∧ after (exec (.mzero 0) onStream) (fun t => t.cur.ctl cMcause = 1) = true
      ∧ after (exec (.ctlr 1 0x2C9) base) (fun t => t.cur.ctl cCause = 1) = true
      ∧ after (exec (.ctlw 1 2 0x051) base) (fun t => t.cur.ctl cCause = 1) = true := by decide +kernel

/-- ADDI g5, g0, 9 stands where the first step fetches. -/
def addiNext : State := State.reset.withFetchWord 32 0x00900505

theorem met_stepRunsDecodedInstruction :
    let s0 := { addiNext with sched := [], curCore := 0, curSlot := 0 }
    let s' := left_ s0 (fetchWord (s0.forgetWalks 0 0))
    addiNext.sched = [.issue 0 0] ∧ (s0.st 0).st = .run ∧ (s0.st 0).wait = .none ∧ (s0.st 0).async = [] ∧ (s0.st 0).readyAt ≤ s0.cycleOf 0
      ∧ s0.heldAtIssue 0 0 = false ∧ s0.interruptDue 0 = none ∧ (s0.st 0).replayed = none ∧ okR (fetchWord (s0.forgetWalks 0 0)) = true
      ∧ got 0 (fetchWord (s0.forgetWalks 0 0)) = 0x00900505 ∧ decodeWord 0x00900505 = .ok (.addi 5 0 9) ∧ s'.cur.replay.complete = false
      ∧ (s'.st 0).bpArmed = none ∧ s'.breakpoints 0 = [] ∧ s'.curSid = 0
      ∧ after (exec (.addi 5 0 9) s') (fun t => decide (t.breakpoints 0 = [] ∧ (t.st 0).wait = .none)) = true := by decide +kernel

theorem test_step_addi : after (step addiNext) (fun t => decide ((t.st 0).rd 5 = 9 ∧ (t.st 0).pc = word selfBase + 4)) = true := by decide +kernel

theorem test_step_illegal :
    after (step (State.reset.withFetchWord 32 0xFFFFFFFF)) (fun t => decide ((t.st 0).ctl cMcause = 1 ∧ (t.st 0).ctl cMtval = 0xFFFFFFFF)) = true := by
  decide +kernel

theorem met_encodeDecode :
    (Instr.wset 5 7 6).wellFormed = true ∧ encode (.wset 5 7 6) = some (32, 0x0018E5DD) ∧ (0xFFF14505 : Nat) < 2 ^ 32
      ∧ decodeWord 0xFFF14505 = .ok (.addi 5 5 0xFFF) := by decide +kernel

theorem met_memoryStaysCanonical : Memory.wf State.reset.mem = true ∧ Memory.wf addiNext.mem = true ∧ after (step addiNext) (fun t => Memory.wf t.mem) = true := by decide +kernel

/-! ### Terms that are no instructions, and words that are none -/

theorem test_illFormed :
    (Instr.mzero 4).check = some .noAccumulator ∧ (Instr.mrd 0 7 1).check = some .noAccumulator ∧ (Instr.bfree 16).check = some .noBarrier
      ∧ (Instr.cbinit 8 1 2).check = some .noBuffer ∧ (Instr.lfmt 16 1 2).check = some .noBank ∧ (Instr.rowcls 4).check = some .noRowStream
      ∧ (Instr.cbacq 1 2 3).check = some .noRole ∧ (Instr.cbrel 1 2).check = some .noRole ∧ (Instr.mbsend 2 1 1).check = some .noPriority
      ∧ (Instr.mbpeek 3 1).check = some .noPriority := by decide +kernel

theorem test_illFormed_formats :
    (Instr.vpf 2 1 1).check = some .noLevel ∧ (Instr.kand 0 1 1).check = some .k0Destination ∧ (Instr.kset 0 1 1).check = some .k0Destination
      ∧ (Instr.vcmp 0 1 1 0 0 3).check = some .k0Destination ∧ (Instr.vcmp 1 1 1 0 0 7).check = some .noOperation
      ∧ (Instr.vamo 1 1 0 0 7 1).check = some .noOperation ∧ (Instr.vred 1 1 0 0 6).check = some .noOperation
      ∧ (Instr.fcvt 1 1 0 4 5).check = some .twoIntegerTypes ∧ (Instr.fcvt 1 1 6 0 1).check = some .noRounding
      ∧ (Instr.setvl 1 1 8).check = some .noFormat ∧ (Instr.setmvl 1 1 7).check = some .noFormat
      ∧ (Instr.vcvt 1 1 0 0 0 3 8).check = some .noFormat ∧ (Instr.vcvt 1 1 0 1 0 2 5).check = some .unusedField
      ∧ (Instr.ctlr 1 0x00D).check = some .noControlRegister := by decide +kernel

/-- Reserved major opcodes, unassigned selectors, unassigned 16-bit words, fields that name something absent. -/
theorem test_notWords :
    decodeWord 0x000000FF = .error .reservedMajor ∧ decodeWord 0xFC000003 = .error .unassigned ∧ decodeWord 0 = .error .unassigned16
      ∧ decodeWord 0x000004B1 = .error (.illFormed .noAccumulator) := by decide +kernel

/-- The word an engine instruction's trap holds is the instruction's own. -/
theorem test_trapWords :
    ([.ftset 5 4 3 2, .migr 5 4 3, .plbinv 3, .tlbinv 4 3, .pgwake 5 3, .pgqry 5 3, .pgpin 5 4 3, .mscfl 5 4 3, .attest 5 4 3, .tenset 5 4 3,
      .vcres 5 4 3, .hbmslot 5 4 3, .keynew 5 3, .keydel 5 3, .dbgunlk 5 3] : List Instr).all (fun i =>
        after (exec i base) (fun t => decide (t.cur.ctl cCause = 1 ∧ t.cur.ctl cTval = wordOf i))) = true := by decide +kernel

end Sys2Proof.Tests
end

/-! # The memory stays canonical (O60)

A byte of the memory changes by `mput`, `mwrite`, `maskWrite` or a filter, and each of them keeps the canonical form.  So the development
follows the model in its own order: a function that leaves the memory as it is has a lemma `_mem`, one that changes it a lemma `_wf` (from a
canonical memory to a canonical memory), a computation a lemma `_keeps` (the same for both of its ends), an instruction and a step a lemma
`_wf` about the next state. -/

namespace Sys2Proof.Machine
open Std.Do

/-! ## What leaves the memory as it is -/

/-- The bytes of a state chosen by a condition. -/
@[simp] theorem State.mem_ite (c : Prop) [Decidable c] (s t : State) :
    (if c then s else t).mem = if c then s.mem else t.mem := apply_ite State.mem c s t

/-- A fold of changes that each leave the memory as it is. -/
@[simp] theorem State.foldl_mem {α : Type} (l : List α) (f : State → α → State) (h : ∀ s a, (f s a).mem = s.mem) (s : State) :
    (l.foldl f s).mem = s.mem := by
  induction l generalizing s with
  | nil => rfl
  | cons a r ih => rw [List.foldl_cons, ih, h]

/-! ### Ops -/

@[simp] theorem State.setPoint_mem (s : State) (i point : Nat) : (s.setPoint i point).mem = s.mem := rfl

@[simp] theorem State.draw_mem (s : State) : (s.draw).2.mem = s.mem := rfl

@[simp] theorem State.fresh_mem (s : State) : (s.fresh).2.mem = s.mem := rfl

@[simp] theorem State.svcEvent_mem (s : State) (kind unitKind unit count : Nat) : (s.svcEvent kind unitKind unit count).mem = s.mem := by
  simp [State.svcEvent]

@[simp] theorem State.unitRetired_mem (s : State) (kind unit : Nat) : (s.unitRetired kind unit).mem = s.mem := by
  simp [State.unitRetired]

@[simp] theorem State.diagEntry_mem (s : State) (bs : List Byte) : (s.diagEntry bs).mem = s.mem := rfl

@[simp] theorem State.setPend_mem (s : State) (sid n : Nat) : (s.setPend sid n).mem = s.mem := rfl

@[simp] theorem State.raiseSource_mem (s : State) (c n : Nat) : (s.raiseSource c n).mem = s.mem := by
  fun_cases State.raiseSource <;> simp

@[simp] theorem State.dropLanes_mem (s : State) (sid : Nat) (f : Strand → Strand) : (s.dropLanes sid f).mem = s.mem := rfl

@[simp] theorem State.keepLanes_mem (s : State) (sid n : Nat) : (s.keepLanes sid n).mem = s.mem := rfl

@[simp] theorem State.settleLanes_mem (s : State) (sid : Nat) : (s.settleLanes sid).mem = s.mem := by
  simp [State.settleLanes]

@[simp] theorem State.finish0_mem (s : State) (sid : Nat) : (s.finish0 sid).mem = s.mem := rfl

@[simp] theorem State.doubleFault_mem (s : State) (sid : Nat) (cause tval : Word) : (s.doubleFault sid cause tval).mem = s.mem := by
  simp [State.doubleFault]

@[simp] theorem State.enter_mem (s : State) (sid : Nat) (cause tval resume : Word) : (s.enter sid cause tval resume).mem = s.mem := by
  simp [State.enter]

@[simp] theorem State.enterVector_mem (s : State) (sid : Nat) (detail code : Nat) (tval vepc velem : Word) (async : Bool) :
    (s.enterVector sid detail code tval vepc velem async).mem = s.mem := by
  simp [State.enterVector]

@[simp] theorem State.stall_mem (s : State) : (s.stall).mem = s.mem := rfl

/-! ### Home -/

@[simp] theorem State.countDie_mem (s : State) (d k : Nat) : (s.countDie d k).mem = s.mem := rfl

@[simp] theorem State.setPoison_mem (s : State) (atom : Nat) : (s.setPoison atom).mem = s.mem := rfl

@[simp] theorem State.leaveSagger_mem (s : State) (gone : List SagLine) : (s.leaveSagger gone).mem = s.mem := by
  refine State.foldl_mem _ _ (fun u l => ?_) _
  exact State.foldl_mem _ _ (fun _ _ => by simp) _

@[simp] theorem State.saggerSpill_mem (s : State) (d : Nat) (others kept : List SagLine) (x : SagLine) :
    (s.saggerSpill d others kept x).mem = s.mem := by
  fun_cases State.saggerSpill <;> simp

@[simp] theorem State.saggerGrow_mem (s : State) (d idx : Nat) (rest : List SagLine) (need : Nat) (mk : Nat → Nat → Nat → SagLine) :
    (s.saggerGrow d idx rest need mk).mem = s.mem := by
  fun_cases State.saggerGrow <;> simp +zetaDelta

@[simp] theorem State.sagTouch_mem (s : State) (line : Nat) : (s.sagTouch line).mem = s.mem := by
  fun_cases State.sagTouch <;> simp

@[simp] theorem State.meetError_mem (s : State) (atom : Nat) : (s.meetError atom).mem = s.mem := rfl

@[simp] theorem State.l2Mod_mem (s : State) (pa : Nat) (f : List L2Line → List L2Line) : (s.l2Mod pa f).mem = s.mem := rfl

@[simp] theorem State.l2Put_mem (s : State) (x : L2Line) : (s.l2Put x).mem = s.mem := rfl

@[simp] theorem State.saggerWrite_mem (s : State) (x : L2Line) (before : LineImage) : (s.saggerWrite x before).mem = s.mem := by
  fun_cases State.saggerWrite <;> simp

@[simp] theorem State.hostFails_mem (s : State) (pa : Nat) : (s.hostFails pa).2.mem = s.mem := by
  unfold State.hostFails
  split <;> simp

@[simp] theorem State.freeBytes_mem (s : State) (n : Nat) : (s.freeBytes n).2.mem = s.mem := rfl

@[simp] theorem State.pushNotice_mem (s : State) (core pa : Nat) : (s.pushNotice core pa).mem = s.mem := by
  simp [State.pushNotice]

@[simp] theorem State.sendNotice_mem (s : State) (cause via : Option Nat) (core pa : Nat) : (s.sendNotice cause via core pa).mem = s.mem := by
  fun_cases State.sendNotice <;> simp

@[simp] theorem State.writeHeld_mem (s : State) (pa : Nat) (r : Resv) (mask : BitVec 8) (data : Word) :
    (s.writeHeld pa r mask data).mem = s.mem := rfl

@[simp] theorem State.addPending_mem (s : State) (q : PendReg) : (s.addPending q).mem = s.mem := by
  simp [State.addPending]

/-! ### Translate -/

@[simp] theorem State.victimAppend_mem (s : State) (core va : Nat) : (s.victimAppend core va).mem = s.mem := by
  fun_cases State.victimAppend <;> simp

@[simp] theorem State.victimRemove_mem (s : State) (core va : Nat) : (s.victimRemove core va).mem = s.mem := by
  fun_cases State.victimRemove <;> simp

@[simp] theorem State.askWalk_mem (s : State) (w : Who) (va : Nat) : (s.askWalk w va).mem = s.mem := rfl

@[simp] theorem State.dropWalks_mem (s : State) (cluster : Nat) (p : WalkReq → Bool) : (s.dropWalks cluster p).mem = s.mem := by
  simp [State.dropWalks]

@[simp] theorem State.leaveWalks_mem (s : State) (sid : Nat) : (s.leaveWalks sid).mem = s.mem := by
  simp [State.leaveWalks]

@[simp] theorem State.forgetWalks_mem (s : State) (sid stream : Nat) : (s.forgetWalks sid stream).mem = s.mem := by
  simp [State.forgetWalks]

@[simp] theorem State.dropStrand_mem (s : State) (rec : FaultRec) : (s.dropStrand rec).mem = s.mem := by
  simp [State.dropStrand]

/-! ### Access -/

@[simp] theorem State.dropL1_mem (s : State) (core : Nat) (p : Nat → L1Word → Bool) : (s.dropL1 core p).mem = s.mem := rfl

@[simp] theorem State.padMend_mem (s : State) (ga n : Nat) : (s.padMend ga n).mem = s.mem := rfl

@[simp] theorem State.refuseAt_mem (s : State) (r : Nat × Nat) : (s.refuseAt r).mem = s.mem := rfl

@[simp] theorem State.settleCc_mem (s : State) (core pa : Nat) (mask : BitVec 8) (data : Word) :
    (s.settleCc core pa mask data).mem = s.mem := rfl

@[simp] theorem State.takeCowner_mem (s : State) (core : Nat) (p : Nat → CcWord → Bool) : (s.takeCowner core p).mem = s.mem := by
  unfold State.takeCowner
  refine State.foldl_mem _ _ (fun u x => ?_) _
  split <;> simp

@[simp] theorem State.acquire_mem (s : State) (core scope rgn : Nat) : (s.acquire core scope rgn).mem = s.mem := by
  simp [State.acquire]

@[simp] theorem State.invalidateRange_mem (s : State) (core base n : Nat) : (s.invalidateRange core base n).mem = s.mem := by
  simp [State.invalidateRange]

@[simp] theorem State.setFull_mem (s : State) (ga : Nat) (b : Bool) : (s.setFull ga b).mem = s.mem := rfl

/-! ### Trace -/

@[simp] theorem State.dataHit_mem (s : State) (sid ea n : Nat) (write : Bool) : (s.dataHit sid ea n write).mem = s.mem := by
  fun_cases State.dataHit <;> simp

/-! ### Waits -/

@[simp] theorem State.setParked_mem (s : State) (o : Owner) (l : List FeReq) : (s.setParked o l).mem = s.mem := by
  fun_cases State.setParked <;> simp

@[simp] theorem State.withdrawFe_mem (s : State) (sid : Nat) : (s.withdrawFe sid).mem = s.mem := rfl

@[simp] theorem State.handOn_mem (s : State) (pa : Nat) : (s.handOn pa).mem = s.mem := by
  fun_cases State.handOn <;> simp

@[simp] theorem State.leaveRsv_mem (s : State) (sid pa : Nat) : (s.leaveRsv sid pa).mem = s.mem := by
  fun_cases State.leaveRsv <;> simp +zetaDelta

@[simp] theorem State.leaveLaneOrder_mem (s : State) (sid : Nat) : (s.leaveLaneOrder sid).mem = s.mem := rfl

@[simp] theorem State.abandon_mem (s : State) (sid : Nat) : (s.abandon sid).mem = s.mem := by
  simp only [State.abandon]
  split <;> simp

theorem State.takeInterrupt_mem (s : State) (sid : Nat) : ∀ u, s.takeInterrupt sid = some u → u.mem = s.mem := by
  fun_cases State.takeInterrupt <;> simp +zetaDelta

/-! ### Regs -/

@[simp] theorem State.clearIpend_mem (s : State) (sid : Nat) (x : Word) : (s.clearIpend sid x).mem = s.mem := rfl

@[simp] theorem State.writeFqtail_mem (s : State) (core : Nat) (x : Word) : (s.writeFqtail core x).mem = s.mem := by
  simp [State.writeFqtail]

@[simp] theorem State.popVictim_mem (s : State) (core : Nat) (x : Word) : (s.popVictim core x).mem = s.mem := by
  fun_cases State.popVictim <;> simp

@[simp] theorem State.writeTrtail_mem (s : State) (die : Nat) (x : Word) : (s.writeTrtail die x).mem = s.mem := by
  simp [State.writeTrtail]

@[simp] theorem State.installShared_mem (s : State) (x : Word) : (s.installShared x).mem = s.mem := by
  simp [State.installShared]

@[simp] theorem State.popEvent_mem (s : State) : (s.popEvent).mem = s.mem := rfl

@[simp] theorem State.writeIpoint_mem (s : State) (x : Word) : (s.writeIpoint x).mem = s.mem := by
  simp [State.writeIpoint]

@[simp] theorem State.writeCtl_mem (s : State) (sid n : Nat) (m : Mode) (x : Word) : (s.writeCtl sid n m x).mem = s.mem := by
  fun_cases State.writeCtl <;> simp +zetaDelta

/-! ### VecSeq -/

@[simp] theorem State.takeLanes_mem (s : State) (sid n : Nat) : (s.takeLanes sid n).mem = s.mem := rfl

@[simp] theorem State.joinLanes_mem (s : State) (sid : Nat) (r : LaneReq) : (s.joinLanes sid r).mem = s.mem := by
  simp [State.joinLanes]

@[simp] theorem State.retire_mem (s : State) (sid : Nat) (e : VEntry) : (s.retire sid e).mem = s.mem := by
  simp [State.retire]

@[simp] theorem State.vectorDrop_mem (s : State) (sid va type level kind elem walk : Nat) :
    (s.vectorDrop sid va type level kind elem walk).mem = s.mem := by
  simp [State.vectorDrop]

/-! ### VecMem -/

@[simp] theorem State.putElem_mem (s : State) (sid vd eb i : Nat) (bs : List Byte) : (s.putElem sid vd eb i bs).mem = s.mem := rfl

/-! ### Mmu -/

@[simp] theorem State.plbInvalidate_mem (s : State) (pd : Option Nat) (core : Nat) : (s.plbInvalidate pd core).mem = s.mem := rfl

@[simp] theorem State.resumeCommands_mem (s : State) (sid : Nat) : (s.resumeCommands sid).mem = s.mem := rfl

@[simp] theorem State.pgwake_mem (s : State) (sid tenant : Nat) : (s.pgwake sid tenant).2.mem = s.mem := by
  fun_cases State.pgwake <;> simp +zetaDelta

/-! ### Net -/

@[simp] theorem State.sendPacket_mem (s : State) (cls : PClass) (tenant src : Nat) (dsts : List Nat) (payload : Payload) (waiter : Option Nat) :
    (s.sendPacket cls tenant src dsts payload waiter).2.mem = s.mem := rfl

@[simp] theorem State.setPacket_mem (s : State) (p : Packet) : (s.setPacket p).mem = s.mem := rfl

@[simp] theorem State.dropPacket_mem (s : State) (id : Nat) : (s.dropPacket id).mem = s.mem := rfl

@[simp] theorem State.useLink_mem (s : State) (a b : Nat × Nat) : (s.useLink a b).mem = s.mem := rfl

@[simp] theorem State.cross_mem (s : State) (p : Packet) (b : Nat × Nat) (vc : Nat) (escaped : Bool) :
    (s.cross p b vc escaped).mem = s.mem := rfl

@[simp] theorem State.crossHeader_mem (s : State) (p : Packet) (b : Nat × Nat) (vc : Nat) (escaped : Bool) :
    (s.crossHeader p b vc escaped).mem = s.mem := by
  simp [State.crossHeader]

@[simp] theorem State.crossData_mem (s : State) (p : Packet) (b : Nat × Nat) (vc : Nat) : (s.crossData p b vc).mem = s.mem := by
  simp [State.crossData]

@[simp] theorem State.trapInFlight_mem (s : State) (sid detail code : Nat) (tval : Word) :
    (s.trapInFlight sid detail code tval).mem = s.mem := by
  simp [State.trapInFlight]

@[simp] theorem State.failFe_mem (s : State) (sid : Nat) : (s.failFe sid).mem = s.mem := by
  fun_cases State.failFe <;> simp

@[simp] theorem State.refusePacket_mem (s : State) (p : Packet) : (s.refusePacket p).mem = s.mem := by
  simp only [State.refusePacket]
  (repeat' split) <;> simp

@[simp] theorem State.landLine_mem (s : State) (core pa : Nat) (data : List Byte) (joined : List (Nat × Nat)) :
    (s.landLine core pa data joined).mem = s.mem := rfl

@[simp] theorem State.spreadLine_mem (s : State) (p : Packet) (pa : Nat) (data : List Byte) (joined : List (Nat × Nat)) :
    (s.spreadLine p pa data joined).mem = s.mem := by
  fun_cases State.spreadLine
  · simp
  · rfl
  · refine (State.foldl_mem _ _ (fun _ _ => by simp) _).trans ?_
    exact State.foldl_mem _ _ (fun _ _ => by simp) _

@[simp] theorem State.hop_mem (s : State) (p : Packet) : (s.hop p).mem = s.mem := by
  fun_cases State.hop <;> simp

@[simp] theorem State.routePacket_mem (s : State) (pkt : Nat) : (s.routePacket pkt).mem = s.mem := by
  fun_cases State.routePacket <;> simp

@[simp] theorem State.moveReserved_mem (s : State) : (s.moveReserved).mem = s.mem := by
  simp [State.moveReserved]

@[simp] theorem State.resend_mem (s : State) (p : Packet) (core target : Nat) : (s.resend p core target).mem = s.mem := rfl

/-! ### Message -/

@[simp] theorem State.sendAm_mem (s : State) (sid : Nat) (m : AmMsg) (target : Nat) : (s.sendAm sid m target).mem = s.mem := by
  simp [State.sendAm]

@[simp] theorem State.setSwitch_mem (s : State) (k : Nat) (x : Switch) : (s.setSwitch k x).mem = s.mem := rfl

@[simp] theorem State.switchDiscard_mem (s : State) (k : Nat) : (s.switchDiscard k).mem = s.mem := rfl

@[simp] theorem State.atSwitch_mem (s : State) (k : Nat) (p : Packet) (m : AmMsg) (target : Nat) : (s.atSwitch k p m target).mem = s.mem := by
  fun_cases State.atSwitch <;> simp +zetaDelta

@[simp] theorem State.leaveSwitch_mem (s : State) (k : Nat) (p : Packet) (m : AmMsg) (core : Nat) : (s.leaveSwitch k p m core).mem = s.mem := by
  simp [State.leaveSwitch]

/-! ### Order -/

@[simp] theorem State.acquireEnd_mem (s : State) (sid scope rgn : Nat) : (s.acquireEnd sid scope rgn).mem = s.mem := by
  simp [State.acquireEnd]

@[simp] theorem State.serveAcqs_mem (s : State) : (s.serveAcqs).mem = s.mem := by
  unfold State.serveAcqs
  refine State.foldl_mem _ _ (fun u x => ?_) _
  split <;> simp

@[simp] theorem State.assignWindows_mem (s : State) (core : Nat) : (s.assignWindows core).mem = s.mem := rfl

@[simp] theorem State.readySc_mem (s : State) : (s.readySc).mem = s.mem := by
  simp [State.readySc]

/-! ### Sync -/

@[simp] theorem State.feCount_mem (s : State) (o : Owner) (hi lo : Nat) : (s.feCount o hi lo).mem = s.mem := by
  fun_cases State.feCount <;> simp

@[simp] theorem State.feRefused_mem (s : State) (sid : Nat) (b : Bool) : (s.feRefused sid b).mem = s.mem := by
  fun_cases State.feRefused <;> simp

@[simp] theorem State.rsvHold_mem (s : State) (sid pa : Nat) (ea : Word) (rd scope region : Nat) (v : Word) :
    (s.rsvHold sid pa ea rd scope region v).mem = s.mem := by
  simp [State.rsvHold]

@[simp] theorem State.performHeld_mem (s : State) (core : Nat) (p : PendReg) : (s.performHeld core p).mem = s.mem := by
  fun_cases State.performHeld <;> simp +zetaDelta
  split <;> simp

@[simp] theorem State.takeOwn_mem (s : State) (core pa : Nat) : (s.takeOwn core pa).mem = s.mem := by
  simp [State.takeOwn]

@[simp] theorem State.setCurBar_mem (s : State) (n : Nat) (b : Barrier) : (s.setCurBar n b).mem = s.mem := rfl

@[simp] theorem State.releaseWaiters_mem (s : State) (ws : List Nat) (status : Nat) : (s.releaseWaiters ws status).mem = s.mem := by
  unfold State.releaseWaiters
  refine State.foldl_mem _ _ (fun u x => ?_) _
  split <;> simp

/-! ### Matrix -/

@[simp] theorem State.mwaitDone_mem (s : State) (sid : Nat) : (s.mwaitDone sid).mem = s.mem := by
  fun_cases State.mwaitDone <;> simp

@[simp] theorem State.settleMatrix_mem (s : State) (core : Nat) : (s.settleMatrix core).mem = s.mem :=
  State.foldl_mem _ _ (fun _ _ => by simp) _

@[simp] theorem State.acceptMatrix_mem (s : State) (sid acc major id : Nat) (k : MKind) : (s.acceptMatrix sid acc major id k).mem = s.mem := by
  simp [State.acceptMatrix]

@[simp] theorem State.matrixFault_mem (s : State) (sid acc major code detail : Nat) (tval : Word) (progress : Nat) (younger : MCmd → Bool) :
    (s.matrixFault sid acc major code detail tval progress younger).mem = s.mem := by
  simp [State.matrixFault]

@[simp] theorem State.pauseMatrix_mem (s : State) (core : Nat) (m : MCmd) (va type level walk : Nat) :
    (s.pauseMatrix core m va type level walk).mem = s.mem := rfl

@[simp] theorem State.matrixStop_mem (s : State) (core : Nat) (m : MCmd) (e : AccErr) (ea : Word) : (s.matrixStop core m e ea).mem = s.mem := by
  fun_cases State.matrixStop <;> simp +zetaDelta

/-! ### Copy -/

@[simp] theorem State.cbGive_mem (s : State) (sid : Nat) (producer : Bool) (d : CbDesc) (slot rd : Nat) :
    (s.cbGive sid producer d slot rd).mem = s.mem := by
  simp [State.cbGive]

@[simp] theorem State.cbServeOne_consumers_mem (s : State) (core n : Nat) (d : CbDesc) (rdOf : Nat → Nat) :
    (State.cbServeOne.consumers s core n d rdOf).mem = s.mem := by
  fun_cases State.cbServeOne.consumers <;> simp

@[simp] theorem State.cbServeOne_mem (s : State) (core n : Nat) : (s.cbServeOne core n).mem = s.mem := by
  fun_cases State.cbServeOne <;> simp

@[simp] theorem State.cbServe_mem (s : State) (core n : Nat) : (s.cbServe core n).mem = s.mem := State.foldl_mem _ _ (fun _ _ => by simp) _

@[simp] theorem State.cbProduced_mem (s : State) (core ent : Nat) (k : CopyCmd) : (s.cbProduced core ent k).mem = s.mem := by
  simp [State.cbProduced]

@[simp] theorem State.closeRow_mem (s : State) (core rs : Nat) : (s.closeRow core rs).mem = s.mem := rfl

@[simp] theorem State.closeRowsOf_mem (s : State) (sid : Nat) : (s.closeRowsOf sid).mem = s.mem := by
  unfold State.closeRowsOf
  refine State.foldl_mem _ _ (fun u x => ?_) _
  split <;> simp

@[simp] theorem State.copyGone_mem (s : State) (core ent : Nat) (k : CopyCmd) : (s.copyGone core ent k).mem = s.mem := by
  simp [State.copyGone]

@[simp] theorem State.copyFault_mem (s : State) (core ent : Nat) (k : CopyCmd) (code detail : Nat) (tval : Word) :
    (s.copyFault core ent k code detail tval).mem = s.mem := by
  refine (State.foldl_mem _ _ (fun _ _ => by simp) _).trans ?_
  simp

@[simp] theorem State.copyPause_mem (s : State) (core : Nat) (k : CopyCmd) (va type level walk kind progress : Nat) :
    (s.copyPause core k va type level walk kind progress).mem = s.mem := rfl

@[simp] theorem State.chunkDone_mem (s : State) (core ent : Nat) (k : CopyCmd) (carry : Nat) : (s.chunkDone core ent k carry).mem = s.mem := by
  simp [State.chunkDone]

@[simp] theorem State.copyStop_mem (s : State) (core ent : Nat) (k : CopyCmd) (e : AccErr) (ea : Word) :
    (s.copyStop core ent k e ea).mem = s.mem := by
  unfold State.copyStop
  split <;> simp

@[simp] theorem State.cbReset_mem (s : State) (n : Nat) (d : CbDesc) : (s.cbReset n d).mem = s.mem := by
  unfold State.cbReset
  refine State.foldl_mem _ _ (fun u x => ?_) _
  split <;> simp

@[simp] theorem State.cbDone_mem (s : State) (n : Nat) (producer : Bool) : (s.cbDone n producer).mem = s.mem := by
  fun_cases State.cbDone <;> simp

/-! ### Sagger -/

theorem State.eachL2_mem (s : State) (hit : Nat → Bool) (f : State → L2Line → State) (h : ∀ u x, (f u x).mem = u.mem) :
    (s.eachL2 hit f).mem = s.mem := State.foldl_mem _ _ h _

@[simp] theorem State.flushRound_mem (s : State) (hit : Nat → Bool) : (s.flushRound hit).mem = s.mem := by
  refine (State.foldl_mem _ _ (fun u e => by simp) _).trans ?_
  refine State.eachL2_mem _ _ _ (fun u x => ?_)
  split <;> simp

/-! ### Fabric -/

@[simp] theorem State.placeTenant_mem (s : State) (t : Nat) (r : Tenant) : (s.placeTenant t r).2.mem = s.mem := by
  fun_cases State.placeTenant
  · rfl
  · rfl
  · rfl
  · exact State.foldl_mem _ _ (fun _ _ => by simp) _

@[simp] theorem State.clearTenant_mem (s : State) (t : Nat) : (s.clearTenant t).mem = s.mem := rfl

@[simp] theorem State.reservePairs_mem (s : State) (t : Nat) (y : Word) : (s.reservePairs t y).2.mem = s.mem := by
  fun_cases State.reservePairs <;> simp

/-! ### Ctx -/

@[simp] theorem State.withdrawWait_mem (s : State) (sid : Nat) : (s.withdrawWait sid).mem = s.mem := by
  simp [State.withdrawWait]

@[simp] theorem State.holdStrand_mem (s : State) (sid : Nat) : (s.holdStrand sid).mem = s.mem := by
  simp [State.holdStrand]

@[simp] theorem State.unholdStrand_mem (s : State) (sid : Nat) : (s.unholdStrand sid).mem = s.mem := rfl

@[simp] theorem State.enterPending_mem (s : State) (sid : Nat) : (s.enterPending sid).mem = s.mem := by
  unfold State.enterPending
  refine State.foldl_mem _ _ (fun u x => ?_) _
  split <;> simp

@[simp] theorem State.memberSaved_mem (s : State) (sid area : Nat) : (s.memberSaved sid area).mem = s.mem := by
  fun_cases State.memberSaved <;> simp

@[simp] theorem State.freeStrand_mem (s : State) (sid : Nat) : (s.freeStrand sid).mem = s.mem := rfl

@[simp] theorem State.memberLoaded_mem (s : State) (sid area : Nat) : (s.memberLoaded sid area).mem = s.mem := by
  fun_cases State.memberLoaded <;> simp

/-! ### Pool -/

@[simp] theorem State.setNode_mem (s : State) (n : Node) : (s.setNode n).mem = s.mem := rfl

@[simp] theorem State.makeReady_mem (s : State) (n : Node) (front : Bool) : (s.makeReady n front).mem = s.mem := rfl

@[simp] theorem State.enterNode_mem (s : State) (r : NodeRec) (key : Option Nat) (front : Bool) : (s.enterNode r key front).2.mem = s.mem := by
  simp [State.enterNode]

@[simp] theorem State.decrement_mem (s : State) (tenant key : Nat) : (s.decrement tenant key).mem = s.mem := by
  fun_cases State.decrement <;> simp

@[simp] theorem State.startStrand_mem (s : State) (sid : Nat) (n : Node) (d : Descr) (entry : Word) (idx handle : Nat) (seat : Option FarmSeat) :
    (s.startStrand sid n d entry idx handle seat).mem = s.mem := rfl

@[simp] theorem State.placeSeat_mem (s : State) (n : Node) (d : Descr) (core : Nat) : (s.placeSeat n d core).mem = s.mem := by
  fun_cases State.placeSeat <;> simp +zetaDelta

@[simp] theorem State.placeNode_mem (s : State) (n : Node) (d : Descr) (core : Nat) : (s.placeNode n d core).mem = s.mem :=
  State.foldl_mem _ _ (fun _ _ => by simp) _

@[simp] theorem State.serveGwaits_mem (s : State) (id : Nat) : (s.serveGwaits id).mem = s.mem := by
  unfold State.serveGwaits
  refine State.foldl_mem _ _ (fun u x => ?_) _
  split <;> simp

/-! ### Migrate -/

@[simp] theorem State.beginMigration_mem (s : State) (src dst tenant kind slotNo : Nat) :
    (s.beginMigration src dst tenant kind slotNo).2.mem = s.mem := by
  simp [State.beginMigration]

theorem State.startMigrate_mem (s : State) (tenant src : Nat) (target : Word) :
    ∀ r, s.startMigrate tenant src target = .ok r → r.2.mem = s.mem := by
  fun_cases State.startMigrate <;> simp

@[simp] theorem State.holdMoving_mem (s : State) (sid : Nat) : (s.holdMoving sid).mem = s.mem := by
  simp [State.holdMoving]

@[simp] theorem State.vacate_mem (s : State) (src : Nat) : (s.vacate src).mem = s.mem := by
  refine (State.setCore_mem _ _ _).trans ?_
  refine (State.modCluster_mem _ _ _).trans ?_
  exact State.foldl_mem _ _ (fun _ _ => by simp) _

@[simp] theorem State.renameMembers_mem (s : State) (f : Nat → Nat × Nat → Nat × Nat) : (s.renameMembers f).mem = s.mem := rfl

@[simp] theorem State.renameSetters_mem (s : State) (src dst : Nat) : (s.renameSetters src dst).mem = s.mem := rfl

@[simp] theorem State.retarget_mem (s : State) (tenant src dst : Nat) : (s.retarget tenant src dst).mem = s.mem := rfl

@[simp] theorem State.addForward_mem (s : State) (core : Nat) (f : FwdEntry) : (s.addForward core f).mem = s.mem := rfl

@[simp] theorem State.finishMigration_mem (s : State) (id code : Nat) : (s.finishMigration id code).mem = s.mem := by
  unfold State.finishMigration
  refine State.foldl_mem _ _ (fun u x => ?_) _
  split <;> simp

theorem State.startUnpark_mem (s : State) (tenant slotNo : Nat) (target : Word) :
    ∀ r, s.startUnpark tenant slotNo target = .ok r → r.2.mem = s.mem := by
  fun_cases State.startUnpark <;> simp

@[simp] theorem State.giveUpMove_mem (s : State) (m : Migration) : (s.giveUpMove m).mem = s.mem := by
  refine (State.foldl_mem _ _ (fun _ _ => by simp) _).trans ?_
  simp

/-! ### Dispatcher -/

@[simp] theorem State.leaveNode_mem (s : State) (sid : Nat) : (s.leaveNode sid).mem = s.mem := by
  fun_cases State.leaveNode <;> simp

@[simp] theorem State.setFarm_mem (s : State) (h : Nat) (f : Farm) : (s.setFarm h f).mem = s.mem := rfl

@[simp] theorem State.serveSfend_mem (s : State) (h : Nat) (f : Farm) : (s.serveSfend h f).mem = s.mem := by
  unfold State.serveSfend
  refine State.foldl_mem _ _ (fun u x => ?_) _
  split <;> simp

@[simp] theorem State.setFiring_mem (s : State) (idx : Nat) (e : FireEntry) : (s.setFiring idx e).mem = s.mem := rfl

/-! ### Tenancy -/

@[simp] theorem State.pcreate_mem (s : State) (x : Word) : (s.pcreate x).2.mem = s.mem := by
  fun_cases State.pcreate <;> simp

@[simp] theorem State.lockIslands_mem (s : State) (is : List Nat) (b : Bool) : (s.lockIslands is b).mem = s.mem := by
  simp [State.lockIslands]

@[simp] theorem State.unlockIslands_mem (s : State) (t : Nat) (is : List Nat) : (s.unlockIslands t is).mem = s.mem := by
  simp [State.unlockIslands]

@[simp] theorem State.giveResSlots_mem (s : State) (p : Partition) (t : Nat) (ss cs : List Nat) : (s.giveResSlots p t ss cs).mem = s.mem :=
  State.foldl_mem _ _ (fun _ _ => by simp) _

@[simp] theorem State.clearSlots_mem (s : State) (t : Nat) : (s.clearSlots t).mem = s.mem := rfl

theorem State.reserveFabric_mem (s : State) (t mask pairs : Nat) (u : State) (h : s.reserveFabric t mask pairs = some u) :
    u.mem = s.mem := by
  revert h
  fun_cases State.reserveFabric
  case case2 v hv =>
    rintro ⟨⟩
    exact (congrArg (fun r => r.2.mem) hv).symm.trans (s.reservePairs_mem _ _)
  all_goals simp

@[simp] theorem State.reserve_mem (s : State) (x : Word) : (s.reserve x).2.mem = s.mem := by
  fun_cases State.reserve <;> simp +zetaDelta
  case case4 u hu =>
    split at hu
    · cases hu; rfl
    · exact s.reserveFabric_mem _ _ _ _ hu
  case case8 u hu => exact s.reserveFabric_mem _ _ _ _ hu

@[simp] theorem State.endReservation_mem (s : State) (t : Nat) (r : DetRes) : (s.endReservation t r).mem = s.mem := by
  simp [State.endReservation]

@[simp] theorem State.releaseRes_mem (s : State) (x : Word) : (s.releaseRes x).2.mem = s.mem := by
  fun_cases State.releaseRes <;> simp

@[simp] theorem State.removeTenant_mem (s : State) (t : Nat) : (s.removeTenant t).mem = s.mem := by
  unfold State.removeTenant
  split <;> simp

theorem State.tremove_mem (s : State) (x : Word) : ∀ r, s.tremove x = some r → r.2.mem = s.mem := by
  fun_cases State.tremove <;> simp

/-! ### Sequence -/

@[simp] theorem State.setSeq_mem (s : State) (d k : Nat) (x : SeqSlot) : (s.setSeq d k x).mem = s.mem := rfl

@[simp] theorem State.watchAct_mem (s : State) (d k : Nat) (x : SeqSlot) (e : Nat) (i : WatchImage) : (s.watchAct d k x e i).mem = s.mem := by
  fun_cases State.watchAct <;> simp +zetaDelta

/-! ### Debug -/

theorem State.dbgWrite_mem (s : State) (sid : Nat) (x v : Word) : ∀ u, s.dbgWrite sid x v = some u → u.mem = s.mem := by
  fun_cases State.dbgWrite <;> simp

@[simp] theorem State.haltStrand_mem (s : State) (sid : Nat) : (s.haltStrand sid).mem = s.mem := by
  fun_cases State.haltStrand <;> simp

@[simp] theorem State.haltTenant_mem (s : State) (t : Nat) (cap : Option Nat) : (s.haltTenant t cap).2.mem = s.mem := by
  simp [State.haltTenant]

@[simp] theorem State.dbgResult_mem (s : State) (sid code : Nat) (arg2 : Word) : (s.dbgResult sid code arg2).mem = s.mem := rfl

/-! ### Service -/

@[simp] theorem State.measure_mem (s : State) (n code : Nat) (detail : List Byte) : (s.measure n code detail).mem = s.mem := rfl

@[simp] theorem State.setLifecycle_mem (s : State) (l : Lifecycle) : (s.setLifecycle l).mem = s.mem := rfl

@[simp] theorem State.setKeySlot_mem (s : State) (i : Nat) (k : KeySlot) : (s.setKeySlot i k).mem = s.mem := rfl

@[simp] theorem State.newKey_mem (s : State) (i owner : Nat) : (s.newKey i owner).2.mem = s.mem := by
  simp only [State.newKey]
  (repeat' split) <;> simp

/-! ### Boot -/

@[simp] theorem State.noDies_mem (s : State) : (s.noDies).mem = s.mem := rfl

@[simp] theorem State.safeState_mem (s : State) : (s.safeState).mem = s.mem := rfl

@[simp] theorem State.selfTest_mem (s : State) : (s.selfTest).2.mem = s.mem := rfl

@[simp] theorem State.testGroup_mem (r : Bool × State) (g : Nat) : (State.testGroup r g).2.mem = r.2.mem := by
  simp only [State.testGroup]
  (repeat' split) <;> simp

/-- The self-tests of a die's groups leave the memory as it is. -/
theorem State.foldl_testGroup_mem (gs : List Nat) (r : Bool × State) : (gs.foldl State.testGroup r).2.mem = r.2.mem := by
  induction gs generalizing r with
  | nil => rfl
  | cons g gs ih => rw [List.foldl_cons, ih, State.testGroup_mem]

@[simp] theorem State.testDies_mem (s : State) (ds : List Nat) : (s.testDies ds).2.mem = s.mem := by
  induction ds generalizing s with
  | nil => rfl
  | cons d r ih => simp [State.testDies, ih, State.foldl_testGroup_mem]

@[simp] theorem State.packageCalibrated_mem (s : State) : (s.packageCalibrated).mem = s.mem := by
  simp [State.packageCalibrated]

@[simp] theorem State.lasting_mem (s : State) (kind unit count : Nat) : (s.lasting kind unit count).mem = s.mem := by
  simp [State.lasting]

@[simp] theorem State.chargeError_mem (s : State) (kind unit : Nat) : (s.chargeError kind unit).mem = s.mem := by
  simp [State.chargeError]

@[simp] theorem State.countCorrection_mem (s : State) (kind unit : Nat) : (s.countCorrection kind unit).mem = s.mem := by
  simp [State.countCorrection]

@[simp] theorem State.breakSagger_mem (s : State) (a : Nat) : (s.breakSagger a).mem = s.mem := rfl

@[simp] theorem State.lastingNow_mem (s : State) (kind unit : Nat) : (s.lastingNow kind unit).mem = s.mem := by
  simp [State.lastingNow]

@[simp] theorem State.flawIn_mem (s : State) (kind unit : Nat) : (s.flawIn kind unit).mem = s.mem := by
  simp only [State.flawIn]
  (repeat' split) <;> simp

@[simp] theorem State.uncorrected_mem (s : State) (kind unit : Nat) : (s.uncorrected kind unit).mem = s.mem := by
  simp [State.uncorrected]

@[simp] theorem State.uncorrectedAtom_mem (s : State) (unit : Nat) : (s.uncorrectedAtom unit).mem = s.mem := by
  unfold State.uncorrectedAtom
  split <;> simp

@[simp] theorem State.retrain_mem (s : State) (link : Nat) : (s.retrain link).mem = s.mem := rfl

/-! ### HostPort -/

@[simp] theorem State.countRefusal_mem (s : State) (port : Nat) : (s.countRefusal port).mem = s.mem := rfl

@[simp] theorem State.performed_mem (s : State) (port stamp : Nat) : (s.performed port stamp).mem = s.mem := by
  simp [State.performed]

@[simp] theorem State.holdPosted_mem (s : State) (port stamp target addr : Nat) (data : List Byte) :
    (s.holdPosted port stamp target addr data).mem = s.mem := rfl

@[simp] theorem State.discardWrite_mem (s : State) (port : Nat) : (s.discardWrite port).mem = s.mem := rfl

@[simp] theorem State.mailboxWrite_mem (s : State) (port : Nat) (w : Posted) : (s.mailboxWrite port w).mem = s.mem := by
  simp [State.mailboxWrite]

@[simp] theorem State.bar0_mem (s : State) (port off n : Nat) : (s.bar0 port off n).2.mem = s.mem := rfl

@[simp] theorem State.answer_mem (s : State) (port : Nat) (bs : List Byte) (poison : Bool) : (s.answer port bs poison).mem = s.mem := rfl

@[simp] theorem State.configBytes_mem (s : State) (port offset : Nat) : (s.configBytes port offset).2.mem = s.mem := rfl

@[simp] theorem State.putArea_mem (s : State) (port off : Nat) (bs : List Byte) : (s.putArea port off bs).mem = s.mem := rfl

@[simp] theorem State.mbDone_mem (s : State) (port result : Nat) : (s.mbDone port result).mem = s.mem := rfl

/-! ### Turn -/

@[simp] theorem State.armAddress_mem (s : State) (sid : Nat) : (s.armAddress sid).mem = s.mem := by
  fun_cases State.armAddress <;> simp

@[simp] theorem State.tickCore_mem (s : State) (core cycle k : Nat) : (s.tickCore core cycle k).mem = s.mem := by
  simp [State.tickCore]

@[simp] theorem State.advance_mem (s : State) (n : Nat) : (s.advance n).mem = s.mem := by
  simp [State.advance]

/-! ## What keeps the memory canonical -/

/-- A memory chosen by a condition is canonical when both are. -/
@[simp] theorem wf_ite {c : Prop} [Decidable c] {m n : Memory} (hm : Memory.wf m) (hn : Memory.wf n) : Memory.wf (if c then m else n) := by
  split <;> assumption

/-- A fold of changes that each keep the canonical form. -/
theorem State.foldl_wf {α : Type} (l : List α) (f : State → α → State)
    (h : ∀ s a, Memory.wf s.mem → Memory.wf (f s a).mem) {s : State} (hs : Memory.wf s.mem) : Memory.wf (l.foldl f s).mem := by
  induction l generalizing s with
  | nil => exact hs
  | cons a r ih => exact ih (h s a hs)

/-- A fold that carries a value beside the state, of changes that each keep the canonical form. -/
theorem State.foldl_pair_wf {α β : Type} (l : List α) (f : β × State → α → β × State)
    (hf : ∀ acc a, Memory.wf acc.2.mem → Memory.wf (f acc a).2.mem) {acc : β × State} (h : Memory.wf acc.2.mem) :
    Memory.wf (l.foldl f acc).2.mem := by
  induction l generalizing acc with
  | nil => exact h
  | cons a r ih => exact ih (hf acc a h)

/-- A computation over the state keeps the memory's canonical form, however it ends. -/
abbrev Keeps {ε α : Type} (a : EStateM ε State α) : Prop :=
  ⦃fun s => ⌜Memory.wf s.mem⌝⦄ a ⦃(fun _ s => ⌜Memory.wf s.mem⌝, fun _ s => ⌜Memory.wf s.mem⌝, ())⦄

section
variable {ε α : Type} {a : EStateM ε State α} {s t : State}

theorem Keeps.ok {x : α} (ha : Keeps a) (hs : Memory.wf s.mem) (h : a s = .ok x t) : Memory.wf t.mem := by
  simpa [WP.wp, PredTrans.apply, EStateM.run, h] using ha s hs

theorem Keeps.error {e : ε} (ha : Keeps a) (hs : Memory.wf s.mem) (h : a s = .error e t) : Memory.wf t.mem := by
  simpa [WP.wp, PredTrans.apply, EStateM.run, h] using ha s hs

/-- The state a run ends in, with a value or with an error. -/
def endState (r : EStateM.Result ε State α) : State :=
  match r with
  | .ok _ s => s
  | .error _ s => s

/-- What the end of every run keeps, the computation keeps. -/
theorem Keeps.of_run (h : ∀ s, Memory.wf s.mem → Memory.wf (endState (a s)).mem) : Keeps a := by
  intro s hs
  have ht := h s hs
  cases hr : a s <;> simpa [WP.wp, PredTrans.apply, EStateM.run, endState, hr] using ht

theorem Keeps.run (ha : Keeps a) (hs : Memory.wf s.mem) : Memory.wf (endState (a s)).mem := by
  cases hr : a s with
  | ok x t => exact ha.ok hs hr
  | error e t => exact ha.error hs hr

end

section
variable {ε α β : Type} {a b : EStateM ε State α}

theorem Keeps.pure (x : α) : Keeps (pure x : EStateM ε State α) := by mvcgen

theorem Keeps.set {s : State} (h : Memory.wf s.mem) : Keeps (set s : EStateM ε State PUnit) := fun _ _ => h

theorem Keeps.bind {f : α → EStateM ε State β} (ha : Keeps a) (hf : ∀ x, Keeps (f x)) : Keeps (a >>= f) := by
  mvcgen [ha, hf]

/-- What follows a look at the state may use that its memory is canonical. -/
theorem Keeps.get_bind {f : State → EStateM ε State α} (hf : ∀ s, Memory.wf s.mem → Keeps (f s)) : Keeps (get >>= f) :=
  fun s hs => hf s hs s hs

theorem Keeps.ite {c : Prop} [Decidable c] (ha : Keeps a) (hb : Keeps b) : Keeps (if c then a else b) := by
  split <;> assumption

theorem discard_keeps (ha : Keeps a) : Keeps (discard a) := Keeps.bind ha fun _ => Keeps.pure _

theorem mapM_keeps {l : List α} {f : α → EStateM ε State β} (hf : ∀ x, Keeps (f x)) : Keeps (l.mapM f) := by
  induction l with
  | nil => mvcgen [List.mapM_nil]
  | cons x r ih => rw [List.mapM_cons]; mvcgen [hf, ih]

theorem forM_keeps {l : List α} {f : α → EStateM ε State PUnit} (hf : ∀ x, Keeps (f x)) : Keeps (l.forM f) := by
  induction l with
  | nil => mvcgen [List.forM]
  | cons x r ih => mvcgen [List.forM, hf, ih]

theorem foldlM_keeps {l : List α} {f : β → α → EStateM ε State β} {x : β} (hf : ∀ x y, Keeps (f x y)) : Keeps (l.foldlM f x) := by
  induction l generalizing x with
  | nil => exact Keeps.pure _
  | cons y r ih => rw [List.foldlM_cons]; exact Keeps.bind (hf _ _) fun _ => ih

end

/-- An outcome with a next state in canonical form. -/
def NextWf (o : Host.Outcome State Fault Refusal) : Prop := ∀ t, o = .next t → Memory.wf t.mem

@[simp] theorem nextWf_next (s : State) : NextWf (.next s) ↔ Memory.wf s.mem := by simp [NextWf]
@[simp] theorem nextWf_fault (f : Fault) : NextWf (.fault f) := by simp [NextWf]
@[simp] theorem nextWf_refused (r : Refusal) : NextWf (.refused r) := by simp [NextWf]

/-- The state that a debug command ends in, where it has one, is canonical. -/
def DbgEndWf (e : DbgEnd) : Prop :=
  match e with
  | .trap _ _ _ => True
  | .waits _ _ s => Memory.wf s.mem
  | .done _ _ s => Memory.wf s.mem

@[simp] theorem dbgEndWf_trap (detail code : Nat) (tval : Word) : DbgEndWf (.trap detail code tval) := trivial
@[simp] theorem dbgEndWf_waits (t : Nat) (cap : Option Nat) (s : State) : DbgEndWf (.waits t cap s) ↔ Memory.wf s.mem := Iff.rfl
@[simp] theorem dbgEndWf_done (code : Nat) (arg2 : Word) (s : State) : DbgEndWf (.done code arg2 s) ↔ Memory.wf s.mem := Iff.rfl

/-! ### Ops -/

/-- A meaning that keeps the canonical form leads to a state in it. -/
theorem runAct_wf {a : Act Unit} {s : State} (ha : Keeps a) (h : Memory.wf s.mem) : NextWf (runAct a s) := by
  unfold runAct
  split
  · next hr => simpa using ha.ok h hr
  · next hr => simpa using ha.error h hr

theorem endHere_keeps {α : Type} : Keeps (endHere : Act α) := by
  mvcgen [endHere]

theorem change_keeps {f : State → State} (hf : ∀ s, Memory.wf s.mem → Memory.wf (f s).mem) : Keeps (change f) := hf

theorem stall_keeps {α : Type} : Keeps (stall : Act α) := by
  mvcgen [stall, endHere_keeps, change]

theorem forfeit_keeps {α : Type} : Keeps (forfeit : Act α) := by
  mvcgen [forfeit, endHere_keeps, change]

theorem issueWhen_keeps {p : State → Bool} : Keeps (issueWhen p) := by
  mvcgen [issueWhen, forfeit_keeps]

theorem flyUntil_keeps {frames : List (Nat × Nat)} {p : State → Bool} : Keeps (flyUntil frames p) := by
  mvcgen [flyUntil, endHere_keeps, change]

theorem waitUntil_keeps {p : State → Bool} : Keeps (waitUntil p) := by
  mvcgen [waitUntil, stall_keeps]

theorem trapTo_keeps {α : Type} {resume : Word} {detail code : Nat} {tval : Word} : Keeps (trapTo resume detail code tval : Act α) := by
  mvcgen [trapTo, waitUntil_keeps, endHere_keeps, change]
  simp +zetaDelta [*]

theorem trap_keeps {α : Type} {detail code : Nat} {tval : Word} : Keeps (trap detail code tval : Act α) := by
  mvcgen [trap, trapTo_keeps, look]

theorem illegal_keeps {α : Type} {i : Instr} : Keeps (illegal i : Act α) := by
  mvcgen [illegal, trap_keeps]

theorem require_keeps {p : State → Bool} {i : Instr} : Keeps (require p i) := by
  mvcgen [require, illegal_keeps]

theorem needSupervisor_keeps {i : Instr} : Keeps (needSupervisor i) := by
  mvcgen [needSupervisor, require_keeps]

theorem done_keeps {len lat : Nat} : Keeps (done len lat) := by
  mvcgen [done, change]

theorem doneWith_keeps {w : Nat} {rd : BitVec w} {x : Word} {len lat : Nat} : Keeps (doneWith rd x len lat) := by
  mvcgen [doneWith, change]

theorem forEach_keeps {α : Type} {l : List α} {f : α → Act Unit} (hf : ∀ x, Keeps (f x)) : Keeps (forEach l f) := by
  induction l with
  | nil => mvcgen [forEach]
  | cons x r ih => mvcgen [forEach, hf, ih]

/-! ### Home -/

@[simp] theorem State.putImage_wf {s : State} {line : Nat} {m : LineImage} (h : Memory.wf s.mem) : Memory.wf (s.putImage line m).mem :=
  mwrite_wf _ _ _ h

@[simp] theorem State.foldl_setPoison_mem (s : State) (l : List Nat) : (l.foldl State.setPoison s).mem = s.mem :=
  State.foldl_mem _ _ (fun _ _ => by rfl) _

@[simp] theorem State.l2Evict_wf {s : State} {x : L2Line} (h : Memory.wf s.mem) : Memory.wf (s.l2Evict x).mem := by
  cases hu : x.under <;> simp [State.l2Evict, hu, h, mwrite_wf]

@[simp] theorem State.l2Insert_wf {s : State} {x : L2Line} (h : Memory.wf s.mem) : Memory.wf (s.l2Insert x).mem := by
  simp only [State.l2Insert, State.l2Mod_mem]
  (repeat' split) <;> simp [h]

@[simp] theorem State.l2Take_wf {s : State} {atom : Nat} (h : Memory.wf s.mem) : Memory.wf (s.l2Take atom).mem := by
  fun_cases State.l2Take <;> simp [h, mwrite_wf]

@[simp] theorem State.l2Own_wf {s : State} {atom key tenant : Nat} (h : Memory.wf s.mem) : Memory.wf (s.l2Own atom key tenant).mem := by
  fun_cases State.l2Own <;> simp +zetaDelta [h]

theorem homeRead_keeps {pa n key : Nat} : Keeps (homeRead pa n key) := by
  mvcgen [homeRead]
  · simpa
  · exact State.foldl_wf _ _ (fun _ _ => State.l2Take_wf) (by simpa)

theorem slotGate_keeps {tenant : Option Nat} {pa : Nat} : Keeps (slotGate tenant pa) := by
  mvcgen [slotGate]

@[simp] theorem State.restamp_wf {s : State} {pa key : Nat} (h : Memory.wf s.mem) : Memory.wf (s.restamp pa key).mem := by
  fun_cases State.restamp <;> simp +zetaDelta [h, mwrite_wf]

@[simp] theorem State.mergeRead_wf {s : State} {pa key : Nat} (h : Memory.wf s.mem) : Memory.wf (s.mergeRead pa key).2.mem := by
  fun_cases State.mergeRead
  case case1 hr => exact homeRead_keeps.ok h hr
  case case2 hr => exact homeRead_keeps.error h hr

@[simp] theorem State.closeMerges_wf {s : State} {pa : Nat} (h : Memory.wf s.mem) : Memory.wf (s.closeMerges pa).mem := by
  simp only [State.closeMerges]
  split
  · refine State.foldl_pair_wf _ _ (fun acc m ha => ?_) h
    split <;> simp [ha]
  · exact h

@[simp] theorem State.homePut_wf {s : State} {pa : Nat} {mask : BitVec 8} {data : Word} {key tenant : Nat} (h : Memory.wf s.mem) :
    Memory.wf (s.homePut pa mask data key tenant).mem := by
  have hc : Memory.wf (s.closeMerges pa).mem := State.closeMerges_wf h
  fun_cases State.homePut
  · exact wf_ite (maskWrite_wf _ _ _ _ (maskWrite_wf _ _ _ _ hc)) (maskWrite_wf _ _ _ _ hc)
  · refine maskWrite_wf _ _ _ _ (State.restamp_wf (State.l2Own_wf ?_))
    simp +zetaDelta [hc]

/-- A registration changes memory by its put alone. -/
@[simp] theorem State.registerHome_mem (s : State) (pa : Nat) (mask : BitVec 8) (data : Word) (owner : Option Nat) (key tenant : Nat)
    (cause via : Option Nat) :
    (s.registerHome pa mask data owner key tenant cause via).mem = (s.homePut pa mask data key tenant).mem := by
  fun_cases State.registerHome <;> simp +zetaDelta
  split <;> simp

@[simp] theorem State.clearCovered_wf {s : State} {ws : List (Nat × BitVec 8)} {key tenant : Nat} (h : Memory.wf s.mem) :
    Memory.wf (s.clearCovered ws key tenant).mem :=
  State.foldl_wf _ _ (fun _ _ hs => by simpa using State.l2Own_wf hs) h

@[simp] theorem State.arriveHome_wf {s : State} {pa : Nat} {mask : BitVec 8} {data : Word} {owner : Option Nat} {key tenant : Nat}
    {cause : Option Nat} {act : PendAct} {via : Option Nat} (h : Memory.wf s.mem) :
    Memory.wf (s.arriveHome pa mask data owner key tenant cause act via).mem := by
  fun_cases State.arriveHome <;> simp [h]

/-! ### Translate -/

theorem placeAt_keeps {w : Who} {ea : Nat} : Keeps (placeAt w ea) := by
  mvcgen [placeAt]

theorem readSegs_keeps {core pd : Nat} : Keeps (readSegs core pd) := by
  mvcgen [readSegs, homeRead_keeps]

theorem plbFill_keeps {core pd : Nat} : Keeps (plbFill core pd) := by
  mvcgen [plbFill, readSegs_keeps]

theorem segAt_keeps {core pd ea : Nat} : Keeps (segAt core pd ea) := by
  mvcgen [segAt, plbFill_keeps]

theorem checkRights_keeps {w : Who} {ea : Nat} {n : Need} : Keeps (checkRights w ea n) := by
  mvcgen [checkRights, segAt_keeps]

theorem walkFrom_keeps {p : Partition} {va node level : Nat} : Keeps (walkFrom p va node level) := by
  induction level generalizing node with
  | zero =>
    refine Keeps.bind homeRead_keeps fun bs => ?_
    repeat' refine Keeps.ite (Keeps.pure _) ?_
    exact Keeps.ite (Keeps.ite (.pure _) (Keeps.ite (.pure _) (.pure _))) (.pure _)
  | succ l ih =>
    refine Keeps.bind homeRead_keeps fun bs => ?_
    repeat' refine Keeps.ite (Keeps.pure _) ?_
    exact Keeps.ite (Keeps.ite (.pure _) (Keeps.ite (.pure _) (.pure _))) ih

theorem walk_keeps {core va : Nat} : Keeps (walk core va) := by
  mvcgen [walk, walkFrom_keeps]

@[simp] theorem State.pteUpdate_wf {s : State} {pa frame : Nat} {on off : List Nat} (h : Memory.wf s.mem) :
    Memory.wf (s.pteUpdate pa frame on off).2.mem := by
  fun_cases State.pteUpdate <;> simp [h]

theorem touch_keeps {w : Who} {e : TlbEntry} {store : Bool} {m : Mark} : Keeps (touch w e store m) := by
  mvcgen [touch] <;> simp +zetaDelta [*]

theorem useLeaf_keeps {w : Who} {va : Nat} {lo hi : Word} {pa level : Nat} : Keeps (useLeaf w va lo hi pa level) := by
  mvcgen [useLeaf]

theorem walked_keeps {w : Who} {va : Nat} : Keeps (walked w va) := by
  mvcgen [walked, useLeaf_keeps]

theorem translate_keeps {w : Who} {va : Nat} {store : Bool} {m : Mark} : Keeps (translate w va store m) := by
  unfold translate
  extract_lets again
  have hagain : Keeps again := by mvcgen [again, walked_keeps, touch_keeps]
  clear_value again
  refine Keeps.get_bind fun s hs => Keeps.ite hagain ?_
  split
  · mvcgen [hagain, touch_keeps]
  · exact hagain

theorem canMark_keeps {w : Who} {va : Nat} {e : TlbEntry} {m : Mark} : Keeps (canMark w va e m) := by
  mvcgen [canMark]

theorem markPage_keeps {w : Who} {e : TlbEntry} {m : Mark} : Keeps (markPage w e m) := by
  mvcgen [markPage, touch_keeps]

theorem failed_keeps {α : Type} {e : AccErr} {ea : Word} {kind : Nat} : Keeps (failed e ea kind : Act α) := by
  mvcgen [failed, waitUntil_keeps, forfeit_keeps, endHere_keeps, stall_keeps, change, trap_keeps]
  simp +zetaDelta [*]

theorem access_keeps {α : Type} {a : Who → Acc α} {ea : Word} {kind : Nat} (ha : ∀ w, Keeps (a w)) : Keeps (access a ea kind) := by
  refine Keeps.get_bind fun s hs => ?_
  split
  · next hr =>
    have := (ha _).ok hs hr
    mvcgen
  · next hr =>
    have := (ha _).error hs hr
    mvcgen [stall_keeps, failed_keeps]

/-! ### Access -/

@[simp] theorem State.registerCcWords_wf {s : State} {cl : Nat} {via : Option Nat} {p : Nat → CcWord → Bool} (h : Memory.wf s.mem) :
    Memory.wf (s.registerCcWords cl via p).mem := by
  refine State.foldl_wf _ _ (fun u e hu => ?_) ?_
  · simp [hu]
  · split <;> simp [h]

@[simp] theorem State.evictCc_wf {s : State} {cl line : Nat} (h : Memory.wf s.mem) : Memory.wf (s.evictCc cl line).mem := by
  simp [State.evictCc, h]

/-- A cache makes room by an eviction that keeps the canonical form. -/
theorem State.roomFor_wf {s : State} {held : List Nat} {line cap : Nat} {evict : State → Nat → State} (h : Memory.wf s.mem)
    (he : ∀ u l, Memory.wf u.mem → Memory.wf (evict u l).mem) : Memory.wf (s.roomFor held line cap evict).mem := by
  unfold State.roomFor
  split
  · exact h
  · exact he _ _ (by simpa)

@[simp] theorem State.ccPut_wf {s : State} {cl pa : Nat} {w : CcWord} (h : Memory.wf s.mem) : Memory.wf (s.ccPut cl pa w).mem := by
  simpa [State.ccPut] using State.roomFor_wf h fun _ _ => State.evictCc_wf

@[simp] theorem State.evictDirty_wf {s : State} {core : Nat} {e : L1Word} (h : Memory.wf s.mem) :
    Memory.wf (s.evictDirty core e).mem := by
  simp [State.evictDirty, h]

@[simp] theorem State.evictL1_wf {s : State} {core line : Nat} (h : Memory.wf s.mem) : Memory.wf (s.evictL1 core line).mem := by
  simpa [State.evictL1] using State.foldl_wf _ _ (fun _ _ => State.evictDirty_wf) h

@[simp] theorem State.l1Put_wf {s : State} {core va : Nat} {w : L1Word} (h : Memory.wf s.mem) : Memory.wf (s.l1Put core va w).mem := by
  simpa [State.l1Put] using State.roomFor_wf h fun _ _ => State.evictL1_wf

@[simp] theorem State.l1Entry_wf {s : State} {core va pa : Nat} (h : Memory.wf s.mem) : Memory.wf (s.l1Entry core va pa).2.mem := by
  fun_cases State.l1Entry <;> simp [h]

theorem ccWord_keeps {core tenant pa rid key : Nat} : Keeps (ccWord core tenant pa rid key) := by
  mvcgen [ccWord, homeRead_keeps, slotGate_keeps] <;> simp +zetaDelta [*]

theorem fillWord_keeps {w : Who} {va : Nat} {t : TlbEntry} : Keeps (fillWord w va t) := by
  mvcgen [fillWord, ccWord_keeps] <;> simp +zetaDelta [*]

theorem loadWord.miss_keeps {w : Who} {va : Nat} {m : Mark} : Keeps (loadWord.miss w va m) := by
  mvcgen [loadWord.miss, translate_keeps, canMark_keeps, markPage_keeps, fillWord_keeps]

theorem loadWord_keeps {w : Who} {va : Nat} {need : BitVec 8} {m : Mark} : Keeps (loadWord w va need m) := by
  mvcgen [loadWord, loadWord.miss_keeps]

theorem storePage_keeps {w : Who} {va : Nat} {m : Mark} : Keeps (storePage w va m) := by
  mvcgen [storePage, touch_keeps, translate_keeps]

theorem storeWord.put_keeps {w : Who} {va : Nat} {mask : BitVec 8} {data : Word} {x : L1Word} :
    Keeps (storeWord.put w va mask data x) := by
  mvcgen [storeWord.put]
  simp [*]

theorem storeWord.walkedStore_keeps {w : Who} {va : Nat} {mask : BitVec 8} {data : Word} {t : TlbEntry} :
    Keeps (storeWord.walkedStore w va mask data t) := by
  mvcgen [storeWord.walkedStore, storeWord.put_keeps]
  simp [*]

theorem storeWord_keeps {w : Who} {va : Nat} {mask : BitVec 8} {data : Word} {m : Mark} : Keeps (storeWord w va mask data m) := by
  mvcgen [storeWord, storePage_keeps, storeWord.put_keeps, storeWord.walkedStore_keeps, translate_keeps]

theorem loadBytes_keeps {w : Who} {p : Place} {ea n : Nat} {m : Mark} : Keeps (loadBytes w p ea n m) := by
  mvcgen [loadBytes, loadWord_keeps, mapM_keeps]

theorem storeBarrier_keeps {cl off : Nat} {bs : List Byte} : Keeps (storeBarrier cl off bs) := by
  mvcgen [storeBarrier]

theorem storeBarriers_keeps {cl off : Nat} {bs : List Byte} : Keeps (storeBarriers cl off bs) := by
  have hall := forM_keeps (l := List.range (ceilDiv bs.length 8)) fun i =>
    storeBarrier_keeps (cl := cl) (off := off + 8 * i) (bs := (bs.drop (8 * i)).take 8)
  refine Keeps.of_run fun s hs => ?_
  unfold storeBarriers
  split
  · exact hs
  · exact hall.run hs

theorem storeBytes_keeps {w : Who} {p : Place} {ea : Nat} {bs : List Byte} {m : Mark} : Keeps (storeBytes w p ea bs m) := by
  mvcgen [storeBytes, forM_keeps, storeWord_keeps, storeBarriers_keeps]
  simp +zetaDelta [*, mwrite_wf]

theorem mayEnter_keeps {w : Who} {p : Place} : Keeps (mayEnter w p) := by
  mvcgen [mayEnter]

theorem checkAccess_keeps {w : Who} {ea : Word} {n : Nat} {need : Need} : Keeps (checkAccess w ea n need) := by
  mvcgen [checkAccess, checkRights_keeps, placeAt_keeps, mayEnter_keeps]

theorem readMem_keeps {w : Who} {ea : Word} {n : Nat} {m : Mark} : Keeps (readMem w ea n m) := by
  mvcgen [readMem, loadBytes_keeps, checkAccess_keeps]

theorem writeMem_keeps {w : Who} {ea : Word} {bs : List Byte} {m : Mark} : Keeps (writeMem w ea bs m) := by
  mvcgen [writeMem, storeBytes_keeps, checkAccess_keeps]

theorem checkStore_keeps {w : Who} {ea : Word} {n : Nat} : Keeps (checkStore w ea n) := by
  mvcgen [checkStore, checkAccess_keeps]

theorem probeStore_keeps {w : Who} {ea : Word} {n : Nat} : Keeps (probeStore w ea n) := by
  mvcgen [probeStore, checkStore_keeps, storePage_keeps, discard_keeps]

@[simp] theorem State.registerCc_wf {s : State} {core : Nat} {e : L1Word} (h : Memory.wf s.mem) :
    Memory.wf (s.registerCc core e).mem := by
  unfold State.registerCc
  extract_lets cl w d
  split
  next w' s' hr =>
    have hs' : Memory.wf s'.mem := by
      split at hr
      · cases hr; exact h
      · split at hr
        · next hb => cases hr; exact homeRead_keeps.ok h hb
        · next hb => cases hr; exact homeRead_keeps.error h hb
    clear_value cl w d
    dsimp only
    split <;> simp [hs']

@[simp] theorem State.registerLater_wf {s : State} {core va : Nat} {e : L1Word} (h : Memory.wf s.mem) :
    Memory.wf (s.registerLater core va e).mem := by
  simp [State.registerLater, h]

@[simp] theorem State.registerL1_wf {s : State} {core scope : Nat} {p : Nat → L1Word → Bool} (h : Memory.wf s.mem) :
    Memory.wf (s.registerL1 core scope p).mem := by
  refine State.foldl_wf _ _ (fun u e hu => ?_) ?_
  · dsimp only
    split <;> simp [hu]
  · split <;> simp [h]

@[simp] theorem State.release_wf {s : State} {core scope rgn : Nat} (h : Memory.wf s.mem) : Memory.wf (s.release core scope rgn).mem := by
  fun_cases State.release <;> simp +zetaDelta [h]

@[simp] theorem State.flushCc_wf {s : State} {core scope rgn : Nat} (h : Memory.wf s.mem) : Memory.wf (s.flushCc core scope rgn).mem := by
  simp [State.flushCc, h]

@[simp] theorem State.fenceAliases_wf {s : State} {core : Nat} (h : Memory.wf s.mem) : Memory.wf (s.fenceAliases core).mem :=
  State.foldl_wf _ _ (fun _ _ hu => by simp [hu]) h

/-! ### Tile -/

theorem hdrFault_keeps {α : Type} {code : Nat} {tval : Word} : Keeps (hdrFault code tval : Acc α) := by
  mvcgen [hdrFault]

theorem hdrCheck_keeps {w : Who} {base : Word} {m : Mark} : Keeps (hdrCheck w base m) := by
  mvcgen [hdrCheck, readMem_keeps, hdrFault_keeps]

/-! ### Operands -/

@[simp] theorem State.putReg_wf {w : Nat} {s : State} {rd : BitVec w} {x : Word} {len lat : Nat} (h : Memory.wf s.mem) :
    NextWf (s.putReg rd x len lat) := by
  simp [State.putReg, h]

@[simp] theorem State.putOx_wf {s : State} {n : BitVec 3} {x : Word} (h : Memory.wf s.mem) : NextWf (s.putOx n x) := by
  simp [State.putOx, h]

@[simp] theorem State.branch_wf {s : State} {c : Bool} {disp : Word} {len : Nat} (h : Memory.wf s.mem) :
    NextWf (s.branch c disp len) := by
  simp [State.branch, h]

@[simp] theorem State.link_wf {w : Nat} {s : State} {rd : BitVec w} {target : Word} {len : Nat} (h : Memory.wf s.mem) :
    NextWf (s.link rd target len) := by
  simp [State.link, h]

/-! ### Flags -/

@[simp] theorem State.putFp_wf {w : Nat} {s : State} {rd : BitVec w} {r : Nat × Nat} {lat : Nat} (h : Memory.wf s.mem) :
    NextWf (s.putFp rd r lat) := by
  simp [State.putFp, h]

/-! ### Trace -/

@[simp] theorem State.traceRecord_wf {s : State} {sid kind : Nat} {mark : Word} (h : Memory.wf s.mem) :
    Memory.wf (s.traceRecord sid kind mark).mem := by
  simp only [State.traceRecord]
  split
  · simpa
  · simp only [State.modDie_mem]
    exact State.foldl_wf _ _ (fun _ _ => State.arriveHome_wf) (by simp [h])

@[simp] theorem State.stopStrand_wf {s : State} {sid idx : Nat} {setter : Nat} (h : Memory.wf s.mem) :
    Memory.wf (s.stopStrand sid idx setter).mem := by
  simp [State.stopStrand, h]

theorem State.stopIfArmed_wf {s : State} {sid : Nat} {u : State} (h : Memory.wf s.mem) (hu : s.stopIfArmed sid = some u) :
    Memory.wf u.mem := by
  revert hu
  fun_cases State.stopIfArmed
  · rintro ⟨⟩; exact State.stopStrand_wf h
  · simp

/-! ### LoadStore -/

theorem loadReg_keeps {w : Nat} {rd : BitVec w} {ea : Word} {n : Nat} {ext : Nat → Word} {len : Nat} :
    Keeps (loadReg rd ea n ext len) := by
  mvcgen [loadReg, access_keeps, look, doneWith_keeps, readMem_keeps, change]
  simp +zetaDelta [*]

theorem storeReg_keeps {ea x : Word} {n len : Nat} : Keeps (storeReg ea x n len) := by
  mvcgen [storeReg, done_keeps, writeMem_keeps, access_keeps, change]
  simp +zetaDelta [*]

/-! ### Control -/

@[simp] theorem execCJr_wf {ga : BitVec 5} {s : State} (h : Memory.wf s.mem) : NextWf (execCJr ga s) := by
  simp [execCJr, h]

@[simp] theorem execBrk_wf {rs1 : BitVec 6} {s : State} (h : Memory.wf s.mem) : NextWf (execBrk rs1 s) := by
  refine runAct_wf ?_ h
  mvcgen [waitUntil_keeps, change, trap_keeps]
  simp +zetaDelta [*]

@[simp] theorem execRett_wf {s : State} (h : Memory.wf s.mem) : NextWf (execRett s) := by
  refine runAct_wf ?_ h
  mvcgen [needSupervisor_keeps, change]

@[simp] theorem execWaiti_wf {s : State} (h : Memory.wf s.mem) : NextWf (execWaiti s) := by
  refine runAct_wf ?_ h
  mvcgen [done_keeps, needSupervisor_keeps, change]
  simp +zetaDelta [*]

@[simp] theorem execHalt_wf {s : State} (h : Memory.wf s.mem) : NextWf (execHalt s) := by
  refine runAct_wf ?_ h
  mvcgen [done_keeps, waitUntil_keeps, needSupervisor_keeps, change]
  simp +zetaDelta [*]

@[simp] theorem execIpi_wf {rs1 rs2 : BitVec 6} {s : State} (h : Memory.wf s.mem) : NextWf (execIpi rs1 rs2 s) := by
  refine runAct_wf ?_ h
  mvcgen [done_keeps, waitUntil_keeps, needSupervisor_keeps, change, trap_keeps]

@[simp] theorem execFenceI_wf {s : State} (h : Memory.wf s.mem) : NextWf (execFenceI s) := by
  refine runAct_wf ?_ h
  mvcgen [done_keeps, waitUntil_keeps, change]

/-! ### Waits -/

theorem State.orStop_wf {s : State} {sid : Nat} {f : State → State} (h : Memory.wf s.mem) (hf : Memory.wf (f s).mem) :
    Memory.wf (s.orStop sid f).mem := by
  fun_cases State.orStop
  · next hu => exact State.stopIfArmed_wf h hu
  · exact hf

theorem State.takeAsync_wf {s : State} {sid : Nat} {u : State} (h : Memory.wf s.mem) (hu : s.takeAsync sid = some u) :
    Memory.wf u.mem := by
  revert hu
  fun_cases State.takeAsync
  case case4 => rintro ⟨⟩; exact State.orStop_wf h (by simpa)
  case case5 => rintro ⟨⟩; simp +zetaDelta [h]
  case case6 => rintro ⟨⟩; exact State.orStop_wf h (by simpa)
  all_goals simp

@[simp] theorem State.vectorFault_wf {s : State} {sid detail code : Nat} {tval : Word} {velem : Nat} (h : Memory.wf s.mem) :
    Memory.wf (s.vectorFault sid detail code tval velem).mem := by
  fun_cases State.vectorFault
  case case2 u hu =>
    split at hu
    · exact State.stopIfArmed_wf (by split <;> simpa) hu
    · simp at hu
  all_goals simp +zetaDelta [h]

/-! ### Fetch -/

theorem fetchHalf_keeps {w : Who} {a : Nat} : Keeps (fetchHalf w a) := by
  mvcgen [fetchHalf, checkRights_keeps, loadBytes_keeps, placeAt_keeps, mayEnter_keeps]

theorem fetchAt_keeps {ea : Word} : Keeps (fetchAt ea) := by
  refine Keeps.get_bind fun s hs => ?_
  split
  · next hr =>
    have := fetchHalf_keeps.ok hs hr
    mvcgen
  · next hr =>
    have := fetchHalf_keeps.error hs hr
    mvcgen [stall_keeps, change, endHere_keeps, failed_keeps]
    simp +zetaDelta [*]

theorem fetchWord_keeps : Keeps fetchWord := by
  mvcgen [fetchWord, look, fetchAt_keeps]

/-! ### VecSeq -/

theorem checkVhold_keeps {i : Instr} : Keeps (checkVhold i) := by
  mvcgen [checkVhold, trap_keeps]

theorem enqueue_keeps {i : Instr} {g1 g2 : Word} {lf : BitVec 8} : Keeps (enqueue i g1 g2 lf) := by
  mvcgen [enqueue, issueWhen_keeps, checkVhold_keeps, change]

@[simp] theorem State.setvlDone_wf {s : State} {sid rd grant vl mvl : Nat} (h : Memory.wf s.mem) :
    Memory.wf (s.setvlDone sid rd grant vl mvl).mem := by
  simp [State.setvlDone, h]

@[simp] theorem State.setvlWith_wf {s : State} {sid rd avl eb grant : Nat} (h : Memory.wf s.mem) :
    Memory.wf (s.setvlWith sid rd avl eb grant).mem := by
  simp [State.setvlWith, h]

@[simp] theorem State.setvlTake_wf {s : State} {sid rd avl eb : Nat} (h : Memory.wf s.mem) :
    Memory.wf (s.setvlTake sid rd avl eb).mem := by
  fun_cases State.setvlTake <;> simp [h]

@[simp] theorem State.setmvlTake_wf {s : State} {sid rd avl eb : Nat} (h : Memory.wf s.mem) :
    Memory.wf (s.setmvlTake sid rd avl eb).mem := by
  fun_cases State.setmvlTake <;> simp +zetaDelta [h]

@[simp] theorem execSetvl_wf {rd rs1 : BitVec 6} {efmt : BitVec 8} {s : State} (h : Memory.wf s.mem) :
    NextWf (execSetvl rd rs1 efmt s) := by
  refine runAct_wf ?_ h
  mvcgen [issueWhen_keeps, checkVhold_keeps, change]
  simp +zetaDelta [*]

@[simp] theorem execSetmvl_wf {rd rs1 : BitVec 6} {efmt : BitVec 8} {s : State} (h : Memory.wf s.mem) :
    NextWf (execSetmvl rd rs1 efmt s) := by
  refine runAct_wf ?_ h
  mvcgen [issueWhen_keeps, checkVhold_keeps, change]
  simp +zetaDelta [*]

@[simp] theorem State.stripStop_wf {s0 s : State} {sid : Nat} (h : Memory.wf s.mem) : Memory.wf (State.stripStop s0 s sid).mem := by
  fun_cases State.stripStop <;> simp [h]

@[simp] theorem State.grantHead_wf {s : State} {cl : Nat} (h : Memory.wf s.mem) : Memory.wf (s.grantHead cl).mem := by
  fun_cases State.grantHead <;> simp +zetaDelta [h]

@[simp] theorem execLaneGrant_wf {cluster : Nat} {s : State} (h : Memory.wf s.mem) : NextWf (execLaneGrant cluster s) := by
  simp [execLaneGrant, h]

theorem vecFault_keeps {α : Type} {code n : Nat} : Keeps (vecFault code n : VAct α) := by
  mvcgen [vecFault]

theorem State.stepEntry_wf {s : State} {sid : Nat} {perform : VEntry → VAct Unit} (h : Memory.wf s.mem)
    (hp : ∀ e, Keeps (perform e)) : Memory.wf (s.stepEntry sid perform).mem := by
  fun_cases State.stepEntry
  case case5 hr => simpa using (hp _).ok h hr
  case case6 hr => exact State.vectorFault_wf ((hp _).error h hr)
  case case7 hr => simpa using (hp _).error h hr
  case case8 hr => exact (hp _).error h hr
  all_goals simp +zetaDelta [h]

/-! ### VecMem -/

theorem elemAccess_keeps {α : Type} {sid : Nat} {ea : Word} {kind elem again : Nat} {a : Who → Acc α} (ha : ∀ w, Keeps (a w)) :
    Keeps (elemAccess sid ea kind elem again a) := by
  refine Keeps.get_bind fun s hs => ?_
  split
  · next hr =>
    have := (ha _).ok hs hr
    mvcgen
  · next hr =>
    have := (ha _).error hs hr
    mvcgen

theorem forElems_keeps {is : List Nat} {f : Nat → VAct Unit} (hf : ∀ i, Keeps (f i)) : Keeps (forElems is f) := by
  induction is with
  | nil => mvcgen [forElems]
  | cons i r ih => mvcgen [forElems, hf, ih]

theorem loadElem_keeps {sid vd esz i : Nat} {ea : Word} {m : Mark} : Keeps (loadElem sid vd esz i ea m) := by
  mvcgen [loadElem, elemAccess_keeps, readMem_keeps]
  simp +zetaDelta [*]

theorem storeElem_keeps {sid vd esz i : Nat} {ea : Word} {m : Mark} : Keeps (storeElem sid vd esz i ea m) := by
  mvcgen [storeElem, writeMem_keeps, elemAccess_keeps]
  simp +zetaDelta [*]

theorem regFault_keeps {α : Type} {code n : Nat} : Keeps (regFault code n : VAct α) := by
  mvcgen [regFault, vecFault_keeps]

theorem checkRegs_keeps {sid : Nat} {e : VEntry} {data : Nat} {idx : Option Nat} : Keeps (checkRegs sid e data idx) := by
  mvcgen [checkRegs, regFault_keeps]

theorem vecLoad_keeps {sid : Nat} {e : VEntry} {f : VForm} {vd mask : Nat} : Keeps (vecLoad sid e f vd mask) := by
  mvcgen [vecLoad, checkRegs_keeps, forElems_keeps, loadElem_keeps]

theorem vecStore_keeps {sid : Nat} {e : VEntry} {f : VForm} {vd mask : Nat} : Keeps (vecStore sid e f vd mask) := by
  mvcgen [vecStore, checkRegs_keeps, forElems_keeps, storeElem_keeps]

theorem checkSlice_keeps {e : VEntry} : Keeps (checkSlice e) := by
  mvcgen [checkSlice]

theorem vecLoadSlice_keeps {sid : Nat} {e : VEntry} {vd mask : Nat} : Keeps (vecLoadSlice sid e vd mask) := by
  mvcgen [vecLoadSlice, checkRegs_keeps, checkSlice_keeps, forElems_keeps]

theorem vecStoreSlice_keeps {sid : Nat} {e : VEntry} {vd mask : Nat} : Keeps (vecStoreSlice sid e vd mask) := by
  mvcgen [vecStoreSlice, checkRegs_keeps, checkSlice_keeps, forElems_keeps]

theorem indexGroup_keeps {sid : Nat} {h : TileHdr} {line g : Nat} : Keeps (indexGroup sid h line g) := by
  refine Keeps.get_bind fun s hs => ?_
  extract_lets
  rename_i both
  have hboth : ∀ w, Keeps (both w) := fun w => by mvcgen [both, readMem_keeps]
  clear_value both
  split
  · next hr =>
    have := (hboth _).ok hs hr
    mvcgen
    simpa
  · split
    · mvcgen [elemAccess_keeps, readMem_keeps, hboth]
    · exact elemAccess_keeps hboth

theorem tileSnapshot_keeps {sid : Nat} {e : VEntry} : Keeps (tileSnapshot sid e) := by
  mvcgen [tileSnapshot, hdrCheck_keeps, elemAccess_keeps]
  simp +zetaDelta [*]

theorem vecLoadTile_keeps {sid : Nat} {e : VEntry} {vd kx : Nat} : Keeps (vecLoadTile sid e vd kx) := by
  mvcgen [vecLoadTile, indexGroup_keeps, tileSnapshot_keeps, forElems_keeps, loadElem_keeps]

theorem vecStoreTile_keeps {sid : Nat} {e : VEntry} {vd : Nat} : Keeps (vecStoreTile sid e vd) := by
  mvcgen [vecStoreTile, regFault_keeps, writeMem_keeps, checkRegs_keeps, elemAccess_keeps, forElems_keeps, storeElem_keeps]
  simp +zetaDelta [*]

theorem vecLoadChunk_keeps {sid : Nat} {e : VEntry} {vd kc : Nat} : Keeps (vecLoadChunk sid e vd kc) := by
  mvcgen [vecLoadChunk, checkRegs_keeps, forElems_keeps, loadElem_keeps]
  simp +zetaDelta [*]

theorem vecPrefetch_keeps {sid : Nat} {e : VEntry} {level : Nat} : Keeps (vecPrefetch sid e level) := by
  mvcgen [vecPrefetch]
  refine State.foldl_wf _ _ (fun u a hu => ?_) ‹_›
  dsimp only
  split
  · next hr =>
    refine (congrArg Memory.wf (State.modCore_mem _ _ _)).trans (Keeps.ok (Keeps.bind placeAt_keeps fun p => ?_) hu hr)
    split
    · exact checkRights_keeps
    · mvcgen
  · exact hu

theorem atomicAt_keeps {w : Who} {ea : Word} {n op : Nat} {uns : Bool} {x : Nat} : Keeps (atomicAt w ea n op uns x) := by
  mvcgen [atomicAt, canMark_keeps, homeRead_keeps, markPage_keeps, slotGate_keeps, loadBytes_keeps, translate_keeps, storeBytes_keeps,
    checkAccess_keeps]
  simp +zetaDelta [*]

@[simp] theorem State.markBack_wf {s : State} {w : Who} {ea : Nat} (h : Memory.wf s.mem) : Memory.wf (s.markBack w ea).mem := by
  fun_cases State.markBack
  case case2 hr => exact touch_keeps.ok h hr
  all_goals exact h

theorem amoElem_keeps {sid : Nat} {ea : Word} {i n op : Nat} {uns : Bool} {x : Nat} : Keeps (amoElem sid ea i n op uns x) := by
  mvcgen [amoElem, elemAccess_keeps, atomicAt_keeps]
  simp +zetaDelta [*]

theorem vecAmo_keeps {sid : Nat} {e : VEntry} {vd idx mask : Nat} {uns : Bool} {op : Nat} : Keeps (vecAmo sid e vd idx mask uns op) := by
  mvcgen [vecAmo, regFault_keeps, checkRegs_keeps, amoElem_keeps, forElems_keeps]
  simp +zetaDelta [*]

theorem sendUpdate_keeps {w : Who} {ea : Word} {n op efmt : Nat} {uns : Bool} {x : Nat} : Keeps (sendUpdate w ea n op efmt uns x) := by
  mvcgen [sendUpdate, loadBytes_keeps, translate_keeps, storeBytes_keeps, checkAccess_keeps]

theorem vecRdm_keeps {sid : Nat} {e : VEntry} {vd idx mask : Nat} {uns : Bool} {op : Nat} : Keeps (vecRdm sid e vd idx mask uns op) := by
  mvcgen [vecRdm, regFault_keeps, sendUpdate_keeps, checkRegs_keeps, elemAccess_keeps, forElems_keeps]
  simp +zetaDelta [*]

@[simp] theorem State.applyAtHome_wf {s : State} {u : Update} (h : Memory.wf s.mem) : Memory.wf (s.applyAtHome u).mem := by
  simp only [State.applyAtHome, State.registerHome_mem]
  refine State.homePut_wf (State.restamp_wf ?_)
  split
  · next hr => exact homeRead_keeps.ok h hr
  · next hr => exact homeRead_keeps.error h hr

@[simp] theorem State.applyUpdate_wf {s : State} {u : Update} (h : Memory.wf s.mem) : Memory.wf (s.applyUpdate u).mem := by
  fun_cases State.applyUpdate <;> simp [h]

@[simp] theorem execVamoVrdmElementAtHome_wf {idx : Nat} {s : State} (h : Memory.wf s.mem) :
    NextWf (execVamoVrdmElementAtHome idx s) := by
  fun_cases execVamoVrdmElementAtHome <;> simp [h]

theorem vecFence_keeps {sid : Nat} : Keeps (vecFence sid) := by
  mvcgen [vecFence]

theorem memEntry_keeps {sid : Nat} {e : VEntry} : Keeps (memEntry sid e) := by
  unfold memEntry
  cases e.ins with
  | vld | vlds | vldx => exact vecLoad_keeps
  | vldSl => exact vecLoadSlice_keeps
  | vst | vsts | vstx => exact vecStore_keeps
  | vstSl => exact vecStoreSlice_keeps
  | vldt => exact vecLoadTile_keeps
  | vstt => exact vecStoreTile_keeps
  | vldc => exact vecLoadChunk_keeps
  | vpf => exact vecPrefetch_keeps
  | vamo => exact vecAmo_keeps
  | vrdm => exact vecRdm_keeps
  | fenceVs | fenceVv => exact vecFence_keeps
  | _ => exact Keeps.pure _

theorem performEntry_keeps {sid : Nat} {e : VEntry} : Keeps (performEntry sid e) := by
  mvcgen [performEntry, vecFault_keeps, memEntry_keeps] <;> simp +zetaDelta [*]

@[simp] theorem execVectorEntryComplete_wf {core slot : Nat} {s : State} (h : Memory.wf s.mem) :
    NextWf (execVectorEntryComplete core slot s) :=
  (nextWf_next _).2 (State.stepEntry_wf h fun _ => performEntry_keeps)

@[simp] theorem execEptimeout_wf {core slot : Nat} {s : State} (h : Memory.wf s.mem) : NextWf (execEptimeout core slot s) := by
  fun_cases execEptimeout <;> simp [h]

/-! ### Mmu -/

theorem illegalWord_keeps {α : Type} {w : Word} : Keeps (illegalWord w : Act α) := by
  mvcgen [illegalWord, trap_keeps]

theorem ecSupervisor_keeps {w : Word} : Keeps (ecSupervisor w) := by
  mvcgen [ecSupervisor, illegalWord_keeps]

theorem ecMonitor_keeps {w : Word} : Keeps (ecMonitor w) := by
  mvcgen [ecMonitor, illegalWord_keeps]

@[simp] theorem State.tlbInvalidate_wf {s : State} {base len core : Nat} (h : Memory.wf s.mem) :
    Memory.wf (s.tlbInvalidate base len core).mem := by
  simp [State.tlbInvalidate, h]

@[simp] theorem execPlbinv_wf {a : BitVec 5} {s : State} (h : Memory.wf s.mem) : NextWf (execPlbinv a s) := by
  refine runAct_wf ?_ h
  mvcgen [ecSupervisor_keeps, trap_keeps, waitUntil_keeps, change, done_keeps]
  exact State.foldl_wf _ _ (fun _ _ hu => by simpa) ‹_›

@[simp] theorem execTlbinv_wf {b a : BitVec 5} {s : State} (h : Memory.wf s.mem) : NextWf (execTlbinv b a s) := by
  refine runAct_wf ?_ h
  mvcgen [ecSupervisor_keeps, trap_keeps, waitUntil_keeps, change, done_keeps, flyUntil_keeps]
  exact State.foldl_wf _ _ (fun _ _ hu => by simp [hu]) ‹_›

@[simp] theorem execPgwake_wf {c a : BitVec 5} {s : State} (h : Memory.wf s.mem) : NextWf (execPgwake c a s) := by
  refine runAct_wf ?_ h
  mvcgen [doneWith_keeps, ecSupervisor_keeps, trap_keeps]
  simp +zetaDelta [*]

@[simp] theorem execPgqry_wf {c a : BitVec 5} {s : State} (h : Memory.wf s.mem) : NextWf (execPgqry c a s) := by
  refine runAct_wf ?_ h
  mvcgen [access_keeps, doneWith_keeps, ecSupervisor_keeps, trap_keeps, walk_keeps]

theorem leavesOf_keeps {core fuel va stop : Nat} : Keeps (leavesOf core fuel va stop) := by
  induction fuel generalizing va with
  | zero => exact Keeps.pure _
  | succ n ih => mvcgen [leavesOf, walk_keeps, ih]

@[simp] theorem State.pinLeaf_wf {s : State} {core : Nat} {pin : Bool} {l : Nat × Nat × Nat × Nat} (h : Memory.wf s.mem) :
    Memory.wf (s.pinLeaf core pin l).mem := by
  cases pin <;> simp [State.pinLeaf, h]

@[simp] theorem execPgpin_wf {c b a : BitVec 5} {s : State} (h : Memory.wf s.mem) : NextWf (execPgpin c b a s) := by
  refine runAct_wf ?_ h
  mvcgen [ecSupervisor_keeps, trap_keeps, access_keeps, leavesOf_keeps, change, doneWith_keeps]
  exact State.foldl_wf _ _ (fun _ _ hu => State.pinLeaf_wf hu) ‹_›

@[simp] theorem execPlbFill_wf {core pd : Nat} {s : State} (h : Memory.wf s.mem) : NextWf (execPlbFill core pd s) := by
  unfold execPlbFill
  dsimp only
  split
  · simpa
  · split
    · next hr => simpa using plbFill_keeps.ok h hr
    · next hr => simpa using plbFill_keeps.error h hr

@[simp] theorem State.endWalk_wf {s : State} {cluster : Nat} {q : WalkReq} {r : WalkRes} (h : Memory.wf s.mem) :
    Memory.wf (s.endWalk cluster q r).mem := by
  unfold State.endWalk
  dsimp only
  split
  · exact State.foldl_wf _ _ (fun u o hu => by simp [hu]) (by simp [h])
  · simpa

@[simp] theorem execWalkComplete_wf {cluster : Nat} {s : State} (h : Memory.wf s.mem) : NextWf (execWalkComplete cluster s) := by
  unfold execWalkComplete
  have hd : Memory.wf s.draw.2.mem := h
  generalize s.draw = q at hd ⊢
  obtain ⟨x, u⟩ := q
  dsimp only at hd ⊢
  split
  · exact (nextWf_next _).2 hd
  · split
    · next hr => simpa using State.endWalk_wf (walk_keeps.ok hd hr)
    · next hr => simpa using State.endWalk_wf (walk_keeps.error hd hr)
    · next hr => simpa using State.endWalk_wf (walk_keeps.error hd hr)

@[simp] theorem State.ringWrite_wf {s : State} {core : Nat} {r : FaultRec} (h : Memory.wf s.mem) :
    Memory.wf (s.ringWrite core r).mem := by
  simp only [State.ringWrite, State.modCore_mem]
  exact State.foldl_wf _ _ (fun _ _ => State.arriveHome_wf) (by simp [h])

@[simp] theorem execFaultRecordWrite_wf {core : Nat} {s : State} (h : Memory.wf s.mem) : NextWf (execFaultRecordWrite core s) := by
  fun_cases execFaultRecordWrite <;> simp [h]

@[simp] theorem execInterruptEntry_wf {core slot : Nat} {s : State} (h : Memory.wf s.mem) : NextWf (execInterruptEntry core slot s) := by
  unfold execInterruptEntry
  dsimp only
  split
  · split
    · next hs => simpa [State.takeInterrupt_mem _ _ _ hs]
    · simpa
  · simpa

@[simp] theorem execTimerInterrupt_wf {core slot : Nat} {s : State} (h : Memory.wf s.mem) : NextWf (execTimerInterrupt core slot s) := by
  fun_cases execTimerInterrupt <;> simp [h]

/-- Taking an asynchronous fault, where one can be taken. -/
theorem takeAsync_nextWf {s : State} {sid : Nat} (h : Memory.wf s.mem) :
    NextWf (match s.takeAsync sid with | some s' => .next s' | none => .next s) := by
  split
  · next hs => simpa using State.takeAsync_wf h hs
  · simpa

@[simp] theorem execAsyncFaultTrap_wf {core slot : Nat} {s : State} (h : Memory.wf s.mem) : NextWf (execAsyncFaultTrap core slot s) := by
  unfold execAsyncFaultTrap
  dsimp only
  split
  · exact takeAsync_nextWf h
  · exact takeAsync_nextWf h
  · simpa

@[simp] theorem execAsyncPageFaultDrop_wf {core slot : Nat} {s : State} (h : Memory.wf s.mem) :
    NextWf (execAsyncPageFaultDrop core slot s) := by
  unfold execAsyncPageFaultDrop
  dsimp only
  split
  · exact takeAsync_nextWf h
  · simpa

/-! ### Net -/

@[simp] theorem execPacketRoute_wf {pkt : Nat} {s : State} (h : Memory.wf s.mem) : NextWf (execPacketRoute pkt s) := by
  simp [execPacketRoute, h]

@[simp] theorem execEscapeChannelMove_wf {pkt : Nat} {s : State} (h : Memory.wf s.mem) : NextWf (execEscapeChannelMove pkt s) := by
  fun_cases execEscapeChannelMove <;> simp [h]

/-! ### Message -/

@[simp] theorem execAmsend_wf {c b : BitVec 5} {oxb : BitVec 3} {s : State} (h : Memory.wf s.mem) : NextWf (execAmsend c b oxb s) := by
  refine runAct_wf ?_ h
  mvcgen [change, trap_keeps]
  simp +zetaDelta [*]

@[simp] theorem execAmret_wf {s : State} (h : Memory.wf s.mem) : NextWf (execAmret s) := by
  refine runAct_wf ?_ h
  mvcgen [done_keeps, illegal_keeps, waitUntil_keeps, change]
  simp +zetaDelta [*]

@[simp] theorem execAmArrival_wf {pkt : Nat} {s : State} (h : Memory.wf s.mem) : NextWf (execAmArrival pkt s) := by
  fun_cases execAmArrival <;> simp +zetaDelta [h]
  split <;> simp [h]

theorem amEntry_keeps {w : Who} {base : Word} {index : Nat} : Keeps (amEntry w base index) := by
  mvcgen [amEntry, loadWord_keeps]

@[simp] theorem execAmHandlerStart_wf {core : Nat} {s : State} (h : Memory.wf s.mem) : NextWf (execAmHandlerStart core s) := by
  unfold execAmHandlerStart
  dsimp only
  split
  · simpa
  · split
    · simpa
    · split
      · simpa
      · split
        · next hr => split <;> simpa using amEntry_keeps.ok h hr
        · next hr => simpa using amEntry_keeps.error h hr
        · next hr => simpa using amEntry_keeps.error h hr
        · next hr => simpa using amEntry_keeps.error h hr

@[simp] theorem execMsgSwitchArrival_wf {pkt : Nat} {s : State} (h : Memory.wf s.mem) : NextWf (execMsgSwitchArrival pkt s) := by
  fun_cases execMsgSwitchArrival <;> simp [h]

@[simp] theorem execUalinkMessageReceive_wf {port : Nat} {data : List Byte} {s : State} (h : Memory.wf s.mem) :
    NextWf (execUalinkMessageReceive port data s) := by
  fun_cases execUalinkMessageReceive
  case case4 hf _ => cases hf; simpa
  all_goals simp +zetaDelta [h]

@[simp] theorem execUalinkRemoteRequest_wf {port : Nat} {s : State} (h : Memory.wf s.mem) : NextWf (execUalinkRemoteRequest port s) := by
  fun_cases execUalinkRemoteRequest <;> simp [h]

/-! ### Order -/

@[simp] theorem execAcq_wf {scope : BitVec 2} {region : BitVec 12} {s : State} (h : Memory.wf s.mem) :
    NextWf (execAcq scope region s) := by
  refine runAct_wf ?_ h
  mvcgen [waitUntil_keeps, change]
  simp +zetaDelta [*]

theorem relWith_keeps {scope rgn : Nat} {register : State → State} (hr : ∀ s, Memory.wf s.mem → Memory.wf (register s).mem) :
    Keeps (relWith scope rgn register) := by
  mvcgen [relWith, look, waitUntil_keeps, change, flyUntil_keeps]
  exact hr _ ‹_›

theorem relAct_keeps {scope rgn : Nat} : Keeps (relAct scope rgn) := relWith_keeps fun _ => State.release_wf

@[simp] theorem execRel_wf {scope : BitVec 2} {region : BitVec 12} {s : State} (h : Memory.wf s.mem) :
    NextWf (execRel scope region s) := by
  refine runAct_wf ?_ h
  mvcgen [done_keeps, relAct_keeps]

@[simp] theorem execFlushr_wf {scope : BitVec 2} {region : BitVec 12} {s : State} (h : Memory.wf s.mem) :
    NextWf (execFlushr scope region s) :=
  runAct_wf (Keeps.bind (relWith_keeps fun _ hu => State.flushCc_wf (State.release_wf hu)) fun _ => done_keeps) h

@[simp] theorem execFenceA_wf {s : State} (h : Memory.wf s.mem) : NextWf (execFenceA s) := by
  refine runAct_wf ?_ h
  mvcgen [done_keeps, waitUntil_keeps, change]
  simp +zetaDelta [*]

@[simp] theorem State.registerWord_wf {s : State} {core pa : Nat} (h : Memory.wf s.mem) : Memory.wf (s.registerWord core pa).mem := by
  simp [State.registerWord, h]

@[simp] theorem State.announce_wf {s : State} {sid op : Nat} {ea : Word} {pa rd : Nat} {data : Word} {rid key : Nat}
    (h : Memory.wf s.mem) :
    Memory.wf (s.announce sid op ea pa rd data rid key).mem := by
  simp [State.announce, h]

theorem scAct_keeps {op rd : Nat} {ea data : Word} {need : Need} : Keeps (scAct op rd ea data need) := by
  mvcgen [scAct, checkRights_keeps, waitUntil_keeps, access_keeps, translate_keeps, change, trap_keeps]
  simp +zetaDelta [*]

theorem State.scRead_wf {s t : State} {o : ScOp} (h : Memory.wf s.mem) :
    (∀ {x}, s.scRead o = .ok x t → Memory.wf t.mem) ∧ (∀ {e}, s.scRead o = .error e t → Memory.wf t.mem) := by
  fun_cases State.scRead
  · exact ⟨by rintro _ ⟨⟩; exact h, by rintro _ ⟨⟩⟩
  · next hr => exact ⟨by rintro _ ⟨⟩; exact homeRead_keeps.ok h hr, by rintro _ ⟨⟩⟩
  · next hr => exact ⟨by rintro _ ⟨⟩, by rintro _ ⟨⟩; exact homeRead_keeps.error h hr⟩

@[simp] theorem State.scWrite_wf {s : State} {o : ScOp} (h : Memory.wf s.mem) : Memory.wf (s.scWrite o).mem := by
  fun_cases State.scWrite <;> simp +zetaDelta [h]

@[simp] theorem State.performSc_wf {s : State} {o : ScOp} (h : Memory.wf s.mem) : Memory.wf (s.performSc o).mem := by
  fun_cases State.performSc
  case case1 => simp +zetaDelta [h]
  case case2 hr =>
    have := (State.scRead_wf (by simpa)).1 hr
    split <;> simp [this]
  case case3 hr =>
    have := (State.scRead_wf (by simpa)).2 hr
    exact State.orStop_wf this (by simpa)

@[simp] theorem State.deliverWindow_wf {s : State} (h : Memory.wf s.mem) : Memory.wf s.deliverWindow.mem := by
  fun_cases State.deliverWindow
  case case3 => exact State.foldl_wf _ _ (fun _ _ => State.performSc_wf) h
  all_goals exact h

@[simp] theorem execScWindowDeliver_wf {s : State} (h : Memory.wf s.mem) : NextWf (execScWindowDeliver s) := by
  simp [execScWindowDeliver, h]

@[simp] theorem State.atomicHome_wf {s : State} {sid pa key : Nat} {ea : Word} {op : Nat} {wide : Bool} {b c v : Word}
    (h : Memory.wf s.mem) :
    Memory.wf (s.atomicHome sid pa key ea op wide b c v).2.mem := by
  fun_cases State.atomicHome <;> simp +zetaDelta [h]

@[simp] theorem State.atomicAtHome_wf {s : State} {sid pa key : Nat} {ea : Word} {rd op : Nat} {wide : Bool} {b c : Word} (h : Memory.wf s.mem) :
    Memory.wf (s.atomicAtHome sid pa key ea rd op wide b c).mem := by
  unfold State.atomicAtHome
  split
  · next hr => exact State.orStop_wf (homeRead_keeps.error h hr) (by simpa using homeRead_keeps.error h hr)
  · next hr => simpa using State.atomicHome_wf (homeRead_keeps.ok h hr)

@[simp] theorem State.vamoAtHome_wf {s : State} {sid pa key tenant n op : Nat} {uns : Bool} {x : Nat} (h : Memory.wf s.mem) :
    Memory.wf (s.vamoAtHome sid pa key tenant n op uns x).mem := by
  fun_cases State.vamoAtHome
  case case1 => exact h
  case case2 hr => simpa using homeRead_keeps.error h hr
  case case3 hr _ => simpa +zetaDelta using State.homePut_wf (homeRead_keeps.ok h hr)

@[simp] theorem State.copyWord_wf {s : State} {pa : Nat} {data : Word} {owner : Option Nat} {key tenant : Nat} (h : Memory.wf s.mem) :
    Memory.wf (s.copyWord pa data owner key tenant).mem := by
  fun_cases State.copyWord <;> simp +zetaDelta [h]

@[simp] theorem State.performPending_wf {s : State} {p : PendReg} (h : Memory.wf s.mem) : Memory.wf (s.performPending p).mem := by
  fun_cases State.performPending
  case case2 => exact State.foldl_wf _ _ (fun _ _ => State.copyWord_wf) (State.clearCovered_wf h)
  all_goals simp +zetaDelta [h]

@[simp] theorem State.serveFirst_wf {fuel : Nat} {s : State} {pa : Nat} (h : Memory.wf s.mem) :
    Memory.wf (State.serveFirst fuel s pa).mem := by
  induction fuel generalizing s with
  | zero => exact h
  | succ n ih =>
    unfold State.serveFirst
    split
    · exact h
    · split
      · exact h
      · exact ih (State.performPending_wf h)

@[simp] theorem State.servePending_wf {s : State} {pa : Nat} (h : Memory.wf s.mem) : Memory.wf (s.servePending pa).mem := by
  simp [State.servePending, h]

@[simp] theorem execRegistration_wf {idx : Nat} {s : State} (h : Memory.wf s.mem) : NextWf (execRegistration idx s) := by
  fun_cases execRegistration <;> simp [h]

@[simp] theorem execRevocationNotice_wf {idx : Nat} {s : State} (h : Memory.wf s.mem) : NextWf (execRevocationNotice idx s) := by
  fun_cases execRevocationNotice <;> simp [h]

theorem fillLine_keeps {w : Who} {va level : Nat} : Keeps (fillLine w va level) := by
  refine forM_keeps fun i => Keeps.bind translate_keeps fun t => Keeps.get_bind fun s hs => Keeps.ite (Keeps.ite (Keeps.pure _) ?_) ?_
  · exact discard_keeps fillWord_keeps
  · exact Keeps.get_bind fun u hu => discard_keeps ccWord_keeps

@[simp] theorem execHomeReadResponse_wf {core victim : Nat} {s : State} (h : Memory.wf s.mem) :
    NextWf (execHomeReadResponse core victim s) := by
  have hu : Memory.wf (if victim = 0 then s
      else if victim % 2 = 0 then s.evictL1 core (victim / 2)
      else s.evictCc (clusterOfCore core) (victim / 2)).mem := by
    (repeat' split) <;> simp [h]
  unfold execHomeReadResponse
  split
  · simpa
  · dsimp only
    generalize (if victim = 0 then s
      else if victim % 2 = 0 then s.evictL1 core (victim / 2)
      else s.evictCc (clusterOfCore core) (victim / 2)) = u at hu ⊢
    split
    · simpa
    · split
      · next hr => simpa using fillLine_keeps.error hu hr
      · next hr => simpa using fillLine_keeps.error hu hr
      · next hr => simpa using fillLine_keeps.ok hu hr

/-! ### Sync -/

@[simp] theorem State.fePerform_wf {s : State} {r : FeReq} (h : Memory.wf s.mem) : Memory.wf (s.fePerform r).2.mem := by
  fun_cases State.fePerform <;> simp [h, mwrite_wf]

@[simp] theorem State.feServe_wf {s : State} {r : FeReq} (h : Memory.wf s.mem) : Memory.wf (s.feServe r).mem := by
  unfold State.feServe
  split
  · split
    · exact State.orStop_wf h (by simpa)
    · simpa using State.fePerform_wf h
  · simpa using State.fePerform_wf h

@[simp] theorem State.feDrain_wf {fuel : Nat} {s : State} {o : Owner} {ga : Nat} (h : Memory.wf s.mem) :
    Memory.wf (State.feDrain fuel s o ga).mem := by
  induction fuel generalizing s with
  | zero => exact h
  | succ n ih =>
    unfold State.feDrain
    split
    · exact h
    · exact ih (State.feServe_wf (by simpa))

@[simp] theorem State.feAtOwner_wf {s : State} {o : Owner} {r : FeReq} (h : Memory.wf s.mem) : Memory.wf (s.feAtOwner o r).mem := by
  fun_cases State.feAtOwner <;> simp [h]

@[simp] theorem State.feSend_wf {s : State} {sid : Nat} {r : FeReq} (h : Memory.wf s.mem) : Memory.wf (s.feSend sid r).mem := by
  fun_cases State.feSend <;> simp [h]

theorem feAct_keeps {kind : FeKind} {rd : Nat} {ea data : Word} : Keeps (feAct kind rd ea data) := by
  mvcgen [feAct, checkRights_keeps, waitUntil_keeps, access_keeps, change, trap_keeps, mayEnter_keeps]
  simp +zetaDelta [*]

@[simp] theorem State.feReissue_wf {s : State} {sid : Nat} (h : Memory.wf s.mem) : Memory.wf (s.feReissue sid).mem := by
  fun_cases State.feReissue <;> simp +zetaDelta [h]

@[simp] theorem execFeAccessArrive_wf {pkt : Nat} {s : State} (h : Memory.wf s.mem) : NextWf (execFeAccessArrive pkt s) := by
  fun_cases execFeAccessArrive <;> simp [h]

@[simp] theorem State.feTrap_wf {s : State} {sid : Nat} (h : Memory.wf s.mem) : Memory.wf (s.feTrap sid).mem := by
  unfold State.feTrap
  split
  · exact State.orStop_wf h (by simpa)
  · exact h

@[simp] theorem State.feCancelAt_wf {s : State} {sid n : Nat} (h : Memory.wf s.mem) : Memory.wf (s.feCancelAt sid n).mem := by
  fun_cases State.feCancelAt <;> simp [h]

@[simp] theorem execFetimeout_wf {core slot : Nat} {s : State} (h : Memory.wf s.mem) : NextWf (execFetimeout core slot s) := by
  fun_cases execFetimeout <;> simp +zetaDelta [h]

@[simp] theorem execFeCancel_wf {pkt : Nat} {s : State} (h : Memory.wf s.mem) : NextWf (execFeCancel pkt s) := by
  fun_cases execFeCancel <;> simp [h]

@[simp] theorem State.rsvServe_wf {s : State} {sid pa key : Nat} {ea : Word} {use : RsvUse} (h : Memory.wf s.mem) :
    Memory.wf (s.rsvServe sid pa key ea use).mem := by
  unfold State.rsvServe
  split
  · exact State.atomicAtHome_wf h
  · split
    · next hr => exact State.orStop_wf (homeRead_keeps.error h hr) (by simpa using homeRead_keeps.error h hr)
    · next hr => simpa using homeRead_keeps.ok h hr

@[simp] theorem State.rsvArrive_wf {s : State} {sid pa key : Nat} {ea : Word} {use : RsvUse} (h : Memory.wf s.mem) :
    Memory.wf (s.rsvArrive sid pa key ea use).mem := by
  fun_cases State.rsvArrive <;> simp +zetaDelta [h]
  split <;> simp [h]

@[simp] theorem execRsvRequest_wf {core slot : Nat} {s : State} (h : Memory.wf s.mem) : NextWf (execRsvRequest core slot s) := by
  fun_cases execRsvRequest <;> simp [h]

@[simp] theorem execRsvGrant_wf {core slot : Nat} {s : State} (h : Memory.wf s.mem) : NextWf (execRsvGrant core slot s) := by
  fun_cases execRsvGrant <;> simp +zetaDelta [h]

@[simp] theorem execRsv_wf {rd rs1 rs2 : BitVec 6} {scope : BitVec 2} {s : State} (h : Memory.wf s.mem) :
    NextWf (execRsv rd rs1 rs2 scope s) := by
  refine runAct_wf ?_ h
  mvcgen [checkRights_keeps, waitUntil_keeps, access_keeps, translate_keeps, change, trap_keeps]
  simp +zetaDelta [*]

@[simp] theorem State.rsvRelease_wf {s : State} {sid pa : Nat} {v : Word} (h : Memory.wf s.mem) :
    Memory.wf (s.rsvRelease sid pa v).mem := by
  simp [State.rsvRelease, h]

@[simp] theorem execRls_wf {rs1 rs2 : BitVec 6} {scope : BitVec 2} {s : State} (h : Memory.wf s.mem) :
    NextWf (execRls rs1 rs2 scope s) := by
  refine runAct_wf ?_ h
  mvcgen [trap_keeps, waitUntil_keeps, relAct_keeps, change, done_keeps]
  simp +zetaDelta
  split <;> simp [*]

theorem atomicAct_keeps {op : Nat} {wide : Bool} {rd : BitVec 6} {ea b c : Word} : Keeps (atomicAct op wide rd ea b c) := by
  unfold atomicAct
  extract_lets n
  refine Keeps.bind (access_keeps fun _ => checkAccess_keeps) fun p => ?_
  split
  · refine Keeps.bind (access_keeps fun w => Keeps.bind translate_keeps fun t => Keeps.get_bind fun _ _ => Keeps.pure _) fun q => ?_
    refine Keeps.bind waitUntil_keeps fun _ => Keeps.bind (change_keeps fun _ hs => by simpa) fun _ => Keeps.get_bind fun u hu => ?_
    split
    · refine Keeps.bind (change_keeps fun _ hs => ?_) fun _ => doneWith_keeps
      split <;> simpa
    · refine change_keeps fun v hv => ?_
      dsimp only
      split <;> simp [hv]
  · refine Keeps.bind waitUntil_keeps fun _ => Keeps.bind (access_keeps fun w => Keeps.bind loadBytes_keeps fun _ => ?_) fun _ =>
      Keeps.bind (change_keeps fun _ hs => by simpa) fun _ => doneWith_keeps
    dsimp only
    split
    · exact Keeps.bind storeBytes_keeps fun _ => Keeps.pure _
    · exact Keeps.pure _

@[simp] theorem execBinit_wf {c a : BitVec 5} {s : State} (h : Memory.wf s.mem) : NextWf (execBinit c a s) := by
  refine runAct_wf ?_ h
  mvcgen [done_keeps, change, trap_keeps]
  simp +zetaDelta [*]

@[simp] theorem execBfree_wf {c : BitVec 5} {s : State} (h : Memory.wf s.mem) : NextWf (execBfree c s) := by
  refine runAct_wf ?_ h
  mvcgen [done_keeps, change]
  simp +zetaDelta [*]

@[simp] theorem execBarv_wf {c a : BitVec 5} {s : State} (h : Memory.wf s.mem) : NextWf (execBarv c a s) := by
  refine runAct_wf ?_ h
  mvcgen [waitUntil_keeps, doneWith_keeps, change]
  simp +zetaDelta [*]

@[simp] theorem execBwait_wf {c b a : BitVec 5} {s : State} (h : Memory.wf s.mem) : NextWf (execBwait c b a s) := by
  refine runAct_wf ?_ h
  mvcgen [doneWith_keeps, change]
  simp +zetaDelta [*]

@[simp] theorem execMbsend_wf {c b a : BitVec 5} {s : State} (h : Memory.wf s.mem) : NextWf (execMbsend c b a s) := by
  refine runAct_wf ?_ h
  mvcgen [access_keeps, readMem_keeps, change, trap_keeps]
  simp +zetaDelta [*]

theorem State.mbTake_wf {s : State} {sid p : Nat} {dst : Word} {rd : Nat} {u : State} (h : Memory.wf s.mem)
    (hu : s.mbTake sid p dst rd = some u) :
    Memory.wf u.mem := by
  revert hu
  fun_cases State.mbTake
  case case2 hr _ => rintro ⟨⟩; simpa +zetaDelta using writeMem_keeps.ok h hr
  all_goals simp

@[simp] theorem State.mbServe_wf {s : State} {core : Nat} (h : Memory.wf s.mem) : Memory.wf (s.mbServe core).mem := by
  refine State.foldl_wf _ _ (fun u k hu => ?_) h
  dsimp only
  split
  · split
    · exact hu
    · split
      · next hm => exact State.mbTake_wf (by simpa) hm
      · simpa
  · exact hu

@[simp] theorem execMailboxArrival_wf {pkt : Nat} {s : State} (h : Memory.wf s.mem) : NextWf (execMailboxArrival pkt s) := by
  fun_cases execMailboxArrival <;> simp +zetaDelta [h]
  split <;> simp [h]

@[simp] theorem execMbrecv_wf {c b a : BitVec 5} {s : State} (h : Memory.wf s.mem) : NextWf (execMbrecv c b a s) := by
  refine runAct_wf ?_ h
  mvcgen [access_keeps, probeStore_keeps, change]
  simp +zetaDelta
  split
  · simpa
  · split
    · next hs => exact State.mbTake_wf ‹_› hs
    · simpa

@[simp] theorem execMbpeek_wf {c b : BitVec 5} {s : State} (h : Memory.wf s.mem) : NextWf (execMbpeek c b s) := by
  refine runAct_wf ?_ h
  mvcgen [doneWith_keeps]

/-! ### Matrix -/

theorem needAcc_keeps {acc : BitVec 5} {i : Instr} : Keeps (needAcc acc i) := by
  mvcgen [needAcc, require_keeps]

theorem needEntry_keeps {acc : BitVec 5} : Keeps (needEntry acc) := by
  mvcgen [needEntry, waitUntil_keeps]

theorem queueMatrix_keeps {acc : BitVec 5} {major : Nat} {k : MKind} : Keeps (queueMatrix acc major k) := by
  mvcgen [queueMatrix, done_keeps]
  simp +zetaDelta [*]

theorem headerTrap_keeps {α : Type} {code : Nat} {ref : Word} : Keeps (headerTrap code ref : Act α) := by
  mvcgen [headerTrap, trap_keeps]

theorem mopAct_keeps {fn : Nat} {c b a : BitVec 5} {sat : BitVec 1} {i : Instr} : Keeps (mopAct fn c b a sat i) := by
  mvcgen [mopAct, needEntry_keeps, needAcc_keeps, waitUntil_keeps, queueMatrix_keeps, headerTrap_keeps]

theorem atAddr_keeps {α : Type} {ea : Word} {a : Acc α} (ha : Keeps a) : Keeps (atAddr ea a) := by
  refine Keeps.of_run fun s hs => ?_
  unfold atAddr
  split
  · next hr => exact ha.ok hs hr
  · next hr => exact ha.error hs hr

theorem accessEach_keeps {α : Type} {a : Who → EAcc α} {kind : Nat} (ha : ∀ w, Keeps (a w)) : Keeps (accessEach a kind) := by
  refine Keeps.get_bind fun s hs => ?_
  split
  · next hr =>
    have := (ha _).ok hs hr
    mvcgen
  · next hr =>
    have := (ha _).error hs hr
    mvcgen [stall_keeps, failed_keeps]

theorem mmasPlan_keeps {w : Who} {acc : Nat} {ab bb x0 x1 : Word} {sat : Bool} : Keeps (mmasPlan w acc ab bb x0 x1 sat) := by
  mvcgen [mmasPlan, hdrCheck_keeps, atAddr_keeps, hdrFault_keeps]

theorem mldPlan_keeps {w : Who} {base x0 x1 : Word} : Keeps (mldPlan w base x0 x1) := by
  mvcgen [mldPlan, hdrCheck_keeps, hdrFault_keeps]

@[simp] theorem execMmas_wf {c b a : BitVec 5} {oxb : BitVec 3} {sat : BitVec 1} {s : State} (h : Memory.wf s.mem) :
    NextWf (execMmas c b a oxb sat s) := by
  refine runAct_wf ?_ h
  mvcgen [needEntry_keeps, needAcc_keeps, queueMatrix_keeps, accessEach_keeps, mmasPlan_keeps]

@[simp] theorem execMld_wf {c a : BitVec 5} {oxb : BitVec 3} {s : State} (h : Memory.wf s.mem) : NextWf (execMld c a oxb s) := by
  refine runAct_wf ?_ h
  mvcgen [needEntry_keeps, needAcc_keeps, queueMatrix_keeps, access_keeps, mldPlan_keeps]

@[simp] theorem execMzero_wf {c : BitVec 5} {s : State} (h : Memory.wf s.mem) : NextWf (execMzero c s) := by
  refine runAct_wf ?_ h
  mvcgen [needEntry_keeps, needAcc_keeps, queueMatrix_keeps]

@[simp] theorem execMhdr_wf {c a : BitVec 5} {s : State} (h : Memory.wf s.mem) : NextWf (execMhdr c a s) := by
  refine runAct_wf ?_ h
  mvcgen [needEntry_keeps, needAcc_keeps, queueMatrix_keeps, access_keeps, readMem_keeps, headerTrap_keeps]

@[simp] theorem execMwr_wf {c b a : BitVec 5} {s : State} (h : Memory.wf s.mem) : NextWf (execMwr c b a s) := by
  refine runAct_wf ?_ h
  mvcgen [needEntry_keeps, needAcc_keeps, waitUntil_keeps, queueMatrix_keeps, headerTrap_keeps]

@[simp] theorem execMwait_wf {c : BitVec 5} {s : State} (h : Memory.wf s.mem) : NextWf (execMwait c s) := by
  refine runAct_wf ?_ h
  mvcgen [done_keeps, needAcc_keeps, change]

@[simp] theorem execMprg_wf {c d : BitVec 5} {s : State} (h : Memory.wf s.mem) : NextWf (execMprg c d s) := by
  refine runAct_wf ?_ h
  mvcgen [needAcc_keeps, doneWith_keeps]

theorem readScale_keeps {t : TileHdr} {sfmt idx : Nat} : Keeps (readScale t sfmt idx) := by
  mvcgen [readScale, access_keeps, readMem_keeps]

theorem sideScales_keeps {base slay sfmt org n : Nat} : Keeps (sideScales base slay sfmt org n) := by
  mvcgen [sideScales, access_keeps, hdrCheck_keeps, readScale_keeps, mapM_keeps]

theorem pendingScales_keeps {h : AccHdr} {r rows cols : Nat} : Keeps (pendingScales h r rows cols) := by
  mvcgen [pendingScales, sideScales_keeps]

@[simp] theorem execMrd_wf {c b a : BitVec 5} {s : State} (h : Memory.wf s.mem) : NextWf (execMrd c b a s) := by
  refine runAct_wf ?_ h
  mvcgen [needAcc_keeps, waitUntil_keeps, pendingScales_keeps, change, headerTrap_keeps]

theorem probePages_keeps {a : Word} {n : Nat} : Keeps (probePages a n) := by
  mvcgen [probePages, access_keeps, probeStore_keeps, forEach_keeps, checkAccess_keeps]

@[simp] theorem execMst_wf {c b a : BitVec 5} {oxb : BitVec 3} {s : State} (h : Memory.wf s.mem) : NextWf (execMst c b a oxb s) := by
  refine runAct_wf ?_ h
  mvcgen [done_keeps, writeMem_keeps, needAcc_keeps, waitUntil_keeps, probePages_keeps, access_keeps, pendingScales_keeps, change,
    forEach_keeps, trap_keeps]

@[simp] theorem execMatrixCmdPerform_wf {core : Nat} {s : State} (h : Memory.wf s.mem) : NextWf (execMatrixCmdPerform core s) := by
  fun_cases execMatrixCmdPerform <;> simp [h]

theorem tileElem_keeps {w : Who} {t : TileHdr} {i j : Nat} : Keeps (tileElem w t i j) := by
  refine Keeps.of_run fun s hs => ?_
  simp only [tileElem]
  split
  · next hr => exact readMem_keeps.ok hs hr
  · next hr => exact readMem_keeps.error hs hr

theorem tileGroup_keeps {w : Who} {t : TileHdr} {i g : Nat} : Keeps (tileGroup w t i g) := by
  refine Keeps.of_run fun s hs => ?_
  simp only [tileGroup]
  split
  · next hr => split <;> exact readMem_keeps.ok hs hr
  · next hr => exact readMem_keeps.error hs hr

theorem tileElems_keeps {w : Who} {t : TileHdr} {ps : List (Nat × Nat)} : Keeps (tileElems w t ps) :=
  mapM_keeps fun _ => tileElem_keeps

theorem mmasStep_keeps {w : Who} {a b : TileHdr} {arow bcol kbase k m n : Nat} : Keeps (mmasStep w a b arow bcol kbase k m n) := by
  mvcgen [mmasStep, mapM_keeps, tileGroup_keeps, tileElems_keeps]

theorem mldRow_keeps {w : Who} {t : TileHdr} {row bcol n : Nat} : Keeps (mldRow w t row bcol n) := by
  refine Keeps.of_run fun s hs => ?_
  unfold mldRow
  refine List.foldlRecOn (motive := fun r => Memory.wf (endState r).mem) _ _ hs fun r hr j _ => ?_
  cases r with
  | error e u => exact hr
  | ok xs u =>
    dsimp only
    split
    · next hm => exact readMem_keeps.ok hr hm
    · next hm => exact readMem_keeps.error hr hm

@[simp] theorem execMmasKrowApply_wf {core : Nat} {s : State} (h : Memory.wf s.mem) : NextWf (execMmasKrowApply core s) := by
  unfold execMmasKrowApply
  dsimp only
  split
  · simpa
  · split
    · simpa
    · split
      · split
        · next hr => simpa using mmasStep_keeps.ok h hr
        · next hr => simpa using mmasStep_keeps.error h hr
      · split
        · next hr => simpa using mldRow_keeps.ok h hr
        · next hr => simpa using mldRow_keeps.error h hr
      · simpa

@[simp] theorem execMatrixCmdFinish_wf {core : Nat} {s : State} (h : Memory.wf s.mem) : NextWf (execMatrixCmdFinish core s) := by
  fun_cases execMatrixCmdFinish <;> simp [h]

@[simp] theorem execMatrixCmdAccept_wf {core slot : Nat} {s : State} (h : Memory.wf s.mem) :
    NextWf (execMatrixCmdAccept core slot s) := by
  unfold execMatrixCmdAccept
  dsimp only
  split
  · exact execMzero_wf h
  · exact execMhdr_wf h
  · exact runAct_wf mopAct_keeps h
  · exact runAct_wf mopAct_keeps h
  · exact runAct_wf mopAct_keeps h
  · exact execMmas_wf h
  · exact execMwr_wf h
  · exact execMld_wf h
  · simpa

/-! ### Copy -/

/-- Block by block, the check of a range keeps the memory canonical. -/
theorem rangeFault_go_keeps {w : Who} {a n : Nat} {need : Need} {fuel x : Nat} : Keeps (rangeFault.go w a n need fuel x) := by
  induction fuel generalizing x with
  | zero => exact Keeps.pure _
  | succ k ih =>
    have hp : Keeps (do let p ← placeAt w x; checkRights w x need; return p : Acc Place) := by
      mvcgen [placeAt_keeps, checkRights_keeps]
    refine Keeps.of_run fun s hs => ?_
    unfold rangeFault.go
    split
    · exact hs
    · split
      · next hr => exact hp.error hs hr
      · next hr => exact hp.error hs hr
      · next hr =>
        split
        · exact hp.ok hs hr
        · exact ih.run (hp.ok hs hr)

theorem rangeFault_keeps {w : Who} {a n : Nat} {need : Need} : Keeps (rangeFault w a n need) := rangeFault_go_keeps

theorem cparg_keeps {α : Type} {detail : Nat} {v : Word} : Keeps (cparg detail v : Act α) := by
  mvcgen [cparg, trap_keeps]

@[simp] theorem State.copySourceOut_wf {s : State} {core scope a n : Nat} (h : Memory.wf s.mem) :
    Memory.wf (s.copySourceOut core scope a n).mem := by
  fun_cases State.copySourceOut <;> simp +zetaDelta [h]

@[simp] theorem State.acceptCopy_wf {s : State} {ent : Nat} {k : CopyCmd} (h : Memory.wf s.mem) : Memory.wf (s.acceptCopy ent k).mem := by
  simp [State.acceptCopy, h]

theorem copyWaits_keeps {kc : Nat} : Keeps (copyWaits kc) := by
  mvcgen [copyWaits, waitUntil_keeps]

theorem copyWords_keeps {s : State} {kind : Nat} {src dst : Word} {bzero : Bool} {oxb : BitVec 3} :
    Keeps (copyWords s kind src dst bzero oxb) := by
  mvcgen [copyWords, cparg_keeps]

theorem copyHeader_keeps {src dst : Word} : Keeps (copyHeader src dst) := by
  mvcgen [copyHeader, hdrCheck_keeps, access_keeps, headerTrap_keeps]

theorem copyAct_keeps {kind : Nat} {c b a : BitVec 5} {oxb : BitVec 3} : Keeps (copyAct kind c b a oxb) := by
  unfold copyAct
  refine Keeps.bind copyWaits_keeps fun _ => Keeps.get_bind fun s hs => ?_
  extract_lets x d cbv src dst tile al
  refine Keeps.bind copyWords_keeps fun follow => Keeps.ite trap_keeps (Keeps.ite trap_keeps ?_)
  have hhdr : Keeps (if tile then do
        let r ← copyHeader src dst
        return (some r.1, r.2)
      else return (none, none) : Act (Option TileHdr × Option (Nat × Nat × Nat))) :=
    Keeps.ite (Keeps.bind copyHeader_keeps fun _ => Keeps.pure _) (Keeps.pure _)
  refine Keeps.bind hhdr fun q => ?_
  obtain ⟨hdr, conv⟩ := q
  refine Keeps.ite cparg_keeps (Keeps.bind (access_keeps fun _ => rangeFault_keeps) fun f =>
    Keeps.bind (access_keeps fun _ => rangeFault_keeps) fun g => ?_)
  extract_lets bad
  clear_value bad
  cases bad with
  | some _ => exact trap_keeps
  | none => exact Keeps.get_bind fun u hu => Keeps.bind (Keeps.set (State.acceptCopy_wf hu)) fun _ => done_keeps

theorem multicastWord_keeps {w : Who} {k : CopyCmd} {va : Nat} : Keeps (multicastWord w k va) := by
  mvcgen [multicastWord, translate_keeps]

theorem copyReadWord_keeps {w : Who} {k : CopyCmd} {va : Nat} : Keeps (copyReadWord w k va) := by
  mvcgen [copyReadWord, homeRead_keeps, slotGate_keeps, loadBytes_keeps, translate_keeps, multicastWord_keeps, placeAt_keeps,
    ccWord_keeps, atAddr_keeps, mayEnter_keeps]

theorem copySourceWord_keeps {w : Who} {k : CopyCmd} {va : Nat} : Keeps (copySourceWord w k va) := by
  refine Keeps.get_bind fun s hs => ?_
  dsimp only
  split
  · exact Keeps.pure _
  · mvcgen [mapM_keeps, copyReadWord_keeps]

theorem copyRead_keeps {w : Who} {k : CopyCmd} {a n : Nat} : Keeps (copyRead w k a n) :=
  Keeps.ite (Keeps.pure _) (Keeps.bind (mapM_keeps fun _ => copySourceWord_keeps) fun _ => Keeps.pure _)

theorem copyElem_keeps {w : Who} {k : CopyCmd} {h : TileHdr} {i j : Nat} : Keeps (copyElem w k h i j) := by
  mvcgen [copyElem, copyRead_keeps]

theorem convertChunk_keeps {w : Who} {k : CopyCmd} {h t : TileHdr} {rm carry lo hi : Nat} :
    Keeps (convertChunk w k h t rm carry lo hi) := by
  refine foldlM_keeps fun r e => ?_
  mvcgen [copyElem_keeps]

theorem copyTargets_keeps {w : Who} {base n : Nat} : Keeps (copyTargets w base n) := by
  refine mapM_keeps fun i => ?_
  dsimp only
  apply atAddr_keeps
  mvcgen [placeAt_keeps, translate_keeps, mayEnter_keeps]

@[simp] theorem State.copyPut_wf {s : State} {w : Who} {id scope pa : Nat} {t : TlbEntry} {x : Word} (h : Memory.wf s.mem) :
    Memory.wf (s.copyPut w id scope pa t x).mem := by
  fun_cases State.copyPut <;> simp [h]

theorem copyByte_keeps {w : Who} {va : Nat} {bs : List Byte} : Keeps (copyByte w va bs) := by
  mvcgen [copyByte, storeBytes_keeps, placeAt_keeps, atAddr_keeps, mayEnter_keeps]

theorem copyStore_keeps {w : Who} {id scope : Nat} {ts : List (Nat × Option (Nat × TlbEntry))} {bs : List Byte} :
    Keeps (copyStore w id scope ts bs) := by
  have hall : Keeps ((List.range ts.length).forM fun i => do
      let x := (bs.drop (8 * i)).take 8
      match lget (0, none) ts i with
      | (_, some (pa, t)) => modify (fun s => s.copyPut w id scope pa t (leWord x))
      | (va, none) => copyByte w va x : EAcc Unit) := by
    refine forM_keeps fun i => ?_
    dsimp only
    split
    · exact fun s hs => State.copyPut_wf hs
    · exact copyByte_keeps
  unfold copyStore
  dsimp only
  split
  · exact hall
  · refine Keeps.ite hall (Keeps.bind (fun s hs => ?_) fun _ => hall)
    exact State.clearCovered_wf hs

theorem rowStart_keeps {w : Who} {k : CopyCmd} : Keeps (rowStart w k) := by
  mvcgen [rowStart, translate_keeps, atAddr_keeps]

theorem chunkWork_keeps {w : Who} {k : CopyCmd} {carry : Nat} : Keeps (chunkWork w k carry) := by
  mvcgen [chunkWork, convertChunk_keeps, copyRead_keeps, copyTargets_keeps, rowStart_keeps]

@[simp] theorem execCopyChunkRegister_wf {core ent : Nat} {s : State} (h : Memory.wf s.mem) :
    NextWf (execCopyChunkRegister core ent s) := by
  unfold execCopyChunkRegister
  dsimp only
  split
  · simpa
  · next k _ =>
    split
    · simpa
    · split
      · split <;> simp [h]
      · split
        · next hr => simpa using chunkWork_keeps.error h hr
        · next ts bs ps carry' u hr =>
          have hu := chunkWork_keeps.ok h hr
          have hstore : Keeps (match k.conv with
              | some _ => ps.forM (fun (p : Nat × List Byte) => copyByte (s.copyWho core k) (k.dst.toNat + p.1) p.2)
              | none => copyStore (s.copyWho core k) k.id k.scope ts bs : EAcc Unit) := by
            split
            · exact forM_keeps fun _ => copyByte_keeps
            · exact copyStore_keeps
          split
          · next hr =>
            have hv := hstore.ok hu hr
            split <;> simp [hv]
          · next hr => simpa using hstore.error hu hr

@[simp] theorem execCopySlotTake_wf {core ent : Nat} {s : State} (h : Memory.wf s.mem) : NextWf (execCopySlotTake core ent s) := by
  fun_cases execCopySlotTake <;> simp +zetaDelta [h]

@[simp] theorem execCopyFollowonIssue_wf {core ent : Nat} {s : State} (h : Memory.wf s.mem) :
    NextWf (execCopyFollowonIssue core ent s) := by
  unfold execCopyFollowonIssue
  dsimp only
  split
  · simpa
  · next k _ =>
    split
    · simpa
    · next f _ =>
      split
      · simpa
      · have hplan : Keeps (if f.kind = 1 then atAddr k.dst (mldPlan (s.copyWho core k) k.dst f.w0 f.w1)
          else if f.role = 0 then mmasPlan (s.copyWho core k) f.acc k.dst f.other f.w0 f.w1 f.sat
          else mmasPlan (s.copyWho core k) f.acc f.other k.dst f.w0 f.w1 f.sat) :=
          Keeps.ite (atAddr_keeps mldPlan_keeps) (Keeps.ite mmasPlan_keeps mmasPlan_keeps)
        split
        · next hr => simpa using hplan.ok h hr
        · next hr => simpa using hplan.error h hr
        · next hr => simpa using hplan.error h hr
        · next hr => simpa using hplan.error h hr
        · next hr => simpa using hplan.error h hr

@[simp] theorem execMergeRequest_wf {core ent : Nat} {s : State} (h : Memory.wf s.mem) : NextWf (execMergeRequest core ent s) := by
  unfold execMergeRequest
  dsimp only
  split
  · simpa
  · split
    · simpa
    · split
      · split
        · next hr => split <;> simpa using translate_keeps.ok h hr
        · next hr => simpa using translate_keeps.error h hr
      · next hr => simpa using chunkWork_keeps.error h hr
      · simpa

@[simp] theorem execMergeEntryClose_wf {idx : Nat} {s : State} (h : Memory.wf s.mem) : NextWf (execMergeEntryClose idx s) := by
  unfold execMergeEntryClose
  split
  · simpa
  · next m _ =>
    split
    · simpa
    · have hread := State.mergeRead_wf (pa := m.pa) (key := m.key) h
      cases m.taken <;> simpa

@[simp] theorem execRowcls_wf {c : BitVec 5} {s : State} (h : Memory.wf s.mem) : NextWf (execRowcls c s) := by
  refine runAct_wf ?_ h
  mvcgen [done_keeps, waitUntil_keeps, require_keeps, change]

@[simp] theorem execCpwait_wf {c : BitVec 5} {s : State} (h : Memory.wf s.mem) : NextWf (execCpwait c s) := by
  refine runAct_wf ?_ h
  mvcgen [done_keeps, waitUntil_keeps]

@[simp] theorem execCpqry_wf {c d : BitVec 5} {s : State} (h : Memory.wf s.mem) : NextWf (execCpqry c d s) := by
  simp [execCpqry, h]

@[simp] theorem execCbinit_wf {c b a : BitVec 5} {s : State} (h : Memory.wf s.mem) : NextWf (execCbinit c b a s) := by
  refine runAct_wf ?_ h
  mvcgen [done_keeps, rangeFault_keeps, waitUntil_keeps, access_keeps, require_keeps, change, trap_keeps, cparg_keeps] <;> simp
    +zetaDelta [*]

@[simp] theorem execCbacq_wf {c role d : BitVec 5} {s : State} (h : Memory.wf s.mem) : NextWf (execCbacq c role d s) := by
  refine runAct_wf ?_ h
  mvcgen [require_keeps, doneWith_keeps, change] <;> simp +zetaDelta [*]

@[simp] theorem State.releaseSlot_wf {s : State} {scope a n : Nat} (h : Memory.wf s.mem) : Memory.wf (s.releaseSlot scope a n).mem := by
  simp [State.releaseSlot, h]

@[simp] theorem execCbrel_wf {c role : BitVec 5} {s : State} (h : Memory.wf s.mem) : NextWf (execCbrel c role s) := by
  refine runAct_wf ?_ h
  mvcgen [done_keeps, waitUntil_keeps, require_keeps, flyUntil_keeps, change, cparg_keeps] <;> simp +zetaDelta [*]

@[simp] theorem execLfmt_wf {c d a : BitVec 5} {s : State} (h : Memory.wf s.mem) : NextWf (execLfmt c d a s) := by
  refine runAct_wf ?_ h
  mvcgen [waitUntil_keeps, require_keeps, doneWith_keeps, change, headerTrap_keeps]

@[simp] theorem execCopyCmdAccept_wf {core slot : Nat} {s : State} (h : Memory.wf s.mem) : NextWf (execCopyCmdAccept core slot s) := by
  unfold execCopyCmdAccept
  dsimp only
  split
  · exact runAct_wf copyAct_keeps h
  · exact runAct_wf copyAct_keeps h
  · exact runAct_wf copyAct_keeps h
  · exact runAct_wf copyAct_keeps h
  · simpa

/-! ### Sagger -/

@[simp] theorem State.eachL2_wf {s : State} {hit : Nat → Bool} {f : State → L2Line → State}
    (hf : ∀ u x, Memory.wf u.mem → Memory.wf (f u x).mem) (h : Memory.wf s.mem) : Memory.wf (s.eachL2 hit f).mem :=
  State.foldl_wf _ _ hf h

@[simp] theorem State.flushDrop_wf {s : State} {hit : Nat → Bool} (h : Memory.wf s.mem) : Memory.wf (s.flushDrop hit).mem := by
  refine State.eachL2_wf (fun u x hu => ?_) h
  split <;> simp [hu]

/-- A round of MSCFL's writes. -/
theorem execMscfl_flushPages_keeps {mode : Nat} {c : BitVec 5} {n : Nat} {pages : List (Nat × Nat)} :
    Keeps (execMscfl.flushPages mode c n pages) := by
  mvcgen [execMscfl.flushPages, change, flyUntil_keeps, doneWith_keeps] <;> simp +zetaDelta [*]

@[simp] theorem execMscfl_wf {c b a : BitVec 5} {s : State} (h : Memory.wf s.mem) : NextWf (execMscfl c b a s) := by
  refine runAct_wf ?_ h
  mvcgen [ecSupervisor_keeps, trap_keeps, access_keeps, leavesOf_keeps, execMscfl_flushPages_keeps, doneWith_keeps]

@[simp] theorem execHbmslot_wf {c b a : BitVec 5} {s : State} (h : Memory.wf s.mem) : NextWf (execHbmslot c b a s) := by
  refine runAct_wf ?_ h
  mvcgen [ecMonitor_keeps, doneWith_keeps, change, trap_keeps]

@[simp] theorem execChannelSlotBoundary_wf {chan : Nat} {s : State} (h : Memory.wf s.mem) : NextWf (execChannelSlotBoundary chan s) := by
  fun_cases execChannelSlotBoundary <;> simp [h]

@[simp] theorem execSpillWritebackDone_wf {die : Nat} {s : State} (h : Memory.wf s.mem) : NextWf (execSpillWritebackDone die s) := by
  fun_cases execSpillWritebackDone <;> simp +zetaDelta [h]

/-! ### Fabric -/

@[simp] theorem execTenset_wf {c b a : BitVec 5} {s : State} (h : Memory.wf s.mem) : NextWf (execTenset c b a s) := by
  refine runAct_wf ?_ h
  mvcgen [ecMonitor_keeps, waitUntil_keeps, doneWith_keeps, change, trap_keeps]
  simp +zetaDelta [*]

@[simp] theorem execVcres_wf {c b a : BitVec 5} {s : State} (h : Memory.wf s.mem) : NextWf (execVcres c b a s) := by
  refine runAct_wf ?_ h
  mvcgen [ecMonitor_keeps, doneWith_keeps, change, trap_keeps]
  simp +zetaDelta [*]

@[simp] theorem execLinkFrameBoundary_wf {s : State} (h : Memory.wf s.mem) : NextWf (execLinkFrameBoundary s) := by
  simp [execLinkFrameBoundary, h]

@[simp] theorem execTimeSyncLoss_wf {s : State} (h : Memory.wf s.mem) : NextWf (execTimeSyncLoss s) := by
  simp [execTimeSyncLoss, h]

/-! ### Ctx -/

theorem saveSlots.writeWords_keeps {w : Who} {area : Word} {n : Nat} {is : List Nat} {b : List Byte} :
    Keeps (saveSlots.writeWords w area n is b) := by
  induction is with
  | nil => exact Keeps.pure _
  | cons i is ih =>
    refine Keeps.get_bind fun s hs => ?_
    split
    · next hr => have := writeMem_keeps.ok hs hr; mvcgen [saveSlots.writeWords, ih]
    · next hr => have := writeMem_keeps.error hs hr; mvcgen [saveSlots.writeWords, ih]

theorem saveSlots_keeps {w : Who} {area : Word} {k : Nat} {slots : List (List Byte)} : Keeps (saveSlots w area k slots) := by
  induction slots generalizing k with
  | nil => exact Keeps.pure _
  | cons b r ih => exact Keeps.bind saveSlots.writeWords_keeps fun _ => ih

@[simp] theorem execCtxsave_wf {rd rs1 rs2 : BitVec 6} {s : State} (h : Memory.wf s.mem) : NextWf (execCtxsave rd rs1 rs2 s) := by
  refine runAct_wf (Keeps.bind needSupervisor_keeps fun _ => ?_) h
  extract_lets area x sid t save
  have hsave (r : Unit) : Keeps (save r) := by
    refine Keeps.bind waitUntil_keeps fun _ => Keeps.bind (change_keeps fun _ hs => by simpa) fun _ => Keeps.get_bind fun u hu => ?_
    extract_lets w
    split
    · next hr =>
      have hv := saveSlots_keeps.ok hu hr
      exact Keeps.bind (Keeps.set (State.copySourceOut_wf hv)) fun _ => Keeps.bind waitUntil_keeps fun _ =>
        Keeps.bind (change_keeps fun _ hs => by simpa) fun _ => doneWith_keeps
    · next hr =>
      have hv := saveSlots_keeps.error hu hr
      refine Keeps.bind (Keeps.set hv) fun _ => ?_
      split
      · exact stall_keeps
      · exact failed_keeps
      · exact Keeps.bind (change_keeps fun _ hs => by simpa) fun _ => doneWith_keeps
  refine Keeps.ite trap_keeps (Keeps.ite doneWith_keeps (Keeps.ite ?_ (Keeps.ite ?_ ?_)))
  · exact Keeps.bind (change_keeps fun _ hs => by simpa) fun _ => doneWith_keeps
  · exact Keeps.bind waitUntil_keeps fun _ => Keeps.bind (change_keeps fun _ hs => by simpa) hsave
  · exact Keeps.bind (change_keeps fun _ hs => by simpa) hsave

theorem loadSlots.readWords_keeps {w : Who} {area : Word} {n : Nat} {is : List Nat} : Keeps (loadSlots.readWords w area n is) := by
  induction is with
  | nil => exact Keeps.pure _
  | cons i is ih =>
    refine Keeps.get_bind fun s hs => Keeps.bind ?_ fun b => Keeps.bind ih fun _ => Keeps.pure _
    split
    · next hr => have := readMem_keeps.ok hs hr; mvcgen
    · next hr => have := readMem_keeps.error hs hr; mvcgen

theorem loadSlots_keeps {w : Who} {area : Word} {ks : List Nat} : Keeps (loadSlots w area ks) := by
  induction ks with
  | nil => exact Keeps.pure _
  | cons k r ih => exact Keeps.bind loadSlots.readWords_keeps fun _ => Keeps.bind ih fun _ => Keeps.pure _

theorem loadArea_keeps {w : Who} {core : Nat} {area : Word} : Keeps (loadArea w core area) := by
  mvcgen [loadArea, loadSlots_keeps]

@[simp] theorem execCtxload_wf {rd rs1 rs2 : BitVec 6} {s : State} (h : Memory.wf s.mem) : NextWf (execCtxload rd rs1 rs2 s) := by
  refine runAct_wf ?_ h
  mvcgen [needSupervisor_keeps, trap_keeps, doneWith_keeps, waitUntil_keeps, change, stall_keeps, failed_keeps]
  all_goals have hr := ‹loadArea _ _ _ _ = _›
  · exact loadArea_keeps.ok (by simpa +zetaDelta) hr
  · simpa +zetaDelta using loadArea_keeps.ok (by simpa +zetaDelta) hr
  · exact loadArea_keeps.error (by simpa +zetaDelta) hr
  · exact loadArea_keeps.error (by simpa +zetaDelta) hr
  · simpa +zetaDelta using loadArea_keeps.error (by simpa +zetaDelta) hr

/-! ### Pool -/

@[simp] theorem State.descr_wf {s : State} {t : Nat} (h : Memory.wf s.mem) : Memory.wf (s.descr t).2.mem := by
  unfold State.descr
  split
  · next hr => exact homeRead_keeps.error h hr
  · next hr => exact homeRead_keeps.ok h hr

@[simp] theorem State.checkRecord_wf {s : State} {r : NodeRec} {key issuer port : Option Nat} (h : Memory.wf s.mem) :
    Memory.wf (s.checkRecord r key issuer port).2.mem := by
  have hd := State.descr_wf (t := r.tenant) h
  unfold State.checkRecord
  generalize s.descr r.tenant = p at hd ⊢
  obtain ⟨d, u⟩ := p
  simp [apply_ite Prod.snd, apply_ite State.mem, hd, h]

theorem State.decide_wf {s : State} {p : Nat} {fitting : List Node} {n : Node} {overdue : Bool} (h : Memory.wf s.mem) :
    Memory.wf (s.decide_ p fitting n overdue).mem := by
  have hd := State.descr_wf (t := n.tenant) h
  unfold State.decide_
  generalize s.descr n.tenant = q at hd ⊢
  obtain ⟨d, u⟩ := q
  cases s.bestCore n <;> cases d
  case some.some =>
    simp [apply_ite State.mem, State.foldl_mem _ _ (fun (s : State) (x : Node) => State.setNode_mem s _), hd]
  all_goals exact hd

@[simp] theorem State.decideFrom_wf {s : State} {ps : List Nat} (h : Memory.wf s.mem) : Memory.wf (s.decideFrom ps).mem := by
  induction ps with
  | nil => exact h
  | cons p r ih =>
    simp only [State.decideFrom]
    split
    · exact State.decide_wf h
    · exact ih

@[simp] theorem execPlacementDecision_wf {s : State} (h : Memory.wf s.mem) : NextWf (execPlacementDecision s) := by
  fun_cases execPlacementDecision <;> simp [h]

theorem walkNow_keeps {w : Who} {ea : Nat} : Keeps (walkNow w ea) := by
  mvcgen [walkNow, useLeaf_keeps, walk_keeps]

theorem readHome_keeps {w : Who} {p : Place} {ea n : Nat} : Keeps (readHome w p ea n) := by
  mvcgen [readHome, homeRead_keeps, loadBytes_keeps, walkNow_keeps]

@[simp] theorem State.launch_wf {s : State} {idx : Nat} {e : FireEntry} (h : Memory.wf s.mem) : Memory.wf (s.launch idx e).mem := by
  have hd := State.descr_wf (t := e.tenant) h
  unfold State.launch
  generalize s.descr e.tenant = q at hd ⊢
  obtain ⟨d, u⟩ := q
  replace hd : Memory.wf u.mem := hd
  cases d with
  | none => exact hd
  | some d =>
    have hread : Keeps (do
        let p ← checkAccess (u.tenantWho e.tenant d) e.record 64 needR
        readHome (u.tenantWho e.tenant d) p e.record.toNat 64 : Acc (List Byte)) := by
      mvcgen [checkAccess_keeps, readHome_keeps]
    dsimp only
    split
    · next v hr =>
      have hv : Memory.wf v.mem := hread.error hd hr
      exact hv
    · next bs v hr =>
      have hc := State.checkRecord_wf (r := recordOf bs) (key := none) (issuer := none) (port := none) (hread.ok hd hr)
      simp [apply_ite State.mem, hc]

@[simp] theorem State.instanceDone_wf {s : State} {id : Nat} (h : Memory.wf s.mem) : Memory.wf (s.instanceDone id).mem := by
  refine State.foldl_wf _ _ (fun u f hu => ?_) h
  dsimp only
  split
  · split
    · exact State.launch_wf hu
    · exact hu
  · exact hu

@[simp] theorem State.completeNode_wf {s : State} {n : Node} {keys : List Nat} (h : Memory.wf s.mem) :
    Memory.wf (s.completeNode n keys).mem := by
  simp [State.completeNode, h]

/-! ### Migrate -/

theorem State.startPark_wf {s : State} {tenant src : Nat} (h : Memory.wf s.mem) :
    ∀ r, s.startPark tenant src = .ok r → Memory.wf r.2.mem := by
  fun_cases State.startPark <;> simp +zetaDelta [h]

@[simp] theorem State.land_wf {s : State} {b : ParkedCore} {dst : Nat} (h : Memory.wf s.mem) : Memory.wf (s.land b dst).mem := by
  refine List.foldlRecOn (motive := fun m => Memory.wf m) _ _ (filter_wf _ _ ?_) fun m hm e _ => mput_wf _ _ _ hm
  simp [h]

@[simp] theorem State.migrateNow_wf {s : State} {m : Migration} (h : Memory.wf s.mem) : Memory.wf (s.migrateNow m).mem := by
  simp [State.migrateNow, h]

@[simp] theorem State.retireNow_wf {s : State} {m : Migration} (h : Memory.wf s.mem) : Memory.wf (s.retireNow m).mem := by
  simp [State.retireNow, h, filter_wf]

@[simp] theorem State.putSlotAtom_wf {s : State} {w : Who} {va : Nat} {bs : List Byte} (h : Memory.wf s.mem) :
    Memory.wf (s.putSlotAtom w va bs).mem := by
  have hpage : Keeps (do let t ← walkNow w va; return (← touch w t true .no).getD t : Acc TlbEntry) := by
    mvcgen [walkNow_keeps, touch_keeps]
  unfold State.putSlotAtom
  dsimp only
  split
  · next hr => exact State.foldl_wf _ _ (fun u i hu => State.arriveHome_wf hu) (State.clearCovered_wf (hpage.ok h hr))
  · next hr => exact hpage.error h hr

@[simp] theorem State.writeSlot_wf {s : State} {w : Who} {base : Nat} {areas : List (Nat × List Byte)} (h : Memory.wf s.mem) :
    Memory.wf (s.writeSlot w base areas).mem :=
  State.foldl_wf _ _ (fun _ _ hu => State.foldl_wf _ _ (fun _ _ hv => State.putSlotAtom_wf hv) hu) h

@[simp] theorem State.parkNow_wf {s : State} {m : Migration} (h : Memory.wf s.mem) : Memory.wf (s.parkNow m).mem := by
  unfold State.parkNow
  have hv : Memory.wf ((s.finishMigration m.id 0).vacate m.src).mem := by simpa
  have hd := State.descr_wf (t := m.tenant) hv
  dsimp only
  generalize State.descr _ _ = q at hd ⊢
  obtain ⟨d, u⟩ := q
  cases d with
  | none => simpa using hd
  | some d => simpa using State.writeSlot_wf hd

@[simp] theorem State.unparkNow_wf {s : State} {m : Migration} (h : Memory.wf s.mem) : Memory.wf (s.unparkNow m).mem := by
  fun_cases State.unparkNow <;> simp +zetaDelta [h]

@[simp] theorem execMigrationTransfer_wf {idx : Nat} {s : State} (h : Memory.wf s.mem) : NextWf (execMigrationTransfer idx s) := by
  unfold execMigrationTransfer
  split
  · simpa
  · next m _ =>
    have hheld : Memory.wf ((List.range 4).foldl (fun s k => s.holdMoving (m.src * 8 + k)) s).mem :=
      State.foldl_wf _ _ (fun _ _ hu => by simpa) h
    generalize (List.range 4).foldl (fun s k => State.holdMoving s (m.src * 8 + k)) s = u at hheld ⊢
    have hrel := State.release_wf (core := m.src) (scope := scP) (rgn := 0) hheld
    dsimp only
    split
    · simp [h]
    · split
      · simp [h]
      · split
        · simpa
        · split
          · simpa
          · split
            · simp [hrel]
            · split <;> simp [hrel]

theorem migrating_keeps {c : BitVec 5} {r : Except Nat (Nat × State)} (hr : ∀ id u, r = .ok (id, u) → Memory.wf u.mem) :
    Keeps (migrating c r) := by
  unfold migrating
  split
  · exact doneWith_keeps
  · next id u => intro s hs; simpa using hr id u rfl

@[simp] theorem execMigr_wf {c b a : BitVec 5} {s : State} (h : Memory.wf s.mem) : NextWf (execMigr c b a s) := by
  refine runAct_wf ?_ h
  have hpark {src : Nat} := migrating_keeps (c := c) fun id u hu => State.startPark_wf (tenant := s.cur.tenant) (src := src) h (id, u) hu
  have hmove {src : Nat} := migrating_keeps (c := c) fun id u hu =>
    (congrArg Memory.wf (State.startMigrate_mem s s.cur.tenant src (s.gr b) (id, u) hu)).trans h
  have hback {n : Nat} := migrating_keeps (c := c) fun id u hu =>
    (congrArg Memory.wf (State.startUnpark_mem s s.cur.tenant n (s.gr b) (id, u) hu)).trans h
  mvcgen [ecSupervisor_keeps, trap_keeps, doneWith_keeps, change, hpark, hmove, hback]

/-! ### Dispatcher -/

@[simp] theorem execGsub_wf {c a : BitVec 5} {s : State} (h : Memory.wf s.mem) : NextWf (execGsub c a s) := by
  refine runAct_wf ?_ h
  mvcgen [access_keeps, relAct_keeps, doneWith_keeps, translate_keeps, checkAccess_keeps, readHome_keeps, trap_keeps]
  simp +zetaDelta [*]

@[simp] theorem execGdep_wf {c b a : BitVec 5} {s : State} (h : Memory.wf s.mem) : NextWf (execGdep c b a s) := by
  refine runAct_wf ?_ h
  mvcgen [relAct_keeps, doneWith_keeps, change, trap_keeps] <;> simp +zetaDelta [*]

@[simp] theorem execGwait_wf {c a : BitVec 5} {s : State} (h : Memory.wf s.mem) : NextWf (execGwait c a s) := by
  refine runAct_wf ?_ h
  mvcgen [doneWith_keeps, change]

theorem succKeys_keeps {w : Who} {fuel : Nat} {ea : Word} : Keeps (succKeys w fuel ea) := by
  induction fuel generalizing ea with
  | zero => exact Keeps.pure _
  | succ n ih =>
    refine Keeps.get_bind fun s hs => ?_
    split
    · next hr => have := readMem_keeps.error hs hr; mvcgen
    · next hr => have := readMem_keeps.ok hs hr; mvcgen [ih]

/-- GDONE reads the keys of its node's successors. -/
theorem succKeysOf_keeps {s : State} {n : Node} (hs : Memory.wf s.mem) : Keeps (do
          if n.succ = 0 then pure []
          else
            match succKeys (s.who s.curSid) 255 n.succ s with
            | .ok ks s' =>
              set s'
              pure ks
            | .error (ea, e) s' =>
              set s'
              failed e ea 0 : Act (List Nat)) := by
  split
  · exact Keeps.pure _
  · split
    · next hr => have := succKeys_keeps.ok hs hr; mvcgen
    · next hr => have := succKeys_keeps.error hs hr; mvcgen [failed_keeps]

@[simp] theorem execGdone_wf {s : State} (h : Memory.wf s.mem) : NextWf (execGdone s) := by
  refine runAct_wf ?_ h
  refine Keeps.ite illegalWord_keeps (Keeps.bind waitUntil_keeps fun _ => Keeps.bind (change_keeps fun _ hs => by simpa) fun _ =>
    Keeps.bind relAct_keeps fun _ => Keeps.get_bind fun u hu => ?_)
  split
  · exact Keeps.bind (succKeysOf_keeps hu) fun _ => Keeps.bind done_keeps fun _ => change_keeps fun _ hs => by simp [hs]
  · exact Keeps.bind done_keeps fun _ => change_keeps fun _ hs => by simp [hs]

@[simp] theorem execSfdecl_wf {c a : BitVec 5} {oxb : BitVec 3} {s : State} (h : Memory.wf s.mem) : NextWf (execSfdecl c a oxb s) := by
  refine runAct_wf ?_ h
  mvcgen [doneWith_keeps, change, trap_keeps]

@[simp] theorem execSfnext_wf {c b a : BitVec 5} {s : State} (h : Memory.wf s.mem) : NextWf (execSfnext c b a s) := by
  refine runAct_wf ?_ h
  mvcgen [doneWith_keeps, change, trap_keeps]

@[simp] theorem execSfend_wf {c a : BitVec 5} {s : State} (h : Memory.wf s.mem) : NextWf (execSfend c a s) := by
  refine runAct_wf ?_ h
  mvcgen [change, trap_keeps]
  simp +zetaDelta [*]

@[simp] theorem execFtset_wf {c b a : BitVec 5} {oxb : BitVec 3} {s : State} (h : Memory.wf s.mem) : NextWf (execFtset c b a oxb s) := by
  refine runAct_wf (Keeps.bind ecSupervisor_keeps fun _ => ?_) h
  dsimp only
  refine Keeps.ite trap_keeps (Keeps.ite ?_ (Keeps.ite ?_ doneWith_keeps))
  · refine Keeps.ite trap_keeps (Keeps.ite trap_keeps (Keeps.ite doneWith_keeps (Keeps.ite doneWith_keeps ?_)))
    exact Keeps.bind (change_keeps fun _ hs => hs) fun _ => doneWith_keeps
  · split
    · exact Keeps.ite (Keeps.bind (change_keeps fun _ hs => hs) fun _ => doneWith_keeps) doneWith_keeps
    · exact doneWith_keeps

theorem State.evict_wf {s u : State} {e : FireEntry} (h : Memory.wf s.mem) (hu : s.evict e = some u) : Memory.wf u.mem := by
  unfold State.evict at hu
  split at hu
  · cases hu
  · refine List.foldlRecOn (motive := fun r => ∀ v, r = some v → Memory.wf v.mem) _ _ (by rintro _ ⟨⟩; exact h)
      (fun r hr c _ v hv => ?_) u hu
    split at hv
    · split at hv
      · next hp => cases hv; exact State.startPark_wf (hr _ rfl) _ hp
      · cases hv
    · cases hv

@[simp] theorem State.fire_wf {s : State} {idx : Nat} {e : FireEntry} (h : Memory.wf s.mem) : Memory.wf (s.fire idx e).mem := by
  cases he : s.evict e with
  | none => simp [State.fire, he, apply_ite State.mem, h]
  | some u =>
    have hl := State.launch_wf (idx := idx) (e := e) (State.evict_wf h he)
    simp only [State.fire, he, apply_ite State.mem]
    repeat' refine wf_ite ?_ ?_
    all_goals simp [h, hl]

@[simp] theorem State.fireAt_wf {s : State} {idx slot : Nat} (h : Memory.wf s.mem) : Memory.wf (s.fireAt idx slot).mem := by
  fun_cases State.fireAt <;> simp +zetaDelta [h]

@[simp] theorem State.fireSlot_wf {s : State} {slot : Nat} (h : Memory.wf s.mem) : Memory.wf (s.fireSlot slot).mem :=
  State.foldl_wf _ _ (fun _ _ hu => State.fireAt_wf hu) h

@[simp] theorem execFiringSlotBoundary_wf {s : State} (h : Memory.wf s.mem) : NextWf (execFiringSlotBoundary s) := by
  fun_cases execFiringSlotBoundary <;> simp [h]

@[simp] theorem State.fireDue_wf {s : State} {n : Nat} (h : Memory.wf s.mem) : Memory.wf (s.fireDue n).mem := by
  induction n generalizing s with
  | zero => exact h
  | succ n ih =>
    simp only [State.fireDue]
    split
    · exact h
    · exact ih (State.fireSlot_wf h)

@[simp] theorem State.stepTime_wf {s : State} {t : Nat} (h : Memory.wf s.mem) : Memory.wf (s.stepTime t).mem :=
  State.fireDue_wf h

@[simp] theorem State.discipline_wf {s : State} {off : Int} (h : Memory.wf s.mem) : Memory.wf (s.discipline off).mem := by
  unfold State.discipline
  split <;> simp [h]

@[simp] theorem execPtpMessageReceive_wf {seconds nanos : Nat} {s : State} (h : Memory.wf s.mem) :
    NextWf (execPtpMessageReceive seconds nanos s) := by
  simp [execPtpMessageReceive, h]

@[simp] theorem execPpsEdge_wf {s : State} (h : Memory.wf s.mem) : NextWf (execPpsEdge s) := by
  simp [execPpsEdge, h]

/-! ### Tenancy -/

@[simp] theorem State.dropWindows_wf {s : State} {p : Partition} {ports : Nat} (h : Memory.wf s.mem) :
    Memory.wf (s.dropWindows p ports).mem :=
  State.foldl_wf _ _ (fun _ _ hu => State.l2Evict_wf hu) h

@[simp] theorem State.pdissolve_wf {s : State} {x : Word} (h : Memory.wf s.mem) : Memory.wf (s.pdissolve x).2.mem := by
  fun_cases State.pdissolve <;> simp +zetaDelta [h]

@[simp] theorem State.hwgrant_wf {s : State} {x : Word} (h : Memory.wf s.mem) : Memory.wf (s.hwgrant x).2.mem := by
  fun_cases State.hwgrant <;> simp +zetaDelta [h]

theorem State.tplace_wf {s : State} {x : Word} (h : Memory.wf s.mem) : Memory.wf (s.tplace x).2.mem := by
  fun_cases State.tplace
  case case2 r _ s' hp _ _ _ _ =>
    have hm : s'.mem = s.mem := (congrArg (fun q => q.2.mem) hp).symm.trans (State.placeTenant_mem s (bits x 5 0) r)
    simp [hm, h]
  all_goals simp [h]

theorem State.dcmd_wf {s : State} {op : Nat} {u : State} (h : Memory.wf s.mem) (hu : s.dcmd op = some u) : Memory.wf u.mem := by
  revert hu
  fun_cases State.dcmd
  case case3 => rintro ⟨⟩; simpa using State.tplace_wf h
  case case4 =>
    intro hu
    obtain ⟨r, hr, hput⟩ := Option.bind_eq_some_iff.mp hu
    cases hput
    simpa [State.tremove_mem _ _ r hr]
  all_goals rintro ⟨⟩; simp [h]

@[simp] theorem dcmdStep_wf {op : Nat} {s : State} (h : Memory.wf s.mem) : NextWf (dcmdStep op s) := by
  simp only [dcmdStep, nextWf_next]
  cases hu : s.dcmd op with
  | none => exact h
  | some u => exact State.dcmd_wf h hu

/-! ### Sequence -/

theorem seqarg_keeps {α : Type} {detail : Nat} {v : Word} : Keeps (seqarg detail v : Act α) := by
  mvcgen [seqarg, trap_keeps]

theorem seqFail_keeps {c : BitVec 5} {code : Nat} : Keeps (seqFail c code) := by
  mvcgen [seqFail, doneWith_keeps]

theorem seqDone_keeps {c : BitVec 5} {v : Nat} {acted : Bool} {d k : Nat} : Keeps (seqDone c v acted d k) := by
  mvcgen [seqDone, doneWith_keeps]

theorem withSlot_keeps {c : BitVec 5} {x : Word} {f : Nat → Nat → SeqSlot → Act Unit} (hf : ∀ d k y, Keeps (f d k y)) :
    Keeps (withSlot c x f) := by
  mvcgen [withSlot, seqarg_keeps, waitUntil_keeps, seqFail_keeps, hf]

theorem State.confirm_wf {s : State} {d k : Nat} {x : SeqSlot} {tok : BitVec 32} (h : Memory.wf s.mem) :
    Memory.wf (s.confirm d k x tok).2.mem := by
  simp [State.confirm, mwrite_wf, h]

theorem State.appendUnit_wf {fuel : Nat} {s : State} {d k : Nat} {toks : List (BitVec 32)} {chain : List Nat} (h : Memory.wf s.mem) :
    Memory.wf (State.appendUnit fuel s d k toks chain).2.mem := by
  induction fuel generalizing s toks chain with
  | zero => unfold State.appendUnit; exact h
  | succ n ih =>
    cases toks with
    | nil => unfold State.appendUnit; exact h
    | cons tok rest =>
    unfold State.appendUnit
    dsimp only
    split
    · exact h
    · next old _ =>
      have hc := State.confirm_wf (d := d) (k := k) (x := old) (tok := tok) h
      generalize s.confirm d k old tok = q at hc ⊢
      obtain ⟨x, u⟩ := q
      dsimp only
      split
      · exact ih hc
      · simp only [apply_ite Prod.snd, apply_ite State.mem]
        refine wf_ite ?_ (wf_ite (ih ?_) (ih ?_)) <;> simpa using hc

@[simp] theorem State.appendAll_wf {s : State} {d k : Nat} {toks : List (BitVec 32)} (h : Memory.wf s.mem) :
    Memory.wf (s.appendAll d k toks).2.mem :=
  State.appendUnit_wf h

@[simp] theorem execTkapp_wf {c b a : BitVec 5} {s : State} (h : Memory.wf s.mem) : NextWf (execTkapp c b a s) := by
  refine runAct_wf ?_ h
  mvcgen [seqDone_keeps, seqarg_keeps, withSlot_keeps, seqFail_keeps]
  simp +zetaDelta [*]

@[simp] theorem execTkdraft_wf {c b a : BitVec 5} {s : State} (h : Memory.wf s.mem) : NextWf (execTkdraft c b a s) := by
  refine runAct_wf ?_ h
  mvcgen [seqDone_keeps, seqarg_keeps, withSlot_keeps, change, seqFail_keeps]

@[simp] theorem execTkconf_wf {c b a : BitVec 5} {s : State} (h : Memory.wf s.mem) : NextWf (execTkconf c b a s) := by
  refine runAct_wf ?_ h
  mvcgen [seqDone_keeps, seqarg_keeps, withSlot_keeps, change, seqFail_keeps]
  simp +zetaDelta [*]

theorem readLogits_wf {w : Who} {t : TileHdr} {fuel : Nat} {got : List Nat} {s : State} (h : Memory.wf s.mem) :
    Memory.wf (readLogits w t fuel got s).2.2.mem := by
  induction fuel generalizing got s with
  | zero => exact h
  | succ n ih =>
    simp only [readLogits]
    split
    · next hr => exact readMem_keeps.error h hr
    · next hr => exact ih (readMem_keeps.ok h hr)

theorem sampleTile_keeps {base : Word} : Keeps (sampleTile base) := by
  mvcgen [sampleTile, hdrCheck_keeps, access_keeps]

theorem readLogits_end_wf {w : Who} {t : TileHdr} {fuel : Nat} {got x : List Nat} {e : Option (AccErr × Word)} {s u : State}
    (h : readLogits w t fuel got s = (x, e, u)) (hs : Memory.wf s.mem) : Memory.wf u.mem := by
  simpa [h] using readLogits_wf (w := w) (t := t) (fuel := fuel) (got := got) hs

theorem sampleAct_keeps {draft : Bool} {c b a : BitVec 5} {oxb : BitVec 3} : Keeps (sampleAct draft c b a oxb) := by
  mvcgen [sampleAct, seqarg_keeps, waitUntil_keeps, sampleTile_keeps, headerTrap_keeps, seqFail_keeps, failed_keeps, seqDone_keeps]
  · simpa using readLogits_end_wf ‹_› ‹_›
  · simpa +zetaDelta using readLogits_end_wf ‹_› ‹_›
  · exact State.appendAll_wf (by simpa +zetaDelta using readLogits_end_wf ‹_› ‹_›)

theorem withEntry_keeps {c : BitVec 5} {x : Word} {f : Nat → Nat → SeqSlot → Nat → Act Unit} (hf : ∀ d k y e, Keeps (f d k y e)) :
    Keeps (withEntry c x f) := by
  mvcgen [withEntry, seqarg_keeps, waitUntil_keeps, seqFail_keeps, hf]

@[simp] theorem execWset_wf {c b a : BitVec 5} {s : State} (h : Memory.wf s.mem) : NextWf (execWset c b a s) := by
  refine runAct_wf (withEntry_keeps fun d k x e => ?_) h
  extract_lets ea
  refine Keeps.bind (access_keeps fun _ => readMem_keeps) fun i => Keeps.get_bind fun u hu => Keeps.ite seqarg_keeps ?_
  have hlack (w : Who) : Keeps (do
      if wEn i && wAction i = 1 then rangeFault w ((← get).dieAddr d (wTarget i).toNat) (4 * 2 ^ x.log2cap) needW
      else return none : Acc (Option (Nat × Nat))) :=
    Keeps.ite (Keeps.get_bind fun _ _ => rangeFault_keeps) (Keeps.pure _)
  refine Keeps.bind (access_keeps hlack) fun lack => ?_
  split
  · exact trap_keeps
  · exact Keeps.bind (change_keeps fun _ hs => hs) fun _ => seqDone_keeps

theorem storeParts_keeps {w : Who} {ea : Word} {parts : List (List Byte)} : Keeps (storeParts w ea parts) := by
  have hall (l : List (Word × List Byte)) : Keeps (l.forM fun p => atAddr ea (writeMem w p.1 p.2 .no)) :=
    forM_keeps fun p => atAddr_keeps writeMem_keeps
  unfold storeParts
  refine Keeps.bind (forM_keeps fun p => atAddr_keeps (discard_keeps checkStore_keeps)) fun _ =>
    Keeps.bind (forM_keeps fun p => atAddr_keeps probeStore_keeps) fun _ => Keeps.of_run fun s hs => ?_
  split
  · next hr => exact (hall _).ok hs hr
  · exact hs

@[simp] theorem execWget_wf {c b a : BitVec 5} {s : State} (h : Memory.wf s.mem) : NextWf (execWget c b a s) := by
  refine runAct_wf ?_ h
  mvcgen [seqDone_keeps, accessEach_keeps, storeParts_keeps, withEntry_keeps, trap_keeps]

theorem forkNew_keeps {c : BitVec 5} {ea : Word} : Keeps (forkNew c ea) := by
  unfold forkNew
  -- the search of the die's 512 places stays closed
  generalize State.freeSeq = free
  refine Keeps.bind (access_keeps fun w => readMem_keeps) fun bs => Keeps.get_bind fun s hs => ?_
  split
  · exact seqarg_keeps
  · refine Keeps.bind (access_keeps fun w => Keeps.get_bind fun s hs => rangeFault_keeps) fun l =>
      Keeps.ite seqarg_keeps (Keeps.get_bind fun s hs => ?_)
    split
    · exact seqFail_keeps
    · refine Keeps.bind (fun s hs => ?_) fun _ => seqDone_keeps
      exact (congrArg Memory.wf (State.setSeq_mem _ _ _ _)).trans hs

@[simp] theorem execSqfork_wf {c b a : BitVec 5} {s : State} (h : Memory.wf s.mem) : NextWf (execSqfork c b a s) := by
  refine runAct_wf ?_ h
  -- the search of the die's 512 places stays closed
  generalize State.freeSeq = free
  refine Keeps.ite (Keeps.bind waitUntil_keeps fun _ => forkNew_keeps)
    (withSlot_keeps fun d k x => Keeps.ite seqarg_keeps (Keeps.get_bind fun u hu => ?_))
  split
  · exact seqFail_keeps
  · refine Keeps.bind (fun u hu => ?_) fun _ => seqDone_keeps
    exact (congrArg Memory.wf (State.setSeq_mem _ _ _ _)).trans ((congrArg Memory.wf (State.setSeq_mem _ _ _ _)).trans hu)

@[simp] theorem execSqstat_wf {c b a : BitVec 5} {s : State} (h : Memory.wf s.mem) : NextWf (execSqstat c b a s) := by
  refine runAct_wf ?_ h
  mvcgen [seqDone_keeps, accessEach_keeps, withSlot_keeps, storeParts_keeps, trap_keeps]

@[simp] theorem execSqiter_wf {c b a : BitVec 5} {s : State} (h : Memory.wf s.mem) : NextWf (execSqiter c b a s) := by
  refine runAct_wf ?_ h
  mvcgen [seqDone_keeps, seqarg_keeps, withSlot_keeps, change, trap_keeps]

/-! ### Debug -/

@[simp] theorem execDcapd_wf {c b a : BitVec 5} {s : State} (h : Memory.wf s.mem) : NextWf (execDcapd c b a s) := by
  refine runAct_wf ?_ h
  -- the search of the 1024 entries stays closed
  generalize firstBelow 1024 (fun i => (tfind s.caps i).isNone) = free
  mvcgen [trap_keeps, doneWith_keeps, change]

@[simp] theorem State.resumeStrand_wf {s : State} {sid : Nat} (h : Memory.wf s.mem) : Memory.wf (s.resumeStrand sid).mem := by
  fun_cases State.resumeStrand <;> simp +zetaDelta [h]

@[simp] theorem State.resumeTenant_wf {s : State} {t : Nat} (h : Memory.wf s.mem) : Memory.wf (s.resumeTenant t).mem :=
  State.foldl_wf (s := s) _ _ (fun _ _ hu => State.resumeStrand_wf hu) h

@[simp] theorem State.revokeCaps_wf {s : State} {l : List Nat} (h : Memory.wf s.mem) : Memory.wf (s.revokeCaps l).mem :=
  State.foldl_wf (s := s) _ _ (fun _ _ hu => State.resumeTenant_wf hu) h

@[simp] theorem execDcapr_wf {c a : BitVec 5} {s : State} (h : Memory.wf s.mem) : NextWf (execDcapr c a s) := by
  refine runAct_wf ?_ h
  mvcgen [waitUntil_keeps, doneWith_keeps, change, trap_keeps]
  simp +zetaDelta [*]

@[simp] theorem execDcapq_wf {c a : BitVec 5} {s : State} (h : Memory.wf s.mem) : NextWf (execDcapq c a s) := by
  refine runAct_wf ?_ h
  mvcgen [doneWith_keeps, trap_keeps]

@[simp] theorem execTrmark_wf {a : BitVec 5} {s : State} (h : Memory.wf s.mem) : NextWf (execTrmark a s) := by
  refine runAct_wf ?_ h
  mvcgen [done_keeps, change]
  simp +zetaDelta [*]

@[simp] theorem execSliprd_wf {c a : BitVec 5} {s : State} (h : Memory.wf s.mem) : NextWf (execSliprd c a s) := by
  refine runAct_wf ?_ h
  mvcgen [doneWith_keeps, trap_keeps]

theorem State.haltTenant_end_wf {s u : State} {t : Nat} {cap : Option Nat} {b : Bool} (h : s.haltTenant t cap = (b, u)) (hs : Memory.wf s.mem) :
    Memory.wf u.mem := by
  have hm := State.haltTenant_mem s t cap
  rw [h] at hm
  replace hm : u.mem = s.mem := hm
  rwa [hm]

theorem State.dbgOnStrand_wf {s : State} {by_ : DbgBy} {op sid : Nat} {cap : Option Nat} {a1 a2 : Word} (h : Memory.wf s.mem) :
    DbgEndWf (s.dbgOnStrand by_ op sid cap a1 a2) := by
  fun_cases State.dbgOnStrand
  case case7 hw => simp [State.dbgWrite_mem _ _ _ _ _ hw, h]
  all_goals simp +zetaDelta [h]

@[simp] theorem State.resumeStopped_wf {s : State} {sid : Nat} (h : Memory.wf s.mem) : Memory.wf (s.resumeStopped sid).mem := by
  simp [State.resumeStopped, h]

theorem State.dbgCommand_wf {s : State} {by_ : DbgBy} {op : Nat} {cmd a0 a1 a2 : Word} (h : Memory.wf s.mem) :
    DbgEndWf (s.dbgCommand by_ op cmd a0 a1 a2) := by
  unfold State.dbgCommand
  split
  · simp
  · split
    · simp
    · extract_lets stopped t
      split
      · have hd := State.descr_wf (t := t) h
        generalize s.descr t = q at hd ⊢
        obtain ⟨d, u⟩ := q
        replace hd : Memory.wf u.mem := hd
        cases d with
        | none => exact hd
        | some d =>
          dsimp only
          split
          · exact hd
          · split
            · simp
            · split
              · split
                · next hh => exact State.haltTenant_end_wf hh hd
                · next hh => exact State.haltTenant_end_wf hh hd
              · split <;> simp [hd]
      · (repeat' split) <;> simp [State.dbgOnStrand_wf, h]

theorem State.dbgOf_wf {s : State} {sid op : Nat} {cmd : Word} (h : Memory.wf s.mem) :
    DbgEndWf (s.dbgOf sid op cmd) := State.dbgCommand_wf h

@[simp] theorem dbgStep_wf {op core slot : Nat} {s : State} (h : Memory.wf s.mem) : NextWf (dbgStep op core slot s) := by
  have hd := State.dbgOf_wf (sid := core * 8 + slot) (op := op) (cmd := word op) h
  unfold dbgStep
  dsimp only
  generalize s.dbgOf _ _ _ = e at hd ⊢
  cases e <;> simp_all

@[simp] theorem execDbgHalt_wf {core slot : Nat} {s : State} (h : Memory.wf s.mem) : NextWf (execDbgHalt core slot s) := by
  unfold execDbgHalt
  dsimp only
  split
  · split
    · next hh => simpa using State.haltTenant_end_wf hh h
    · next hh => simpa using State.haltTenant_end_wf hh h
  · exact dbgStep_wf h

@[simp] theorem execDebugPortCommand_wf {code : Nat} {a0 a1 a2 : Word} {s : State} (h : Memory.wf s.mem) :
    NextWf (execDebugPortCommand code a0 a1 a2 s) := by
  unfold execDebugPortCommand
  split
  · simpa
  · have hd := State.dbgCommand_wf (by_ := { all := true, pd := 0, setter := 2 ^ 20 }) (op := code) (cmd := word code) (a0 := a0)
      (a1 := a1) (a2 := a2) h
    generalize State.dbgCommand _ _ _ _ _ _ _ = e at hd ⊢
    cases e <;> simp_all

@[simp] theorem execBreakpointStop_wf {core slot : Nat} {s : State} (h : Memory.wf s.mem) : NextWf (execBreakpointStop core slot s) := by
  unfold execBreakpointStop
  dsimp only
  split
  · split
    · next hs => simpa using State.stopIfArmed_wf h hs
    · simpa
  · simpa

@[simp] theorem execDebugHoldNotice_wf {tenant : Nat} {s : State} (h : Memory.wf s.mem) : NextWf (execDebugHoldNotice tenant s) := by
  simp [execDebugHoldNotice, h]

@[simp] theorem execDebugHoldWithdrawal_wf {tenant : Nat} {s : State} (h : Memory.wf s.mem) :
    NextWf (execDebugHoldWithdrawal tenant s) := by
  simp [execDebugHoldWithdrawal, h]

/-! ### Service -/

@[simp] theorem State.undoLine_wf {s : State} {l : SagLine} (h : Memory.wf s.mem) : Memory.wf (s.undoLine l).mem := by
  fun_cases State.undoLine <;> simp [h]

@[simp] theorem State.discardKey_wf {s : State} {i : Nat} (h : Memory.wf s.mem) : Memory.wf (s.discardKey i).mem := by
  refine State.foldl_wf _ _ (fun _ _ hu => State.undoLine_wf hu) (State.foldl_wf _ _ (fun u x hu => ?_) h)
  dsimp only
  split <;> simp [hu]

@[simp] theorem State.deleteKey_wf {s : State} {i : Nat} (h : Memory.wf s.mem) : Memory.wf (s.deleteKey i).mem := by
  simp [State.deleteKey, h]

@[simp] theorem State.wipeKeys_wf {s : State} (h : Memory.wf s.mem) : Memory.wf (s.wipeKeys).mem := by
  refine (congrArg Memory.wf (State.measure_mem _ _ _ _)).trans (State.foldl_wf (s := s) _ _ (fun u x hu => ?_) h)
  simp [hu]

theorem probeLoad_keeps {w : Who} {ea : Word} {n : Nat} : Keeps (probeLoad w ea n) := by
  mvcgen [probeLoad, translate_keeps, checkAccess_keeps]

theorem spanReadable_keeps {a : Word} {n : Nat} : Keeps (spanReadable a n) := by
  mvcgen [spanReadable, access_keeps, forEach_keeps, probeLoad_keeps]

theorem spanWritable_keeps {a : Word} {n : Nat} : Keeps (spanWritable a n) := by
  mvcgen [spanWritable, access_keeps, probeStore_keeps, forEach_keeps]

theorem spanRead_keeps {bl : List (Word × Nat)} : Keeps (spanRead bl) := by
  induction bl with
  | nil => exact Keeps.pure _
  | cons b r ih => exact Keeps.bind (access_keeps fun _ => readMem_keeps) fun _ => Keeps.bind ih fun _ => Keeps.pure _

theorem spanWrite_keeps {bl : List (Word × Nat)} {bs : List Byte} : Keeps (spanWrite bl bs) := by
  induction bl generalizing bs with
  | nil => exact Keeps.pure _
  | cons b r ih => exact Keeps.bind (access_keeps fun _ => writeMem_keeps) fun _ => ih

theorem aligned64_keeps {a : Word} : Keeps (aligned64 a) := by
  mvcgen [aligned64, trap_keeps]

theorem svcarg_keeps {α : Type} {detail : Nat} {x : Word} : Keeps (svcarg detail x : Act α) := by
  mvcgen [svcarg, trap_keeps]

@[simp] theorem execAttest_wf {c b a : BitVec 5} {s : State} (h : Memory.wf s.mem) : NextWf (execAttest c b a s) := by
  refine runAct_wf ?_ h
  mvcgen [spanReadable_keeps, spanWrite_keeps, waitUntil_keeps, spanWritable_keeps, spanRead_keeps, aligned64_keeps, doneWith_keeps,
    ecSupervisor_keeps]

@[simp] theorem execKeynew_wf {c a : BitVec 5} {s : State} (h : Memory.wf s.mem) : NextWf (execKeynew c a s) := by
  refine runAct_wf ?_ h
  mvcgen [svcarg_keeps, ecMonitor_keeps, waitUntil_keeps, doneWith_keeps]
  simp +zetaDelta [*]

@[simp] theorem execKeydel_wf {c a : BitVec 5} {s : State} (h : Memory.wf s.mem) : NextWf (execKeydel c a s) := by
  refine runAct_wf ?_ h
  mvcgen [svcarg_keeps, ecMonitor_keeps, waitUntil_keeps, doneWith_keeps, change]
  simp +zetaDelta [*]

@[simp] theorem execFuserd_wf {c a : BitVec 5} {s : State} (h : Memory.wf s.mem) : NextWf (execFuserd c a s) := by
  refine runAct_wf ?_ h
  mvcgen [svcarg_keeps, waitUntil_keeps, doneWith_keeps, trap_keeps]

@[simp] theorem State.retirePackage_wf {s : State} (h : Memory.wf s.mem) : Memory.wf (s.retirePackage).mem := by
  simp [State.retirePackage, h]

@[simp] theorem execLcstat_wf {c a : BitVec 5} {s : State} (h : Memory.wf s.mem) : NextWf (execLcstat c a s) := by
  refine runAct_wf ?_ h
  mvcgen [svcarg_keeps, waitUntil_keeps, doneWith_keeps, change, trap_keeps]
  simp +zetaDelta [*]

@[simp] theorem execMeasx_wf {c b a : BitVec 5} {s : State} (h : Memory.wf s.mem) : NextWf (execMeasx c b a s) := by
  refine runAct_wf ?_ h
  mvcgen [spanReadable_keeps, spanWrite_keeps, svcarg_keeps, waitUntil_keeps, spanWritable_keeps, spanRead_keeps, aligned64_keeps,
    doneWith_keeps, change, trap_keeps]

@[simp] theorem State.unlock_wf {s : State} {tok : List Byte} (h : Memory.wf s.mem) : Memory.wf (s.unlock tok).mem := by
  simp [State.unlock, h]

@[simp] theorem execDbgunlk_wf {c a : BitVec 5} {s : State} (h : Memory.wf s.mem) : NextWf (execDbgunlk c a s) := by
  refine runAct_wf ?_ h
  mvcgen [spanReadable_keeps, ecMonitor_keeps, waitUntil_keeps, spanRead_keeps, aligned64_keeps, doneWith_keeps, change]
  simp +zetaDelta [*]

/-! ### Boot -/

@[simp] theorem State.hbmOnly_wf {s : State} (h : Memory.wf s.mem) : Memory.wf (s.hbmOnly).mem := by
  refine State.foldl_wf _ _ (fun _ _ hu => State.undoLine_wf hu) (State.foldl_wf (s := s) _ _ (fun u x hu => ?_) h)
  split <;> simp [hu]

@[simp] theorem State.booting_wf {s : State} {powerOn : Bool} (h : Memory.wf s.mem) : Memory.wf (s.booting powerOn).mem := by
  simp [State.booting, State.keptMem, filter_wf, h]

@[simp] theorem State.boot_wf {s : State} {powerOn : Bool} (h : Memory.wf s.mem) : Memory.wf (s.boot powerOn).mem := by
  unfold State.boot
  have hb := State.booting_wf (powerOn := powerOn) h
  generalize s.booting powerOn = u at hb ⊢
  simp only [apply_ite State.mem, State.safeState_mem, State.foldl_mem _ _ (fun (s : State) d => State.modDie_mem s d _)]
  simp [hb]

@[simp] theorem execPowerOn_wf {s : State} (h : Memory.wf s.mem) : NextWf (execPowerOn s) := by
  simp [execPowerOn, h]

@[simp] theorem execPackageReset_wf {s : State} (h : Memory.wf s.mem) : NextWf (execPackageReset s) := by
  simp [execPackageReset, h]

@[simp] theorem execCalibrationComplete_wf {die : Nat} {s : State} (h : Memory.wf s.mem) : NextWf (execCalibrationComplete die s) := by
  unfold execCalibrationComplete
  generalize islandsOfDie die = is
  split
  · exact (nextWf_next _).2 h
  · refine (nextWf_next _).2 ((congrArg Memory.wf (State.packageCalibrated_mem _)).trans ?_)
    have hset := State.foldl_wf is (fun s i => State.setPoint s i 17) (fun _ _ hu => by simpa) h
    have hdie := (congrArg Memory.wf (State.modDie_mem _ die (fun d => { d with full := true }))).trans hset
    generalize State.modDie _ _ _ = u at hdie ⊢
    split <;> exact hdie

@[simp] theorem execCorrectedErrorEvent_wf {kind unit : Nat} {uncorrectable : Bool} {s : State} (h : Memory.wf s.mem) :
    NextWf (execCorrectedErrorEvent kind unit uncorrectable s) := by
  fun_cases execCorrectedErrorEvent <;> simp [h]

@[simp] theorem execSpareTakeover_wf {kind unit : Nat} {s : State} (h : Memory.wf s.mem) : NextWf (execSpareTakeover kind unit s) := by
  fun_cases execSpareTakeover <;> simp +zetaDelta [h]

@[simp] theorem execFlitReceive_wf {link : Nat} {ok : Bool} {s : State} (h : Memory.wf s.mem) : NextWf (execFlitReceive link ok s) := by
  fun_cases execFlitReceive <;> simp +zetaDelta [h]

@[simp] theorem execPowerCapLower_wf {island : Nat} {s : State} (h : Memory.wf s.mem) : NextWf (execPowerCapLower island s) := by
  fun_cases execPowerCapLower <;> simp +zetaDelta [h]

@[simp] theorem execPowerCapRaise_wf {s : State} (h : Memory.wf s.mem) : NextWf (execPowerCapRaise s) := by
  fun_cases execPowerCapRaise <;> simp +zetaDelta [h]

@[simp] theorem execLockBroken_wf {island : Nat} {s : State} (h : Memory.wf s.mem) : NextWf (execLockBroken island s) := by
  unfold execLockBroken
  generalize List.range 640 = is
  dsimp only
  split
  · simpa
  · split
    · simpa
    · simp [State.foldl_mem _ _ (fun (s : State) i => State.setPoint_mem s i _), h]

/-! ### HostPort -/

@[simp] theorem execHostPostedWrite_wf {port target addr : Nat} {data : List Byte} {s : State} (h : Memory.wf s.mem) :
    NextWf (execHostPostedWrite port target addr data s) := by
  fun_cases execHostPostedWrite <;> simp +zetaDelta [h]

@[simp] theorem State.applyPosted_wf {s : State} {port : Nat} {w : Posted} (h : Memory.wf s.mem) : Memory.wf (s.applyPosted port w).mem :=
  State.foldl_wf _ _ (fun _ _ hu => State.arriveHome_wf hu) (State.clearCovered_wf h)

@[simp] theorem execHostWritePerform_wf {port stamp : Nat} {s : State} (h : Memory.wf s.mem) :
    NextWf (execHostWritePerform port stamp s) := by
  fun_cases execHostWritePerform <;> simp +zetaDelta [h]

@[simp] theorem execSubmitRecord_wf {port : Nat} {s : State} (h : Memory.wf s.mem) : NextWf (execSubmitRecord port s) := by
  unfold execSubmitRecord
  split
  · simpa
  · next w _ =>
    split
    · simpa
    · have hc := State.checkRecord_wf (r := recordOf w.data)
        (key := if (recordOf w.data).key = 0 then none else some (recordOf w.data).key.toNat) (issuer := none) (port := some port) h
      dsimp only
      generalize State.checkRecord _ _ _ _ _ = q at hc ⊢
      obtain ⟨code, u⟩ := q
      simpa [apply_ite State.mem] using hc

@[simp] theorem execHostRead_wf {port addr len : Nat} {s : State} (h : Memory.wf s.mem) : NextWf (execHostRead port addr len s) := by
  unfold execHostRead
  split
  · simpa
  · split
    · simp [h]
    · split
      · simpa
      · split
        · simpa
        · split
          · simpa
          · split
            · next hr => simpa using homeRead_keeps.ok h hr
            · next hr => simpa using homeRead_keeps.error h hr

@[simp] theorem execPcieConfigAccess_wf {port offset : Nat} {write : Bool} {data : Nat} {s : State} (h : Memory.wf s.mem) :
    NextWf (execPcieConfigAccess port offset write data s) := by
  unfold execPcieConfigAccess
  dsimp only
  split
  · simpa
  · split
    · simpa
    · simpa

@[simp] theorem mailbox_wf {port code : Nat} {f : State → State} {s : State} (hf : Memory.wf (f s).mem) (h : Memory.wf s.mem) :
    NextWf (mailbox port code f s) := by
  unfold mailbox
  split <;> simp [hf, h]

@[simp] theorem execMboxStatus_wf {port : Nat} {s : State} (h : Memory.wf s.mem) : NextWf (execMboxStatus port s) := by
  simp [execMboxStatus, h]

@[simp] theorem execLogread_wf {port : Nat} {s : State} (h : Memory.wf s.mem) : NextWf (execLogread port s) := by
  simp [execLogread, h]

@[simp] theorem execStage_wf {port : Nat} {s : State} (h : Memory.wf s.mem) : NextWf (execStage port s) := by
  simp [execStage, h]

@[simp] theorem execMboxBoot_wf {port : Nat} {s : State} (h : Memory.wf s.mem) : NextWf (execMboxBoot port s) := by
  fun_cases execMboxBoot <;> simp [h]

@[simp] theorem execDcmd_wf {port : Nat} {s : State} (h : Memory.wf s.mem) : NextWf (execDcmd port s) := by
  unfold execDcmd
  split
  · simpa
  · split
    · simpa
    · next hu => simpa using State.dcmd_wf (by simpa) hu

@[simp] theorem execRoute_wf {port : Nat} {s : State} (h : Memory.wf s.mem) : NextWf (execRoute port s) := by
  fun_cases execRoute <;> simp [h]

@[simp] theorem execMboxBadCommand_wf {port : Nat} {s : State} (h : Memory.wf s.mem) : NextWf (execMboxBadCommand port s) := by
  fun_cases execMboxBadCommand <;> simp [h]

/-! ### Ctl -/

theorem ctlCheck_keeps {n : Nat} {writes : Bool} {i : Instr} : Keeps (ctlCheck n writes i) := by
  mvcgen [ctlCheck, require_keeps]

@[simp] theorem execCtlr_wf {rd : BitVec 6} {reg : BitVec 10} {s : State} (h : Memory.wf s.mem) : NextWf (execCtlr rd reg s) := by
  refine runAct_wf ?_ h
  mvcgen [ctlCheck_keeps, doneWith_keeps]

theorem dbgWriteAct_keeps {rd : BitVec 6} {x : Word} : Keeps (dbgWriteAct rd x) := by
  refine Keeps.get_bind fun s hs => ?_
  have hd := State.dbgOf_wf (sid := s.curSid) (op := bits x 7 0) (cmd := x) hs
  generalize s.dbgOf _ _ _ = e at hd ⊢
  cases e with
  | trap => exact trap_keeps
  | waits t cap u => exact fun _ _ => by simpa using hd
  | done code a2 u => exact Keeps.bind (fun _ _ => by simpa using hd) fun _ => doneWith_keeps

theorem dcmdAct_keeps {rd : BitVec 6} {x : Word} : Keeps (dcmdAct rd x) := by
  refine Keeps.get_bind fun s hs => ?_
  split
  · exact stall_keeps
  · next hu =>
    have := State.dcmd_wf hs hu
    mvcgen [doneWith_keeps]

theorem ctlWriteAct_keeps {rd : BitVec 6} {n : Nat} {old x : Word} : Keeps (ctlWriteAct rd n old x) := by
  mvcgen [ctlWriteAct, dbgWriteAct_keeps, dcmdAct_keeps, doneWith_keeps, change]
  simp +zetaDelta [*]

@[simp] theorem execCtlw_wf {rd rs1 : BitVec 6} {reg : BitVec 10} {s : State} (h : Memory.wf s.mem) : NextWf (execCtlw rd rs1 reg s) := by
  refine runAct_wf ?_ h
  mvcgen [ctlCheck_keeps, ctlWriteAct_keeps]

@[simp] theorem execCtlset_wf {rd rs1 : BitVec 6} {reg : BitVec 10} {s : State} (h : Memory.wf s.mem) :
    NextWf (execCtlset rd rs1 reg s) := by
  refine runAct_wf ?_ h
  mvcgen [ctlCheck_keeps, ctlWriteAct_keeps]

@[simp] theorem execCtlclr_wf {rd rs1 : BitVec 6} {reg : BitVec 10} {s : State} (h : Memory.wf s.mem) :
    NextWf (execCtlclr rd rs1 reg s) := by
  refine runAct_wf ?_ h
  mvcgen [ctlCheck_keeps, ctlWriteAct_keeps]

@[simp] theorem writeStep_wf {core slot n : Nat} {x : Word} {s : State} (h : Memory.wf s.mem) : NextWf (writeStep core slot n x s) := by
  fun_cases writeStep <;> simp [h]

@[simp] theorem execRegisterWrite_wf {core slot num : Nat} {value : Word} {s : State} (h : Memory.wf s.mem) :
    NextWf (execRegisterWrite core slot num value s) := by
  fun_cases execRegisterWrite <;> simp [h]

/-! ### Turn -/

@[simp] theorem State.afterExec_wf {s0 armed s : State} {sid : Nat} {i : Option Instr} (ha : Memory.wf armed.mem) (h : Memory.wf s.mem) :
    Memory.wf (State.afterExec s0 armed s sid i).mem := by
  fun_cases State.afterExec
  case case5 hs _ _ _ _ => exact State.stopIfArmed_wf ha hs
  all_goals simp +zetaDelta [h]

@[simp] theorem runIllegal_wf {w : Nat} {s : State} (h : Memory.wf s.mem) : NextWf (runIllegal w s) := by
  have ht : NextWf (runAct (trap 0 xIllegal (word w)) (s.armAddress s.curSid)) := runAct_wf trap_keeps (by simpa)
  unfold runIllegal
  split
  · next hr => exact (nextWf_next _).2 (State.afterExec_wf (by simpa) (ht _ hr))
  · simp
  · simp

@[simp] theorem State.feTurn_wf {s : State} {sid : Nat} (h : Memory.wf s.mem) : Memory.wf (s.feTurn sid).mem := by
  simp [State.feTurn, h]

@[simp] theorem State.advanceEach_wf {s : State} {n : Nat} (h : Memory.wf s.mem) : Memory.wf (s.advanceEach n).mem := by
  induction n generalizing s with
  | zero => exact h
  | succ n ih => exact ih (State.deliverWindow_wf (by simpa))

@[simp] theorem State.passCycles_wf {s : State} {n : Nat} (h : Memory.wf s.mem) : Memory.wf (s.passCycles n).mem := by
  simp [State.passCycles, h]

/-! ### The step -/

theorem exec_wf {i : Instr} {s : State} (h : Memory.wf s.mem) : NextWf (exec i s) := by
  cases i with
  | add | sub | mul | mulh | mulhu | div | divu | rem | remu | and | or | xor | andn | shl | shr | sha | rot | slt | sltu | min |
    max | minu | maxu | clz | ctz | popc | sext | zext | addi | andi | ori | xori | slti | sltiu | shli | shri | shai | lih | cMv |
    cAdd | cSub | cAnd | cOr | cXor | cSlt | cNeg | cLi | cAddi | cShli | cShri | cShai | cAddsp =>
    exact State.putReg_wf h
  | loxi | loxiSh | lox | movox => exact State.putOx_wf h
  | fadd | fsub | fmul | fdiv | fmin | fmax | fcmp | fsqrt | fclass | ffma | fcvt => exact State.putFp_wf h
  | ldb | ldbu | ldh | ldhu | ldw | ldwu | ldd | cLdw | cLdd | cLdsp => exact runAct_wf loadReg_keeps h
  | stb | sth | stw | std | cStw | cStd | cStsp => exact runAct_wf storeReg_keeps h
  | beq | bne | blt | bge | bltu | bgeu | cBeqz | cBnez => exact State.branch_wf h
  | jal | jalr | cJal => exact State.link_wf h
  | svc => exact runAct_wf trapTo_keeps h
  | scld | scst | scswp => exact runAct_wf scAct_keeps h
  | ldfe | ldff | stfe | stff => exact runAct_wf feAct_keeps h
  | aadd | aswp | acas | aminSigned | amaxSigned | aminUnsigned | amaxUnsigned => exact runAct_wf atomicAct_keeps h
  | mop | mopd | mops => exact runAct_wf mopAct_keeps h
  | cpy | cpyf | cpym | cpys => exact runAct_wf copyAct_keeps h
  | pcreate | pdissolve | tplace | tremove | reserve | release | hwgrant => exact dcmdStep_wf h
  | sample | sampleDraft => exact runAct_wf sampleAct_keeps h
  | dbgResume | rdreg | wrreg | dbgCancel | setbp | clrbp | brkcap | trset => exact dbgStep_wf h
  | ipendClear | vqpop | fqtailWrite | trtailWrite | shrent2Write | svpop | ipointWrite => exact writeStep_wf h
  | fenceSv | fenceVs | fenceVv | vaddIvv | vsubIvv | vmulIvv | vmulh | vdivIvv | vminIvv | vmaxIvv | vandIvv | vor | vxor |
    vshlIvv | vshrIvv | vadds | vsubs | vaddIvx | vsubIvx | vmulIvx | vminIvx | vmaxIvx | vandIvx | vshlIvx | vshrIvx | vaddFvv |
    vsubFvv | vmulFvv | vdivFvv | vminFvv | vmaxFvv | vaddFvx | vsubFvx | vmulFvx | vdivFvx | vminFvx | vmaxFvx | vfma | vfms |
    vfnma | vcmp | vsel | vbcast | vext | vins | vslideup | vslidedn | vperm | vcompress | vexpand | viota | vred | vscan | vdot |
    vsqrt | vrcp | vrsq | vexp2 | vlog2 | vcvt | efget | efset | kand | kor | kxor | kandn | knot | kmov | kpop | kfirst | kset |
    kget | vld | vlds | vldx | vldSl | vst | vsts | vstx | vstSl | vldt | vstt | vldc | vpf | vamo | vrdm =>
    exact runAct_wf enqueue_keeps h
  | rsv => exact execRsv_wf h
  | rls => exact execRls_wf h
  | brk => exact execBrk_wf h
  | rett => exact execRett_wf h
  | waiti => exact execWaiti_wf h
  | halt => exact execHalt_wf h
  | ipi => exact execIpi_wf h
  | ctlr => exact execCtlr_wf h
  | ctlw => exact execCtlw_wf h
  | ctlset => exact execCtlset_wf h
  | ctlclr => exact execCtlclr_wf h
  | ctxsave => exact execCtxsave_wf h
  | ctxload => exact execCtxload_wf h
  | amsend => exact execAmsend_wf h
  | amret => exact execAmret_wf h
  | fenceI => exact execFenceI_wf h
  | fenceA => exact execFenceA_wf h
  | acq => exact execAcq_wf h
  | rel => exact execRel_wf h
  | flushr => exact execFlushr_wf h
  | setvl => exact execSetvl_wf h
  | setmvl => exact execSetmvl_wf h
  | mzero => exact execMzero_wf h
  | mwait => exact execMwait_wf h
  | mprg => exact execMprg_wf h
  | mhdr => exact execMhdr_wf h
  | mmas => exact execMmas_wf h
  | mrd => exact execMrd_wf h
  | mwr => exact execMwr_wf h
  | mld => exact execMld_wf h
  | mst => exact execMst_wf h
  | rowcls => exact execRowcls_wf h
  | cpwait => exact execCpwait_wf h
  | cpqry => exact execCpqry_wf h
  | cbinit => exact execCbinit_wf h
  | cbacq => exact execCbacq_wf h
  | cbrel => exact execCbrel_wf h
  | lfmt => exact execLfmt_wf h
  | binit => exact execBinit_wf h
  | barv => exact execBarv_wf h
  | bwait => exact execBwait_wf h
  | bfree => exact execBfree_wf h
  | mbsend => exact execMbsend_wf h
  | mbrecv => exact execMbrecv_wf h
  | mbpeek => exact execMbpeek_wf h
  | gsub => exact execGsub_wf h
  | gdep => exact execGdep_wf h
  | gdone => exact execGdone_wf h
  | gwait => exact execGwait_wf h
  | sfdecl => exact execSfdecl_wf h
  | sfnext => exact execSfnext_wf h
  | sfend => exact execSfend_wf h
  | ftset => exact execFtset_wf h
  | migr => exact execMigr_wf h
  | tkapp => exact execTkapp_wf h
  | tkdraft => exact execTkdraft_wf h
  | tkconf => exact execTkconf_wf h
  | wset => exact execWset_wf h
  | wget => exact execWget_wf h
  | sqfork => exact execSqfork_wf h
  | sqstat => exact execSqstat_wf h
  | sqiter => exact execSqiter_wf h
  | dcapd c b a => exact execDcapd_wf (c := c) (b := b) (a := a) h
  | dcapr => exact execDcapr_wf h
  | dcapq => exact execDcapq_wf h
  | trmark => exact execTrmark_wf h
  | sliprd => exact execSliprd_wf h
  | attest => exact execAttest_wf h
  | keynew => exact execKeynew_wf h
  | keydel => exact execKeydel_wf h
  | fuserd => exact execFuserd_wf h
  | lcstat => exact execLcstat_wf h
  | dbgunlk => exact execDbgunlk_wf h
  | measx => exact execMeasx_wf h
  | plbinv => exact execPlbinv_wf h
  | tlbinv => exact execTlbinv_wf h
  | pgwake => exact execPgwake_wf h
  | pgqry => exact execPgqry_wf h
  | pgpin => exact execPgpin_wf h
  | mscfl => exact execMscfl_wf h
  | hbmslot => exact execHbmslot_wf h
  | tenset => exact execTenset_wf h
  | vcres => exact execVcres_wf h
  | cJr => exact execCJr_wf h
  | interruptEntry => exact execInterruptEntry_wf h
  | timerInterrupt => exact execTimerInterrupt_wf h
  | vectorEntryComplete => exact execVectorEntryComplete_wf h
  | eptimeout => exact execEptimeout_wf h
  | laneGrant => exact execLaneGrant_wf h
  | asyncFaultTrap => exact execAsyncFaultTrap_wf h
  | asyncPageFaultDrop => exact execAsyncPageFaultDrop_wf h
  | walkComplete => exact execWalkComplete_wf h
  | plbFill => exact execPlbFill_wf h
  | faultRecordWrite => exact execFaultRecordWrite_wf h
  | matrixCmdAccept => exact execMatrixCmdAccept_wf h
  | matrixCmdPerform => exact execMatrixCmdPerform_wf h
  | mmasKrowApply => exact execMmasKrowApply_wf h
  | matrixCmdFinish => exact execMatrixCmdFinish_wf h
  | copyCmdAccept => exact execCopyCmdAccept_wf h
  | copyChunkRegister => exact execCopyChunkRegister_wf h
  | copyFollowonIssue => exact execCopyFollowonIssue_wf h
  | copySlotTake => exact execCopySlotTake_wf h
  | mergeEntryClose => exact execMergeEntryClose_wf h
  | mergeRequest => exact execMergeRequest_wf h
  | feAccessArrive => exact execFeAccessArrive_wf h
  | fetimeout => exact execFetimeout_wf h
  | feCancel => exact execFeCancel_wf h
  | rsvRequest => exact execRsvRequest_wf h
  | rsvGrant => exact execRsvGrant_wf h
  | mailboxArrival => exact execMailboxArrival_wf h
  | amArrival => exact execAmArrival_wf h
  | amHandlerStart => exact execAmHandlerStart_wf h
  | registration => exact execRegistration_wf h
  | revocationNotice => exact execRevocationNotice_wf h
  | homeReadResponse => exact execHomeReadResponse_wf h
  | scWindowDeliver => exact execScWindowDeliver_wf h
  | hostPostedWrite => exact execHostPostedWrite_wf h
  | hostWritePerform => exact execHostWritePerform_wf h
  | hostRead => exact execHostRead_wf h
  | spillWritebackDone => exact execSpillWritebackDone_wf h
  | channelSlotBoundary => exact execChannelSlotBoundary_wf h
  | packetRoute => exact execPacketRoute_wf h
  | escapeChannelMove => exact execEscapeChannelMove_wf h
  | flitReceive => exact execFlitReceive_wf h
  | msgSwitchArrival => exact execMsgSwitchArrival_wf h
  | ualinkMessageReceive => exact execUalinkMessageReceive_wf h
  | ptpMessageReceive => exact execPtpMessageReceive_wf h
  | ppsEdge => exact execPpsEdge_wf h
  | timeSyncLoss => exact execTimeSyncLoss_wf h
  | submitRecord => exact execSubmitRecord_wf h
  | placementDecision => exact execPlacementDecision_wf h
  | firingSlotBoundary => exact execFiringSlotBoundary_wf h
  | migrationTransfer => exact execMigrationTransfer_wf h
  | debugHoldNotice => exact execDebugHoldNotice_wf h
  | breakpointStop => exact execBreakpointStop_wf h
  | debugPortCommand => exact execDebugPortCommand_wf h
  | dbgHalt => exact execDbgHalt_wf h
  | mboxStatus => exact execMboxStatus_wf h
  | logread => exact execLogread_wf h
  | stage => exact execStage_wf h
  | mboxBoot => exact execMboxBoot_wf h
  | dcmd => exact execDcmd_wf h
  | route => exact execRoute_wf h
  | mboxBadCommand => exact execMboxBadCommand_wf h
  | pcieConfigAccess => exact execPcieConfigAccess_wf h
  | powerOn => exact execPowerOn_wf h
  | packageReset => exact execPackageReset_wf h
  | calibrationComplete => exact execCalibrationComplete_wf h
  | correctedErrorEvent => exact execCorrectedErrorEvent_wf h
  | powerCapLower => exact execPowerCapLower_wf h
  | powerCapRaise => exact execPowerCapRaise_wf h
  | lockBroken => exact execLockBroken_wf h
  | registerWrite => exact execRegisterWrite_wf h
  | vamoVrdmElementAtHome => exact execVamoVrdmElementAtHome_wf h
  | debugHoldWithdrawal => exact execDebugHoldWithdrawal_wf h
  | linkFrameBoundary => exact execLinkFrameBoundary_wf h
  | ualinkRemoteRequest => exact execUalinkRemoteRequest_wf h
  | spareTakeover => exact execSpareTakeover_wf h

@[simp] theorem runInstr_wf {i : Instr} {s : State} (h : Memory.wf s.mem) : NextWf (runInstr i s) := by
  have harm : Memory.wf (s.armAddress s.curSid).mem := by simpa
  have hplain : NextWf (match exec i (s.armAddress s.curSid) with
      | .next s' =>
        let s' := s.afterExec (s.armAddress s.curSid) s' s.curSid (some i)
        .next (match i with | .setvl _ _ _ => s.stripStop s' s.curSid | .setmvl _ _ _ => s.stripStop s' s.curSid | _ => s')
      | .fault f => .fault f
      | .refused r => .refused r) := by
    split
    · next u hr =>
      have hu := State.afterExec_wf (s0 := s) (sid := s.curSid) (i := some i) harm (exec_wf harm u hr)
      refine (nextWf_next _).2 ?_
      split
      · exact State.stripStop_wf hu
      · exact State.stripStop_wf hu
      · exact hu
    · simp
    · simp
  unfold runInstr
  extract_lets sid plain
  split
  · split
    · next hs => exact (nextWf_next _).2 (State.stopIfArmed_wf h hs)
    · exact hplain
  · exact hplain

@[simp] theorem issueWord_wf {s : State} (h : Memory.wf s.mem) : NextWf (issueWord s) := by
  unfold issueWord
  split
  · exact runInstr_wf h
  · split
    · next hr =>
      have hu := fetchWord_keeps.error h hr
      exact (nextWf_next _).2 (State.afterExec_wf h hu)
    · next hr =>
      have hu := fetchWord_keeps.ok h hr
      split
      · exact runIllegal_wf hu
      · refine runInstr_wf ?_
        split <;> simpa

@[simp] theorem goOn_wf {sid : Nat} {s : State} (h : Memory.wf s.mem) : NextWf (goOn sid s) := by
  unfold goOn
  split
  · exact issueWord_wf h
  · split
    · next hr => simpa using runInstr_wf h _ hr
    · simp
    · simp

@[simp] theorem issueFree_wf {sid : Nat} {s : State} (h : Memory.wf s.mem) : NextWf (issueFree sid s) := by
  unfold issueFree
  split
  · split
    · next hs => simpa [State.takeInterrupt_mem _ _ _ hs]
    · simpa
  · split
    · simpa
    · refine issueWord_wf ?_
      split <;> simpa

@[simp] theorem offer_wf {core slot : Nat} {s : State} (h : Memory.wf s.mem) : NextWf (offer core slot s) := by
  unfold offer
  extract_lets sid u t
  have hu : Memory.wf u.mem := h
  split
  · simpa
  · split
    · next hs => exact (nextWf_next _).2 (State.takeAsync_wf hu hs)
    · (repeat' split) <;> simp [hu]

@[simp] theorem rotateFrom_wf {core last : Nat} {ds : List Nat} {s : State} (h : Memory.wf s.mem) : NextWf (rotateFrom core last ds s) := by
  induction ds generalizing s with
  | nil => simpa [rotateFrom]
  | cons d r ih =>
    unfold rotateFrom
    extract_lets k
    split
    · next hr =>
      have hu := offer_wf h _ hr
      split
      · simpa
      · exact ih hu
    · simp
    · simp

@[simp] theorem turn_wf {t : Turn} {s : State} (h : Memory.wf s.mem) : NextWf (turn t s) := by
  cases t with
  | issue core slot => exact offer_wf h
  | rotate core => exact rotateFrom_wf h
  | act e => exact exec_wf h
  | pass n => exact (nextWf_next _).2 (State.passCycles_wf h)

theorem step_wf {s : State} (h : Memory.wf s.mem) : NextWf (step s) := by
  unfold step
  cases s.sched with
  | nil =>
    generalize (engineActs s).map Turn.act ++ s.advancing.map Turn.rotate ++ [.pass 1] = ts
    cases ts with
    | nil => exact (nextWf_next _).2 h
    | cons t r => exact turn_wf h
  | cons t r => exact turn_wf h

/-- Settles O60: every function of the model that changes the memory changes it by `mput`, `mwrite`, `maskWrite` or `filter`, which
keep the canonical form. -/
theorem memoryStaysCanonical : Obligations.MemoryStaysCanonical :=
  fun _ t h ht => step_wf h t ht

end Sys2Proof.Machine

/-! # Words and instructions (O58, O57)

A word is met one field at a time: `cat` puts a field below the rest of a word.  The encoder's sums of fields become such words, and both
directions then read or compare field by field. -/

namespace Sys2Proof

/-! ## Fields of a word -/

/-- A field of `k` bits with the rest of a word above it. -/
def cat {k : Nat} (x : BitVec k) (r : Nat) : Nat := x.toNat + 2 ^ k * r

section
variable {k n lo m r c : Nat} {x : BitVec k} {f : BitVec n}

theorem fld_lt (w : Nat) : fld w lo n < 2 ^ n := Nat.mod_lt _ (Nat.two_pow_pos n)

theorem fld_zero (w : Nat) : fld w lo 0 = 0 := by simp [fld, Nat.mod_one]

theorem toNat_bvf (w : Nat) : (bvf w lo n).toNat = fld w lo n := by simp [bvf, fld]

/-- Neighbouring fields are read together. -/
theorem fld_add (w : Nat) : fld w lo (n + m) = fld w lo n + 2 ^ n * fld w (lo + n) m := by
  simp only [fld, Nat.pow_add, ← Nat.div_div_eq_div_mul]
  exact Nat.mod_mul

/-- A whole word is the field of all its bits. -/
theorem eq_fld_of_lt {w : Nat} (h : w < 2 ^ n) : w = fld w 0 n := by simp [fld, Nat.mod_eq_of_lt h]

/-- A literal word's field, computed. -/
theorem fld_lit : fld (no_index (OfNat.ofNat c)) lo n = OfNat.ofNat c / 2 ^ lo % 2 ^ n := by rw [fld]

theorem cat_shiftRight (h : k ≤ m) : cat x r >>> m = r >>> (m - k) := by
  obtain ⟨d, rfl⟩ := Nat.exists_eq_add_of_le h
  rw [Nat.shiftRight_eq_div_pow, Nat.shiftRight_eq_div_pow, cat, Nat.pow_add, ← Nat.div_div_eq_div_mul,
    Nat.add_mul_div_left _ _ (Nat.two_pow_pos k), Nat.div_eq_of_lt x.isLt, Nat.zero_add, Nat.add_sub_cancel_left]

theorem fld_cat_skip (h : k ≤ lo) : fld (cat x r) lo n = fld r (lo - k) n := by
  rw [fld, fld, ← Nat.shiftRight_eq_div_pow, cat_shiftRight h, Nat.shiftRight_eq_div_pow]

theorem fld_cat_within (h : lo + n ≤ k) : fld (cat x r) lo n = fld x.toNat lo n := by
  obtain ⟨d, rfl⟩ := Nat.exists_eq_add_of_le h
  rw [fld, fld, cat, show 2 ^ (lo + n + d) * r = 2 ^ lo * (2 ^ n * (2 ^ d * r)) by ring,
    Nat.add_mul_div_left _ _ (Nat.two_pow_pos lo), Nat.add_mul_mod_self_left]

theorem bvf_cat_skip (h : k ≤ lo) : bvf (cat x r) lo n = bvf r (lo - k) n := by
  rw [bvf, fld_cat_skip h, bvf]

theorem bvf_cat : bvf (cat x r) 0 k = x := by
  rw [bvf, fld_cat_within (Nat.le_of_eq (Nat.zero_add k)), fld]
  simp

/-- A number below `p` and a multiple of `p` are known by their sum. -/
theorem add_mul_inj {p a b d : Nat} (ha : a < p) (hc : c < p) : a + p * b = c + p * d ↔ a = c ∧ b = d := by
  refine ⟨fun h => ?_, fun ⟨h1, h2⟩ => h1 ▸ h2 ▸ rfl⟩
  have h1 := congrArg (· % p) h
  have h2 := congrArg (· / p) h
  have hp : 0 < p := Nat.zero_lt_of_lt ha
  simp only [Nat.add_mul_mod_self_left, Nat.mod_eq_of_lt, Nat.add_mul_div_left _ _ hp, Nat.div_eq_of_lt, ha, hc, Nat.zero_add] at h1 h2
  exact ⟨h1, h2⟩

/-- Comparing a field with a word whose lowest field is `x`. -/
theorem cat_eq_fld_iff {w : Nat} (h : k ≤ m) : cat x r = fld w lo m ↔ x.toNat = fld w lo k ∧ r = fld w (lo + k) (m - k) := by
  obtain ⟨d, rfl⟩ := Nat.exists_eq_add_of_le h
  rw [fld_add, cat, Nat.add_sub_cancel_left]
  exact add_mul_inj x.isLt (fld_lt w)

/-- A field has a value when its `k` low bits and the bits above them have theirs. -/
theorem eq_fld_iff {w : Nat} (k : Nat) (h : k ≤ m) : c = fld w lo m ↔ c % 2 ^ k = fld w lo k ∧ c / 2 ^ k = fld w (lo + k) (m - k) := by
  obtain ⟨d, rfl⟩ := Nat.exists_eq_add_of_le h
  rw [fld_add, Nat.add_sub_cancel_left, ← add_mul_inj (Nat.mod_lt _ (Nat.two_pow_pos k)) (fld_lt w), Nat.mod_add_div]

/-- The same for a field that begins within `x` and ends above it. -/
theorem fld_cat_eq_iff (h : lo + 1 ≤ k) (h' : k + 1 ≤ lo + n) :
    fld (cat x r) lo n = c ↔ fld x.toNat lo (k - lo) = c % 2 ^ (k - lo) ∧ fld r 0 (n - (k - lo)) = c / 2 ^ (k - lo) := by
  obtain ⟨d, rfl⟩ := Nat.exists_eq_add_of_le (Nat.le_of_lt h)
  rw [eq_comm, eq_fld_iff d (by omega), Nat.add_sub_cancel_left, fld_cat_within (Nat.le_refl _), fld_cat_skip (Nat.le_refl _), Nat.sub_self,
    eq_comm, eq_comm (a := c / 2 ^ d)]

theorem setFld_cat (h : k ≤ lo) : setFld (cat x r) lo f = cat x (setFld r (lo - k) f) := by
  obtain ⟨d, rfl⟩ := Nat.exists_eq_add_of_le h
  simp only [setFld, cat, Nat.add_sub_cancel_left]
  ring

/-- A field set in a literal word that holds 0 there. -/
theorem setFld_lit (h : OfNat.ofNat c / 2 ^ lo % 2 ^ n = 0) :
    setFld (no_index (OfNat.ofNat c)) lo f = cat (BitVec.ofNat lo (OfNat.ofNat c)) (cat f (OfNat.ofNat c / 2 ^ lo / 2 ^ n)) := by
  have h1 := Nat.mod_add_div (OfNat.ofNat c) (2 ^ lo)
  have h2 := Nat.mod_add_div (OfNat.ofNat c / 2 ^ lo) (2 ^ n)
  rw [h, Nat.zero_add] at h2
  rw [setFld, cat, cat, BitVec.toNat_ofNat, h2, Nat.mul_add, Nat.add_left_comm, h1, Nat.add_comm]

/-- The lowest eight bits of a 32-bit word are its length bit and its major opcode (R40, R52). -/
theorem fld_low_byte (w : Nat) : fld w 0 8 = fld w 0 1 + 2 ^ 1 * fld w 1 7 := fld_add (n := 1) (m := 7) w

/-- The lowest six bits of a 16-bit word are its length bit and its op5 (R40, R47). -/
theorem fld_low_six (w : Nat) : fld w 0 6 = fld w 0 1 + 2 ^ 1 * fld w 1 5 := fld_add (n := 1) (m := 5) w

/-- A literal below the first field of a form: the low byte and bits of the form above it. -/
theorem lit_eq_fld_iff {w : Nat} (h : 9 ≤ m) :
    no_index (OfNat.ofNat c) = fld w 0 m ↔ OfNat.ofNat c % 2 ^ 8 = fld w 0 8 ∧ OfNat.ofNat c / 2 ^ 8 = fld w 8 (m - 8) :=
  eq_fld_iff 8 (Nat.le_of_lt h)

end

/-! ## A word that decodes is the encoding of its instruction -/

/-- The instruction that a form gives, if any, has the word `w` of `n` bits. -/
structure EncodesAs (n w : Nat) (r : Except DecodeError Instr) : Prop where
  word : ∀ i, r = .ok i → encode i = some (n, w)

section
variable {n w : Nat}

theorem EncodesAs.error {e : DecodeError} : EncodesAs n w (.error e) := ⟨nofun⟩

theorem EncodesAs.ok {i : Instr} {v : Nat} (hi : encode i = some (n, v)) (h : v = w) : EncodesAs n w (.ok i) :=
  ⟨fun _ hj => by cases hj; exact h ▸ hi⟩

theorem EncodesAs.ite {c : Prop} [Decidable c] {a b : Except DecodeError Instr} (ha : c → EncodesAs n w a) (hb : EncodesAs n w b) :
    EncodesAs n w (if c then a else b) := by
  split
  · exact ha ‹_›
  · exact hb

/-- Each row of R53's table: the selector's bits and the fields that the row's reading takes are all of the word. -/
theorem decodeForm32_encodesAs (h0 : fld w 0 1 = 1) (hw : w = fld w 0 32) : EncodesAs 32 w (decodeForm32 w) := by
  unfold decodeForm32
  split
  case' h_90 => exact EncodesAs.error
  all_goals rename_i hM
  all_goals
    simp only [
      decodeMajor01, decodeMajor02, decodeMajor03, decodeMajor04, decodeMajor05, decodeMajor06, decodeMajor07, decodeMajor08,
        decodeMajor09, decodeMajor0A, decodeMajor0B, decodeMajor10, decodeMajor11, decodeMajor12, decodeMajor18, decodeMajor19,
        decodeMajor1A, decodeMajor1B, decodeMajor1C, decodeMajor1D, decodeMajor1E, decodeMajor1F, decodeMajor20, decodeMajor21,
        decodeMajor22, decodeMajor23, decodeMajor24, decodeMajor25, decodeMajor26, decodeMajor27, decodeMajor28, decodeMajor29,
        decodeMajor2A, decodeMajor2B, decodeMajor2C, decodeMajor2D, decodeMajor2E, decodeMajor2F, decodeMajor30, decodeMajor31,
        decodeMajor32, decodeMajor33, decodeMajor34, decodeMajor35, decodeMajor36, decodeMajor37, decodeMajor40, decodeMajor41,
        decodeMajor42, decodeMajor43, decodeMajor44, decodeMajor45, decodeMajor46, decodeMajor47, decodeMajor48, decodeMajor49,
        decodeMajor4A, decodeMajor4B, decodeMajor4C, decodeMajor4D, decodeMajor4E, decodeMajor50, decodeMajor51, decodeMajor52,
        decodeMajor53, decodeMajor54, decodeMajor55, decodeMajor56, decodeMajor58, decodeMajor59, decodeMajor5A, decodeMajor5B,
        decodeMajor5C, decodeMajor60, decodeMajor61, decodeMajor62, decodeMajor63, decodeMajor64, decodeMajor65, decodeMajor68,
        decodeMajor69, decodeMajor6A, decodeMajor6C, decodeMajor6D, decodeMajor6E, decodeMajor70, decodeMajor71, decodeMajor72,
        decodeMajor73]
  all_goals repeat' apply EncodesAs.ite
  all_goals try exact EncodesAs.error
  all_goals
    try intro h
    refine EncodesAs.ok rfl (Eq.trans ?_ hw.symm)
    clear hw
    simp only [setFld_lit, setFld_cat, cat_eq_fld_iff, lit_eq_fld_iff, fld_low_byte, toNat_bvf, fld_zero,
      BitVec.toNat_ofNat, Nat.reducePow, Nat.reduceDiv, Nat.reduceMod, Nat.reduceLeDiff, Nat.reduceSub, Nat.reduceAdd, le_refl,
      Nat.zero_mod, Nat.reduceMul, and_self, *]

theorem decodeForm16_encodesAs (h0 : fld w 0 1 = 0) (hw : w = fld w 0 16) : EncodesAs 16 w (decodeForm16 w) := by
  unfold decodeForm16
  split
  case' h_21 => refine EncodesAs.ite (fun hb => ?_) EncodesAs.error
  case' h_25 => exact EncodesAs.error
  all_goals
    refine EncodesAs.ok rfl (Eq.trans ?_ hw.symm)
    clear hw
    simp only [setFld_lit, setFld_cat, cat_eq_fld_iff, fld_low_six, toNat_bvf, fld_zero,
      BitVec.toNat_ofNat, Nat.reducePow, Nat.reduceDiv, Nat.reduceMod, Nat.reduceLeDiff, Nat.reduceSub, Nat.reduceAdd, le_refl,
      Nat.zero_mod, Nat.reduceMul, and_self, *]

end

/-! ## The encoding of an instruction decodes to it -/

/-- The reading of the 32-bit words of each assigned major opcode (R52, R53). -/
noncomputable def majorReaders : List (Nat × (Nat → Except DecodeError Instr)) :=
  [(0x01, decodeMajor01), (0x02, decodeMajor02), (0x03, decodeMajor03), (0x04, decodeMajor04), (0x05, decodeMajor05), (0x06,
    decodeMajor06), (0x07, decodeMajor07), (0x08, decodeMajor08), (0x09, decodeMajor09), (0x0A, decodeMajor0A), (0x0B, decodeMajor0B),
    (0x10, decodeMajor10), (0x11, decodeMajor11), (0x12, decodeMajor12), (0x18, decodeMajor18), (0x19, decodeMajor19), (0x1A,
    decodeMajor1A), (0x1B, decodeMajor1B), (0x1C, decodeMajor1C), (0x1D, decodeMajor1D), (0x1E, decodeMajor1E), (0x1F, decodeMajor1F),
    (0x20, decodeMajor20), (0x21, decodeMajor21), (0x22, decodeMajor22), (0x23, decodeMajor23), (0x24, decodeMajor24), (0x25,
    decodeMajor25), (0x26, decodeMajor26), (0x27, decodeMajor27), (0x28, decodeMajor28), (0x29, decodeMajor29), (0x2A, decodeMajor2A),
    (0x2B, decodeMajor2B), (0x2C, decodeMajor2C), (0x2D, decodeMajor2D), (0x2E, decodeMajor2E), (0x2F, decodeMajor2F), (0x30,
    decodeMajor30), (0x31, decodeMajor31), (0x32, decodeMajor32), (0x33, decodeMajor33), (0x34, decodeMajor34), (0x35, decodeMajor35),
    (0x36, decodeMajor36), (0x37, decodeMajor37), (0x40, decodeMajor40), (0x41, decodeMajor41), (0x42, decodeMajor42), (0x43,
    decodeMajor43), (0x44, decodeMajor44), (0x45, decodeMajor45), (0x46, decodeMajor46), (0x47, decodeMajor47), (0x48, decodeMajor48),
    (0x49, decodeMajor49), (0x4A, decodeMajor4A), (0x4B, decodeMajor4B), (0x4C, decodeMajor4C), (0x4D, decodeMajor4D), (0x4E,
    decodeMajor4E), (0x50, decodeMajor50), (0x51, decodeMajor51), (0x52, decodeMajor52), (0x53, decodeMajor53), (0x54, decodeMajor54),
    (0x55, decodeMajor55), (0x56, decodeMajor56), (0x58, decodeMajor58), (0x59, decodeMajor59), (0x5A, decodeMajor5A), (0x5B,
    decodeMajor5B), (0x5C, decodeMajor5C), (0x60, decodeMajor60), (0x61, decodeMajor61), (0x62, decodeMajor62), (0x63, decodeMajor63),
    (0x64, decodeMajor64), (0x65, decodeMajor65), (0x68, decodeMajor68), (0x69, decodeMajor69), (0x6A, decodeMajor6A), (0x6C,
    decodeMajor6C), (0x6D, decodeMajor6D), (0x6E, decodeMajor6E), (0x70, decodeMajor70), (0x71, decodeMajor71), (0x72, decodeMajor72),
    (0x73, decodeMajor73)]

theorem decodeForm32_of_mem {w : Nat} : ∀ p ∈ majorReaders, fld w 1 7 = p.1 → decodeForm32 w = p.2 w := by
  simp only [majorReaders, List.forall_mem_cons]
  repeat' apply And.intro
  case' right => exact nofun
  all_goals
    intro hM
    rw [decodeForm32, hM]
    rfl

theorem decodeForm32_of_lookup {w : Nat} {f : Nat → Except DecodeError Instr} (h : majorReaders.lookup (fld w 1 7) = some f) :
    decodeForm32 w = f w := by
  obtain ⟨l₁, l₂, hl, -⟩ := List.lookup_eq_some_iff.1 h
  exact decodeForm32_of_mem (fld w 1 7, f) (by simp [hl]) rfl

/-- A 32-bit word of the instruction `i`, before the checks of its fields. -/
def Spells32 (i : Instr) (w : Nat) : Prop := decodeForm32 w = .ok i ∧ w >>> 32 = 0 ∧ fld w 0 1 = 1

theorem spells32_of_lookup {i : Instr} {w : Nat} {f : Nat → Except DecodeError Instr} (h : majorReaders.lookup (fld w 1 7) = some f)
    (hr : f w = .ok i ∧ w >>> 32 = 0 ∧ fld w 0 1 = 1) : Spells32 i w :=
  ⟨(decodeForm32_of_lookup h).trans hr.1, hr.2⟩

/-- The groups of the opcode table's rows, in its order: scalar, vector and engine instructions of 32 bits; 16-bit instructions and engine
steps. -/
def Instr.group (i : Instr) : Nat := if i.ctorIdx < 110 then 0 else if i.ctorIdx < 195 then 1 else if i.ctorIdx < 265 then 2 else 3

theorem Instr.group_cases (i : Instr) : i.group = 0 ∨ i.group = 1 ∨ i.group = 2 ∨ i.group = 3 := by
  unfold Instr.group
  split_ifs <;> simp

section
variable {i : Instr} {n w : Nat}

/-! In each group the rows of the other groups contradict `hi`, and `h` gives the row's word. -/

theorem encode_scalar (hi : i.group = 0) (h : encode i = some (n, w)) : n = 32 ∧ Spells32 i w := by
  cases i
  all_goals cases hi
  all_goals cases h
  all_goals
    refine ⟨rfl, ?_⟩
    apply spells32_of_lookup
    · simp only [setFld_lit, setFld_cat, fld_cat_within, fld_lit,
        BitVec.toNat_ofNat, Nat.reducePow, Nat.reduceDiv, Nat.reduceMod, Nat.reduceLeDiff, Nat.reduceSub, Nat.reduceAdd, le_refl]
      rfl
    · simp only [
        decodeMajor01, decodeMajor02, decodeMajor03, decodeMajor04, decodeMajor05, decodeMajor06, decodeMajor07, decodeMajor08,
          decodeMajor09, decodeMajor0A, decodeMajor0B, decodeMajor10, decodeMajor11, decodeMajor12, decodeMajor18, decodeMajor19,
          decodeMajor1A, decodeMajor1B, decodeMajor1C, decodeMajor1D, decodeMajor1E, decodeMajor1F, decodeMajor20, decodeMajor21,
          decodeMajor22, decodeMajor23, decodeMajor24, decodeMajor25, decodeMajor26, decodeMajor27, decodeMajor28, decodeMajor29,
          decodeMajor2A, decodeMajor2B, decodeMajor2C, decodeMajor2D, decodeMajor2E, decodeMajor2F, decodeMajor30, decodeMajor31,
          decodeMajor32, decodeMajor33, decodeMajor34, decodeMajor35, decodeMajor36, decodeMajor37,
        setFld_lit, setFld_cat, bvf_cat, bvf_cat_skip, fld_cat_skip, fld_cat_within, fld_cat_eq_iff, fld_lit, cat_shiftRight,
        BitVec.toNat_ofNat, Nat.reducePow, Nat.reduceDiv, Nat.reduceMod, Nat.reduceLeDiff, Nat.reduceSub, Nat.reduceAdd, Nat.reduceEqDiff, Nat.zero_mod, le_refl,
        Nat.reduceShiftRight, and_false, if_false, if_true, OfNat.ofNat_ne_zero, and_self]

theorem encode_vector (hi : i.group = 1) (h : encode i = some (n, w)) : n = 32 ∧ Spells32 i w := by
  cases i
  all_goals cases hi
  all_goals cases h
  all_goals
    refine ⟨rfl, ?_⟩
    apply spells32_of_lookup
    · simp only [setFld_lit, setFld_cat, fld_cat_within, fld_lit,
        BitVec.toNat_ofNat, Nat.reducePow, Nat.reduceDiv, Nat.reduceMod, Nat.reduceLeDiff, Nat.reduceSub, Nat.reduceAdd, le_refl]
      rfl
    · simp only [
        decodeMajor40, decodeMajor41, decodeMajor42, decodeMajor43, decodeMajor44, decodeMajor45, decodeMajor46, decodeMajor47,
          decodeMajor48, decodeMajor49, decodeMajor4A, decodeMajor4B, decodeMajor4C, decodeMajor4D, decodeMajor4E, decodeMajor50,
          decodeMajor51, decodeMajor52, decodeMajor53, decodeMajor54, decodeMajor55, decodeMajor56,
        setFld_lit, setFld_cat, bvf_cat, bvf_cat_skip, fld_cat_skip, fld_cat_within, fld_cat_eq_iff, fld_lit, cat_shiftRight,
        BitVec.toNat_ofNat, Nat.reducePow, Nat.reduceDiv, Nat.reduceMod, Nat.reduceLeDiff, Nat.reduceSub, Nat.reduceAdd, Nat.reduceEqDiff, Nat.zero_mod, le_refl,
        Nat.reduceShiftRight, false_and, and_false, if_false, if_true, OfNat.ofNat_ne_zero, and_self]

theorem encode_engine (hi : i.group = 2) (h : encode i = some (n, w)) : n = 32 ∧ Spells32 i w := by
  cases i
  all_goals cases hi
  all_goals cases h
  all_goals
    refine ⟨rfl, ?_⟩
    apply spells32_of_lookup
    · simp only [setFld_lit, setFld_cat, fld_cat_within, fld_lit,
        BitVec.toNat_ofNat, Nat.reducePow, Nat.reduceDiv, Nat.reduceMod, Nat.reduceLeDiff, Nat.reduceSub, Nat.reduceAdd, le_refl]
      rfl
    · simp only [
        decodeMajor58, decodeMajor59, decodeMajor5A, decodeMajor5B, decodeMajor5C, decodeMajor60, decodeMajor61, decodeMajor62,
          decodeMajor63, decodeMajor64, decodeMajor65, decodeMajor68, decodeMajor69, decodeMajor6A, decodeMajor6C, decodeMajor6D,
          decodeMajor6E, decodeMajor70, decodeMajor71, decodeMajor72, decodeMajor73,
        setFld_lit, setFld_cat, bvf_cat, bvf_cat_skip, fld_cat_skip, fld_cat_within, fld_cat_eq_iff, fld_lit, cat_shiftRight,
        BitVec.toNat_ofNat, Nat.reducePow, Nat.reduceDiv, Nat.reduceMod, Nat.reduceLeDiff, Nat.reduceSub, Nat.reduceAdd, Nat.reduceEqDiff, Nat.zero_mod, le_refl,
        Nat.reduceShiftRight, false_and, and_false, if_false, if_true, OfNat.ofNat_ne_zero, and_self]

theorem encode_short (hi : i.group = 3) (h : encode i = some (n, w)) :
    n = 16 ∧ decodeForm16 w = .ok i ∧ w >>> 16 = 0 ∧ fld w 0 1 = 0 := by
  cases i
  all_goals cases hi
  all_goals cases h
  all_goals
    simp only [decodeForm16, setFld_lit, setFld_cat, bvf_cat, bvf_cat_skip, fld_cat_skip, fld_cat_within, fld_lit,
      cat_shiftRight, BitVec.toNat_ofNat, Nat.reducePow, Nat.reduceDiv, Nat.reduceMod, Nat.reduceLeDiff, Nat.reduceSub, Nat.reduceAdd, le_refl,
      Nat.zero_mod, Nat.reduceShiftRight, if_true, and_self]

end

/-! ## Both directions -/

theorem checked_ok_iff {r : Except DecodeError Instr} {i : Instr} : checked r = .ok i ↔ r = .ok i ∧ i.wellFormed = true := by
  unfold checked Instr.wellFormed
  split
  · simp
  · split <;> aesop

theorem fld_bit (w : Nat) : fld w 0 1 = w % 2 := by simp [fld]

theorem lt_of_shiftRight_eq_zero {n w : Nat} (h : w >>> n = 0) : w < 2 ^ n := by
  rw [Nat.shiftRight_eq_div_pow] at h
  exact Nat.lt_of_div_eq_zero (Nat.two_pow_pos n) h

theorem decodeWord_of_spells32 {i : Instr} {w : Nat} (hi : i.wellFormed = true) (h : Spells32 i w) :
    decodeWord w = .ok i ∧ w < 2 ^ 32 ∧ 32 = 8 * wordLen w := by
  obtain ⟨hd, hw, h0⟩ := h
  rw [fld_bit] at h0
  refine ⟨?_, lt_of_shiftRight_eq_zero hw, by simp [wordLen, h0]⟩
  rw [decodeWord, if_pos h0, decode32, checked_ok_iff]
  exact ⟨hd, hi⟩

/-- R40 to R42: the encoding of a well-formed instruction decodes to it. -/
theorem decodeWord_encode {i : Instr} {n w : Nat} (hi : i.wellFormed = true) (h : encode i = some (n, w)) :
    decodeWord w = .ok i ∧ w < 2 ^ n ∧ n = 8 * wordLen w := by
  rcases i.group_cases with hg | hg | hg | hg
  · obtain ⟨rfl, hs⟩ := encode_scalar hg h
    exact decodeWord_of_spells32 hi hs
  · obtain ⟨rfl, hs⟩ := encode_vector hg h
    exact decodeWord_of_spells32 hi hs
  · obtain ⟨rfl, hs⟩ := encode_engine hg h
    exact decodeWord_of_spells32 hi hs
  · obtain ⟨rfl, hd, hw, h0⟩ := encode_short hg h
    rw [fld_bit] at h0
    have hlt := lt_of_shiftRight_eq_zero hw
    refine ⟨?_, hlt, by simp [wordLen, h0]⟩
    rw [decodeWord, if_neg (by simp [h0]), Nat.mod_eq_of_lt hlt, decode16, checked_ok_iff]
    exact ⟨hd, hi⟩

/-- A word that decodes is the encoding of a well-formed instruction; of a word whose bit 0 is 0 only the low halfword is one (R40). -/
theorem encode_decodeWord {i : Instr} {w : Nat} (hw : w < 2 ^ 32) (h : decodeWord w = .ok i) :
    i.wellFormed = true ∧ encode i = some (8 * wordLen w, w % 2 ^ (8 * wordLen w)) := by
  unfold decodeWord at h
  split at h
  · next h0 =>
    obtain ⟨hd, hi⟩ := checked_ok_iff.1 h
    have he := (decodeForm32_encodesAs ((fld_bit w).trans h0) (eq_fld_of_lt hw)).word i hd
    have hl : 8 * wordLen w = 32 := by simp [wordLen, h0]
    rw [hl, Nat.mod_eq_of_lt hw]
    exact ⟨hi, he⟩
  · next h0 =>
    obtain ⟨hd, hi⟩ := checked_ok_iff.1 h
    have hb : fld (w % 2 ^ 16) 0 1 = 0 := by rw [fld_bit]; omega
    have he := (decodeForm16_encodesAs hb (eq_fld_of_lt (Nat.mod_lt w (Nat.two_pow_pos 16)))).word i hd
    have hl : 8 * wordLen w = 16 := by simp [wordLen, h0]
    rw [hl]
    exact ⟨hi, he⟩

/-- Settles O58: each row of the opcode table is read back from the fields that its encoding sets, and each reading takes every bit of
its word. -/
theorem encodeDecode : Obligations.EncodeDecode :=
  ⟨fun _ _ _ hi h => decodeWord_encode hi h, fun _ _ hw h => encode_decodeWord hw h⟩

/-- Settles O57: each word is the encoding of its instruction; the word 0 has op5 0. -/
theorem decodeWords : Obligations.DecodeWords := by
  have spelt (i : Instr) (n w : Nat) (hi : i.wellFormed = true) (h : encode i = some (n, w)) : decodeWord w = .ok i :=
    (decodeWord_encode hi h).1
  refine ⟨spelt _ 32 _ rfl rfl, spelt _ 32 _ rfl rfl, spelt _ 16 _ rfl rfl, spelt _ 32 _ rfl rfl, spelt _ 32 _ rfl rfl,
    spelt _ 32 _ rfl rfl, spelt _ 32 _ rfl rfl, ?_⟩
  have h : decodeWord 0 = .error .unassigned16 := rfl
  exact fun i hi => nomatch h.symm.trans hi

end Sys2Proof

/-! # The 16-bit computing forms (O3)

Each form is an integer operation of the general registers, and the immediate ones take their immediates as integers. -/

namespace Sys2Proof.Machine
open Safety

section
variable {a : Word}

theorem add_ofInt (a : Word) (n : Int) : a + BitVec.ofInt 64 n = BitVec.ofInt 64 (a.toInt + n) := by
  rw [BitVec.ofInt_add, BitVec.ofInt_toInt]

theorem four_mul_ofInt (n : Int) : 4 * BitVec.ofInt 64 n = BitVec.ofInt 64 (4 * n) := by
  rw [BitVec.ofInt_mul]; rfl

theorem opSlt_eq_ite (a b : Word) : opSlt a b = if a.toInt < b.toInt then 1 else 0 :=
  if_congr decide_eq_true_iff rfl rfl

theorem amount_word {n : Nat} (h : n < 64) : amount (word n) = n := by
  simp only [amount, word, BitVec.toNat_ofNat]; omega

variable {n : Nat}

theorem opShl_word (h : n < 64) : opShl a (word n) = BitVec.ofNat 64 (a.toNat * 2 ^ n) := by
  apply BitVec.eq_of_toNat_eq
  simp [opShl, amount_word h, Nat.shiftLeft_eq]

theorem opShr_word (h : n < 64) : opShr a (word n) = BitVec.ofNat 64 (a.toNat / 2 ^ n) := by
  apply BitVec.eq_of_toNat_eq
  rw [opShr, amount_word h, BitVec.toNat_ushiftRight, BitVec.toNat_ofNat, Nat.shiftRight_eq_div_pow,
    Nat.mod_eq_of_lt (Nat.lt_of_le_of_lt (Nat.div_le_self _ _) a.isLt)]

theorem opSha_word (h : n < 64) : opSha a (word n) = BitVec.ofInt 64 (a.toInt / 2 ^ n) := by
  rw [opSha, amount_word h, BitVec.sshiftRight, Int.shiftRight_eq_div_pow]
  rfl

end

/-- Settles O3: each form completes with length 2 through `State.putReg`, with the operation of its 32-bit instruction. -/
theorem compressedForms : Obligations.CompressedForms := by
  intro s ga gb num imm imm10 a b d n
  have hn : n < 64 := Nat.lt_trans num.isLt (by decide)
  refine ⟨gives_putReg s _ ga _ _ 2 1 rfl ?mv, gives_putReg s _ ga _ _ 2 1 rfl rfl, gives_putReg s _ ga _ _ 2 1 rfl rfl,
    gives_putReg s _ ga _ _ 2 1 rfl rfl, gives_putReg s _ ga _ _ 2 1 rfl rfl, gives_putReg s _ ga _ _ 2 1 rfl rfl,
    gives_putReg s _ ga _ _ 2 1 rfl (opSlt_eq_ite a b), gives_putReg s _ ga _ _ 2 1 rfl ?neg,
    gives_putReg s _ ga _ _ 2 1 rfl rfl, gives_putReg s _ ga _ _ 2 1 rfl ?addi,
    gives_putReg s _ ga _ _ 2 1 rfl (opShl_word hn), gives_putReg s _ ga _ _ 2 1 rfl (opShr_word hn),
    gives_putReg s _ ga _ _ 2 1 rfl (opSha_word hn), gives_putReg s _ (2 : BitVec 6) _ _ 2 1 rfl ?addsp⟩
  case mv => exact BitVec.zero_add b
  case neg => exact BitVec.zero_sub b
  case addi => exact add_ofInt a imm.toInt
  case addsp => exact (congrArg _ (four_mul_ofInt imm10.toInt)).trans (add_ofInt _ _)

end Sys2Proof.Machine

/-! # Instructions of a higher mode (O54)

Taking a trap is `State.enter`; an instruction whose first check fails on a drained strand does nothing else. -/

namespace Sys2Proof.Machine
open Safety

/-! ## Taking a trap -/

theorem State.st_congr {s t : State} (h : t.cores = s.cores) (sid : Nat) : t.st sid = s.st sid := by
  simp only [State.st, State.core, h]

@[simp] theorem State.svcEvent_cores (s : State) (kind unitKind unit count : Nat) :
    (s.svcEvent kind unitKind unit count).cores = s.cores := by
  unfold State.svcEvent; dsimp only; split <;> rfl

section
variable (s : State) (sid : Nat)

theorem State.dropLanes_apply {α : Type} (g : Strand → α) (f : Strand → Strand) (hf : ∀ t, g (f t) = g t) :
    g ((s.dropLanes sid f).st sid) = g (s.st sid) := by
  change g ((s.setSt sid (f (s.st sid))).st sid) = _
  rw [State.st_setSt, hf]

/-- What no change of a strand's lane clusters touches stands as they are settled. -/
theorem State.settleLanes_apply {α : Type} (g : Strand → α) (hn : ∀ t, g (Strand.noLanes t) = g t)
    (hk : ∀ (t : Strand) n, g { t with lanes := t.lanes.take n } = g t) : g ((s.settleLanes sid).st sid) = g (s.st sid) := by
  unfold State.settleLanes State.keepLanes; dsimp only
  split
  · exact s.dropLanes_apply sid g _ hn
  · exact s.dropLanes_apply sid g _ fun t => hk t _

theorem State.doubleFault_halted (cause tval : Word) :
    ((s.doubleFault sid cause tval).st sid).st = .halted ∧ ((s.doubleFault sid cause tval).st sid).wait = .none := by
  rw [State.doubleFault, State.settleLanes_apply _ _ Strand.st (fun _ => rfl) fun _ _ => rfl,
    State.settleLanes_apply _ _ Strand.wait (fun _ => rfl) fun _ _ => rfl, State.diagEntry]
  change ((State.svcEvent _ 8 0 sid 0).st sid).st = _ ∧ ((State.svcEvent _ 8 0 sid 0).st sid).wait = _
  rw [State.st_congr (State.svcEvent_cores ..), State.st_modSt]
  exact ⟨rfl, rfl⟩

/-- Three control registers are written: they read as written, and every other as before. -/
theorem Strand.ctl_setCtl_three (t : Strand) {a b c : Nat} (x y z : Word) (hab : a ≠ b) (hac : a ≠ c) (hbc : b ≠ c) :
    let u := ((t.setCtl a x).setCtl b y).setCtl c z
    u.ctl a = x ∧ u.ctl b = y ∧ u.ctl c = z ∧ ∀ n, n ≠ a → n ≠ b → n ≠ c → u.ctl n = t.ctl n := by
  refine ⟨?_, ?_, Strand.ctl_setCtl .., fun n h1 h2 h3 => ?_⟩
  · rw [Strand.ctl_setCtl_ne _ _ _ _ hac, Strand.ctl_setCtl_ne _ _ _ _ hab, Strand.ctl_setCtl]
  · rw [Strand.ctl_setCtl_ne _ _ _ _ hbc, Strand.ctl_setCtl]
  · rw [Strand.ctl_setCtl_ne _ _ _ _ h3, Strand.ctl_setCtl_ne _ _ _ _ h2, Strand.ctl_setCtl_ne _ _ _ _ h1]

/-- R119: taking a trap saves what the handler needs in the registers that the mode names. -/
theorem State.enter_trapTaken (cause tval resume : Word) : TrapTaken s (s.enter sid cause tval resume) sid cause tval resume := by
  unfold TrapTaken TrapRegs State.enter
  by_cases ht : (s.st sid).status.mode = .task
  · simp only [ht, if_true]
    refine ⟨?_, fun _ => onlyStrand_modSt s sid fun _ => _⟩
    rw [State.st_setSt]
    generalize s.st sid = a
    obtain ⟨h1, h2, h3, h4⟩ := Strand.ctl_setCtl_three
      { a with wait := .none, readyAt := s.cycleOf (coreOfSid sid) + 1, replay := {} } (a := cEpc) (b := cCause) (c := cTval)
      (resume &&& ~~~1) cause tval (by decide) (by decide) (by decide)
    exact ⟨h1, h2, h3, rfl, rfl, h4, ⟨rfl, fun _ => rfl, rfl, rfl, rfl, rfl, rfl, rfl, rfl, rfl⟩, rfl⟩
  · by_cases hn : (s.st sid).status.mnest = false
    · simp only [ht, hn, if_true, if_false]
      refine ⟨?_, fun _ => onlyStrand_modSt s sid fun _ => _⟩
      rw [State.st_setSt]
      generalize s.st sid = a
      obtain ⟨h1, h2, h3, h4⟩ := Strand.ctl_setCtl_three
        { a with wait := .none, readyAt := s.cycleOf (coreOfSid sid) + 1, replay := {} } (a := cMepc) (b := cMcause) (c := cMtval)
        (resume &&& ~~~1) cause tval (by decide) (by decide) (by decide)
      exact ⟨h1, h2, h3, rfl, rfl, h4, ⟨rfl, fun _ => rfl, rfl, rfl, rfl, rfl, rfl, rfl, rfl, rfl⟩, rfl⟩
    · simp only [ht, hn, if_false]
      exact ⟨(s.doubleFault_halted sid cause tval).1, fun h => h.elim nofun nofun⟩

theorem State.enter_wait (cause tval resume : Word) : ((s.enter sid cause tval resume).st sid).wait = .none := by
  unfold State.enter; dsimp only
  split
  · rw [State.st_setSt]; rfl
  · split
    · rw [State.st_setSt]; rfl
    · exact (s.doubleFault_halted sid cause tval).2

end
/-! ## An instruction that is not there -/

section
variable {α : Type} {s : State} {i : Instr} {w : Word} {f : Unit → Act Unit}

/-- With no older vector entry a trap is taken at once, and the instruction ends. -/
theorem trap_drained (hq : s.cur.vq = []) (detail code : Nat) (tval : Word) :
    (trap detail code tval : Act α) s
      = .error () (s.enter s.curSid (causeWord false false false detail code) tval s.cur.pc) := by
  have hw : waitUntil (fun s => s.cur.vq.isEmpty) s = .ok () s := by
    change (if s.cur.vq.isEmpty then pure () else Machine.stall : Act Unit) s = _
    rw [hq]; rfl
  change (do waitUntil (fun s => s.cur.vq.isEmpty); change _; endHere : Act α) s = _
  change EStateM.bind _ _ s = _
  rw [EStateM.bind, hw]; rfl

/-- A meaning whose first act is ILLEGAL does nothing after it. -/
theorem traps_of_illegal (hq : s.cur.vq = []) {a : Act Unit} (ha : a s = illegalWord (wordOf i) s)
    (h : exec i s = runAct (a >>= f) s) : Traps s i 0 1 (wordOf i) := by
  refine ⟨_, ?_, s.enter_trapTaken ..⟩
  rw [h, runAct]
  change (match EStateM.bind a f s with | .ok _ s' => _ | .error _ s' => _) = _
  rw [EStateM.bind, ha, illegalWord, trap_drained hq]

theorem traps_require (hq : s.cur.vq = []) {p : State → Bool} (hp : p s = false) (h : exec i s = runAct (require p i >>= f) s) :
    Traps s i 0 1 (wordOf i) := by
  refine traps_of_illegal hq ?_ h
  change (if p s then pure () else illegal i : Act Unit) s = _
  rw [hp]; rfl

theorem traps_ecSupervisor (hq : s.cur.vq = []) (hp : s.atSupervisor = false) (hw : w = wordOf i)
    (h : exec i s = runAct (ecSupervisor w >>= f) s) : Traps s i 0 1 (wordOf i) := by
  subst hw
  refine traps_of_illegal hq ?_ h
  change (if s.atSupervisor then pure () else illegalWord (wordOf i) : Act Unit) s = _
  rw [hp]; rfl

theorem traps_ecMonitor (hq : s.cur.vq = []) (hp : s.atMonitor = false) (hw : w = wordOf i)
    (h : exec i s = runAct (ecMonitor w >>= f) s) : Traps s i 0 1 (wordOf i) := by
  subst hw
  refine traps_of_illegal hq ?_ h
  change (if s.atMonitor then pure () else illegalWord (wordOf i) : Act Unit) s = _
  rw [hp]; rfl

end

section
variable {s : State} {rs1 rs2 rd : BitVec 6} {c b a : BitVec 5} {oxb : BitVec 3} {sat : BitVec 1} {reg : BitVec 10}

theorem traps_supervisor_instructions (hq : s.cur.vq = []) (hm : s.cur.status.mode = .task) :
    let traps := fun (i : Instr) => Traps s i 0 1 (wordOf i)
    traps .rett ∧ traps .waiti ∧ traps .halt ∧ traps (.ipi rs1 rs2) ∧ traps (.ctxsave rd rs1 rs2)
      ∧ traps (.ctxload rd rs1 rs2) ∧ traps (.ftset c b a oxb) ∧ traps (.migr c b a) ∧ traps (.plbinv a)
      ∧ traps (.tlbinv b a) ∧ traps (.pgwake c a) ∧ traps (.pgqry c a) ∧ traps (.pgpin c b a) ∧ traps (.mscfl c b a)
      ∧ traps (.attest c b a) := by
  intro traps
  have hp : s.atSupervisor = false := by simp [State.atSupervisor, hm]
  have ec {i : Instr} {w : Word} {f : Unit → Act Unit} (hw : w = wordOf i)
    (h : exec i s = runAct (ecSupervisor w >>= f) s) : traps i := traps_ecSupervisor hq hp hw h
  refine ⟨traps_require hq hp rfl, traps_require hq hp rfl, traps_require hq hp rfl, traps_require hq hp rfl,
    traps_require hq hp rfl, traps_require hq hp rfl, ?_⟩
  refine ⟨ec ?_ rfl, ec ?_ rfl, ec ?_ rfl, ec ?_ rfl, ec ?_ rfl, ec ?_ rfl, ec ?_ rfl, ec ?_ rfl, ec ?_ rfl⟩
  -- the word a trap names (`ecWord`) is the encoding of the instruction
  all_goals
    refine congrArg (BitVec.ofNat 64) ?_
    simp only [setFld, BitVec.ofNat_eq_ofNat, BitVec.toNat_ofNat]
    omega

theorem traps_monitor_instructions (hq : s.cur.vq = []) (hm : s.cur.status.mode ≠ .monitor) :
    let traps := fun (i : Instr) => Traps s i 0 1 (wordOf i)
    traps (.tenset c b a) ∧ traps (.vcres c b a) ∧ traps (.hbmslot c b a) ∧ traps (.keynew c a) ∧ traps (.keydel c a)
      ∧ traps (.dbgunlk c a) := by
  intro traps
  have hp : s.atMonitor = false := by simp [State.atMonitor, hm]
  have ec {i : Instr} {w : Word} {f : Unit → Act Unit} (hw : w = wordOf i)
    (h : exec i s = runAct (ecMonitor w >>= f) s) : traps i := traps_ecMonitor hq hp hw h
  refine ⟨ec ?_ rfl, ec ?_ rfl, ec ?_ rfl, ec ?_ rfl, ec ?_ rfl, ec ?_ rfl⟩
  all_goals
    refine congrArg (BitVec.ofNat 64) ?_
    simp only [setFld, BitVec.ofNat_eq_ofNat, BitVec.toNat_ofNat]
    omega

theorem traps_matrix_instructions (hq : s.cur.vq = []) (hc : isStreamCore s.curCore = true) :
    let traps := fun (i : Instr) => Traps s i 0 1 (wordOf i)
    traps (.mzero c) ∧ traps (.mhdr c a) ∧ traps (.mop c b a sat) ∧ traps (.mopd c b a sat) ∧ traps (.mops c b a sat)
      ∧ traps (.mmas c b a oxb sat) ∧ traps (.mwr c b a) ∧ traps (.mld c a oxb) ∧ traps (.mst c b a oxb) ∧ traps (.mwait c)
      ∧ traps (.mprg c b) ∧ traps (.mrd c b a) := by
  intro traps
  have acc (acc : BitVec 5) {i : Instr} {f : Unit → Act Unit} (h : exec i s = runAct (needAcc acc i >>= f) s) : traps i :=
    traps_require hq (by simp [hc]) h
  exact ⟨acc c rfl, acc c rfl, acc c rfl, acc c rfl, acc c rfl, acc c rfl, acc b rfl, acc c rfl, acc c rfl, acc c rfl, acc c rfl,
    acc b rfl⟩

theorem traps_ctlWrites (hq : s.cur.vq = []) (ha : s.curAccess reg.toNat = .none ∨ s.curAccess reg.toNat = .ro) :
    let traps := fun (i : Instr) => Traps s i 0 1 (wordOf i)
    traps (.ctlw rd rs1 reg) ∧ traps (.ctlset rd rs1 reg) ∧ traps (.ctlclr rd rs1 reg) := by
  intro traps
  have ctl {i : Instr} {f : Unit → Act Unit} (h : exec i s = runAct (ctlCheck reg.toNat true i >>= f) s) : traps i :=
    traps_require hq (by rcases ha with ha | ha <;> simp [ha]) h
  exact ⟨ctl rfl, ctl rfl, ctl rfl⟩

theorem traps_ctlr (hq : s.cur.vq = []) (ha : s.curAccess reg.toNat = .none) : Traps s (.ctlr rd reg) 0 1 (wordOf (.ctlr rd reg)) :=
  have h : exec (.ctlr rd reg) s = runAct (ctlCheck reg.toNat false (.ctlr rd reg) >>= fun _ => doneWith rd (s.ctlValue reg.toNat) 4 1) s := rfl
  traps_require hq (by simp [ha]) h

theorem traps_amret (hq : s.cur.vq = []) (hs : s.curSlot ≠ 4) : Traps s .amret 0 1 (wordOf .amret) := by
  refine traps_of_illegal (f := pure) hq (a := illegal .amret) rfl ?_
  change runAct (if s.curSlot ≠ 4 then illegal .amret else _) s = _
  rw [if_pos hs, bind_pure]

end

/-- Settles O54: each instruction's first act is the check that fails. -/
theorem privilegedInstructions : Obligations.PrivilegedInstructions := by
  intro s rd rs1 rs2 c b a oxb sat reg hq traps access
  exact ⟨traps_supervisor_instructions hq, traps_monitor_instructions hq, traps_amret hq, traps_matrix_instructions hq,
    fun ha => ⟨traps_ctlr hq ha, traps_ctlWrites hq (.inl ha)⟩, fun ha => traps_ctlWrites hq (.inr ha)⟩

end Sys2Proof.Machine

/-! # The step of a strand at its issue point (O56)

With no breakpoint of the strand nothing stops it before or after its instruction, and the turn is the instruction's own. -/

namespace Sys2Proof.Machine
open Safety

section
variable {s t u : State} {sid : Nat} {i : Instr}

/-! ## Without breakpoints -/

theorem State.stopIfArmed_eq_none (h : (s.st sid).bpArmed = none) : s.stopIfArmed sid = none := by
  rw [State.stopIfArmed, h]

theorem State.armAddress_eq_self (h : s.breakpoints sid = []) : s.armAddress sid = s := by
  rw [State.armAddress, h]; rfl

@[simp] theorem State.breakpoints_modSt (s : State) (sid : Nat) (f : Strand → Strand) :
    (s.modSt sid f).breakpoints sid = s.breakpoints sid := by
  simp [State.breakpoints, State.modSt, State.setSt, Core.setStrand]

theorem State.stripStop_eq_self (h : t.breakpoints sid = []) : s.stripStop t sid = t := by
  unfold State.stripStop; dsimp only
  rw [h]
  split <;> rfl

/-! ## After the instruction -/

theorem State.afterExec_poll (hw : (t.st sid).wait = .poll) :
    s.afterExec u t sid (some i) = t.modSt sid (fun x => { x with issued := true, flying := some i }) := by
  unfold State.afterExec; dsimp only
  rw [hw]

theorem State.afterExec_over {o : Option Instr} (hb : (u.st sid).bpArmed = none) (h1 : (t.st sid).wait ≠ .poll)
    (h2 : (t.st sid).wait ≠ .again) (h3 : ∀ l, (t.st sid).wait ≠ .flight l) :
    s.afterExec u t sid o = t.modSt sid (fun x => { x with issued := true, flying := none }) := by
  unfold State.afterExec; dsimp only
  split
  next h => exact absurd h h2
  next h => exact absurd h h1
  next h => exact absurd h h1
  next h => exact absurd h (h3 _)
  next => rw [State.stopIfArmed_eq_none hb]; exact ite_self _

/-- Where the instruction leaves no breakpoint either, its turn ends with the state that follows its execution. -/
theorem runInstr_of_next (hb : (s.st s.curSid).bpArmed = none) (hs : s.breakpoints s.curSid = []) (he : exec i s = .next t)
    (hu : (s.afterExec s t s.curSid (some i)).breakpoints s.curSid = []) :
    runInstr i s = .next (s.afterExec s t s.curSid (some i)) := by
  unfold runInstr; dsimp only
  rw [State.stopIfArmed_eq_none hb, State.armAddress_eq_self hs, he, ite_self]
  refine congrArg Host.Outcome.next ?_
  split
  · exact State.stripStop_eq_self hu
  · exact State.stripStop_eq_self hu
  · rfl

theorem runIllegal_trapRegs {w : Nat} (hq : s.cur.vq = []) (hb : (s.st s.curSid).bpArmed = none) (hs : s.breakpoints s.curSid = []) :
    ∃ t, runIllegal w s = .next t
      ∧ TrapRegs (s.st s.curSid) (t.st s.curSid) (causeWord false false false 0 1) (BitVec.ofNat 64 w) (s.st s.curSid).pc := by
  have hw := s.enter_wait s.curSid (causeWord false false false 0 xIllegal) (word w) s.cur.pc
  have hover := State.afterExec_over (s := s) (o := none) hb (by rw [hw]; nofun) (by rw [hw]; nofun) (by rw [hw]; nofun)
  refine ⟨(s.enter s.curSid (causeWord false false false 0 xIllegal) (word w) s.cur.pc).modSt s.curSid
    (fun x => { x with issued := true, flying := none }), ?_, ?_⟩
  · unfold runIllegal runAct
    rw [State.armAddress_eq_self hs, trap_drained hq]
    exact congrArg _ hover
  · have ht := (s.enter_trapTaken s.curSid (causeWord false false false 0 xIllegal) (word w) s.cur.pc).1
    unfold TrapRegs at ht ⊢
    rw [State.st_modSt]
    exact ht

/-! ## The turn -/

@[simp] theorem State.forgetWalks_cur (s : State) (sid stream : Nat) : (s.forgetWalks sid stream).cur = s.cur := by
  unfold State.forgetWalks State.dropWalks
  split <;> rfl

theorem State.takeAsync_eq_none (h : (s.st sid).async = []) : s.takeAsync sid = none := by
  unfold State.takeAsync; dsimp only
  rw [h]
  exact ite_self _

/-- A strand that is ready, with nothing before its instruction, issues at its turn. -/
theorem offer_eq_issueWord {core slot : Nat} (hs : s = { s with curCore := core, curSlot := slot })
    (hrun : (s.st (core * 8 + slot)).st = .run) (hwait : (s.st (core * 8 + slot)).wait = .none)
    (hasync : (s.st (core * 8 + slot)).async = []) (hready : (s.st (core * 8 + slot)).readyAt ≤ s.cycleOf core)
    (hheld : s.heldAtIssue core slot = false) (ham : slot = 4 → (s.core core).amRun.isSome = true)
    (hintr : s.interruptDue (core * 8 + slot) = none) :
    offer core slot s = issueWord (s.forgetWalks (core * 8 + slot) 0) := by
  have hfl : (s.st (core * 8 + slot)).inFlight = false := by rw [Strand.inFlight, hwait]
  have hsend : s.sendsAgain (core * 8 + slot) = false := by simp [State.sendsAgain, hwait]
  have hat : (s.st (core * 8 + slot)).atIssue (s.cycleOf core) = true := by
    simp [Strand.atIssue, Strand.unissued, hrun, hwait, hready]
  have ham' : (slot = 4 && (s.core core).amRun.isNone) = false := by
    by_cases h4 : slot = 4
    · simp [ham h4]
    · simp [h4]
  have hfree : issueFree (core * 8 + slot) s = issueWord (s.forgetWalks (core * 8 + slot) 0) := by
    simp [issueFree, hintr, hwait]
  unfold offer; dsimp only
  rw [← hs, State.takeAsync_eq_none hasync]
  simp [hwait, hready, hfl, hheld, hsend, hat, hasync, ham', hfree]

end

/-- Settles O56: the turn issues the word at the pc; with no breakpoint the instruction's own outcome stands. -/
theorem stepRunsDecodedInstruction : Obligations.StepRunsDecodedInstruction := by
  intro s s' core slot w rest hsched hslot sid s0 a hrun hwait hasync hready hheld ham hintr hrep hfetch
  have hstep : step s = issueWord (s0.forgetWalks sid 0) := by
    unfold step
    rw [hsched]
    exact offer_eq_issueWord (s := s0) rfl hrun hwait hasync hready hheld ham hintr
  have hnone : (s0.forgetWalks sid 0).cur.replayed = none := (State.forgetWalks_cur ..).symm ▸ hrep
  rw [issueWord, hnone] at hstep
  simp only [hfetch] at hstep
  refine ⟨fun i hi => ?_, fun hi hq hb hbp hcur => ?_⟩
  · have hrunI : step s = runInstr i (if vectorStream i && s'.cur.replay.complete then s'.modCur Strand.dropReplay else s') := by
      rw [hstep, hi]
    refine ⟨hrunI, fun hc hb hbp hcur t he ht => ?_⟩
    clear_value sid
    subst hcur
    rw [hrunI, hc, Bool.and_false, if_neg Bool.false_ne_true]
    refine ⟨fun hp => ?_, fun hp hag hf => ?_⟩
    · have hafter := State.afterExec_poll (s := s') (u := s') (i := i) hp
      rw [runInstr_of_next hb hbp he (by rwa [hafter, State.breakpoints_modSt]), hafter]
    · have hafter := State.afterExec_over (s := s') (o := some i) hb hp hag hf
      rw [runInstr_of_next hb hbp he (by rwa [hafter, State.breakpoints_modSt]), hafter]
  · clear_value sid
    subst hcur
    have hill : step s = runIllegal w s' := by
      rw [hstep]
      cases hd : decodeWord w with
      | error _ => rfl
      | ok i => exact absurd hd (hi i)
    rw [hill]
    exact runIllegal_trapRegs hq hb hbp

end Sys2Proof.Machine

/-! # Every step goes on (O59)

An instruction that may end early is an `Act`, whose outcome `runAct` makes a next state; every other branch is a next state as it
stands.  The turn then passes the outcome of `exec` on. -/

namespace Sys2Proof.Machine
open Safety

/-- An outcome that is a next state: neither a fault nor a refusal. -/
def GoesOn (o : Host.Outcome State Fault Refusal) : Prop := ∃ t, o = .next t

theorem goesOn_next (t : State) : GoesOn (.next t) := ⟨t, rfl⟩

theorem goesOn_runAct (a : Act Unit) (s : State) : GoesOn (runAct a s) := by
  unfold runAct
  split <;> exact goesOn_next _

section
variable {core slot n op : Nat} {x : Word} {s : State}

theorem dbgStep_goesOn : GoesOn (dbgStep op core slot s) := by
  unfold dbgStep; dsimp only
  split <;> exact goesOn_next _

theorem writeStep_goesOn : GoesOn (writeStep core slot n x s) := by
  fun_cases writeStep <;> exact goesOn_next _

/-- The command that a strand holds is a matrix instruction, which is an `Act`. -/
theorem execMatrixCmdAccept_goesOn : GoesOn (execMatrixCmdAccept core slot s) := by
  unfold execMatrixCmdAccept; dsimp only
  split
  case h_9 => exact goesOn_next _
  all_goals exact goesOn_runAct _ _

theorem execCopyCmdAccept_goesOn : GoesOn (execCopyCmdAccept core slot s) := by
  unfold execCopyCmdAccept; dsimp only
  split
  case h_5 => exact goesOn_next _
  all_goals exact goesOn_runAct _ _

end

theorem exec_goesOn (i : Instr) (s : State) : GoesOn (exec i s) := by
  cases i with
  | add | sub | mul | mulh | mulhu | div | divu | rem | remu | and | or | xor | andn | shl | shr | sha | rot | slt | sltu | min | max |
    minu | maxu | clz | ctz | popc | sext | zext | addi | andi | ori | xori | shli | shri | shai | slti | sltiu | lih | loxi | loxiSh |
    lox | movox | fadd | fsub | fmul | fdiv | fsqrt | fmin | fmax | fcmp | fclass | ffma | fcvt | beq | bne | blt | bge | bltu | bgeu |
    jal | jalr | cpqry | bfree | mbpeek | trmark | cMv | cAdd | cSub | cAnd | cOr | cXor | cSlt | cLi | cAddi | cShli | cShri | cShai |
    cBeqz | cBnez | cJr | cJal | cAddsp | cNeg | vectorEntryComplete | laneGrant | scWindowDeliver | packetRoute | timeSyncLoss |
    debugHoldNotice | pcreate | pdissolve | tplace | tremove | reserve | release | hwgrant | powerOn | packageReset | debugHoldWithdrawal |
    linkFrameBoundary => exact goesOn_next _
  | ldb | ldbu | ldh | ldhu | ldw | ldwu | ldd | stb | sth | stw | std | ldfe | ldff | stfe | stff | rsv | rls | aadd | aswp | acas |
    aminSigned | amaxSigned | aminUnsigned | amaxUnsigned | svc | brk | rett | waiti | halt | ipi | ctlr | ctlw | ctlset | ctlclr |
    ctxsave | ctxload | amsend | amret | fenceI | fenceSv | fenceVs | fenceVv | fenceA | acq | rel | scld | scst | scswp | flushr | setvl |
    setmvl | vaddIvv | vsubIvv | vmulIvv | vmulh | vdivIvv | vminIvv | vmaxIvv | vandIvv | vor | vxor | vshlIvv | vshrIvv | vadds | vsubs |
    vaddIvx | vsubIvx | vmulIvx | vminIvx | vmaxIvx | vandIvx | vshlIvx | vshrIvx | vaddFvv | vsubFvv | vmulFvv | vdivFvv | vminFvv |
    vmaxFvv | vaddFvx | vsubFvx | vmulFvx | vdivFvx | vminFvx | vmaxFvx | vfma | vfms | vfnma | vcmp | vsel | vbcast | vext | vins |
    vslideup | vslidedn | vperm | vcompress | vexpand | viota | vred | vscan | vdot | vsqrt | vrcp | vrsq | vexp2 | vlog2 | vcvt | efget |
    efset | kand | kor | kxor | kandn | knot | kmov | kpop | kfirst | kset | kget | vld | vlds | vldx | vldSl | vst | vsts | vstx | vstSl |
    vldt | vstt | vldc | vpf | vamo | vrdm | mzero | mwait | mprg | mhdr | mop | mopd | mops | mmas | mrd | mwr | mld | mst | cpy | cpyf |
    cpym | cpys | rowcls | cpwait | cbinit | cbacq | cbrel | lfmt | binit | barv | bwait | mbsend | mbrecv | gsub | gdep | gdone | gwait |
    sfdecl | sfnext | sfend | ftset | migr | sample | sampleDraft | tkapp | tkdraft | tkconf | wset | wget | sqfork | sqstat | sqiter |
    dcapd | dcapr | dcapq | sliprd | attest | keynew | keydel | fuserd | lcstat | dbgunlk | measx | plbinv | tlbinv | pgwake | pgqry |
    pgpin | mscfl | hbmslot | tenset | vcres | cLdw | cLdd | cStw | cStd | cLdsp | cStsp => exact goesOn_runAct _ _
  | dbgResume | rdreg | wrreg | dbgCancel | setbp | clrbp | brkcap | trset => exact dbgStep_goesOn
  | ipendClear | vqpop | fqtailWrite | trtailWrite | shrent2Write | svpop | ipointWrite => exact writeStep_goesOn
  | registerWrite core slot num value =>
    change GoesOn (if ctlOwn num then .next s else writeStep core slot num value s)
    split
    · exact goesOn_next _
    · exact writeStep_goesOn
  | matrixCmdAccept => exact execMatrixCmdAccept_goesOn
  | copyCmdAccept => exact execCopyCmdAccept_goesOn
  | interruptEntry | timerInterrupt | eptimeout | asyncFaultTrap | asyncPageFaultDrop | walkComplete | plbFill | faultRecordWrite |
    matrixCmdPerform | mmasKrowApply | matrixCmdFinish | copyChunkRegister | copyFollowonIssue | copySlotTake | mergeEntryClose |
    mergeRequest | feAccessArrive | fetimeout | feCancel | rsvRequest | rsvGrant | mailboxArrival | amArrival | amHandlerStart |
    registration | revocationNotice | homeReadResponse | hostPostedWrite | hostWritePerform | hostRead | spillWritebackDone |
    channelSlotBoundary | escapeChannelMove | flitReceive | msgSwitchArrival | ualinkMessageReceive | ptpMessageReceive | ppsEdge |
    submitRecord | placementDecision | firingSlotBoundary | migrationTransfer | breakpointStop | debugPortCommand | dbgHalt | mboxStatus |
    logread | stage | mboxBoot | dcmd | route | mboxBadCommand | pcieConfigAccess | calibrationComplete | correctedErrorEvent |
    powerCapLower | powerCapRaise | lockBroken | vamoVrdmElementAtHome | ualinkRemoteRequest | spareTakeover =>
    -- the steps of the engines: each branch is a next state
    simp only [exec, dbgStep, mailbox, execInterruptEntry, execTimerInterrupt, execEptimeout, execAsyncFaultTrap, execAsyncPageFaultDrop,
      execWalkComplete, execPlbFill, execFaultRecordWrite, execMatrixCmdPerform, execMmasKrowApply, execMatrixCmdFinish,
      execCopyChunkRegister, execCopyFollowonIssue, execCopySlotTake, execMergeEntryClose, execMergeRequest, execFeAccessArrive,
      execFetimeout, execFeCancel, execRsvRequest, execRsvGrant, execMailboxArrival, execAmArrival, execAmHandlerStart, execRegistration,
      execRevocationNotice, execHomeReadResponse, execHostPostedWrite, execHostWritePerform, execHostRead, execSpillWritebackDone,
      execChannelSlotBoundary, execEscapeChannelMove, execFlitReceive, execMsgSwitchArrival, execUalinkMessageReceive,
      execPtpMessageReceive, execPpsEdge, execSubmitRecord, execPlacementDecision, execFiringSlotBoundary, execMigrationTransfer,
      execBreakpointStop, execDebugPortCommand, execDbgHalt, execMboxStatus, execLogread, execStage, execMboxBoot, execDcmd, execRoute,
      execMboxBadCommand, execPcieConfigAccess, execCalibrationComplete, execCorrectedErrorEvent, execPowerCapLower, execPowerCapRaise,
      execLockBroken, execVamoVrdmElementAtHome, execUalinkRemoteRequest, execSpareTakeover]
    (repeat' split) <;> exact goesOn_next _

/-! ## The turn -/

section
variable {i : Instr} {s : State} {core slot sid w : Nat}

theorem runInstr_goesOn : GoesOn (runInstr i s) := by
  obtain ⟨t, ht⟩ := exec_goesOn i (s.armAddress s.curSid)
  unfold runInstr; dsimp only
  rw [ht]
  split
  · split <;> exact goesOn_next _
  · exact goesOn_next _

theorem runIllegal_goesOn : GoesOn (runIllegal w s) := by
  obtain ⟨t, ht⟩ := goesOn_runAct (trap 0 xIllegal (word w)) (s.armAddress s.curSid)
  unfold runIllegal
  rw [ht]
  exact goesOn_next _

theorem issueWord_goesOn : GoesOn (issueWord s) := by
  unfold issueWord
  split
  · exact runInstr_goesOn
  · split
    · exact goesOn_next _
    · split
      · exact runIllegal_goesOn
      · exact runInstr_goesOn

theorem goOn_goesOn : GoesOn (goOn sid s) := by
  unfold goOn
  split
  · exact issueWord_goesOn
  · next i _ =>
    obtain ⟨t, ht⟩ := runInstr_goesOn (i := i) (s := s)
    rw [ht]
    exact goesOn_next _

theorem issueFree_goesOn : GoesOn (issueFree sid s) := by
  unfold issueFree
  split
  · split <;> exact goesOn_next _
  · split
    · exact goesOn_next _
    · exact issueWord_goesOn

theorem offer_goesOn : GoesOn (offer core slot s) := by
  fun_cases offer with
  | case3 => exact goOn_goesOn
  | case11 => exact issueFree_goesOn
  | _ => exact goesOn_next _

theorem rotateFrom_goesOn {last : Nat} {ds : List Nat} : GoesOn (rotateFrom core last ds s) := by
  induction ds generalizing s with
  | nil => exact goesOn_next _
  | cons d r ih =>
    obtain ⟨t, ht⟩ := offer_goesOn (core := core) (slot := (last + d) % 5) (s := s)
    simp only [rotateFrom, ht]
    split
    · exact goesOn_next _
    · exact ih

theorem turn_goesOn {t : Turn} : GoesOn (turn t s) := by
  cases t with
  | issue core slot => exact offer_goesOn
  | rotate core => exact rotateFrom_goesOn
  | act e => exact exec_goesOn e s
  | pass n => exact goesOn_next _

theorem step_goesOn : GoesOn (step s) := by
  unfold step
  split
  · split
    · exact turn_goesOn
    · exact goesOn_next _
  · exact turn_goesOn

end

/-- Settles O59: every branch of `exec` is a next state, and each part of the turn passes the outcome on. -/
theorem everyStepGoesOn : Obligations.EveryStepGoesOn := ⟨exec_goesOn, fun _ => step_goesOn⟩

end Sys2Proof.Machine

/-! # What an access leaves of the strands (O8)

`State.strandView` is what an access must leave: every strand but for its pending bits, whose turn it is, and the clock.  Each function
of the caches, the home slices and the translation is shown to leave it, in the order of their definitions. -/

namespace Sys2Proof.Machine
open Safety Std.Do

/-! ## The view -/

/-- A fold of changes that each leave what a view shows. -/
theorem State.foldl_view {α γ : Type} (v : State → γ) (s : State) (l : List α) (f : State → α → State)
    (h : ∀ s a, v (f s a) = v s) : v (l.foldl f s) = v s := by
  induction l generalizing s with
  | nil => rfl
  | cons a r ih => rw [List.foldl_cons, ih, h]

/-- A strand but for the pending bits that a source may raise. -/
def Strand.butPend (t : Strand) : Strand × (Nat → Word) := ({ t with cr := [] }, fun n => if n = cIpend then 0 else t.ctl n)

theorem pendOnly_of_butPend {a b : Strand} (h : b.butPend = a.butPend) : PendOnly a b := by
  obtain ⟨h1, h2⟩ := Prod.mk.inj h
  refine ⟨congrArg (fun t => { t with cr := a.cr }) h1, fun n hn => ?_⟩
  simpa [hn] using congrFun h2 n

theorem Strand.butPend_setPend (t : Strand) (x : Word) : (t.setCtl cIpend x).butPend = t.butPend := by
  refine Prod.ext rfl (funext fun n => ?_)
  by_cases hn : n = cIpend
  · simp [Strand.butPend, hn]
  · simp [Strand.butPend, hn, Strand.ctl_setCtl_ne _ _ _ _ hn]

/-- What an access leaves: the strands of each core by their slots, the current core and slot, and the clock. -/
abbrev StrandView : Type := (Nat → Nat → Strand × (Nat → Word)) × Nat × Nat × Nat

def State.strandView (s : State) : StrandView :=
  (fun c k => ((s.core c).strand k).butPend, s.curCore, s.curSlot, s.clock)

theorem strandView_keeps {s t : State} (h : t.strandView = s.strandView) :
    (∀ sid, PendOnly (s.st sid) (t.st sid)) ∧ t.curSid = s.curSid ∧ t.clock = s.clock := by
  simp only [State.strandView, Prod.mk.injEq] at h
  obtain ⟨hst, hcore, hslot, hclock⟩ := h
  exact ⟨fun sid => pendOnly_of_butPend (congrFun (congrFun hst _) _), by rw [State.curSid, hcore, hslot]; rfl, hclock⟩

section
variable (s : State)

/-! ### Changes of other fields -/

@[simp] theorem State.strandView_mk (clusters dies mem full owners lineKey poison broken flawed resvs pendRegs notices updates merges
    scOps disp fabric svc ports shared caps halts holds pcr tcr devTime pkg sched freeCtr nextId) :
    State.strandView { s with
      clusters := clusters, dies := dies, mem := mem, full := full, owners := owners, lineKey := lineKey, poison := poison,
      broken := broken, flawed := flawed, resvs := resvs, pendRegs := pendRegs, notices := notices, updates := updates,
      merges := merges, scOps := scOps, disp := disp, fabric := fabric, svc := svc, ports := ports, shared := shared, caps := caps,
      halts := halts, holds := holds, pcr := pcr, tcr := tcr, devTime := devTime, pkg := pkg, sched := sched, freeCtr := freeCtr,
      nextId := nextId } = s.strandView := rfl
@[simp] theorem State.setDie_strandView (d : Nat) (x : Die) : (s.setDie d x).strandView = s.strandView := rfl
@[simp] theorem State.modDie_strandView (d : Nat) (f : Die → Die) : (s.modDie d f).strandView = s.strandView := rfl
@[simp] theorem State.modCluster_strandView (c : Nat) (f : Cluster → Cluster) : (s.modCluster c f).strandView = s.strandView := rfl
@[simp] theorem State.draw_strandView : s.draw.2.strandView = s.strandView := rfl
@[simp] theorem State.freeBytes_strandView (n : Nat) : (s.freeBytes n).2.strandView = s.strandView := rfl

/-! ### Changes of a core -/

theorem State.setCore_strandView (c : Nat) (x : Core) (hx : ∀ k, (x.strand k).butPend = ((s.core c).strand k).butPend) :
    (s.setCore c x).strandView = s.strandView := by
  refine Prod.ext (funext fun d => ?_) rfl
  change (fun k => (((s.setCore c x).core d).strand k).butPend) = _
  by_cases hd : d = c
  · subst hd
    rw [State.core_setCore]
    exact funext hx
  · rw [State.core_setCore_ne _ _ _ _ hd]
    rfl

/-- A change of a core's other units leaves its strands. -/
@[simp] theorem State.setCore_strandView_of_strands (c : Nat) (x : Core) (hx : x.strands = (s.core c).strands) :
    (s.setCore c x).strandView = s.strandView :=
  s.setCore_strandView c x fun k => by rw [Core.strand, hx]; rfl

@[simp] theorem State.modCore_strandView (c : Nat) (f : Core → Core) (hf : ∀ x, (f x).strands = x.strands) :
    (s.modCore c f).strandView = s.strandView :=
  s.setCore_strandView_of_strands c _ (hf _)

@[simp] theorem State.setCore_setCtl_strandView (c n : Nat) (x : Word) :
    (s.setCore c ((s.core c).setCtl n x)).strandView = s.strandView :=
  s.setCore_strandView_of_strands c _ rfl

@[simp] theorem State.modCore_setCtl_strandView (c n : Nat) (f : Core → Word) :
    (s.modCore c (fun x => x.setCtl n (f x))).strandView = s.strandView :=
  s.modCore_strandView c _ fun _ => rfl

@[simp] theorem State.modCore_setAccBytes_strandView (c off : Nat) (bs : List Byte) :
    (s.modCore c (fun x => x.setAccBytes off bs)).strandView = s.strandView :=
  s.modCore_strandView c _ fun _ => rfl

@[simp] theorem State.setPend_strandView (sid n : Nat) : (s.setPend sid n).strandView = s.strandView := by
  refine s.setCore_strandView _ _ fun k => ?_
  by_cases hk : k = slotOfSid sid
  · subst hk
    rw [Core.strand_setStrand]
    exact Strand.butPend_setPend _ _
  · rw [Core.strand_setStrand_ne _ _ _ _ hk]

@[simp] theorem State.raiseSource_strandView (c n : Nat) : (s.raiseSource c n).strandView = s.strandView := by
  fun_cases State.raiseSource <;> simp

/-! ### Folds -/

theorem foldl_pair_strandView {α β : Type} (l : List α) (f : β × State → α → β × State)
    (h : ∀ acc a, (f acc a).2.strandView = acc.2.strandView) (acc : β × State) : (l.foldl f acc).2.strandView = acc.2.strandView := by
  induction l generalizing acc with
  | nil => rfl
  | cons a r ih => rw [List.foldl_cons, ih, h]

/-! ## The home slices -/

@[simp] theorem State.setPoison_strandView (a : Nat) : (s.setPoison a).strandView = s.strandView := rfl

@[simp] theorem State.foldl_setPoison_strandView (l : List Nat) : (l.foldl State.setPoison s).strandView = s.strandView :=
  s.foldl_view State.strandView l _ fun _ _ => rfl

@[simp] theorem State.leaveSagger_strandView (gone : List SagLine) : (s.leaveSagger gone).strandView = s.strandView :=
  s.foldl_view State.strandView _ _ fun _ _ => by simp

@[simp] theorem State.saggerSpill_strandView (d : Nat) (others kept : List SagLine) (x : SagLine) :
    (s.saggerSpill d others kept x).strandView = s.strandView := by
  fun_cases State.saggerSpill <;> simp

@[simp] theorem State.saggerGrow_strandView (d idx : Nat) (rest : List SagLine) (need : Nat) (mk : Nat → Nat → Nat → SagLine) :
    (s.saggerGrow d idx rest need mk).strandView = s.strandView := by
  fun_cases State.saggerGrow <;> simp +zetaDelta

@[simp] theorem State.saggerWrite_strandView (x : L2Line) (before : LineImage) : (s.saggerWrite x before).strandView = s.strandView := by
  fun_cases State.saggerWrite <;> simp

@[simp] theorem State.sagTouch_strandView (line : Nat) : (s.sagTouch line).strandView = s.strandView := by
  fun_cases State.sagTouch <;> simp

@[simp] theorem State.meetError_strandView (a : Nat) : (s.meetError a).strandView = s.strandView := rfl

@[simp] theorem State.l2Mod_strandView (pa : Nat) (f : List L2Line → List L2Line) : (s.l2Mod pa f).strandView = s.strandView := rfl

@[simp] theorem State.l2Put_strandView (x : L2Line) : (s.l2Put x).strandView = s.strandView := rfl

@[simp] theorem State.l2Evict_strandView (x : L2Line) : (s.l2Evict x).strandView = s.strandView := by
  cases hu : x.under <;> simp [State.l2Evict, hu, apply_ite State.strandView]

@[simp] theorem State.l2Insert_strandView (x : L2Line) : (s.l2Insert x).strandView = s.strandView := by
  simp only [State.l2Insert, State.l2Mod_strandView]
  (repeat' split) <;> simp

@[simp] theorem State.l2Take_strandView (a : Nat) : (s.l2Take a).strandView = s.strandView := by
  fun_cases State.l2Take <;> simp

@[simp] theorem State.l2Own_strandView (a key tenant : Nat) : (s.l2Own a key tenant).strandView = s.strandView := by
  fun_cases State.l2Own <;> simp +zetaDelta

@[simp] theorem State.hostFails_strandView (pa : Nat) : (s.hostFails pa).2.strandView = s.strandView := by
  unfold State.hostFails
  split <;> simp

@[simp] theorem State.restamp_strandView (pa key : Nat) : (s.restamp pa key).strandView = s.strandView := by
  fun_cases State.restamp <;> simp +zetaDelta [apply_ite State.strandView]

end

/-! ## Computations -/

/-- What a view shows of a state is `k`. -/
def State.Shows {γ : Type} (s : State) (v : State → γ) (k : γ) : Prop := v s = k

@[simp] theorem State.shows_iff {γ : Type} {s : State} {v : State → γ} {k : γ} : s.Shows v k ↔ v s = k := Iff.rfl

/-- A computation leaves what a view shows, however it ends. -/
abbrev Leaves {γ : Type} (v : State → γ) (k : γ) {ε α : Type} (a : EStateM ε State α) : Prop :=
  ⦃fun s => ⌜s.Shows v k⌝⦄ a ⦃(fun _ s => ⌜s.Shows v k⌝, fun _ s => ⌜s.Shows v k⌝, ())⦄

section
variable {γ : Type} {v : State → γ} {k : γ} {ε α β : Type} {a : EStateM ε State α} {s t : State}

/-- It does when every run ends in a state that shows what its first state does. -/
theorem Leaves.of_run (h : ∀ s, v (endState (a s)) = v s) : Leaves v k a := by
  intro s hs
  have ht := (h s).trans hs
  cases hr : a s <;> simpa [WP.wp, PredTrans.apply, EStateM.run, endState, hr] using ht

theorem Leaves.run (ha : Leaves v (v s) a) : v (endState (a s)) = v s := by
  have h := ha s rfl
  cases hr : a s <;> simpa [WP.wp, PredTrans.apply, EStateM.run, endState, hr] using h

theorem Leaves.ok {x : α} (ha : Leaves v (v s) a) (h : a s = .ok x t) : v t = v s := by
  simpa [h, endState] using ha.run

theorem Leaves.error {e : ε} (ha : Leaves v (v s) a) (h : a s = .error e t) : v t = v s := by
  simpa [h, endState] using ha.run

theorem Leaves.get_bind {f : State → EStateM ε State α} (hf : ∀ s, s.Shows v k → Leaves v k (f s)) : Leaves v k (get >>= f) :=
  fun s hs => hf s hs s hs

theorem Leaves.ite {c : Prop} [Decidable c] {a b : EStateM ε State α} (ha : Leaves v k a) (hb : Leaves v k b) :
    Leaves v k (if c then a else b) := by
  split <;> assumption

theorem mapM_leaves {l : List α} {f : α → EStateM ε State β} (hf : ∀ x, Leaves v k (f x)) : Leaves v k (l.mapM f) := by
  induction l with
  | nil => mvcgen [List.mapM_nil]
  | cons x r ih => rw [List.mapM_cons]; mvcgen [hf, ih]

theorem forM_leaves {l : List α} {f : α → EStateM ε State PUnit} (hf : ∀ x, Leaves v k (f x)) : Leaves v k (l.forM f) := by
  induction l with
  | nil => mvcgen [List.forM]
  | cons x r ih => mvcgen [List.forM, hf, ih]

end

/-! ## Writes at the home slices -/

section
variable {k : StrandView}

theorem homeRead_leaves {pa n key : Nat} : Leaves State.strandView k (homeRead pa n key) := by
  mvcgen [homeRead]
  · simpa
  · exact (State.foldl_view State.strandView _ _ _ fun _ _ => by simp).trans (by simpa)

theorem slotGate_leaves {tenant : Option Nat} {pa : Nat} : Leaves State.strandView k (slotGate tenant pa) := by
  mvcgen [slotGate]

end

section
variable (s : State)

@[simp] theorem State.mergeRead_strandView (pa key : Nat) : (s.mergeRead pa key).2.strandView = s.strandView := by
  fun_cases State.mergeRead
  case case1 hr => exact homeRead_leaves.ok hr
  case case2 hr => exact homeRead_leaves.error hr

@[simp] theorem State.closeMerges_strandView (pa : Nat) : (s.closeMerges pa).strandView = s.strandView := by
  simp only [State.closeMerges]
  split
  · simp only [State.strandView_mk]
    refine foldl_pair_strandView _ _ (fun acc m => ?_) _
    split <;> simp
  · rfl

@[simp] theorem State.homePut_strandView (pa : Nat) (mask : BitVec 8) (data : Word) (key tenant : Nat) :
    (s.homePut pa mask data key tenant).strandView = s.strandView := by
  fun_cases State.homePut <;> simp +zetaDelta [apply_ite State.strandView]

@[simp] theorem State.pushNotice_strandView (core pa : Nat) : (s.pushNotice core pa).strandView = s.strandView := by
  fun_cases State.pushNotice <;> simp +zetaDelta

@[simp] theorem State.sendNotice_strandView (cause via : Option Nat) (core pa : Nat) :
    (s.sendNotice cause via core pa).strandView = s.strandView := by
  fun_cases State.sendNotice <;> simp

@[simp] theorem State.registerHome_strandView (pa : Nat) (mask : BitVec 8) (data : Word) (owner : Option Nat) (key tenant : Nat)
    (cause via : Option Nat) : (s.registerHome pa mask data owner key tenant cause via).strandView = s.strandView := by
  unfold State.registerHome
  extract_lets prev put owned isCore told
  have htold : told.strandView = s.strandView := by
    unfold told
    split <;> simp [owned, put]
  clear_value told
  split
  · exact htold
  · split
    · extract_lets cl counted
      have hcounted : counted.strandView = s.strandView := by simpa [counted]
      clear_value counted
      split
      · exact hcounted
      · simp only [State.modCluster_strandView]
        split
        · split <;> simpa
        · exact hcounted
    · exact htold

@[simp] theorem State.writeHeld_strandView (pa : Nat) (r : Resv) (mask : BitVec 8) (data : Word) :
    (s.writeHeld pa r mask data).strandView = s.strandView := rfl

@[simp] theorem State.addPending_strandView (q : PendReg) : (s.addPending q).strandView = s.strandView := by
  simp [State.addPending, apply_ite State.strandView]

@[simp] theorem State.clearCovered_strandView (ws : List (Nat × BitVec 8)) (key tenant : Nat) :
    (s.clearCovered ws key tenant).strandView = s.strandView :=
  s.foldl_view State.strandView _ _ fun _ _ => by simp

@[simp] theorem State.arriveHome_strandView (pa : Nat) (mask : BitVec 8) (data : Word) (owner : Option Nat) (key tenant : Nat)
    (cause : Option Nat) (act : PendAct) (via : Option Nat) :
    (s.arriveHome pa mask data owner key tenant cause act via).strandView = s.strandView := by
  fun_cases State.arriveHome <;> simp

/-! ## Translation -/

@[simp] theorem State.pteUpdate_strandView (pa frame : Nat) (on off : List Nat) :
    (s.pteUpdate pa frame on off).2.strandView = s.strandView := by
  fun_cases State.pteUpdate <;> simp [apply_ite State.strandView]

@[simp] theorem State.victimAppend_strandView (core va : Nat) : (s.victimAppend core va).strandView = s.strandView := by
  fun_cases State.victimAppend <;> simp +zetaDelta

@[simp] theorem State.victimRemove_strandView (core va : Nat) : (s.victimRemove core va).strandView = s.strandView := by
  fun_cases State.victimRemove <;> simp

@[simp] theorem State.askWalk_strandView (w : Who) (va : Nat) : (s.askWalk w va).strandView = s.strandView := by
  simp [State.askWalk]

end

section
variable {k : StrandView} {w : Who} {core pd ea va : Nat} {m : Mark} {e : TlbEntry}

theorem placeAt_leaves : Leaves State.strandView k (placeAt w ea) := by
  mvcgen [placeAt]

theorem readSegs_leaves : Leaves State.strandView k (readSegs core pd) := by
  mvcgen [readSegs, homeRead_leaves]

theorem plbFill_leaves : Leaves State.strandView k (plbFill core pd) := by
  mvcgen [plbFill, readSegs_leaves] <;> simpa +zetaDelta

theorem segAt_leaves : Leaves State.strandView k (segAt core pd ea) := by
  mvcgen [segAt, plbFill_leaves]

theorem checkRights_leaves {n : Need} : Leaves State.strandView k (checkRights w ea n) := by
  mvcgen [checkRights, segAt_leaves]

theorem touch_leaves {store : Bool} : Leaves State.strandView k (touch w e store m) := by
  mvcgen [touch] <;> simpa +zetaDelta [ apply_ite State.strandView]

theorem useLeaf_leaves {lo hi : Word} {pa level : Nat} : Leaves State.strandView k (useLeaf w va lo hi pa level) := by
  mvcgen [useLeaf]

theorem walked_leaves : Leaves State.strandView k (walked w va) := by
  mvcgen [walked, useLeaf_leaves]
  simpa +zetaDelta

theorem translate_leaves {store : Bool} : Leaves State.strandView k (translate w va store m) := by
  unfold translate
  extract_lets again
  have hagain : Leaves State.strandView k again := by mvcgen [again, walked_leaves, touch_leaves]; simpa +zetaDelta
  clear_value again
  refine Leaves.get_bind fun s hs => Leaves.ite hagain ?_
  split
  · mvcgen [hagain, touch_leaves]
  · exact hagain

theorem canMark_leaves : Leaves State.strandView k (canMark w va e m) := by
  mvcgen [canMark]
  simpa +zetaDelta

theorem markPage_leaves : Leaves State.strandView k (markPage w e m) := by
  mvcgen [markPage, touch_leaves]

end

/-! ## The caches -/

section
variable (s : State)

@[simp] theorem State.registerCcWords_strandView (cl : Nat) (via : Option Nat) (p : Nat → CcWord → Bool) :
    (s.registerCcWords cl via p).strandView = s.strandView := by
  refine (State.foldl_view State.strandView _ _ _ fun u e => ?_).trans ?_
  · simp [apply_ite State.strandView]
  · split <;> simp

@[simp] theorem State.evictCc_strandView (cl line : Nat) : (s.evictCc cl line).strandView = s.strandView := by
  simp [State.evictCc]

theorem State.roomFor_strandView (held : List Nat) (line cap : Nat) (evict : State → Nat → State)
    (he : ∀ u l, (evict u l).strandView = u.strandView) : (s.roomFor held line cap evict).strandView = s.strandView := by
  unfold State.roomFor
  split
  · rfl
  · exact he _ _

@[simp] theorem State.ccPut_strandView (cl pa : Nat) (w : CcWord) : (s.ccPut cl pa w).strandView = s.strandView := by
  simp [State.ccPut, State.roomFor_strandView]

@[simp] theorem State.evictDirty_strandView (core : Nat) (e : L1Word) : (s.evictDirty core e).strandView = s.strandView := by
  simp [State.evictDirty, apply_ite State.strandView]

@[simp] theorem State.dropL1_strandView (core : Nat) (p : Nat → L1Word → Bool) : (s.dropL1 core p).strandView = s.strandView := by
  simp [State.dropL1]

@[simp] theorem State.evictL1_strandView (core line : Nat) : (s.evictL1 core line).strandView = s.strandView := by
  simp [State.evictL1, State.foldl_view]

@[simp] theorem State.l1Put_strandView (core va : Nat) (w : L1Word) : (s.l1Put core va w).strandView = s.strandView := by
  simp [State.l1Put, State.roomFor_strandView]

@[simp] theorem State.l1Entry_strandView (core va pa : Nat) : (s.l1Entry core va pa).2.strandView = s.strandView := by
  fun_cases State.l1Entry <;> simp

end

section
variable {k : StrandView} {w : Who} {p : Place} {ea : Word} {va n : Nat} {m : Mark} {t : TlbEntry} {mask : BitVec 8} {data : Word}
  {bs : List Byte}

theorem ccWord_leaves {core tenant pa rid key : Nat} : Leaves State.strandView k (ccWord core tenant pa rid key) := by
  mvcgen [ccWord, homeRead_leaves, slotGate_leaves] <;> simpa +zetaDelta

theorem fillWord_leaves : Leaves State.strandView k (fillWord w va t) := by
  mvcgen [fillWord, ccWord_leaves] <;> simpa +zetaDelta

theorem loadWord.miss_leaves : Leaves State.strandView k (loadWord.miss w va m) := by
  mvcgen [loadWord.miss, translate_leaves, canMark_leaves, markPage_leaves, fillWord_leaves]

theorem loadWord_leaves : Leaves State.strandView k (loadWord w va mask m) := by
  mvcgen [loadWord, loadWord.miss_leaves]

theorem storePage_leaves : Leaves State.strandView k (storePage w va m) := by
  mvcgen [storePage, touch_leaves, translate_leaves]

theorem storeWord.put_leaves {x : L1Word} : Leaves State.strandView k (storeWord.put w va mask data x) := by
  mvcgen [storeWord.put]
  simpa

theorem storeWord.walkedStore_leaves : Leaves State.strandView k (storeWord.walkedStore w va mask data t) := by
  mvcgen [storeWord.walkedStore, storeWord.put_leaves]
  simpa

theorem storeWord_leaves : Leaves State.strandView k (storeWord w va mask data m) := by
  mvcgen [storeWord, storePage_leaves, storeWord.put_leaves, storeWord.walkedStore_leaves, translate_leaves]

/-! ## Accesses -/

theorem loadBytes_leaves : Leaves State.strandView k (loadBytes w p va n m) := by
  mvcgen [loadBytes, loadWord_leaves, mapM_leaves]

theorem storeBarrier_leaves {cl off : Nat} : Leaves State.strandView k (storeBarrier cl off bs) := by
  mvcgen [storeBarrier]

theorem storeBarriers_leaves {cl off : Nat} : Leaves State.strandView k (storeBarriers cl off bs) := by
  refine Leaves.of_run fun s => ?_
  have hall := (forM_leaves (l := List.range (ceilDiv bs.length 8)) fun i =>
    storeBarrier_leaves (cl := cl) (off := off + 8 * i) (bs := (bs.drop (8 * i)).take 8)).run (s := s)
  unfold storeBarriers
  split
  · rfl
  · exact hall

theorem storeBytes_leaves : Leaves State.strandView k (storeBytes w p va bs m) := by
  mvcgen [storeBytes, forM_leaves, storeWord_leaves, storeBarriers_leaves]
  simpa +zetaDelta

theorem mayEnter_leaves : Leaves State.strandView k (mayEnter w p) := by
  mvcgen [mayEnter]

theorem checkAccess_leaves {need : Need} : Leaves State.strandView k (checkAccess w ea n need) := by
  mvcgen [checkAccess, checkRights_leaves, placeAt_leaves, mayEnter_leaves]

theorem readMem_leaves : Leaves State.strandView k (readMem w ea n m) := by
  mvcgen [readMem, loadBytes_leaves, checkAccess_leaves]

theorem writeMem_leaves : Leaves State.strandView k (writeMem w ea bs m) := by
  mvcgen [writeMem, storeBytes_leaves, checkAccess_leaves]

end

/-! ## The bytes below the host windows' copies -/

/-- What a memory holds below 2^60, where the home slices' copies of host windows begin (log 43). -/
def lowBytes (m : Memory) : Nat → Byte := fun a => if a < 2 ^ 60 then mget m a else 0

theorem mget_of_lowBytes {m m' : Memory} (h : lowBytes m' = lowBytes m) {a : Nat} (ha : a < 2 ^ 60) : mget m' a = mget m a := by
  simpa only [lowBytes, if_pos ha] using congrFun h a

theorem lowBytes_mwrite (m : Memory) (a : Nat) (bs : List Byte) (ha : isHostCell a = true) : lowBytes (mwrite m a bs) = lowBytes m := by
  funext x
  unfold lowBytes
  split
  next hx => exact mget_mwrite_ne _ _ _ _ (.inl (hx.trans_le (of_decide_eq_true ha)))
  next => rfl

section
variable (s : State)

@[simp] theorem State.l2Evict_lowBytes (x : L2Line) : lowBytes (s.l2Evict x).mem = lowBytes s.mem := by
  by_cases hc : isHostCell x.pa = true <;> cases hu : x.under <;> simp [State.l2Evict, hu, hc, lowBytes_mwrite]

@[simp] theorem State.l2Insert_lowBytes (x : L2Line) : lowBytes (s.l2Insert x).mem = lowBytes s.mem := by
  simp only [State.l2Insert, State.l2Mod_mem]
  (repeat' split) <;> simp

@[simp] theorem State.l2Take_lowBytes (atom : Nat) : lowBytes (s.l2Take atom).mem = lowBytes s.mem := by
  fun_cases State.l2Take <;> simp [lowBytes_mwrite, *]

end

section
variable {k : Nat → Byte} {w : Who} {core pd ea : Nat}

theorem homeRead_leavesBytes {pa n key : Nat} : Leaves (fun s => lowBytes s.mem) k (homeRead pa n key) := by
  mvcgen [homeRead]
  · simpa
  · exact (State.foldl_view (fun s => lowBytes s.mem) _ _ _ fun _ _ => by simp).trans (by simpa)

theorem readSegs_leavesBytes : Leaves (fun s => lowBytes s.mem) k (readSegs core pd) := by
  mvcgen [readSegs, homeRead_leavesBytes]

theorem plbFill_leavesBytes : Leaves (fun s => lowBytes s.mem) k (plbFill core pd) := by
  mvcgen [plbFill, readSegs_leavesBytes]

theorem segAt_leavesBytes : Leaves (fun s => lowBytes s.mem) k (segAt core pd ea) := by
  mvcgen [segAt, plbFill_leavesBytes]

theorem checkRights_leavesBytes {n : Need} : Leaves (fun s => lowBytes s.mem) k (checkRights w ea n) := by
  mvcgen [checkRights, segAt_leavesBytes]

theorem placeAt_leavesBytes : Leaves (fun s => lowBytes s.mem) k (placeAt w ea) := by
  mvcgen [placeAt]

theorem mayEnter_leavesBytes {p : Place} : Leaves (fun s => lowBytes s.mem) k (mayEnter w p) := by
  mvcgen [mayEnter]

theorem checkAccess_leavesBytes {ea : Word} {n : Nat} {need : Need} : Leaves (fun s => lowBytes s.mem) k (checkAccess w ea n need) := by
  mvcgen [checkAccess, checkRights_leavesBytes, placeAt_leavesBytes, mayEnter_leavesBytes]

end

/-! ## A read of a scratchpad -/

theorem exists_ok_of_bind {ε α β : Type} {a : EStateM ε State α} {f : α → EStateM ε State β} {s t : State} {y : β}
    (h : (a >>= f) s = .ok y t) : ∃ x u, a s = .ok x u ∧ f x u = .ok y t := by
  change EStateM.bind a f s = _ at h
  unfold EStateM.bind at h
  split at h
  next x u hx => exact ⟨x, u, hx, h⟩
  next => cases h

section
variable {s t : State} {w : Who} {ea : Word} {n : Nat}

theorem placeOf_of_checkAccess {need : Need} {p : Place} (h : checkAccess w ea n need s = .ok p t) :
    s.placeOf w ea.toNat = some p := by
  unfold checkAccess at h
  split at h
  · cases h
  · obtain ⟨q, u, hq, h⟩ := exists_ok_of_bind h
    obtain ⟨_, _, _, h⟩ := exists_ok_of_bind h
    obtain ⟨_, _, _, h⟩ := exists_ok_of_bind h
    cases h
    obtain ⟨_, _, hs, hq⟩ := exists_ok_of_bind hq
    cases hs
    cases hp : s.placeOf w ea.toNat with
    | none => rw [hp] at hq; cases hq
    | some r => rw [hp] at hq; cases hq; rfl

theorem readMem_pad {m : Mark} {out : List Byte} {ga : Nat} (hp : s.placeOf w ea.toNat = some (.pad ga))
    (h : readMem w ea n m s = .ok out t) : lowBytes t.mem = lowBytes s.mem ∧ out = mread t.mem ga n := by
  obtain ⟨p, u, hc, h⟩ := exists_ok_of_bind h
  obtain rfl := Option.some.inj ((placeOf_of_checkAccess hc).symm.trans hp)
  have hbytes := checkAccess_leavesBytes.ok hc
  change (if u.padFlawed ga n then throw .ecc else pure (mread u.mem ga n) : Acc (List Byte)) u = _ at h
  split at h
  · cases h
  · cases h
    exact ⟨hbytes, rfl⟩

end

/-- Settles O8: every function of an access leaves the view of the strands, and those of a check the bytes below 2^60. -/
theorem accessesKeepStrands : Obligations.AccessesKeepStrands := by
  intro s s' w ea n m bs out keeps sameMem
  refine ⟨fun h => ⟨strandView_keeps (readMem_leaves.ok h), fun ga hp => ?_⟩, fun need h => ?_, fun h => ?_⟩
  · obtain ⟨hbytes, hout⟩ := readMem_pad hp h
    exact ⟨fun a => mget_of_lowBytes hbytes, hout⟩
  · exact ⟨strandView_keeps (checkRights_leaves.ok h), fun a => mget_of_lowBytes (checkRights_leavesBytes.ok h)⟩
  · exact strandView_keeps (writeMem_leaves.ok h)

end Sys2Proof.Machine

/-! # What reset leaves (O55)

Every table of `State.reset` is empty, so a field has its structure's default and most registers read as theirs by evaluation.  A
register has a lemma here where evaluation alone does not end: its value is arithmetic on words, or it looks at the clock, the queues of
events or the holding core of a partition. -/

namespace Sys2Proof.Machine

section
variable (sid : Nat)

/-- Nothing is pending: no bit is set, the ring of fault records is empty (head and tail agree), and no service event waits. -/
theorem readCtl_reset_ipend : State.reset.readCtl sid 0x009 = 0 := by
  have hbits : (State.reset.st sid).ctl cIpend = 0 := rfl
  have hring : (State.reset.core (coreOfSid sid)).fqPending = false := rfl
  have hevents : State.reset.svc.events = [] := rfl
  change State.reset.ipend sid = 0
  simp [State.ipend, hbits, hring, hevents, b2n, word]

theorem readCtl_reset_amstat : State.reset.readCtl sid 0x045 = 0 := by
  change ({} : Core).amstat = 0
  decide

/-- No reference cycle has passed, whatever the point of the core's island. -/
theorem readCtl_reset_cycle : State.reset.readCtl sid 0x051 = 0 := by
  change word (0 + 0 * (State.reset.island (islandOfCore (coreOfSid sid))).point / 17) = 0
  rw [Nat.zero_mul]
  rfl

/-- The registers of the fault and victim queues (07_translation R204) read the same on a partition's holding core as on the others. -/
theorem readCtl_reset_holding {n : Nat} (hn : n ∈ [0x10A, 0x10B, 0x10C, 0x10E]) : State.reset.readCtl sid n = 0 := by
  fin_cases hn <;> exact ite_self (0 : Word)

theorem readCtl_reset_fecnt : State.reset.readCtl sid 0x180 = 0 := by
  change word ((0 : Word).toNat / 2 ^ 16 * 2 ^ 16 + 0) = 0
  decide

theorem readCtl_reset_trbase : State.reset.readCtl sid 0x241 = 0 := by
  change word (bits 0 51 0 / 2 ^ (5 + bits 0 4 0) * 2 ^ (5 + bits 0 4 0)) = 0
  decide

end

/-- Settles O55: the defaults of the structures, and the registers above where the value is not a default. -/
theorem resetState : Obligations.ResetState := by
  refine ⟨rfl, fun sid => ⟨rfl, rfl, rfl, rfl, rfl, rfl, rfl, rfl, rfl, fun n hn => ?_, fun _ => rfl⟩, fun _ => rfl, fun _ => rfl⟩
  fin_cases hn
  iterate 8 rfl   -- up to 0x008
  · exact readCtl_reset_ipend sid
  iterate 18 rfl  -- 0x00A to 0x044
  · exact readCtl_reset_amstat sid
  · exact readCtl_reset_cycle sid
  iterate 6 rfl   -- 0x052 to 0x109
  iterate 4 exact readCtl_reset_holding sid (by decide)
  iterate 3 rfl   -- 0x140 to 0x142
  · exact readCtl_reset_fecnt sid
  iterate 15 rfl  -- 0x181 to 0x240
  · exact readCtl_reset_trbase sid
  all_goals rfl   -- from 0x242

end Sys2Proof.Machine

/-! # Integer operations of two registers (O1)

Each completes through `State.putReg`; what is left is the value of each operation of `Operands`, over the numbers or bit by bit. -/

namespace Sys2Proof.Machine
open Safety

/-! ## Values over the numbers -/

section
variable (a b : Word)

theorem add_eq_ofInt : a + b = BitVec.ofInt 64 (a.toInt + b.toInt) := by
  rw [BitVec.ofInt_add, BitVec.ofInt_toInt, BitVec.ofInt_toInt]

theorem sub_eq_ofInt : a - b = BitVec.ofInt 64 (a.toInt - b.toInt) :=
  BitVec.eq_of_toInt_eq (by rw [BitVec.toInt_sub, BitVec.toInt_ofInt])

theorem mul_eq_ofInt : a * b = BitVec.ofInt 64 (a.toInt * b.toInt) := by
  rw [BitVec.ofInt_mul, BitVec.ofInt_toInt, BitVec.ofInt_toInt]

theorem opDiv_eq_ite : opDiv a b = if b = 0 then BitVec.allOnes 64
    else if a = BitVec.intMin 64 ∧ b = BitVec.allOnes 64 then BitVec.intMin 64 else BitVec.ofInt 64 (a.toInt.tdiv b.toInt) := by
  unfold opDiv
  split
  · rfl
  · split
    next h => obtain ⟨rfl, rfl⟩ := h; decide
    next => rfl

theorem opRem_eq_ite : opRem a b = if b = 0 then a
    else if a = BitVec.intMin 64 ∧ b = BitVec.allOnes 64 then 0
    else BitVec.ofInt 64 (a.toInt - b.toInt * a.toInt.tdiv b.toInt) := by
  unfold opRem
  split
  · rfl
  · split
    next h => obtain ⟨rfl, rfl⟩ := h; decide
    next => exact congrArg _ (Int.tmod_def _ _)

theorem opRemu_eq_ite : opRemu a b = if b = 0 then a else BitVec.ofNat 64 (a.toNat % b.toNat) := rfl

theorem opSltu_eq_ite : opSltu a b = if a.toNat < b.toNat then 1 else 0 := if_congr decide_eq_true_iff rfl rfl

theorem opMin_eq_ofInt : opMin a b = BitVec.ofInt 64 (min a.toInt b.toInt) := by
  simp only [opMin, sOf, Int.min_def, apply_ite (BitVec.ofInt 64), BitVec.ofInt_toInt]
  rfl

theorem opMax_eq_ofInt : opMax a b = BitVec.ofInt 64 (max a.toInt b.toInt) := by
  simp only [opMax, sOf, Int.max_def, apply_ite (BitVec.ofInt 64), BitVec.ofInt_toInt]
  rfl

theorem opMinu_eq_ofNat : opMinu a b = BitVec.ofNat 64 (min a.toNat b.toNat) := by
  simp only [opMinu, Nat.min_def, apply_ite (BitVec.ofNat 64), BitVec.ofNat_toNat, BitVec.setWidth_eq]

theorem opMaxu_eq_ofNat : opMaxu a b = BitVec.ofNat 64 (max a.toNat b.toNat) := by
  simp only [opMaxu, Nat.max_def, apply_ite (BitVec.ofNat 64), BitVec.ofNat_toNat, BitVec.setWidth_eq]

end

/-! ## Sign extension of a field -/

/-- The two's complement reading of a field is that of the bit vector of its width. -/
theorem sext_eq_toInt (x : Nat) {n : Nat} (hn : 0 < n) : sext x n = (BitVec.ofNat n x).toInt := by
  obtain ⟨k, rfl⟩ := Nat.exists_eq_succ_of_ne_zero hn.ne'
  have h2 : 2 ^ (k + 1) = 2 * 2 ^ k := by rw [Nat.pow_succ, Nat.mul_comm]
  simp only [sext, BitVec.toInt_eq_toNat_cond, BitVec.toNat_ofNat, Nat.add_sub_cancel, Nat.succ_eq_add_one]
  refine if_congr ?_ rfl rfl
  omega

theorem sextWord_eq_signExtend (x : Word) {n : Nat} (hn : 0 < n) : sextWord x n = (BitVec.ofNat n x.toNat).signExtend 64 :=
  congrArg wordI (sext_eq_toInt x.toNat hn)

theorem getLsbD_sextWord (x : Word) {n k : Nat} (hk : k < 64) : (sextWord x (n + 1)).getLsbD k = x.getLsbD (min k n) := by
  rw [sextWord_eq_signExtend x n.succ_pos, BitVec.getLsbD_signExtend, BitVec.msb_eq_getLsbD_last]
  by_cases hkn : k < n + 1
  · simp [hk, hkn, Nat.min_eq_left (Nat.le_of_lt_succ hkn)]
  · simp [hk, hkn, Nat.min_eq_right (show n ≤ k by omega)]

theorem getLsbD_zextWord (x : Word) {n k : Nat} (hk : k < 64) : (zextWord x n).getLsbD k = (decide (k < n) && x.getLsbD k) := by
  rw [zextWord, word, BitVec.getLsbD_ofNat, Nat.testBit_mod_two_pow, BitVec.testBit_toNat, decide_eq_true hk, Bool.true_and]

/-! ## Shifts and counts -/

section
variable (a b : Word) {k : Nat}

theorem getLsbD_opShl (hk : k < 64) :
    (opShl a b).getLsbD k = (decide (b.toNat % 64 ≤ k) && a.getLsbD (k - b.toNat % 64)) := by
  by_cases h : b.toNat % 64 ≤ k
  · simp only [opShl, amount, BitVec.getLsbD_shiftLeft, hk, h, Nat.not_lt.2 h, decide_true, decide_false, Bool.not_false, Bool.true_and]
  · simp only [opShl, amount, BitVec.getLsbD_shiftLeft, h, Nat.lt_of_not_le h, decide_true, decide_false, Bool.not_true, Bool.and_false,
      Bool.false_and]

theorem getLsbD_opSha (hk : k < 64) :
    (opSha a b).getLsbD k = if k + b.toNat % 64 < 64 then a.getLsbD (k + b.toNat % 64) else a.getLsbD 63 := by
  have hk' : ¬64 ≤ k := Nat.not_le.2 hk
  simp [opSha, amount, BitVec.getLsbD_sshiftRight, hk', Nat.add_comm, BitVec.msb_eq_getLsbD_last]

theorem getLsbD_opRot (hk : k < 64) : (opRot a b).getLsbD k = a.getLsbD ((k + b.toNat % 64) % 64) := by
  have hn : b.toNat % 64 < 64 := Nat.mod_lt _ (by decide)
  rw [opRot, amount, BitVec.getLsbD_rotateRight, Nat.mod_mod]
  by_cases h : k < 64 - b.toNat % 64
  · rw [decide_eq_true h, Nat.mod_eq_of_lt (show k + b.toNat % 64 < 64 by omega), Nat.add_comm k]; rfl
  · rw [decide_eq_false h, decide_eq_true hk]
    exact congrArg a.getLsbD (by omega)

/-- CLZ counts the zeros above the highest bit set. -/
theorem opClz_spec : ∃ k, k ≤ 64 ∧ opClz a = BitVec.ofNat 64 k ∧ (∀ j, j < k → a.getLsbD (63 - j) = false)
    ∧ (k < 64 → a.getLsbD (63 - k) = true) := by
  by_cases h : a = 0
  · exact ⟨64, le_refl _, by simp [opClz, h, word], fun j _ => by simp [h], fun hk => absurd hk (lt_irrefl _)⟩
  · have hne : a.toNat ≠ 0 := fun h0 => h (BitVec.eq_of_toNat_eq h0)
    have hlog : a.toNat.log2 < 64 := (Nat.log2_lt hne).2 a.isLt
    refine ⟨63 - a.toNat.log2, by omega, by rw [opClz, if_neg h]; rfl, fun j hj => ?_, fun _ => ?_⟩
    · rw [← BitVec.testBit_toNat]
      refine Nat.testBit_lt_two_pow (Nat.lt_log2_self.trans_le (Nat.pow_le_pow_right (by decide) ?_))
      omega
    · rw [← BitVec.testBit_toNat, show 63 - (63 - a.toNat.log2) = a.toNat.log2 by omega]
      exact Nat.testBit_log2 hne

/-- CTZ names the lowest bit set. -/
theorem opCtz_spec : ∃ k, k ≤ 64 ∧ opCtz a = BitVec.ofNat 64 k ∧ (∀ j, j < k → a.getLsbD j = false)
    ∧ (k < 64 → a.getLsbD k = true) := by
  unfold opCtz firstBelow
  cases h : (List.range 64).find? fun i => bit a i with
  | none =>
    refine ⟨64, le_refl _, rfl, fun j hj => ?_, fun hk => absurd hk (lt_irrefl _)⟩
    have := List.find?_eq_none.1 h j (List.mem_range.2 hj)
    simpa [bit] using this
  | some k =>
    obtain ⟨hk, hmem, hlow⟩ := List.find?_range_eq_some.1 h
    have hlt := List.mem_range.1 hmem
    exact ⟨k, hlt.le, rfl, fun j hj => by simpa [bit] using hlow j hj, fun _ => hk⟩

theorem opPopc_eq_countP : opPopc a = BitVec.ofNat 64 ((List.range 64).countP fun j => a.getLsbD j) := by
  rw [opPopc, popCount, ← List.countP_eq_length_filter]
  rfl

end

/-! ## The words of CLZ, CTZ and POPC with a second operand -/

theorem decodeWord_unary_with_operand {w : Nat} (h3 : w % 256 = 3) (hf : w / 2 ^ 26 ∈ [23, 24, 25]) (hop : w / 2 ^ 20 % 64 ≠ 0)
    (i : Instr) : decodeWord w ≠ .ok i := by
  have hmajor : fld w 1 7 = 1 := by simp only [fld]; omega
  have hrow : fld w 26 6 ∈ [23, 24, 25] := by simp only [List.mem_cons, List.not_mem_nil, or_false, fld] at hf ⊢; omega
  have hlow : fld w 20 12 ≠ 1472 ∧ fld w 20 12 ≠ 1536 ∧ fld w 20 12 ≠ 1600 := by simp only [fld]; omega
  have hform : decodeForm32 w = .error .unassigned := by
    unfold decodeForm32
    rw [hmajor]
    change decodeMajor01 w = _
    simp only [List.mem_cons, List.not_mem_nil, or_false] at hrow
    obtain ⟨h1, h2, h3⟩ := hlow
    rcases hrow with h | h | h <;> simp [decodeMajor01, h, h1, h2, h3]
  rw [decodeWord, if_pos (by omega), decode32, hform]
  exact nofun

/-- A word that is no instruction takes ILLEGAL as the strand issues it. -/
theorem issueWord_illegal {s s' : State} {w : Nat} (hi : ∀ i, decodeWord w ≠ .ok i) (hr : s.cur.replayed = none)
    (hf : fetchWord s = .ok w s') (hcur : s'.curSid = s.curSid) (hq : s'.cur.vq = []) (hb : s'.cur.bpArmed = none)
    (hs : s'.breakpoints s.curSid = []) :
    ∃ t, issueWord s = .next t
      ∧ TrapRegs s'.cur (t.st s.curSid) (causeWord false false false 0 1) (BitVec.ofNat 64 w) s'.cur.pc := by
  have hill : issueWord s = runIllegal w s' := by
    rw [issueWord, hr]
    simp only [hf]
    cases hd : decodeWord w with
    | error _ => rfl
    | ok i => exact absurd hd (hi i)
  rw [hill, ← hcur]
  exact runIllegal_trapRegs hq hb (hcur ▸ hs)

/-! ## The statement -/

section
variable (s : State) (rd rs1 rs2 : BitVec 6)

theorem gives_arithmetic :
    let a := s.cur.rd rs1.toNat
    let b := s.cur.rd rs2.toNat
    let d := rd.toNat
    Gives s (.add rd rs1 rs2) d (BitVec.ofInt 64 (a.toInt + b.toInt)) 4
      ∧ Gives s (.sub rd rs1 rs2) d (BitVec.ofInt 64 (a.toInt - b.toInt)) 4
      ∧ Gives s (.mul rd rs1 rs2) d (BitVec.ofInt 64 (a.toInt * b.toInt)) 4
      ∧ Gives s (.mulh rd rs1 rs2) d (BitVec.ofInt 64 (a.toInt * b.toInt / 2 ^ 64)) 4
      ∧ Gives s (.mulhu rd rs1 rs2) d (BitVec.ofNat 64 (a.toNat * b.toNat / 2 ^ 64)) 4
      ∧ Gives s (.div rd rs1 rs2) d
          (if b = 0 then BitVec.allOnes 64 else if a = BitVec.intMin 64 ∧ b = BitVec.allOnes 64 then BitVec.intMin 64
           else BitVec.ofInt 64 (a.toInt.tdiv b.toInt)) 4
      ∧ Gives s (.divu rd rs1 rs2) d (if b = 0 then BitVec.allOnes 64 else BitVec.ofNat 64 (a.toNat / b.toNat)) 4
      ∧ Gives s (.rem rd rs1 rs2) d
          (if b = 0 then a else if a = BitVec.intMin 64 ∧ b = BitVec.allOnes 64 then 0
           else BitVec.ofInt 64 (a.toInt - b.toInt * a.toInt.tdiv b.toInt)) 4
      ∧ Gives s (.remu rd rs1 rs2) d (if b = 0 then a else BitVec.ofNat 64 (a.toNat % b.toNat)) 4 :=
  ⟨gives_putReg s _ rd _ _ 4 1 rfl (add_eq_ofInt _ _), gives_putReg s _ rd _ _ 4 1 rfl (sub_eq_ofInt _ _),
    gives_putReg s _ rd _ _ 4 4 rfl (mul_eq_ofInt _ _), gives_putReg s _ rd _ _ 4 4 rfl rfl, gives_putReg s _ rd _ _ 4 4 rfl rfl,
    gives_putReg s _ rd _ _ 4 36 rfl (opDiv_eq_ite _ _), gives_putReg s _ rd _ _ 4 36 rfl rfl,
    gives_putReg s _ rd _ _ 4 36 rfl (opRem_eq_ite _ _), gives_putReg s _ rd _ _ 4 36 rfl (opRemu_eq_ite _ _)⟩

theorem gives_bitwise :
    let a := s.cur.rd rs1.toNat
    let b := s.cur.rd rs2.toNat
    let n := b.toNat % 64
    let gives := fun (i : Instr) (f : Nat → Bool) => ∃ x : Word, Gives s i rd.toNat x 4 ∧ ∀ k, k < 64 → x.getLsbD k = f k
    gives (.and rd rs1 rs2) (fun k => a.getLsbD k && b.getLsbD k)
      ∧ gives (.or rd rs1 rs2) (fun k => a.getLsbD k || b.getLsbD k)
      ∧ gives (.xor rd rs1 rs2) (fun k => a.getLsbD k != b.getLsbD k)
      ∧ gives (.andn rd rs1 rs2) (fun k => a.getLsbD k && !b.getLsbD k)
      ∧ gives (.shl rd rs1 rs2) (fun k => decide (n ≤ k) && a.getLsbD (k - n))
      ∧ gives (.shr rd rs1 rs2) (fun k => a.getLsbD (k + n))
      ∧ gives (.sha rd rs1 rs2) (fun k => if k + n < 64 then a.getLsbD (k + n) else a.getLsbD 63)
      ∧ gives (.rot rd rs1 rs2) (fun k => a.getLsbD ((k + n) % 64)) := by
  intro a b n gives
  have put {i : Instr} {x : Word} {f : Nat → Bool} (h : exec i s = s.putReg rd x 4 1) (hx : ∀ k, k < 64 → x.getLsbD k = f k) :
      gives i f := ⟨x, gives_putReg s i rd x x 4 1 h rfl, hx⟩
  refine ⟨put rfl fun k _ => BitVec.getLsbD_and, put rfl fun k _ => BitVec.getLsbD_or, put rfl fun k _ => BitVec.getLsbD_xor,
    put rfl fun k hk => ?_, put rfl fun k hk => getLsbD_opShl a b hk, put rfl fun k _ => ?_,
    put rfl fun k hk => getLsbD_opSha a b hk, put rfl fun k hk => getLsbD_opRot a b hk⟩
  · simp [hk, State.gr, a, b]
  · rw [opShr, BitVec.getLsbD_ushiftRight, Nat.add_comm]; rfl

theorem gives_comparisons :
    let a := s.cur.rd rs1.toNat
    let b := s.cur.rd rs2.toNat
    let d := rd.toNat
    Gives s (.slt rd rs1 rs2) d (if a.toInt < b.toInt then 1 else 0) 4
      ∧ Gives s (.sltu rd rs1 rs2) d (if a.toNat < b.toNat then 1 else 0) 4
      ∧ Gives s (.min rd rs1 rs2) d (BitVec.ofInt 64 (min a.toInt b.toInt)) 4
      ∧ Gives s (.max rd rs1 rs2) d (BitVec.ofInt 64 (max a.toInt b.toInt)) 4
      ∧ Gives s (.minu rd rs1 rs2) d (BitVec.ofNat 64 (min a.toNat b.toNat)) 4
      ∧ Gives s (.maxu rd rs1 rs2) d (BitVec.ofNat 64 (max a.toNat b.toNat)) 4 :=
  ⟨gives_putReg s _ rd _ _ 4 1 rfl (opSlt_eq_ite _ _), gives_putReg s _ rd _ _ 4 1 rfl (opSltu_eq_ite _ _),
    gives_putReg s _ rd _ _ 4 1 rfl (opMin_eq_ofInt _ _), gives_putReg s _ rd _ _ 4 1 rfl (opMax_eq_ofInt _ _),
    gives_putReg s _ rd _ _ 4 1 rfl (opMinu_eq_ofNat _ _), gives_putReg s _ rd _ _ 4 1 rfl (opMaxu_eq_ofNat _ _)⟩

theorem gives_counts :
    let a := s.cur.rd rs1.toNat
    let b := s.cur.rd rs2.toNat
    let d := rd.toNat
    let n := b.toNat % 64
    let gives := fun (i : Instr) (f : Nat → Bool) => ∃ x : Word, Gives s i d x 4 ∧ ∀ k, k < 64 → x.getLsbD k = f k
    (∃ k, k ≤ 64 ∧ Gives s (.clz rd rs1) d (BitVec.ofNat 64 k) 4 ∧ (∀ j, j < k → a.getLsbD (63 - j) = false)
        ∧ (k < 64 → a.getLsbD (63 - k) = true))
      ∧ (∃ k, k ≤ 64 ∧ Gives s (.ctz rd rs1) d (BitVec.ofNat 64 k) 4 ∧ (∀ j, j < k → a.getLsbD j = false)
        ∧ (k < 64 → a.getLsbD k = true))
      ∧ Gives s (.popc rd rs1) d (BitVec.ofNat 64 ((List.range 64).countP (fun j => a.getLsbD j))) 4
      ∧ gives (.sext rd rs1 rs2) (fun j => a.getLsbD (min j n))
      ∧ gives (.zext rd rs1 rs2) (fun j => decide (j ≤ n) && a.getLsbD j) := by
  intro a b d n gives
  obtain ⟨kl, hkl, hclz, hl0, hl1⟩ := opClz_spec a
  obtain ⟨kt, hkt, hctz, ht0, ht1⟩ := opCtz_spec a
  refine ⟨⟨kl, hkl, gives_putReg s _ rd _ _ 4 1 rfl hclz, hl0, hl1⟩, ⟨kt, hkt, gives_putReg s _ rd _ _ 4 1 rfl hctz, ht0, ht1⟩,
    gives_putReg s _ rd _ _ 4 1 rfl (opPopc_eq_countP a), ⟨opSext a b, gives_putReg s _ rd _ _ 4 1 rfl rfl, fun j hj => ?_⟩,
    ⟨opZext a b, gives_putReg s _ rd _ _ 4 1 rfl rfl, fun j hj => ?_⟩⟩
  · exact getLsbD_sextWord a hj
  · simp only [opZext, getLsbD_zextWord a hj, amount, Nat.lt_succ_iff, n]

end

/-- Settles O1: each operation completes with its value; no row of major opcode 0x01 reads CLZ, CTZ or POPC with a second operand. -/
theorem integerOperations : Obligations.IntegerOperations := by
  intro s rd rs1 rs2 a b d n gives
  refine ⟨gives_arithmetic s rd rs1 rs2, gives_bitwise s rd rs1 rs2, gives_comparisons s rd rs1 rs2, gives_counts s rd rs1 rs2,
    fun w s' hw h3 hf hop => ?_⟩
  have hi := decodeWord_unary_with_operand h3 hf hop
  exact ⟨hi, fun hr hfetch hcur hq hb hs => issueWord_illegal hi hr hfetch hcur hq hb hs⟩

end Sys2Proof.Machine

/-! # Immediate forms and the operand-extension registers (O2)

Each immediate form is an operation of O1 with its immediate as the second operand; an ox register is written by `State.putOx`. -/

namespace Sys2Proof.Machine
open Safety

section
variable (s : State) {a : Word}

/-- An operand-extension register after a write. -/
theorem Strand.oxr_oxw (t : Strand) {n m : Nat} (hn : n < 8) (hm : m < 8) (x : Word) :
    (t.oxw n x).oxr m = if m = n then x else t.oxr m := by
  simp only [Strand.oxr, Strand.oxw, Nat.mod_eq_of_lt hn, Nat.mod_eq_of_lt hm, tget_tput]

theorem givesOx_putOx (i : Instr) (n : BitVec 3) (x y : Word) (h : exec i s = s.putOx n x) (e : x = y) :
    GivesOx s i n.toNat y := by
  subst e
  let u := s.modCur fun t => t.oxw n.toNat x
  have ht : u.complete 4 1 = s.modCur fun t => (t.oxw n.toNat x).complete (u.cycleOf s.curCore) 4 1 := modCur_modCur s _ _
  refine ⟨u.complete 4 1, h, ?_⟩
  rw [ht, State.cur_modCur]
  exact ⟨fun m hm => Strand.oxr_oxw _ n.isLt hm x, fun m => rfl, rfl, fun m hm => Strand.ctl_complete _ _ _ _ _ hm,
    ⟨rfl, rfl, rfl, rfl, rfl, rfl, rfl, rfl, rfl, rfl, rfl⟩, onlyStrand_modCur s _⟩

theorem immZ_eq_ofNat (imm : BitVec 12) : immZ imm = BitVec.ofNat 64 imm.toNat := (BitVec.ofNat_toNat 64 imm).symm

theorem immJ_shiftLeft (imm : BitVec 18) : immJ imm <<< 14 = BitVec.ofInt 64 (imm.toInt * 2 ^ 14) := by
  rw [BitVec.ofInt_mul, BitVec.shiftLeft_eq_mul_twoPow]
  rfl

/-- LOXI.SH: the register moves up by 18 bits and the immediate comes in below. -/
theorem shiftLeft_add_zeroExtend (x : Word) (imm : BitVec 18) :
    (x <<< 18) + imm.zeroExtend 64 = BitVec.ofNat 64 (x.toNat * 2 ^ 18 + imm.toNat) := by
  apply BitVec.eq_of_toNat_eq
  simp [Nat.shiftLeft_eq]

theorem opSlt_ofInt (imm : BitVec 12) : opSlt a (immS imm) = if a.toInt < imm.toInt then 1 else 0 := by
  rw [opSlt_eq_ite, immS, BitVec.toInt_signExtend_of_le (by decide)]

end

/-- Settles O2: the immediates are extended as each format says, and the operations are those of O1 and O3. -/
theorem immediateForms : Obligations.ImmediateForms := by
  intro s rd rs1 amt imm imm18 num m a d n
  have hn : n < 64 := amt.isLt
  exact ⟨gives_putReg s _ rd _ _ 4 1 rfl (add_ofInt a imm.toInt), gives_putReg s _ rd _ _ 4 1 rfl (congrArg (a &&& ·) (immZ_eq_ofNat imm)),
    gives_putReg s _ rd _ _ 4 1 rfl (congrArg (a ||| ·) (immZ_eq_ofNat imm)),
    gives_putReg s _ rd _ _ 4 1 rfl (congrArg (a ^^^ ·) (immZ_eq_ofNat imm)), gives_putReg s _ rd _ _ 4 1 rfl (opShl_word hn),
    gives_putReg s _ rd _ _ 4 1 rfl (opShr_word hn), gives_putReg s _ rd _ _ 4 1 rfl (opSha_word hn),
    gives_putReg s _ rd _ _ 4 1 rfl (opSlt_ofInt imm), gives_putReg s _ rd _ _ 4 1 rfl (opSltu_eq_ite a _),
    gives_putReg s _ rd _ _ 4 1 rfl (immJ_shiftLeft imm18), givesOx_putOx s _ num _ _ rfl rfl,
    givesOx_putOx s _ num _ _ rfl (shiftLeft_add_zeroExtend _ imm18), givesOx_putOx s _ num _ _ rfl rfl,
    givesOx_putOx s _ num _ _ rfl rfl⟩

end Sys2Proof.Machine

/-! # Branches and jumps (O5)

A branch that is taken is `State.jump`; one that is not completes without a register; a link is written before the jump. -/

namespace Sys2Proof.Machine
open Safety

section
variable (s : State)

theorem jumpResult_jump (target : Word) : JumpResult s (s.jump target) 0 0 (target &&& ~~~1) := by
  unfold JumpResult State.jump
  rw [State.cur_modCur]
  exact ⟨fun n => (if_neg fun h => h.2 h.1).symm, rfl, s.cur.instret_complete (s.cycleOf s.curCore) 0 1,
    fun n hn => s.cur.ctl_complete (s.cycleOf s.curCore) 0 1 n hn, ⟨rfl, rfl, rfl, rfl, rfl, rfl, rfl, rfl, rfl, rfl, rfl⟩, rfl,
    onlyStrand_modCur s _⟩

theorem jumpResult_gw_jump {w : Nat} (rd : BitVec w) (x target : Word) :
    JumpResult s ((s.gw rd x).jump target) rd.toNat x (target &&& ~~~1) := by
  obtain ⟨hrd, hpc, hret, hctl, hunits, hwait, -⟩ := jumpResult_jump (s.gw rd x) target
  have hcur : (s.gw rd x).cur = s.cur.wr rd.toNat x := State.cur_modCur s _
  rw [hcur] at hrd hret hctl hunits
  refine ⟨fun n => ?_, hpc, by simpa using hret, fun n hn => by simpa using hctl n hn, by simpa [SameUnits] using hunits, hwait, ?_⟩
  · rw [hrd n, if_neg (fun h => h.2 h.1), Strand.rd_wr]
  · rw [State.jump, State.gw, modCur_modCur]
    exact onlyStrand_modCur s _

/-- The instruction completes and writes no register. -/
theorem regResult_complete_only (len lat : Nat) : RegResult s (s.complete len lat) 0 0 len := by
  unfold RegResult State.complete
  rw [State.cur_modCur]
  exact ⟨fun n => (if_neg fun h => h.2 h.1).symm, rfl, s.cur.instret_complete (s.cycleOf s.curCore) len lat,
    fun n hn => s.cur.ctl_complete (s.cycleOf s.curCore) len lat n hn, ⟨rfl, rfl, rfl, rfl, rfl, rfl, rfl, rfl, rfl, rfl, rfl⟩, rfl,
    onlyStrand_modCur s _⟩

/-- Twice the displacement beyond the pc. -/
theorem targetOf_signExtend {w : Nat} (disp : BitVec w) : targetOf s (disp.signExtend 64) = s.cur.pc + BitVec.ofInt 64 (2 * disp.toInt) := by
  rw [targetOf, BitVec.ofInt_mul]; rfl

/-- A branch goes to its target where the condition holds, and to the next instruction otherwise. -/
theorem branch_goes {w : Nat} {i : Instr} {c : Bool} {cond : Prop} {disp : BitVec w} {len : Nat}
    (h : exec i s = s.branch c (disp.signExtend 64) len) (hc : c = true ↔ cond) :
    (cond → Jumps s i 0 0 ((s.cur.pc + BitVec.ofInt 64 (2 * disp.toInt)) &&& ~~~1)) ∧ (¬cond → Gives s i 0 0 len) := by
  refine ⟨fun hcond => ⟨s.jump (targetOf s (disp.signExtend 64)), h.trans ?_, ?_⟩,
    fun hcond => ⟨s.complete len 1, h.trans ?_, regResult_complete_only s len 1⟩⟩
  · rw [State.branch, if_pos (hc.2 hcond)]
  · rw [← targetOf_signExtend]
    exact jumpResult_jump s _
  · rw [State.branch, if_neg (fun h => hcond (hc.1 h))]

end

/-- Settles O5: each branch tests its condition, and each jump links with its own length. -/
theorem branchesAndJumps : Obligations.BranchesAndJumps := by
  intro s lo rd rs1 rs2 hi ga imm imm12 disp18 disp10 a b c target goes disp
  refine ⟨branch_goes s (disp := hi ++ lo) rfl beq_iff_eq, branch_goes s (disp := hi ++ lo) rfl bne_iff_ne,
    branch_goes s (disp := hi ++ lo) rfl decide_eq_true_iff, branch_goes s (disp := hi ++ lo) rfl decide_eq_true_iff,
    branch_goes s (disp := hi ++ lo) rfl decide_eq_true_iff, branch_goes s (disp := hi ++ lo) rfl decide_eq_true_iff,
    branch_goes s (disp := imm) rfl beq_iff_eq, branch_goes s (disp := imm) rfl bne_iff_ne, ?jal,
    ⟨_, rfl, jumpResult_gw_jump s rd _ _⟩, ⟨_, rfl, jumpResult_jump s c⟩, ?cJal⟩
  case jal =>
    simp only [target, ← targetOf_signExtend]
    exact ⟨_, rfl, jumpResult_gw_jump s rd _ _⟩
  case cJal =>
    simp only [target, ← targetOf_signExtend]
    exact ⟨_, rfl, jumpResult_gw_jump s (1 : BitVec 6) _ _⟩

end Sys2Proof.Machine

/-! # Taking a trap and returning from one (O9)

What taking a trap saves is `State.enter_trapTaken`; RETT is `Strand.rett`, whose three forms are said apart. -/

namespace Sys2Proof.Machine
open Safety

/-! ## Running a meaning -/

section
variable {α : Type} {s t : State} {a : Act α} {f : α → Act Unit} {x : α}

/-- The first part of a meaning has ended well: the rest runs from its state. -/
theorem runAct_bind (h : a s = .ok x t) : runAct (a >>= f) s = runAct (f x) t := by
  change (match EStateM.bind a f s with | .ok _ s' => _ | .error _ s' => _) = _
  rw [EStateM.bind, h]
  rfl

theorem runAct_change (g : State → State) : runAct (change g) s = .next (g s) := rfl

theorem runAct_change_bind (g : State → State) (b : Unit → Act Unit) : runAct (change g >>= b) s = runAct (b ()) (g s) := rfl

theorem require_of_true {p : State → Bool} {i : Instr} (h : p s = true) : require p i s = .ok () s := by
  change (if p s then pure () else illegal i : Act Unit) s = _
  rw [h]; rfl

theorem needSupervisor_of_ne {i : Instr} (h : s.cur.status.mode ≠ .task) : needSupervisor i s = .ok () s :=
  require_of_true (by simpa [State.atSupervisor] using h)

theorem waitUntil_of_true {p : State → Bool} (h : p s = true) : waitUntil p s = .ok () s := by
  change (if p s then pure () else Machine.stall : Act Unit) s = _
  rw [h]; rfl

theorem drained_of_nil (h : s.cur.vq = []) : drained s = true := by simp [drained, h]

end

/-! ## The three forms of RETT -/

section
variable (t : Strand)

theorem Strand.rett_monitor (h : t.status.mode = .monitor) : t.rett = { t with
    pc := t.ctl cMepc, status := { t.status with mode := t.status.mpmode, ie := t.status.mpie, mnest := false } } := by
  unfold Strand.rett; rw [h]

theorem Strand.rett_supervisor (h : t.status.mode = .supervisor) (hv : t.status.vhold = false) : t.rett = { t with
    pc := t.ctl cEpc, status := { t.status with mode := t.status.pmode, ie := t.status.pie } } := by
  unfold Strand.rett; rw [h]; simp [hv]

/-- The entries that RETT returns to the queue: the first goes on from element ctl.velem. -/
def Strand.held (t : Strand) : List VEntry :=
  match t.hold with | [] => [] | e :: r => { e with start := (t.ctl cVelem).toNat } :: r

theorem Strand.rett_vhold (h : t.status.mode = .supervisor) (hv : t.status.vhold = true) : t.rett =
    (if t.held.isEmpty then t else t.restartTimer).takeBack t.held
      { t.status with mode := t.status.pmode, ie := t.status.pie, vhold := false } (t.ctl cEpc) := by
  unfold Strand.rett; rw [h]
  simp only [hv]
  rfl

/-- RETT leaves the general registers and the count of instructions, whatever it returns to. -/
theorem Strand.rett_keeps (h : t.status.mode ≠ .task) : (∀ n, t.rett.rd n = t.rd n) ∧ t.rett.ctl cInstret = t.ctl cInstret := by
  have htimer : t.restartTimer.ctl cInstret = t.ctl cInstret := Strand.ctl_setCtl_ne _ _ _ _ (by decide)
  cases hm : t.status.mode with
  | task => exact absurd hm h
  | monitor => rw [t.rett_monitor hm]; exact ⟨fun _ => rfl, rfl⟩
  | supervisor =>
    cases hv : t.status.vhold with
    | false => rw [t.rett_supervisor hm hv]; exact ⟨fun _ => rfl, rfl⟩
    | true =>
      rw [t.rett_vhold hm hv]
      split
      · exact ⟨fun _ => rfl, rfl⟩
      · exact ⟨fun _ => rfl, htimer⟩

end

theorem exec_rett {s : State} (h : s.cur.status.mode ≠ .task) : exec .rett s = .next (s.modCur fun t =>
    ((t.complete (s.cycleOf s.curCore) 0 1).rett).dropReplay) :=
  runAct_bind (needSupervisor_of_ne h)

/-- Settles O9: the entry is `State.enter_trapTaken`; the return is the form of RETT for the mode and vhold. -/
theorem trapEntryAndReturn : Obligations.TrapEntryAndReturn := by
  intro s sid cause tval resume
  refine ⟨s.enter_trapTaken sid cause tval resume, fun hm => ⟨_, exec_rett hm, ?_⟩⟩
  rw [State.cur_modCur]
  generalize hu : s.cur.complete (s.cycleOf s.curCore) 0 1 = u
  have hstatus : u.status = s.cur.status := by rw [← hu]; rfl
  have hvq : u.vq = s.cur.vq := by rw [← hu]; rfl
  have hhold : u.hold = s.cur.hold := by rw [← hu]; rfl
  have hctl : ∀ n, n ≠ cInstret → u.ctl n = s.cur.ctl n := by rw [← hu]; exact fun n hn => Strand.ctl_complete _ _ _ _ _ hn
  obtain ⟨hrd, hret⟩ := u.rett_keeps (hstatus ▸ hm)
  refine ⟨fun n => (hrd n).trans (by rw [← hu]; rfl), hret.trans (by rw [← hu]; exact Strand.instret_complete ..),
    onlyStrand_modCur s _, fun hmon => ?_, fun hsup => ?_⟩
  · rw [u.rett_monitor (hstatus ▸ hmon)]
    exact ⟨hctl cMepc (by decide), hvq, hhold, by rw [← hstatus]; rfl⟩
  · cases hv : s.cur.status.vhold with
    | false =>
      rw [u.rett_supervisor (hstatus ▸ hsup) (hstatus ▸ hv)]
      exact ⟨hctl cEpc (by decide), by rw [← hstatus] at hv ⊢; rw [← hv]; rfl, fun _ => ⟨hvq, hhold⟩, nofun⟩
    | true =>
      rw [u.rett_vhold (hstatus ▸ hsup) (hstatus ▸ hv)]
      refine ⟨hctl cEpc (by decide), by rw [← hstatus]; rfl, nofun, fun _ => ⟨rfl, fun e r hr => ?_⟩⟩
      have hheld : u.held = { e with start := (s.cur.ctl cVelem).toNat } :: r := by
        rw [Strand.held, hhold, hr, hctl cVelem (by decide)]
      rw [hheld, ← hvq]
      rfl

end Sys2Proof.Machine

/-! # System instructions (O10) -/

namespace Sys2Proof.Machine
open Safety

/-! ## One strand's change and the rest of its core -/

/-- What does not look at the strands of a core stands as one of them changes. -/
theorem State.core_modSt_apply {β : Type} (s : State) (i c : Nat) (f : Strand → Strand) (g : Core → β)
    (hg : ∀ (x : Core) k t, g (x.setStrand k t) = g x) : g ((s.modSt i f).core c) = g (s.core c) := by
  by_cases hc : c = coreOfSid i
  · subst hc
    rw [State.modSt, State.setSt, State.core_modCore]
    exact hg _ _ _
  · rw [State.modSt, State.setSt, State.core_modCore_ne _ _ _ _ hc]

theorem State.st_modSt_ne (s : State) {i j : Nat} (f : Strand → Strand) (h : j ≠ i) : (s.modSt i f).st j = s.st j := by
  unfold State.st State.modSt State.setSt
  by_cases hc : coreOfSid j = coreOfSid i
  · rw [hc, State.core_modCore]
    refine Core.strand_setStrand_ne _ _ _ _ fun hk => h ?_
    have h1 := Nat.div_add_mod j 8
    have h2 := Nat.div_add_mod i 8
    simp only [coreOfSid, slotOfSid] at hc hk
    omega
  · rw [State.core_modCore_ne _ _ _ _ hc]

theorem State.st_modSt_apply {β : Type} (s : State) (i j : Nat) (f : Strand → Strand) (g : Strand → β) (hg : ∀ t, g (f t) = g t) :
    g ((s.modSt i f).st j) = g (s.st j) := by
  by_cases h : j = i
  · subst h; rw [State.st_modSt]; exact hg _
  · rw [State.st_modSt_ne s f h]

/-! ## Completion after effects elsewhere -/

/-- What an instruction has done before it completes concerns nothing that its strand computes with, nor memory. -/
structure Steady (s u : State) : Prop where
  sid : u.curSid = s.curSid
  rd : ∀ n, u.cur.rd n = s.cur.rd n
  pc : u.cur.pc = s.cur.pc
  units : SameUnits s.cur u.cur
  ctl : ∀ n, n ≠ cIpend → u.cur.ctl n = s.cur.ctl n
  acc : (u.core s.curCore).acc = (s.core s.curCore).acc
  mem : u.mem = s.mem

theorem steady_of_cur {s u : State} (hsid : u.curSid = s.curSid) (hcur : u.cur = s.cur)
    (hacc : (u.core s.curCore).acc = (s.core s.curCore).acc) (hmem : u.mem = s.mem) : Steady s u :=
  ⟨hsid, fun _ => by rw [hcur], by rw [hcur], by rw [hcur]; exact ⟨rfl, rfl, rfl, rfl, rfl, rfl, rfl, rfl, rfl, rfl, rfl⟩,
    fun _ _ => by rw [hcur], hacc, hmem⟩

theorem sameUnits_of_pendOnly {a b : Strand} (h : PendOnly a b) : SameUnits a b := by
  obtain ⟨h, -⟩ := h
  rw [← h]
  exact ⟨rfl, rfl, rfl, rfl, rfl, rfl, rfl, rfl, rfl, rfl, rfl⟩

theorem steady_of_pendOnly {s u : State} (hsid : u.curSid = s.curSid) (hcur : PendOnly s.cur u.cur)
    (hacc : (u.core s.curCore).acc = (s.core s.curCore).acc) (hmem : u.mem = s.mem) : Steady s u := by
  refine ⟨hsid, fun n => ?_, ?_, sameUnits_of_pendOnly hcur, hcur.2, hacc, hmem⟩
  · rw [← hcur.1]; rfl
  · rw [← hcur.1]

section
variable {s u : State}

theorem Steady.completes (h : Steady s u) (f : Strand → Strand) (lat cyc : Nat) (hf : f = fun t => t.complete cyc 4 lat) :
    Passes s (u.modCur f) := by
  subst hf
  obtain ⟨hsid, hrd, hpc, hunits, hctl, hacc, hmem⟩ := h
  have hacc' : ((u.modCur fun t => t.complete cyc 4 lat).core s.curCore).acc = (s.core s.curCore).acc :=
    (u.core_modSt_apply _ _ _ Core.acc fun _ _ _ => rfl).trans hacc
  unfold Passes Went Moved Kept
  rw [State.cur_modCur]
  refine ⟨⟨⟨hrd, congrArg (· + 4) hpc, ?_, rfl⟩, hunits, fun n h1 h2 => ?_, hacc'⟩, hmem⟩
  · rw [Strand.instret_complete, hctl _ (by decide)]
  · rw [Strand.ctl_complete _ _ _ _ _ h1, hctl n h2]

theorem Steady.complete (h : Steady s u) (lat : Nat) : Passes s (u.complete 4 lat) := h.completes _ lat _ rfl

theorem Steady.finish0 (h : Steady s u) : Passes s (u.finish0 u.curSid) := h.completes _ 1 (u.cycleOf (coreOfSid u.curSid)) rfl

theorem Steady.gw_complete {w : Nat} (h : Steady s u) (rd : BitVec w) (x : Word) (lat : Nat) :
    PassesWith s ((u.gw rd x).complete 4 lat) rd.toNat x := by
  have hacc (v : State) (c : Nat) : ((v.gw rd x).core c).acc = (v.core c).acc := v.core_modSt_apply _ _ _ Core.acc fun _ _ _ => rfl
  have hcur (v : State) : (v.gw rd x).cur = v.cur.wr rd.toNat x := State.cur_modCur v _
  -- the register written on both sides, the strand still stands as before
  have hsteady : Steady (s.gw rd x) (u.gw rd x) := by
    refine ⟨h.sid, fun n => ?_, ?_, ?_, fun n hn => ?_, (hacc u _).trans (h.acc.trans (hacc s _).symm), h.mem⟩
    · rw [hcur, hcur, Strand.rd_wr, Strand.rd_wr, h.rd]
    · rw [hcur, hcur, Strand.wr_pc, Strand.wr_pc, h.pc]
    · rw [hcur, hcur]; simpa [SameUnits] using h.units
    · rw [hcur, hcur, Strand.ctl_wr, Strand.ctl_wr, h.ctl n hn]
  obtain ⟨⟨⟨hrd, hpc, hret, hwait⟩, hunits, hctl, hacc'⟩, hmem⟩ := hsteady.complete lat
  rw [hcur] at hunits
  simp only [hcur s, Strand.ctl_wr, Strand.wr_pc, Strand.rd_wr] at hrd hpc hret hctl
  exact ⟨⟨⟨hrd, hpc, hret, hwait⟩, by simpa [SameUnits] using hunits, hctl, hacc'.trans (hacc s _)⟩, hmem⟩

end

/-! ## Lanes that return -/

section
variable (s : State) (sid : Nat)

@[simp] theorem State.st_dropLanes (f : Strand → Strand) : (s.dropLanes sid f).st sid = f (s.st sid) := by
  change (s.setSt sid (f (s.st sid))).st sid = _
  rw [State.st_setSt]

theorem State.st_dropLanes_ne {f : Strand → Strand} {j : Nat} (h : j ≠ sid) : (s.dropLanes sid f).st j = s.st j :=
  s.st_modSt_ne f h

/-- Lanes are settled by giving all of them back, or those beyond a count. -/
theorem State.settleLanes_cases : s.settleLanes sid = s.dropLanes sid Strand.noLanes ∨ ∃ n, s.settleLanes sid = s.keepLanes sid n := by
  unfold State.settleLanes; dsimp only
  split
  · exact .inl rfl
  · exact .inr ⟨_, rfl⟩

@[simp] theorem State.settleLanes_curSid : (s.settleLanes sid).curSid = s.curSid := by
  obtain h | ⟨n, h⟩ := s.settleLanes_cases sid <;> rw [h] <;> rfl

/-- With an empty queue, settling lanes changes only what the strand's grant holds, but for the lanes of its hold buffer. -/
theorem State.st_settleLanes_keep (h : (s.st sid).st ≠ .free) (hd : (s.st sid).st ≠ .dropped) (hw : (s.st sid).wait = .none) :
    (s.settleLanes sid).st sid = { s.st sid with lanes := (s.st sid).lanes.take (s.st sid).grant } := by
  unfold State.settleLanes State.keepLanes; dsimp only
  rw [if_neg, State.st_dropLanes, hw, if_neg nofun]
  simp [h, hd, hw, Wait.returnsLanes]

theorem sameQueue_clear (l : List VEntry) : SameQueue l (l.map fun e => { e with lanes := [] }) := by
  simp [SameQueue, Function.comp_def]

/-- Whatever lanes return, the strand waits on with its registers and its queues. -/
theorem State.waits_settleLanes {s u : State} {w : Wait} (hu : u = s.modCur fun t => { t with wait := w }) :
    Waits s (u.settleLanes u.curSid) w := by
  have hcur : (u.settleLanes u.curSid).cur = (u.settleLanes u.curSid).st u.curSid := by rw [State.cur, State.settleLanes_curSid]
  have hst : u.st u.curSid = { s.cur with wait := w } := by subst hu; exact State.st_modSt s _ _
  unfold Waits Stands
  obtain h | ⟨n, h⟩ := u.settleLanes_cases u.curSid
  · rw [hcur, h, State.st_dropLanes, hst]
    exact ⟨⟨fun _ => rfl, rfl, rfl⟩, ⟨rfl, rfl, rfl, rfl, rfl, rfl, rfl, rfl, rfl, rfl, rfl⟩, sameQueue_clear _, sameQueue_clear _,
      fun _ _ => rfl⟩
  · rw [hcur, h, State.keepLanes, State.st_dropLanes, hst]
    exact ⟨⟨fun _ => rfl, rfl, rfl⟩, ⟨rfl, rfl, rfl, rfl, rfl, rfl, rfl, rfl, rfl, rfl, rfl⟩, rfl, rfl, fun _ _ => rfl⟩

end

/-! ## Trace records -/

@[simp] theorem State.traceRecord_strandView (s : State) (sid kind : Nat) (mark : Word) :
    (s.traceRecord sid kind mark).strandView = s.strandView := by
  unfold State.traceRecord
  extract_lets t d die reg lsize head tail w1 bs base cleared written
  have hwritten : written.strandView = s.strandView :=
    (State.foldl_view State.strandView _ _ _ fun _ _ => State.arriveHome_strandView ..).trans (State.clearCovered_strandView ..)
  clear_value written
  split
  · rfl
  · exact hwritten

/-- A strand that a breakpoint or break capture stops. -/
def Strand.stopped (t : Strand) (idx : Nat) : Strand := { t with
  st := .held, heldFrom := .run, bpStop := true, bpIdx := idx, bpArmed := none, wait := if t.wait = .vres then .vres else .none }

/-- A stop leaves, but for its trace record and its interrupt, the strand stopped and every other as it was. -/
theorem State.stopStrand_strandView (s : State) (sid idx setter : Nat) :
    (s.stopStrand sid idx setter).strandView = (s.modSt sid fun t => t.stopped idx).strandView :=
  (State.raiseSource_strandView ..).trans (State.traceRecord_strandView ..)

/-! ## Traps of the instruction itself -/

theorem trapTo_drained {α : Type} {s : State} (hq : s.cur.vq = []) (resume : Word) (detail code : Nat) (tval : Word) :
    (trapTo resume detail code tval : Act α) s
      = .error () (s.enter s.curSid (causeWord false false false detail code) tval resume) := by
  change EStateM.bind (waitUntil fun s => s.cur.vq.isEmpty) _ s = _
  rw [EStateM.bind, waitUntil_of_true (by rw [hq]; rfl)]
  rfl

/-! ## The instructions -/

section
variable {s : State} {rs1 rs2 : BitVec 6}

theorem gives_waiti (hm : s.cur.status.mode ≠ .task) (h : s.ipend s.curSid &&& s.cur.ctl cIenable ≠ 0) : Gives s .waiti 0 0 4 := by
  refine ⟨_, ?_, regResult_complete_only s 4 1⟩
  change runAct (needSupervisor .waiti >>= _) s = _
  rw [runAct_bind (needSupervisor_of_ne hm)]
  exact congrFun (congrArg runAct (if_pos (bne_iff_ne.2 h))) s

theorem waits_waiti (hm : s.cur.status.mode ≠ .task) (h : s.ipend s.curSid &&& s.cur.ctl cIenable = 0) :
    ∃ t, exec .waiti s = .next t ∧ Waits s t .waiti := by
  refine ⟨_, ?_, State.waits_settleLanes rfl⟩
  change runAct (needSupervisor .waiti >>= _) s = _
  rw [runAct_bind (needSupervisor_of_ne hm)]
  exact congrFun (congrArg runAct (if_neg (by simp [h]))) s

theorem halts (hm : s.cur.status.mode ≠ .task) (hq : s.cur.vq = []) (hs : s.settled s.curSid = true) :
    ∃ t, exec .halt s = .next t ∧ t.cur.st = .halted ∧ Moved s t
      ∧ SameUnits { s.cur with st := .halted, lanes := t.cur.lanes } t.cur ∧ t.mem = s.mem := by
  let u := (s.complete 4 1).modCur fun t => { t with st := .halted }
  have hu : u.st u.curSid = { s.cur.complete (s.cycleOf s.curCore) 4 1 with st := .halted } := by
    change u.cur = _
    rw [State.cur_modCur, State.complete, State.cur_modCur]
  have hcur : (u.settleLanes u.curSid).cur = { u.st u.curSid with lanes := (u.st u.curSid).lanes.take (u.st u.curSid).grant } := by
    rw [State.cur, State.settleLanes_curSid]
    exact u.st_settleLanes_keep u.curSid (by rw [hu]; nofun) (by rw [hu]; nofun) (by rw [hu]; rfl)
  refine ⟨u.settleLanes u.curSid, ?_, ?_⟩
  · change runAct (needSupervisor .halt >>= _) s = _
    rw [runAct_bind (needSupervisor_of_ne hm), runAct_bind (waitUntil_of_true (by simp [hq, hs]))]
    rfl
  · unfold Moved
    rw [hcur, hu, State.settleLanes_mem]
    exact ⟨rfl, ⟨fun _ => rfl, rfl, s.cur.instret_complete (s.cycleOf s.curCore) 4 1, rfl⟩,
      ⟨rfl, rfl, rfl, rfl, rfl, rfl, rfl, rfl, rfl, rfl, rfl⟩, rfl⟩

theorem steady_setPend (s : State) (sid n : Nat) : Steady s (s.setPend sid n) := by
  obtain ⟨hst, hsid, -⟩ := strandView_keeps (s.setPend_strandView sid n)
  exact steady_of_pendOnly hsid (hst _) (s.core_modSt_apply _ _ _ Core.acc fun _ _ _ => rfl) rfl

theorem State.coreOfSid_mul_add (core : Nat) {slot : Nat} (h : slot < 8) : coreOfSid (core * 8 + slot) = core := by
  simp only [coreOfSid]; omega

theorem ipi_sets {src : Nat} (hm : s.cur.status.mode ≠ .task)
    (hsrc : (s.cur.rd rs2.toNat).toNat = src) (h48 : 48 ≤ src) (h63 : src ≤ 63) (hz : bits (s.cur.rd rs1.toNat) 63 23 = 0)
    (hcl : bits (s.cur.rd rs1.toNat) 6 3 < 10) (hslot : bits (s.cur.rd rs1.toNat) 2 0 ≤ 4)
    (hpkg : bits (s.cur.rd rs1.toNat) 22 13 = s.pkg % 1024)
    (hten : s.coreInTenant (bits (s.cur.rd rs1.toNat) 12 3) s.cur.tenant = true)
    (htr : s.coreTraffic s.curCore (bits (s.cur.rd rs1.toNat) 12 3) = false) :
    let sid := bits (s.cur.rd rs1.toNat) 12 3 * 8 + bits (s.cur.rd rs1.toNat) 2 0
    ∃ t, exec (.ipi rs1 rs2) s = .next t ∧ (t.st sid).ctl cIpend = (s.st sid).ctl cIpend ||| BitVec.ofNat 64 (2 ^ src)
      ∧ Passes s t := by
  intro sid
  refine ⟨(s.setPend sid src).complete 4 1, ?_, ?_, (steady_setPend s sid src).complete 1⟩
  · change runAct (needSupervisor (.ipi rs1 rs2) >>= _) s = _
    rw [runAct_bind (needSupervisor_of_ne hm)]
    refine (congrFun (congrArg runAct (if_pos ?_)) s).trans ?_
    · simp [State.gr, hsrc, h48, h63, hz, hcl, hslot, hpkg, hten]
    · rw [runAct_bind (waitUntil_of_true (by simp [State.gr, htr]))]
      subst hsrc
      rfl
  · rw [State.complete, State.modCur, State.st_modSt_apply _ _ _ _ (Strand.ctl · cIpend) fun t => t.ctl_complete _ _ _ _ (by decide),
      State.setPend, State.st_modSt, Strand.ctl_setCtl]
    rfl

theorem fenceI_passes (hq : s.cur.vq = []) :
    ∃ t, exec .fenceI s = .next t ∧ Passes s t ∧ t.cur.replay = {} ∧ (t.core s.curCore).icache = [] := by
  let u := (s.modCore s.curCore fun c => { c with icache := [] }).modCur Strand.dropReplay
  have hbase : (s.modCore s.curCore fun c => { c with icache := [] }).cur = s.cur := by
    simp only [State.cur, State.st]
    change (Core.strand (State.core _ (coreOfSid s.curSid)) _) = _
    by_cases hc : coreOfSid s.curSid = s.curCore
    · rw [hc, State.core_modCore]; rfl
    · rw [State.core_modCore_ne _ _ _ _ hc]; rfl
  have hcur : u.cur = s.cur.dropReplay := (State.cur_modCur _ _).trans (congrArg _ hbase)
  have hcore {β : Type} (g : Core → β) (hg : ∀ (x : Core) k t, g (x.setStrand k t) = g x) :
      g (u.core s.curCore) = g { s.core s.curCore with icache := [] } :=
    (State.core_modSt_apply _ _ _ _ g hg).trans (congrArg g (State.core_modCore ..))
  have hsteady : Steady s u := by
    refine ⟨rfl, fun n => ?_, ?_, ?_, fun n _ => ?_, hcore Core.acc fun _ _ _ => rfl, rfl⟩
    · rw [hcur]; rfl
    · rw [hcur]; rfl
    · rw [hcur]; exact ⟨rfl, rfl, rfl, rfl, rfl, rfl, rfl, rfl, rfl, rfl, rfl⟩
    · rw [hcur]; rfl
  refine ⟨u.complete 4 1, ?_, hsteady.complete 1, ?_, ?_⟩
  · exact runAct_bind (waitUntil_of_true (drained_of_nil hq))
  · rw [State.complete, State.cur_modCur, hcur]; rfl
  · exact (State.core_modSt_apply _ _ _ _ Core.icache fun _ _ _ => rfl).trans (hcore Core.icache fun _ _ _ => rfl)

theorem svc_traps (hq : s.cur.vq = []) : ∃ t, exec (.svc rs1) s = .next t
    ∧ TrapTaken s t s.curSid (causeWord false false false 0 11) (s.cur.rd rs1.toNat) (s.cur.pc + 4) := by
  refine ⟨_, ?_, s.enter_trapTaken ..⟩
  change runAct (trapTo (s.cur.pc + 4) 0 xSvcall (s.gr rs1)) s = _
  rw [runAct, trapTo_drained hq]
  rfl

theorem brk_traps (hq : s.cur.vq = []) (hc : s.cur.brkCap = false) : Traps s (.brk rs1) 0 12 (s.cur.rd rs1.toNat) := by
  refine ⟨_, ?_, s.enter_trapTaken ..⟩
  change runAct (if s.cur.brkCap = true then _ else trap 0 xBreak (s.gr rs1)) s = _
  rw [hc, if_neg Bool.false_ne_true, runAct, trap_drained hq]
  rfl

theorem brk_stops (hq : s.cur.vq = []) (hc : s.cur.brkCap = true) :
    ∃ t, exec (.brk rs1) s = .next t ∧ t.cur.st = .held ∧ t.cur.bpStop = true ∧ t.cur.pc = s.cur.pc := by
  refine ⟨s.stopStrand s.curSid 0 s.cur.brkBy, ?_, ?_⟩
  · change runAct (if s.cur.brkCap = true then _ else trap 0 xBreak (s.gr rs1)) s = _
    rw [hc, if_pos rfl, runAct_bind (waitUntil_of_true (drained_of_nil hq))]
    rfl
  · obtain ⟨hst, hsid, -⟩ := strandView_keeps (s.stopStrand_strandView s.curSid 0 s.cur.brkBy)
    have hcur := (hst s.curSid).1
    rw [State.st_modSt] at hcur
    rw [State.cur, hsid]
    have hpc := congrArg Strand.pc hcur
    exact ⟨congrArg Strand.st hcur, congrArg Strand.bpStop hcur, hpc⟩

end

/-- Settles O10: each instruction's checks pass, and its one effect follows. -/
theorem systemInstructions : Obligations.SystemInstructions := by
  intro s rs1 rs2 target src core sid
  refine ⟨fun hm => ⟨gives_waiti hm, waits_waiti hm, halts hm, fun h48 h63 hz hcl hslot hpkg hten htr => ?_⟩, fun hq => ?_⟩
  · exact ipi_sets hm rfl h48 h63 hz hcl hslot hpkg hten htr
  · exact ⟨fenceI_passes hq, svc_traps hq, brk_traps hq, brk_stops hq⟩

end Sys2Proof.Machine

/-! # Interrupts and the timer (O18)

An interrupt gives up a wait or completes a WAITI, and is then taken as a trap is. -/

namespace Sys2Proof.Machine
open Safety

section
variable {s t u : State} {sid : Nat}

theorem onlyStrand_trans (h : OnlyStrand s t sid) (h' : OnlyStrand t u sid) : OnlyStrand s u sid := by
  obtain ⟨⟨hs, hd⟩, hc, hk⟩ := h
  obtain ⟨⟨hs', hd'⟩, hc', hk'⟩ := h'
  have hstate := congrArg (fun x : State => { x with cores := s.cores }) hs'
  have hcore := congrArg (fun x : Core => { x with strands := (s.core (coreOfSid sid)).strands }) hc'
  exact ⟨⟨hstate.trans hs, fun d hne => (hd' d hne).trans (hd d hne)⟩, hcore.trans hc, fun k hne => (hk' k hne).trans (hk k hne)⟩

/-- What taking a trap saves depends on a strand's registers and its status only. -/
theorem trapRegs_of_sameRegs {a a' b : Strand} {cause tval resume : Word} (hstatus : a'.status = a.status)
    (hctl : ∀ n, a'.ctl n = a.ctl n) (hregs : SameRegs a a') (h : TrapRegs a' b cause tval resume) : TrapRegs a b cause tval resume := by
  obtain ⟨r1, r2, r3, r4, r5, r6, r7, r8, r9, r10⟩ := hregs
  have regs (hb : SameRegs a' b) : SameRegs a b := by
    obtain ⟨b1, b2, b3, b4, b5, b6, b7, b8, b9, b10⟩ := hb
    exact ⟨b1.trans r1, fun n => (b2 n).trans (r2 n), b3.trans r3, b4.trans r4, b5.trans r5, b6.trans r6, b7.trans r7, b8.trans r8,
      b9.trans r9, b10.trans r10⟩
  unfold TrapRegs at h ⊢
  simp only [hstatus, hctl] at h
  split
  next hm =>
    rw [if_pos hm] at h
    obtain ⟨h1, h2, h3, h4, h5, h6, h7, h8⟩ := h
    exact ⟨h1, h2, h3, h4, h5, h6, regs h7, h8⟩
  next hm =>
    rw [if_neg hm] at h
    split
    next hn =>
      rw [if_pos hn] at h
      obtain ⟨h1, h2, h3, h4, h5, h6, h7, h8⟩ := h
      exact ⟨h1, h2, h3, h4, h5, h6, regs h7, h8⟩
    next hn => rwa [if_neg hn] at h

/-- A trap is taken of a strand as it was before a change of nothing that the trap saves. -/
theorem trapTaken_of_modSt {f : Strand → Strand} {cause tval resume : Word} (hstatus : (f (s.st sid)).status = (s.st sid).status)
    (hctl : ∀ n, (f (s.st sid)).ctl n = (s.st sid).ctl n) (hregs : SameRegs (s.st sid) (f (s.st sid)))
    (h : TrapTaken (s.modSt sid f) t sid cause tval resume) : TrapTaken s t sid cause tval resume := by
  obtain ⟨htrap, honly⟩ := h
  rw [State.st_modSt, hstatus] at honly
  rw [State.st_modSt] at htrap
  exact ⟨trapRegs_of_sameRegs hstatus hctl hregs htrap, fun hm => onlyStrand_trans (onlyStrand_modSt s sid f) (honly hm)⟩

/-- Nothing is withdrawn for a strand that does not wait. -/
theorem State.abandon_of_none (h : (s.st sid).wait = .none) :
    s.abandon sid = s.modSt sid fun t => { t with wait := .none, flying := none, feTimer := 0 } := by
  unfold State.abandon; dsimp only
  rw [h]

theorem State.trapTaken_abandon (h : (s.st sid).wait = .none) {cause tval resume : Word}
    (ht : TrapTaken (s.abandon sid) t sid cause tval resume) : TrapTaken s t sid cause tval resume := by
  rw [State.abandon_of_none h] at ht
  exact trapTaken_of_modSt rfl (fun _ => rfl) ⟨rfl, fun _ => rfl, rfl, rfl, rfl, rfl, rfl, rfl, rfl, rfl⟩ ht

/-- An interrupt entered from the strand as its wait has been given up or its WAITI completed. -/
def State.interrupted (s : State) (sid : Nat) (cause : Word) : State :=
  let u := if (s.st sid).wait = .waiti then s.finish0 sid else s.abandon sid
  u.enter sid cause 0 (u.st sid).pc

theorem State.takeInterrupt_eq {n : Nat} (hdue : s.interruptDue sid = some n) (hq : (s.st sid).vq = []) (ha : (s.st sid).async = []) :
    s.takeInterrupt sid = some (s.interrupted sid (causeWord true false false 0 n)) := by
  unfold State.takeInterrupt; dsimp only
  simp only [hdue, hq, ha, List.isEmpty_nil, Bool.and_self, if_true, State.interrupted]

theorem State.onlyStrand_setPend (s : State) (sid n : Nat) : OnlyStrand s (s.setPend sid n) sid := onlyStrand_modSt s sid _

end

/-- Settles O18: the interrupt that is due is entered from the strand as its wait has been given up or its WAITI completed. -/
theorem interruptsAndTimer : Obligations.InterruptsAndTimer := by
  intro s core slot n hslot sid a cause due
  have entered (h : due) : exec (.interruptEntry core slot) s = .next (s.interrupted sid cause) := by
    obtain ⟨hissue, hdue, hq, ha⟩ := h
    change execInterruptEntry core slot s = _
    unfold execInterruptEntry
    dsimp only
    rw [if_pos hissue, State.takeInterrupt_eq hdue hq ha]
  refine ⟨fun h hw => ⟨_, entered h, ?_⟩, fun h hw => ⟨_, entered h, ?_⟩, fun hfree htime => ⟨s.setPend sid 0, ?_, ?_, ?_⟩⟩
  · rw [State.interrupted, if_neg (by rw [hw]; nofun)]
    refine State.trapTaken_abandon hw ?_
    have hpc : ((s.abandon sid).st sid).pc = a.pc := by rw [State.abandon_of_none hw, State.st_modSt]
    rw [hpc]
    exact State.enter_trapTaken ..
  · rw [State.interrupted, if_pos hw]
    have hpc : ((s.finish0 sid).st sid).pc = a.pc + 4 := by
      rw [State.finish0, State.finish, State.st_modSt, Strand.pc_complete, Strand.wr_pc]
      rfl
    rw [← hpc]
    exact State.enter_trapTaken ..
  · change execTimerInterrupt core slot s = _
    unfold execTimerInterrupt
    dsimp only
    rw [if_pos]
    simp only [bne_iff_ne, Bool.and_eq_true, decide_eq_true_eq]
    exact ⟨hfree, htime⟩
  · rw [State.setPend, State.st_modSt, Strand.ctl_setCtl]
    rfl
  · exact s.onlyStrand_setPend sid 0

end Sys2Proof.Machine

/-! # A drop that is older than the element timer's trap (O19)

The statement's last clause lets an entry's timer run out while a drop is recorded for the strand.  The drop is older (01_engines R34):
the strand is dropped with its queue, in the mode it was in, and takes no trap. -/

namespace Sys2Proof.Machine

/-- A load whose timer has reached its limit at its first element. -/
def lateLoad : VEntry := { pc := 0, ins := .vld 1 0 0, ox := [], g1 := 0, g2 := 0, vl := 1, frm := 0, grant := 0, lfmt := 0, start := 0 }

/-- A strand in task mode with that load at the head of its queue and the drop of a command's page fault recorded. -/
def lateAndDropped : State :=
  let rec_ : FaultRec := { va := 0, sid := 0, tenant := 0, type := 1, kind := 4, level := 1, progress := 0, time := 0 }
  { cores := [(0, { strands := [(0, { st := .run, status := { mode := .task }, vq := [lateLoad], async := [.drop rec_] })] })] }

/-- The strand's mode after a step. -/
def modeAfter (o : Host.Outcome State Fault Refusal) : Option Mode :=
  match o with | .next t => some (t.st 0).status.mode | _ => none

theorem modeAfter_eptimeout_lateAndDropped : modeAfter (exec (.eptimeout 0 0) lateAndDropped) = some .task := by decide +kernel

/-- Refutes O19: with the drop recorded the strand stays in task mode, where the last clause has it enter supervisor mode. -/
theorem not_asynchronousFaults : ¬ Obligations.AsynchronousFaults := by
  intro h
  obtain ⟨-, -, -, htimer⟩ := h lateAndDropped 0 0 (by decide)
  have hstall : ∃ ea, lateAndDropped.stalledAt 0 lateLoad = some (0, ea) := ⟨_, rfl⟩
  obtain ⟨ea, hea⟩ := hstall
  obtain ⟨t, ht, -, -, -, -, -, -, -, -, hmode, -⟩ := htimer lateLoad [] 0 ea ⟨rfl, rfl, rfl⟩ rfl rfl rfl (by decide) rfl rfl hea
  have hafter := modeAfter_eptimeout_lateAndDropped
  rw [ht, modeAfter, hmode] at hafter
  exact nomatch hafter

end Sys2Proof.Machine

/-! # Control registers (O11)

A register that the mode may use passes the check; a write that takes effect is `State.writeCtl`, whose registers with a behaviour of
their own are said one by one. -/

namespace Sys2Proof.Machine
open Safety

/-! ## The instructions -/

section
variable {s : State} {n : Nat} {i : Instr}

theorem ctlCheck_read (h : s.curAccess n ≠ .none) : ctlCheck n false i s = .ok () s := by
  refine require_of_true ?_
  cases ha : s.curAccess n with
  | none => exact absurd ha h
  | ro | rw | wo => rfl

theorem ctlCheck_write (h : s.curAccess n = .rw ∨ s.curAccess n = .wo) : ctlCheck n true i s = .ok () s := by
  refine require_of_true ?_
  obtain ha | ha := h <;> rw [ha]

theorem State.ctlValue_eq_ite : s.ctlValue n = if s.curAccess n = .wo then 0 else s.readCtl s.curSid n := by
  unfold State.ctlValue
  cases s.curAccess n <;> rfl

/-- A write of a register that issues no command: the old value goes to a register as the write has taken effect. -/
theorem runAct_ctlWriteAct (hdbg : n ≠ 0x24B) (hdcmd : n ≠ 0x2CA) (rd : BitVec 6) (old x : Word) :
    runAct (ctlWriteAct rd n old x) s
      = .next (((s.writeCtl s.curSid n s.cur.status.mode x).gw rd old).complete 4 1) := by
  unfold ctlWriteAct
  rw [if_neg hdbg, if_neg hdcmd]
  rfl

/-- An instruction that checks its register and writes it. -/
theorem writes_of_ctlWriteAct (hacc : s.curAccess n = .rw ∨ s.curAccess n = .wo) (hdbg : n ≠ 0x24B) (hdcmd : n ≠ 0x2CA) {rd : BitVec 6}
    {x : Word} (h : exec i s = runAct (ctlCheck n true i >>= fun _ => ctlWriteAct rd n (s.ctlValue n) x) s) :
    ∃ t, exec i s = .next t ∧ RegResult (s.writeCtl s.curSid n s.cur.status.mode x) t rd.toNat (s.ctlValue n) 4 := by
  rw [runAct_bind (ctlCheck_write hacc), runAct_ctlWriteAct hdbg hdcmd] at h
  exact ⟨_, h, regResult_complete _ rd _ 4 1⟩

theorem gives_ctlr {rd : BitVec 6} {reg : BitVec 10} (h : s.curAccess reg.toNat ≠ .none) :
    Gives s (.ctlr rd reg) rd.toNat (s.ctlValue reg.toNat) 4 :=
  ⟨_, runAct_bind (ctlCheck_read h), regResult_complete s rd _ 4 1⟩

end

/-! ## The steps of writes -/

section
variable {s : State} {core slot n : Nat} {val : Word}

theorem writeStep_writes (hcore : coreExists core = true) (hslot : slot < 5)
    (hacc : ctlAccess core n (s.st (core * 8 + slot)).status.mode = .rw ∨ ctlAccess core n (s.st (core * 8 + slot)).status.mode = .wo) :
    writeStep core slot n val s = .next (s.writeCtl (core * 8 + slot) n (s.st (core * 8 + slot)).status.mode val) := by
  unfold writeStep
  dsimp only
  rw [if_neg (by simp [hcore, hslot])]
  obtain ha | ha := hacc <;> rw [ha]

theorem ctlAccess_of_present (hp : ctlPresent core n = true) (m : Mode) : ctlAccess core n m = match m with
    | .task => (ctlColumns n).1
    | .supervisor => (ctlColumns n).2.1
    | .monitor => (ctlColumns n).2.2 := by
  unfold ctlAccess
  rw [hp]
  cases m <;> rfl

/-- A register of every core. -/
theorem ctlPresent_of_assigned (ha : ctlAssigned n = true) (h1 : n < 0x108 ∨ 0x10E < n) (h2 : n < 0x300 ∨ 0x302 < n) :
    ctlPresent core n = true := by
  unfold ctlPresent
  rw [ha]
  obtain h1 | h1 := h1 <;> obtain h2 | h2 := h2 <;> simp [Nat.not_le.2 h1, Nat.not_le.2 h2]

/-- A stream core's registers. -/
theorem ctlPresent_of_stream (ha : ctlAssigned n = true) (hs : isStreamCore core = true) (h : n < 0x300) : ctlPresent core n = true := by
  unfold ctlPresent
  rw [ha, hs]
  simp [Nat.not_le.2 h]

/-- A register that supervisor and monitor mode may write is written by a strand that is not in task mode. -/
theorem writes_of_supervisor {a : Access} (ha : a = .rw ∨ a = .wo) (hp : ctlPresent core n = true) (hc : (ctlColumns n).2 = (a, a))
    {m : Mode} (hm : m ≠ .task) : ctlAccess core n m = .rw ∨ ctlAccess core n m = .wo := by
  rw [ctlAccess_of_present hp, hc]
  cases m with
  | task => exact absurd rfl hm
  | supervisor | monitor => exact ha

end

/-! ## What a write does -/

section
variable (s : State) (x : Word)

theorem State.core_writeFqtail {core : Nat} (hh : s.isHolding core = true)
    (ht : tailMoves ((s.core core).ctl 0x10A).toNat x.toNat (bits ((s.core core).ctl 0x109) 4 0) = true) :
    ((s.writeFqtail core x).core core).ctl 0x10B = BitVec.ofNat 64 (x.toNat % 2 ^ 32) := by
  unfold State.writeFqtail
  rw [if_pos (by simp [hh, ht]), State.core_setCore]
  exact tget_tput_same _ _ _ _

theorem State.core_popVictim {core : Nat} {r : List Nat} (hh : s.isHolding core = true) (hv : (s.core core).vicq = x.toNat :: r) :
    ((s.popVictim core x).core core).vicq = r := by
  unfold State.popVictim
  dsimp only
  rw [hv]
  dsimp only
  rw [if_pos (by simp [hh]), State.core_setCore]

theorem State.writeCtl_trtail (sid : Nat) (m : Mode) : s.writeCtl sid 0x244 m x = s.writeTrtail (dieOfCore (coreOfSid sid)) x := by
  unfold State.writeCtl
  -- under a variable the kernel cannot unfold the write, whose arithmetic is modulo 2^32, before it has chosen the case
  obtain ⟨write, hw⟩ : ∃ write, State.writeTrtail = write := ⟨_, rfl⟩
  rw [hw]
  rfl

theorem State.die_writeTrtail {die : Nat}
    (ht : tailMoves (tget 0 (s.die die).cr 0x243).toNat x.toNat (bits (tget 0 (s.die die).cr 0x242) 4 0) = true) :
    tget 0 ((s.writeTrtail die x).die die).cr 0x244 = BitVec.ofNat 64 (x.toNat % 2 ^ 32) := by
  unfold State.writeTrtail
  rw [if_pos ht, State.die_setDie]
  exact tget_tput_same _ _ _ _

/-- The shared entry that is staged in the partition's registers. -/
def State.stagedEntry (s : State) (x : Word) : ShrEntry :=
  { valid := bit (s.pctl 0x1C5) 0, base := bits (s.pctl 0x1C5) 51 21 * 2 ^ 21, size := bits (s.pctl 0x1C6) 17 0, rights := bits x 7 0 }

theorem State.installShared_eq : s.installShared x =
    if ((s.stagedEntry x).valid && decide ((s.stagedEntry x).size = 0))
        || decide (2 ^ 52 < (s.stagedEntry x).base + (s.stagedEntry x).size * 2 ^ 21)
        || ((s.stagedEntry x).size != 0 && s.shared.any (fun o => o.1 ≠ (s.pctl 0x1C4).toNat % 64 && o.2.valid
          && decide (o.2.base < (s.stagedEntry x).base + (s.stagedEntry x).size * 2 ^ 21
            ∧ (s.stagedEntry x).base < o.2.base + o.2.size * 2 ^ 21))) then s
    else { s with shared := tput s.shared ((s.pctl 0x1C4).toNat % 64) (s.stagedEntry x) } := rfl

/-- The staged entry is installed where it is not empty when valid, stays within the addresses, and meets no other valid entry. -/
theorem State.shrEntry_installShared {top : Nat} (hdef : (s.stagedEntry x).base + (s.stagedEntry x).size * 2 ^ 21 = top)
    (hsize : (s.stagedEntry x).valid = true → (s.stagedEntry x).base < top) (htop : top ≤ 2 ^ 52)
    (hclear : ∀ o, o ∈ s.shared → o.1 ≠ (s.pctl 0x1C4).toNat % 64 → o.2.valid = true →
      top ≤ o.2.base ∨ o.2.base + o.2.size * 2 ^ 21 ≤ (s.stagedEntry x).base) :
    (s.installShared x).shrEntry = s.stagedEntry x := by
  have hclash : s.shared.any (fun o => o.1 ≠ (s.pctl 0x1C4).toNat % 64 && o.2.valid
      && decide (o.2.base < top ∧ (s.stagedEntry x).base < o.2.base + o.2.size * 2 ^ 21)) = false := by
    rw [List.any_eq_false]
    intro o ho h
    simp only [ne_eq, decide_not, Bool.and_eq_true, Bool.not_eq_eq_eq_not, Bool.not_true, decide_eq_false_iff_not,
      decide_eq_true_eq] at h
    obtain ⟨⟨hne, hv⟩, hlt, hlt'⟩ := h
    obtain hle | hle := hclear o ho hne hv <;> omega
  have hempty : ((s.stagedEntry x).valid && decide ((s.stagedEntry x).size = 0)) = false := by
    cases hv : (s.stagedEntry x).valid with
    | false => rfl
    | true =>
      have := hsize hv
      simp only [Bool.true_and, decide_eq_false_iff_not]
      omega
  subst hdef
  rw [State.installShared_eq, hempty, hclash, decide_eq_false (Nat.not_lt.2 htop), Bool.and_false, Bool.or_false, Bool.or_false,
    if_neg Bool.false_ne_true]
  exact tget_tput_same _ _ _ _

/-- An island that moves to another point: the point is the new one, and the cycles it has advanced stand. -/
theorem State.island_setPoint (i p : Nat) : (s.setPoint i p).island i = { s.island i with point := p, base := s.cyclesOf i, mark := s.clock } := by
  unfold State.island State.setPoint
  simp only [tfind_tput_same]
  rfl

theorem State.cyclesOf_setPoint (i p : Nat) : (s.setPoint i p).cyclesOf i = s.cyclesOf i := by
  rw [State.cyclesOf, State.island_setPoint]
  change s.cyclesOf i + (s.clock - s.clock) * p / 17 = _
  rw [Nat.sub_self, Nat.zero_mul, Nat.zero_div, Nat.add_zero]

theorem State.writeIpoint_unlocked (hi : (s.pctl 0x283).toNat < 640) (hl : (s.island (s.pctl 0x283).toNat).locked = false)
    (hp : bits x 4 0 ∈ [8, 12, 15, 17]) : s.writeIpoint x = s.setPoint (s.pctl 0x283).toNat (bits x 4 0) := by
  unfold State.writeIpoint
  exact if_pos ⟨by simpa using hp, hi, hl⟩

/-- A control register of a strand written. -/
theorem onlyStrand_setCtl (sid n : Nat) : OnlyStrand s (s.modSt sid fun t => t.setCtl n x) sid := onlyStrand_modSt s sid _

end

/-! ## Plain registers -/

/-- The registers of a strand with no behaviour of their own. -/
def plainRegs : List Nat := [0x001, 0x002, 0x003, 0x004, 0x005, 0x006, 0x007, 0x008, 0x00C, 0x010, 0x011, 0x012, 0x013, 0x014, 0x020, 0x033,
  0x034, 0x040]

theorem ctlOwn_plainRegs : ∀ n ∈ plainRegs, ctlOwn n = false := by decide

theorem State.readCtl_plainRegs (s : State) (sid : Nat) : ∀ n ∈ plainRegs, s.readCtl sid n = (s.st sid).ctl n := by
  simp only [plainRegs, List.forall_mem_cons]
  exact ⟨rfl, rfl, rfl, rfl, rfl, rfl, rfl, rfl, rfl, rfl, rfl, rfl, rfl, rfl, rfl, rfl, rfl, rfl, nofun⟩

theorem State.writeCtl_plainRegs (s : State) (sid : Nat) (m : Mode) (x : Word) :
    ∀ n ∈ plainRegs, s.writeCtl sid n m x = s.modSt sid fun t => t.setCtl n (x &&& ctlMask n) := by
  simp only [plainRegs, List.forall_mem_cons]
  exact ⟨rfl, rfl, rfl, rfl, rfl, rfl, rfl, rfl, rfl, rfl, rfl, rfl, rfl, rfl, rfl, rfl, rfl, rfl, nofun⟩

theorem registerWrite_plain {s : State} {core slot n : Nat} {val : Word} (hcore : coreExists core = true) (hslot : slot < 5)
    (hn : n ∈ plainRegs) (hacc : ctlAccess core n (s.st (core * 8 + slot)).status.mode = .rw) :
    ∃ t, exec (.registerWrite core slot n val) s = .next t ∧ t.readCtl (core * 8 + slot) n = val &&& ctlMask n
      ∧ OnlyStrand s t (core * 8 + slot) := by
  refine ⟨_, ?_, ?_, onlyStrand_setCtl s (val &&& ctlMask n) (core * 8 + slot) n⟩
  · change (if ctlOwn n = true then _ else writeStep core slot n val s) = _
    rw [if_neg (by rw [ctlOwn_plainRegs n hn]; exact Bool.false_ne_true), writeStep_writes hcore hslot (.inl hacc),
      s.writeCtl_plainRegs _ _ _ n hn]
  · rw [State.readCtl_plainRegs _ _ n hn, State.st_modSt, Strand.ctl_setCtl]

/-- Settles O11: the instructions pass their check, and each write is what its register does. -/
theorem controlRegisters : Obligations.ControlRegisters := by
  intro s rd rs1 reg core slot val n a old x writes
  have hold : s.ctlValue n = old := State.ctlValue_eq_ite
  clear_value old
  subst hold
  refine ⟨gives_ctlr, fun hacc hdbg hdcmd => ⟨writes_of_ctlWriteAct hacc hdbg hdcmd rfl, writes_of_ctlWriteAct hacc hdbg hdcmd rfl,
    writes_of_ctlWriteAct hacc hdbg hdcmd rfl⟩, fun hcore hslot => ?_⟩
  intro sid m c d
  have hof : coreOfSid sid = core := State.coreOfSid_mul_add core (by omega)
  have written {n : Nat} (hacc : ctlAccess core n m = .rw ∨ ctlAccess core n m = .wo) : writeStep core slot n val s = _ :=
    writeStep_writes hcore hslot hacc
  have everywhere {n : Nat} (ha : ctlAssigned n = true) (hn : n < 0x108 ∨ 0x10E < n ∧ n < 0x300) : ctlPresent core n = true :=
    ctlPresent_of_assigned ha (by omega) (by omega)
  have monitor {n : Nat} (hp : ctlPresent core n = true) (hc : (ctlColumns n).2.2 = .rw) (hm : m = .monitor) :
      ctlAccess core n m = .rw := by
    rw [ctlAccess_of_present hp, hm]; exact hc
  refine ⟨fun hm => ⟨_, written (writes_of_supervisor (.inl rfl) (everywhere rfl (by decide)) rfl hm), ?_, onlyStrand_modSt s sid _⟩,
    fun v r hm hstream hh hv hval => ⟨_, written (writes_of_supervisor (.inr rfl) (ctlPresent_of_stream rfl hstream (by decide)) rfl hm), ?_⟩,
    fun hm hstream hh ht => ⟨_, written (writes_of_supervisor (.inl rfl) (ctlPresent_of_stream rfl hstream (by decide)) rfl hm), ?_⟩,
    fun hm ht => ⟨_, written (writes_of_supervisor (.inl rfl) (everywhere rfl (by decide)) rfl hm), ?_⟩,
    fun hm hsize htop hclear => ⟨_, written (.inl (monitor (everywhere rfl (by decide)) rfl hm)), ?_⟩,
    fun hm => ⟨_, written (writes_of_supervisor (.inr rfl) (everywhere rfl (by decide)) rfl hm), rfl, rfl⟩,
    fun hm hi hl hp => ⟨_, written (.inl (monitor (everywhere rfl (by decide)) rfl hm)), ?_⟩,
    fun n hn hacc => registerWrite_plain hcore hslot hn hacc⟩
  · exact (congrArg (Strand.ctl · cIpend) (State.st_modSt s sid _)).trans (Strand.ctl_setCtl _ _ _)
  · change ((s.popVictim (coreOfSid sid) val).core core).vicq = r
    rw [hof]
    exact s.core_popVictim val hh (by rw [← hval]; exact hv)
  · change ((s.writeFqtail (coreOfSid sid) val).core core).ctl 0x10B = _
    rw [hof]
    exact s.core_writeFqtail val hh ht
  · rw [State.writeCtl_trtail, hof]
    exact s.die_writeTrtail val ht
  · have hrights : bits val 7 0 = val.toNat % 256 := by simp [bits]
    rw [← hrights]
    change (s.installShared val).shrEntry = s.stagedEntry val
    exact s.shrEntry_installShared val rfl hsize htop hclear
  · change ((s.writeIpoint val).island _).point = _ ∧ (s.writeIpoint val).cyclesOf _ = _
    rw [s.writeIpoint_unlocked val hi hl hp]
    exact ⟨by rw [State.island_setPoint], s.cyclesOf_setPoint _ _⟩

end Sys2Proof.Machine

/-! # Loads that may be performed (O6)

After its read a load arms data breakpoints, writes its register and counts as an outstanding load: none of that is more than the
register's change. -/

namespace Sys2Proof.Machine
open Safety

section
variable {s s' t : State} {rd len : Nat} {x : Word}

/-- An access arms a data breakpoint of the strand, or leaves everything. -/
theorem State.dataHit_cases (s : State) (ea n : Nat) (write : Bool) : s.dataHit s.curSid ea n write = s
    ∨ ∃ k, s.dataHit s.curSid ea n write = s.modCur fun t => { t with bpArmed := some k } := by
  unfold State.dataHit
  dsimp only
  split
  · exact .inr ⟨_, rfl⟩
  · exact .inl rfl

@[simp] theorem State.dataHit_curSid (s : State) (sid ea n : Nat) (write : Bool) : (s.dataHit sid ea n write).curSid = s.curSid := by
  unfold State.dataHit
  dsimp only
  split <;> rfl

/-- A strand with a breakpoint armed completes as it does without. -/
theorem regResult_of_dataHit {ea n : Nat} {write : Bool} (h : RegResult (s.dataHit s.curSid ea n write) t rd x len) :
    RegResult s t rd x len := by
  obtain he | ⟨k, he⟩ := s.dataHit_cases ea n write
  · rwa [he] at h
  · rw [he] at h
    obtain ⟨hrd, hpc, hret, hctl, hunits, hwait, honly⟩ := h
    rw [State.cur_modCur] at hrd hpc hret hctl hunits
    exact ⟨hrd, hpc, hret, hctl, hunits, hwait, onlyStrand_trans (onlyStrand_modCur s _) honly⟩

/-- A completed load counts as outstanding besides. -/
theorem regResult_loadOut (hsid : t.curSid = s.curSid) (h : RegResult s t rd x len) :
    RegResult s (t.modCur fun a => { a with loadOut := true }) rd x len := by
  obtain ⟨hrd, hpc, hret, hctl, hunits, hwait, honly⟩ := h
  have honly' := onlyStrand_modCur t fun a => { a with loadOut := true }
  rw [hsid] at honly'
  unfold RegResult
  rw [State.cur_modCur]
  exact ⟨hrd, hpc, hret, hctl, hunits, hwait, onlyStrand_trans honly honly'⟩

/-- An access that succeeds leaves the instruction to go on from its state. -/
theorem runAct_access {α : Type} {a : Who → Acc α} {ea : Word} {kind : Nat} {y : α} {f : α → Act Unit}
    (h : a (s.who s.curSid) s = .ok y s') : runAct (access a ea kind >>= f) s = runAct (f y) s' := by
  refine runAct_bind ?_
  change (match a (s.who s.curSid) s with
    | .ok x s' => (do set s'; return x : Act α)
    | .error e s' => if e.final && !drained s then Machine.stall else do set s'; failed e ea kind) s = _
  rw [h]
  rfl

theorem regResult_loadReg {w : Nat} {i : Instr} {rd : BitVec w} {ea : Word} {n : Nat} {ext : Nat → Word} {bs : List Byte}
    (hi : exec i s = runAct (loadReg rd ea n ext len) s) (h : readMem (s.who s.curSid) ea n .no s = .ok bs s')
    (hx : ext (leNat bs) = x) : ∃ t, exec i s = .next t ∧ RegResult s' t rd.toNat x len := by
  subst hx
  have hlook : look (fun s => s.loadCycles (s.who s.curSid) ea n) s = .ok (s.loadCycles (s.who s.curSid) ea n) s := rfl
  rw [loadReg, runAct_bind hlook, runAct_access h] at hi
  exact ⟨_, hi, regResult_of_dataHit (regResult_loadOut rfl (regResult_complete _ rd _ len _))⟩

/-- A field of memory, sign-extended. -/
theorem sextWord_word_eq_ofInt (x : Nat) {n : Nat} (hn : 0 < n) (hle : n ≤ 64) :
    sextWord (word x) n = BitVec.ofInt 64 (BitVec.ofNat n x).toInt := by
  have hx : BitVec.ofNat n (x % 2 ^ 64) = BitVec.ofNat n x :=
    BitVec.eq_of_toNat_eq (by simp only [BitVec.toNat_ofNat]; exact Nat.mod_mod_of_dvd _ (Nat.pow_dvd_pow 2 hle))
  rw [sextWord_eq_signExtend _ hn, word, BitVec.toNat_ofNat, hx]
  rfl

end

/-- Settles O6: each load is `loadReg` with its address, its number of bytes and its extension. -/
theorem loadsComplete : Obligations.LoadsComplete := by
  intro s rd rs1 imm ga gb num loads ea
  exact ⟨fun _ _ h => regResult_loadReg rfl h (sextWord_word_eq_ofInt _ (by decide) (by decide)),
    fun _ _ h => regResult_loadReg rfl h rfl,
    fun _ _ h => regResult_loadReg rfl h (sextWord_word_eq_ofInt _ (by decide) (by decide)),
    fun _ _ h => regResult_loadReg rfl h rfl,
    fun _ _ h => regResult_loadReg rfl h (sextWord_word_eq_ofInt _ (by decide) (by decide)),
    fun _ _ h => regResult_loadReg rfl h rfl,
    fun _ _ h => regResult_loadReg rfl h rfl,
    fun _ _ h => regResult_loadReg rfl h (sextWord_word_eq_ofInt _ (by decide) (by decide)),
    fun _ _ h => regResult_loadReg rfl h rfl,
    fun _ _ h => regResult_loadReg rfl h rfl⟩

end Sys2Proof.Machine

/-! # Active messages (O22)

A message takes its way as a packet; what is left is what each step does to the message strand, the queue and the counter. -/

namespace Sys2Proof.Machine
open Safety

/-! ## Sending -/

section
variable {s : State}

/-- The packet that is sent is the last one in flight. -/
theorem State.sendPacket_spec (s : State) (cls : PClass) (tenant src : Nat) (dsts : List Nat) (payload : Payload) (waiter : Option Nat) :
    ∃ p, p ∈ (s.sendPacket cls tenant src dsts payload waiter).2.fabric.packets ∧ p.payload = payload ∧ p.dsts = dsts
      ∧ p.waiter = waiter ∧ p.id = (s.sendPacket cls tenant src dsts payload waiter).1 :=
  ⟨_, List.mem_append_right _ (List.mem_singleton.2 rfl), rfl, rfl, rfl, rfl⟩

theorem steady_sendPacket (s : State) (cls : PClass) (tenant src : Nat) (dsts : List Nat) (payload : Payload) (waiter : Option Nat) :
    Steady s (s.sendPacket cls tenant src dsts payload waiter).2 := steady_of_cur rfl rfl rfl rfl

/-- AMSEND of a target, an index and a class that it may send hands on the message it reads. -/
theorem exec_amsend {c b : BitVec 5} {oxb : BitVec 3} {m : AmMsg} (hm : m =
      { index := bits (s.cur.rd b.toNat) 7 0, sender := (s.strandId s.curSid).toNat, tenant := s.cur.tenant,
        reply := s.curSlot = 4, args := (List.range 6).map (fun i => s.cur.oxr (oxb.toNat + i)) })
    (htarget : bits (s.cur.rd c.toNat) 63 20 = 0) (hcore : bits (s.cur.rd c.toNat) 3 0 < 10)
    (hindex : bits (s.cur.rd b.toNat) 63 8 = 0) (hclass : ¬(s.curSlot = 4 ∧ (s.core s.curCore).amRun = some true)) :
    exec (.amsend c b oxb) s = .next (s.sendAm s.curSid m (bits (s.cur.rd c.toNat) 19 0)) := by
  subst hm
  have h1 : ¬(bits (s.gr c) 63 20 ≠ 0 ∨ 10 ≤ bits (s.gr c) 3 0) := fun h => h.elim (· htarget) (Nat.not_le.2 hcore)
  have h2 : ¬bits (s.gr b) 63 8 ≠ 0 := not_not.2 hindex
  exact congrFun (congrArg runAct ((if_neg h1).trans ((if_neg h2).trans (if_neg hclass)))) s

theorem State.sendAm_local {sid : Nat} {m : AmMsg} {target : Nat}
    (h : target / 1024 = s.pkg % 1024 ∧ s.samePartition (coreOfSid sid) (target % 1024) = true) :
    s.sendAm sid m target =
      let r := s.sendPacket .msg m.tenant (coreOfSid sid) [target % 1024] (.am m target) (some sid)
      r.2.modSt sid (fun t => { t with wait := .send r.1 }) := if_pos h

theorem State.sendAm_away {sid : Nat} {m : AmMsg} {target : Nat}
    (h : ¬(target / 1024 = s.pkg % 1024 ∧ s.samePartition (coreOfSid sid) (target % 1024) = true)) :
    s.sendAm sid m target = (s.sendPacket .msg m.tenant (coreOfSid sid) [unitIo (if (routerOf (coreOfSid sid)).1 < 8 then 0 else 1)]
      (.am m target) none).2.finish0 sid := if_neg h

/-- A strand that only waits stands as it did. -/
theorem waits_modCur (s u : State) (hsid : u.curSid = s.curSid) (hcur : u.cur = s.cur) (w : Wait) :
    Waits s (u.modSt s.curSid fun t => { t with wait := w }) w := by
  have hw : (u.modSt s.curSid fun t => { t with wait := w }).cur = { s.cur with wait := w } := by
    rw [← hcur, ← hsid]
    exact State.cur_modCur u _
  unfold Waits Stands
  rw [hw]
  exact ⟨⟨fun _ => rfl, rfl, rfl⟩, ⟨rfl, rfl, rfl, rfl, rfl, rfl, rfl, rfl, rfl, rfl, rfl⟩, rfl, rfl, fun _ _ => rfl⟩

end

/-! ## Arrival -/

section
variable {s : State}

theorem State.packet_dropPacket (s : State) (id : Nat) : (s.dropPacket id).packet id = none := by
  unfold State.packet State.dropPacket
  rw [List.find?_eq_none]
  intro p hp
  simpa using (List.mem_filter.1 hp).2

theorem finished_finish0 {u : State} (sid : Nat) (h : u.st sid = s.st sid) : Finished s (u.finish0 sid) sid 0 0 := by
  have hst : (u.finish0 sid).st sid = (s.st sid).complete (u.cycleOf (coreOfSid sid)) 4 1 := by
    rw [← h]
    exact State.st_modSt u sid _
  unfold Finished
  rw [hst]
  exact ⟨fun n => (if_neg fun h => h.2 h.1).symm, rfl, rfl⟩

/-- What a core's queue of messages does not concern, a strand's state, stands. -/
theorem State.st_modCore_strands (s : State) (c sid : Nat) {f : Core → Core} (hf : ∀ x : Core, (f x).strands = x.strands) :
    (s.modCore c f).st sid = s.st sid := by
  unfold State.st Core.strand
  by_cases hc : coreOfSid sid = c
  · rw [hc, State.core_modCore, hf]
  · rw [State.core_modCore_ne _ _ _ _ hc]

/-- A message that is at its target, in turn and with room for it, enters the queue; its sender has completed. -/
theorem exec_amArrival {pkt core tg : Nat} {p : Packet} {m : AmMsg} (hp : s.packet pkt = some p) (hm : p.payload = .am m tg)
    (hdst : p.dsts = [core]) (hcore : core < 1024) (hthere : p.there = true) (hturn : s.inTurn p = true)
    (hhere : s.arrival core m.tenant = .here) (hroom : (s.core core).amRoom m.reply = true) :
    let u := (s.dropPacket pkt).modCore core (fun c => { c with amq := c.amq ++ [m] })
    exec (.amArrival pkt) s = .next (p.waiter.elim u u.finish0) := by
  change execAmArrival pkt s = _
  unfold execAmArrival
  have hlget : lget 0 p.dsts 0 = core := by rw [hdst]; rfl
  rw [hp]
  dsimp only
  rw [hm]
  dsimp only
  rw [hlget, if_neg (by simp [hthere, hturn, hcore]), hhere]
  dsimp only
  rw [if_neg (by simp [hroom])]
  cases p.waiter <;> rfl

theorem amArrival_enters {pkt core tg : Nat} {p : Packet} {m : AmMsg} (hp : s.packet pkt = some p) (hm : p.payload = .am m tg)
    (hdst : p.dsts = [core]) (hcore : core < 1024) (hthere : p.there = true) (hturn : s.inTurn p = true)
    (hhere : s.arrival core m.tenant = .here) (hroom : (s.core core).amRoom m.reply = true) :
    ∃ t, exec (.amArrival pkt) s = .next t ∧ (t.core core).amq = (s.core core).amq ++ [m] ∧ t.packet pkt = none
      ∧ ∀ sid, p.waiter = some sid → Finished s t sid 0 0 := by
  refine ⟨_, exec_amArrival hp hm hdst hcore hthere hturn hhere hroom, ?_⟩
  let u := (s.dropPacket pkt).modCore core (fun c => { c with amq := c.amq ++ [m] })
  have hamq : (u.core core).amq = (s.core core).amq ++ [m] := congrArg Core.amq (State.core_modCore ..)
  have hst (sid : Nat) : u.st sid = s.st sid := (s.dropPacket pkt).st_modCore_strands core sid fun _ => rfl
  cases hw : p.waiter with
  | none => exact ⟨hamq, s.packet_dropPacket pkt, nofun⟩
  | some sid =>
    rw [Option.elim_some]
    refine ⟨(State.core_modSt_apply _ _ _ _ Core.amq fun _ _ _ => rfl).trans hamq, s.packet_dropPacket pkt, fun sid' h => ?_⟩
    obtain rfl : sid = sid' := Option.some.inj h
    exact finished_finish0 sid (hst sid)

end

/-! ## Handlers -/

section
variable {s s' : State}

/-- The six arguments of a message in registers 3 to 8. -/
theorem Strand.rd_beginHandler_arg (t : Strand) (m : AmMsg) (x y : Word) (cycle : Nat) :
    ∀ i, i < 6 → (t.beginHandler m x y cycle).rd (3 + i) = lget 0 m.args i := by
  intro i hi
  change (((List.range 6).foldl (fun (t : Strand) i => t.wr (3 + i) (lget 0 m.args i)) t).wr 9 _ |>.wr 10 _).rd (3 + i) = _
  simp only [List.range_succ, List.range_zero, List.nil_append, List.cons_append, List.foldl_cons, List.foldl_nil, Strand.rd_wr]
  interval_cases i <;> simp

theorem Strand.rd_beginHandler_sender (t : Strand) (m : AmMsg) (x y : Word) (cycle : Nat) :
    (t.beginHandler m x y cycle).rd 9 = word m.sender := by
  change (Strand.wr (Strand.wr _ 9 _) 10 _).rd 9 = _
  simp [Strand.rd_wr]

theorem Strand.rd_beginHandler_class (t : Strand) (m : AmMsg) (x y : Word) (cycle : Nat) :
    (t.beginHandler m x y cycle).rd 10 = word (m.tenant * 2 ^ 16 + 2 ^ 8 * b2n m.reply + m.index) := by
  change (Strand.wr (Strand.wr _ 9 _) 10 _).rd 10 = _
  simp [Strand.rd_wr]

/-- An idle message strand begins the handler of the oldest message with the table entry that serves it. -/
theorem exec_amHandlerStart {core : Nat} {m : AmMsg} {rest : List AmMsg} {x y : Word} (hq : (s.core core).amq = m :: rest)
    (hrun : (s.core core).amRun = none) (hmove : (s.core core).moving = false) (hfree : (s.st (core * 8 + 4)).st = .free)
    (hten : (s.clusterTenant (clusterOfCore core)).isSome = true)
    (hentry : amEntry (s.who (core * 8 + 4)) ((s.core core).ctl cAmtab) m.index s = .ok (x, y) s') (hvalid : bit x 0 = true)
    (hserves : bit y 17 = true ∨ bits y 31 24 = m.tenant) :
    exec (.amHandlerStart core) s = .next ((s'.modSt (core * 8 + 4) fun t => t.beginHandler m x y (s'.cycleOf core)).modCore core
      (fun c => { c with amq := rest, amRun := some m.reply })) := by
  have hstrand : (s.core core).strand 4 = s.st (core * 8 + 4) := by
    unfold State.st
    rw [State.coreOfSid_mul_add core (by decide)]
    congr 1
    simp only [slotOfSid]
    omega
  change execAmHandlerStart core s = _
  unfold execAmHandlerStart
  dsimp only
  rw [hq]
  dsimp only
  rw [if_neg (by simp [hrun, hmove, hstrand, hfree]), if_neg (by simp [Option.isSome_iff_ne_none.1 hten]), hentry]
  dsimp only
  rw [if_neg (by obtain h | h := hserves <;> simp [hvalid, h])]
  rfl

theorem amHandlerStart_begins {core : Nat} {m : AmMsg} {rest : List AmMsg} {x y : Word} (hq : (s.core core).amq = m :: rest)
    (hrun : (s.core core).amRun = none) (hmove : (s.core core).moving = false) (hfree : (s.st (core * 8 + 4)).st = .free)
    (hten : (s.clusterTenant (clusterOfCore core)).isSome = true)
    (hentry : amEntry (s.who (core * 8 + 4)) ((s.core core).ctl cAmtab) m.index s = .ok (x, y) s') (hvalid : bit x 0 = true)
    (hserves : bit y 17 = true ∨ bits y 31 24 = m.tenant) :
    ∃ t, exec (.amHandlerStart core) s = .next t ∧ (t.core core).amq = rest ∧ (t.core core).amRun = some m.reply
      ∧ (t.st (core * 8 + 4)) = (s'.st (core * 8 + 4)).beginHandler m x y (s'.cycleOf core) := by
  refine ⟨_, exec_amHandlerStart hq hrun hmove hfree hten hentry hvalid hserves, ?_, ?_, ?_⟩
  · rw [State.core_modCore]
  · rw [State.core_modCore]
  · rw [State.st_modCore_strands, State.st_modSt]
    exact fun _ => rfl

end

/-! ## The end of a handler -/

section
variable {s : State}

theorem bits_setBits_low (x : Word) (v : Nat) : bits (setBits x 15 0 v) 15 0 = v % 2 ^ 16 := by
  have hx := x.isLt
  simp only [bits, setBits, word, BitVec.toNat_ofNat]
  omega

theorem State.core_settleLanes {β : Type} (s : State) (sid c : Nat) (g : Core → β) (hg : ∀ (x : Core) k t, g (x.setStrand k t) = g x) :
    g ((s.settleLanes sid).core c) = g (s.core c) := by
  obtain h | ⟨n, h⟩ := s.settleLanes_cases sid <;> rw [h]
  · exact s.core_modSt_apply sid c Strand.noLanes g hg
  · exact s.core_modSt_apply sid c (fun t => { t with lanes := t.lanes.take n }) g hg

/-- Every lane of a strand that has become free returns. -/
theorem State.settleLanes_free {sid : Nat} (h : (s.st sid).st = .free) : s.settleLanes sid = s.dropLanes sid Strand.noLanes := by
  unfold State.settleLanes
  dsimp only
  rw [h]
  rfl

/-- A core on which a handler has ended. -/
def Core.handled (c : Core) : Core :=
  { c.setCtl cAmstat (setBits (c.ctl cAmstat) 15 0 (bits (c.ctl cAmstat) 15 0 + 1)) with amRun := none }

/-- The state after AMRET but for the lanes that return. -/
def State.handled (s : State) : State :=
  ((s.complete 4 1).modCore s.curCore Core.handled).modCur fun t => { t with st := .free, replay := {} }

theorem State.cur_handled (s : State) : s.handled.cur = { s.cur.complete (s.cycleOf s.curCore) 4 1 with st := .free, replay := {} } := by
  unfold State.handled
  rw [State.cur_modCur]
  have hcur : ((s.complete 4 1).modCore s.curCore Core.handled).cur = s.cur.complete (s.cycleOf s.curCore) 4 1 := by
    refine ((s.complete 4 1).st_modCore_strands s.curCore s.curSid ?_).trans (State.cur_modCur s _)
    exact fun _ => rfl
  rw [hcur]

theorem amret_ends (hslot : s.curSlot = 4) (hq : s.cur.vq = []) (hs : s.settled s.curSid = true) :
    ∃ t, exec .amret s = .next t ∧ Moved s t ∧ t.cur.st = .free ∧ (t.core s.curCore).amRun = none
      ∧ bits ((t.core s.curCore).ctl cAmstat) 15 0 = (bits ((s.core s.curCore).ctl cAmstat) 15 0 + 1) % 2 ^ 16 := by
  have hcur := s.cur_handled
  have hfree : (s.handled.st s.handled.curSid).st = .free := congrArg Strand.st hcur
  have hend : (s.handled.settleLanes s.handled.curSid).cur = s.handled.cur.noLanes := by
    rw [State.cur, State.settleLanes_curSid, State.settleLanes_free hfree, State.st_dropLanes]
    rfl
  rw [hcur] at hend
  have hcore {β : Type} (g : Core → β) (hg : ∀ (x : Core) k t, g (x.setStrand k t) = g x) :
      g ((s.handled.settleLanes s.handled.curSid).core s.curCore) = g ((s.complete 4 1).core s.curCore).handled :=
    (State.core_settleLanes _ _ _ g hg).trans ((State.core_modSt_apply _ _ _ _ g hg).trans (congrArg g (State.core_modCore ..)))
  have hctl : ((s.complete 4 1).core s.curCore).ctl cAmstat = (s.core s.curCore).ctl cAmstat :=
    s.core_modSt_apply _ _ _ (Core.ctl · cAmstat) fun _ _ _ => rfl
  refine ⟨s.handled.settleLanes s.handled.curSid, ?_, ?_, ?_, hcore Core.amRun fun _ _ _ => rfl, ?_⟩
  · refine (congrFun (congrArg runAct (if_neg (not_not.2 hslot))) s).trans ?_
    rw [runAct_bind (waitUntil_of_true (by simp [drained, hq, hs]))]
    rfl
  · rw [Moved, hend]
    exact ⟨fun _ => rfl, rfl, s.cur.instret_complete (s.cycleOf s.curCore) 4 1, rfl⟩
  · rw [hend]
    rfl
  · rw [hcore (Core.ctl · cAmstat) fun _ _ _ => rfl, ← hctl, ← bits_setBits_low]
    exact congrArg (bits · 15 0) (tget_tput_same _ _ _ _)

end

/-- Settles O22: each step is the model's own, and its effect is read off it. -/
theorem activeMessages : Obligations.ActiveMessages := by
  intro s c b oxb core pkt x target m mayIssue local_
  refine ⟨fun hmay hl => ?_, fun hmay hl => ?_, fun p m' tg => amArrival_enters,
    fun m' rest x y s' hq hrun hmove hfree hten hentry hv hserves => ?_,
    amret_ends⟩
  · obtain ⟨h1, h2, h3, h4⟩ := hmay
    obtain ⟨p, hp, hpay, hdst, hwait, hid⟩ :=
      s.sendPacket_spec .msg m.tenant (coreOfSid s.curSid) [target % 1024] (.am m target) (some s.curSid)
    refine ⟨_, p, exec_amsend rfl h1 h2 h3 h4, ?_⟩
    rw [State.sendAm_local hl, hid]
    exact ⟨waits_modCur s _ rfl rfl _, hp, hpay, hdst, hwait⟩
  · obtain ⟨h1, h2, h3, h4⟩ := hmay
    obtain ⟨p, hp, hpay, -, hwait, -⟩ := s.sendPacket_spec .msg m.tenant (coreOfSid s.curSid)
      [unitIo (if (routerOf (coreOfSid s.curSid)).1 < 8 then 0 else 1)] (.am m target) none
    refine ⟨_, p, exec_amsend rfl h1 h2 h3 h4, ?_⟩
    rw [State.sendAm_away hl]
    exact ⟨(steady_sendPacket ..).finish0, hp, hpay, hwait⟩
  · obtain ⟨t, ht, hamq, hamrun, hst⟩ := amHandlerStart_begins hq hrun hmove hfree hten hentry hv hserves
    refine ⟨t, ht, hamq, hamrun, ?_⟩
    rw [hst]
    exact ⟨rfl, rfl, rfl, Strand.ctl_setCtl _ _ _, Strand.rd_beginHandler_arg _ m' x y _, Strand.rd_beginHandler_sender _ m' x y _,
      Strand.rd_beginHandler_class _ m' x y _⟩

end Sys2Proof.Machine

/-! # Saving and loading a strand (O40)

CTXSAVE and CTXLOAD change another strand of the core: their own completes as if they had done nothing, and the other is what the model
frees or loads. -/

namespace Sys2Proof.Machine
open Safety

/-! ## Tables -/

section
variable {α : Type}

theorem tfind_tdel_ne (t : Table α) (k j : Nat) (h : j ≠ k) : tfind (tdel t k) j = tfind t j := by
  induction t with
  | nil => rfl
  | cons e r ih =>
    obtain ⟨k', v⟩ := e
    rw [tdel, List.filter_cons]
    by_cases hk : k' = k
    · rw [if_neg (by simp [hk]), tfind, if_neg (hk ▸ h)]
      exact ih
    · rw [if_pos (by simp [hk]), tfind, tfind, ← ih]
      rfl

theorem tputs_concat (t : Table α) (l : List (Nat × α)) (k : Nat) (x : α) : tputs t (l ++ [(k, x)]) = tput (tputs t l) k x := by
  rw [tputs, List.foldl_append]
  rfl

/-- A table of a range of keys from `k` on. -/
theorem tget_tputs_range (d : α) (f : Nat → α) (k : Nat) {n m : Nat} (h : m < n) :
    tget d (tputs [] ((List.range n).map fun i => (i + k, f i))) (m + k) = f m := by
  induction n with
  | zero => exact absurd h (Nat.not_lt_zero m)
  | succ n ih =>
    rw [List.range_succ, List.map_append, List.map_singleton, tputs_concat, tget_tput]
    by_cases hm : m = n
    · rw [if_pos (by rw [hm]), hm]
    · rw [if_neg (by omega), ih (by omega)]

/-- A table whose entries are mapped one by one. -/
theorem tget_map {β : Type} (d : α) (f : α → β) (t : Table α) (k : Nat) :
    tget (f d) (t.map fun e => (e.1, f e.2)) k = f (tget d t k) := by
  induction t with
  | nil => rfl
  | cons e r ih =>
    obtain ⟨k', v⟩ := e
    simp only [List.map_cons, tget, ih]
    exact (apply_ite f _ _ _).symm

end

/-! ## A wait that is given up -/

section
variable (s : State) (sid : Nat)

theorem Core.strands_cancelFe (c : Core) (hit : FeReq → Bool) : (c.cancelFe hit).strands = c.strands := by
  unfold Core.cancelFe
  split <;> rfl

theorem Core.cancelFe_empty (hit : FeReq → Bool) : ({} : Core).cancelFe hit = {} := if_neg Bool.false_ne_true

theorem State.withdrawFe_strandView : (s.withdrawFe sid).strandView = s.strandView := by
  refine Prod.ext (funext fun c => ?_) rfl
  have hcore : (s.withdrawFe sid).core c = (s.core c).cancelFe (fun r => decide (r.sid = sid)) := by
    have := tget_map ({} : Core) (Core.cancelFe · fun r => decide (r.sid = sid)) s.cores c
    rwa [Core.cancelFe_empty] at this
  change (fun k => (((s.withdrawFe sid).core c).strand k).butPend) = _
  simp only [hcore, Core.strand, Core.strands_cancelFe]
  rfl

theorem State.dropWalks_strandView (cluster : Nat) (p : WalkReq → Bool) : (s.dropWalks cluster p).strandView = s.strandView := by
  unfold State.dropWalks
  split
  · exact State.modCluster_strandView ..
  · rfl

theorem State.handOn_strandView (pa : Nat) : (s.handOn pa).strandView = s.strandView := by
  unfold State.handOn
  split
  · rfl
  · split <;> rfl

theorem State.leaveRsv_strandView (pa : Nat) : (s.leaveRsv sid pa).strandView = s.strandView := by
  unfold State.leaveRsv
  dsimp only
  split
  · split
    · exact State.handOn_strandView ..
    · rfl
  · rfl

/-- A strand whose wait is given up changes but for its places in queues. -/
def Strand.abandoned (t : Strand) : Strand := { t with wait := .none, flying := none, feTimer := 0 }

/-- Giving up a wait withdraws it elsewhere, and then changes the strand. -/
theorem State.abandon_eq_modSt : ∃ u : State, u.strandView = s.strandView ∧ s.abandon sid = u.modSt sid Strand.abandoned := by
  unfold State.abandon
  dsimp only
  refine ⟨_, ?_, rfl⟩
  split
  · exact State.modCluster_strandView ..
  · exact s.withdrawFe_strandView sid
  · exact s.leaveRsv_strandView sid _
  · exact s.modCore_strandView _ _ fun _ => rfl
  · exact s.modCore_strandView _ _ fun _ => rfl
  · exact State.modCluster_strandView ..
  · exact s.dropWalks_strandView _ _
  · exact s.dropWalks_strandView _ _
  · rfl

end

/-! ## The strands of a core and what is saved and loaded -/

section
variable {k : StrandView}

theorem writeWords_leaves {w : Who} {area : Word} {n : Nat} {is : List Nat} {b : List Byte} :
    Leaves State.strandView k (saveSlots.writeWords w area n is b) := by
  induction is with
  | nil => mvcgen [saveSlots.writeWords]
  | cons i is ih =>
    mvcgen [saveSlots.writeWords, ih]
    next hs _ _ _ h => exact (writeMem_leaves.ok h).trans hs
    next hs _ _ _ h => exact (writeMem_leaves.error h).trans hs

theorem saveSlots_leaves {w : Who} {area : Word} {n : Nat} {slots : List (List Byte)} :
    Leaves State.strandView k (saveSlots w area n slots) := by
  induction slots generalizing n with
  | nil => mvcgen [saveSlots]
  | cons b r ih => mvcgen [saveSlots, writeWords_leaves, ih]

theorem readWords_leaves {w : Who} {area : Word} {n : Nat} {is : List Nat} :
    Leaves State.strandView k (loadSlots.readWords w area n is) := by
  induction is with
  | nil => mvcgen [loadSlots.readWords]
  | cons i is ih =>
    mvcgen [loadSlots.readWords, ih]
    next hs _ _ h => exact (readMem_leaves.ok h).trans hs
    next hs _ _ h => exact (readMem_leaves.error h).trans hs

theorem loadSlots_leaves {w : Who} {area : Word} {ks : List Nat} : Leaves State.strandView k (loadSlots w area ks) := by
  induction ks with
  | nil => mvcgen [loadSlots]
  | cons i r ih => mvcgen [loadSlots, readWords_leaves, ih]

theorem loadArea_leaves {w : Who} {core : Nat} {area : Word} : Leaves State.strandView k (loadArea w core area) := by
  mvcgen [loadArea, loadSlots_leaves]

end

section
variable (s : State)

theorem State.registerLater_strandView (core va : Nat) (e : L1Word) : (s.registerLater core va e).strandView = s.strandView := by
  unfold State.registerLater
  refine (State.registerCcWords_strandView ..).trans ((State.modCore_strandView _ _ _ ?_).trans (State.evictDirty_strandView ..))
  exact fun _ => rfl

theorem State.registerL1_strandView {core scope : Nat} (h : scope ≠ scC) (p : Nat → L1Word → Bool) :
    (s.registerL1 core scope p).strandView = s.strandView := by
  unfold State.registerL1
  extract_lets ws u
  refine (State.foldl_view State.strandView _ _ _ fun v e => ?_).trans ?_
  · split
    · exact State.registerLater_strandView ..
    · refine (State.modCore_strandView _ _ _ ?_).trans (State.arriveHome_strandView ..)
      exact fun _ => rfl
  · simp only [u]
    clear_value ws
    cases ws with
    | nil => rfl
    | cons e r =>
      dsimp only
      rw [if_neg h]
      exact State.clearCovered_strandView ..

theorem State.copySourceOut_strandView {core scope : Nat} (h : scope ≠ scC) (a n : Nat) :
    (s.copySourceOut core scope a n).strandView = s.strandView := by
  unfold State.copySourceOut
  dsimp only
  rw [if_neg h, State.registerCcWords_strandView, s.registerL1_strandView h]

theorem State.acquire_strandView (core scope rgn : Nat) : (s.acquire core scope rgn).strandView = s.strandView := by
  unfold State.acquire
  dsimp only
  split
  · exact s.modCore_strandView _ _ fun _ => rfl
  · exact (State.modCluster_strandView ..).trans (s.modCore_strandView _ _ fun _ => rfl)

end

/-! ## Another strand of the core changes -/

section
variable {s u v : State} {sid : Nat}

/-- Nothing changes but a strand, the row streams of its core and the pool: for every other strand nothing has happened. -/
theorem steady_of_other (hne : sid ≠ s.curSid) (hsid : u.curSid = s.curSid) (hst : ∀ j, j ≠ sid → u.st j = s.st j)
    (hacc : (u.core s.curCore).acc = (s.core s.curCore).acc) (hmem : u.mem = s.mem) : Steady s u := by
  refine steady_of_cur hsid ?_ hacc hmem
  rw [State.cur, hsid]
  exact hst _ hne.symm

theorem Core.rows_setStrand (c : Core) (k : Nat) (t : Strand) : (c.setStrand k t).rows = c.rows := rfl

/-- Closing one stream of a strand. -/
def State.closeRowOf (s : State) (sid rs : Nat) : State :=
  match tfind (s.core (coreOfSid sid)).rows rs with
  | some r => if r.opener = slotOfSid sid then s.closeRow (coreOfSid sid) rs else s
  | none => s

theorem State.closeRowsOf_eq (s : State) (sid : Nat) : s.closeRowsOf sid = [0, 1, 2, 3].foldl (fun s rs => s.closeRowOf sid rs) s := rfl

theorem State.closeRowOf_cases (s : State) (sid rs : Nat) : s.closeRowOf sid rs = s.closeRow (coreOfSid sid) rs
    ∨ s.closeRowOf sid rs = s ∧ ∀ r, tfind (s.core (coreOfSid sid)).rows rs = some r → r.opener ≠ slotOfSid sid := by
  unfold State.closeRowOf
  cases hr : tfind (s.core (coreOfSid sid)).rows rs with
  | none => exact .inr ⟨rfl, nofun⟩
  | some r =>
    dsimp only
    by_cases ho : r.opener = slotOfSid sid
    · exact .inl (if_pos ho)
    · exact .inr ⟨if_neg ho, fun r' h => Option.some.inj h ▸ ho⟩

/-- A stream of the core that is not a strand's. -/
def State.RowOfOther (s : State) (sid rs : Nat) : Prop :=
  ∀ r, tfind (s.core (coreOfSid sid)).rows rs = some r → r.opener ≠ slotOfSid sid

theorem State.rows_closeRow (s : State) (c rs : Nat) : ((s.closeRow c rs).core c).rows = tdel (s.core c).rows rs :=
  congrArg Core.rows (State.core_modCore ..)

theorem State.rowOfOther_closeRowOf (s : State) (sid rs : Nat) : (s.closeRowOf sid rs).RowOfOther sid rs := by
  obtain h | ⟨h, ho⟩ := s.closeRowOf_cases sid rs
  · unfold State.RowOfOther
    rw [h, State.rows_closeRow, tfind_tdel_same]
    nofun
  · rw [h]
    exact ho

theorem State.RowOfOther.closeRowOf {rs : Nat} (ho : s.RowOfOther sid rs) (rs' : Nat) : (s.closeRowOf sid rs').RowOfOther sid rs := by
  obtain h | ⟨h, -⟩ := s.closeRowOf_cases sid rs' <;> rw [h]
  · by_cases hrs : rs = rs'
    · unfold State.RowOfOther
      rw [hrs, State.rows_closeRow, tfind_tdel_same]
      nofun
    · unfold State.RowOfOther
      rw [State.rows_closeRow, tfind_tdel_ne _ _ _ hrs]
      exact ho
  · exact ho

/-- Closing the streams of a strand leaves only streams of others. -/
theorem State.rowOfOther_closeRowsOf (s : State) (sid : Nat) : ∀ rs, rs < 4 → (s.closeRowsOf sid).RowOfOther sid rs := by
  intro rs hrs
  rw [State.closeRowsOf_eq]
  simp only [List.foldl_cons, List.foldl_nil]
  interval_cases rs
  · exact (((s.rowOfOther_closeRowOf sid 0).closeRowOf 1).closeRowOf 2).closeRowOf 3
  · exact ((State.rowOfOther_closeRowOf _ sid 1).closeRowOf 2).closeRowOf 3
  · exact (State.rowOfOther_closeRowOf _ sid 2).closeRowOf 3
  · exact State.rowOfOther_closeRowOf _ sid 3

/-- Closing streams changes nothing but streams. -/
theorem State.closeRowsOf_keeps {β : Type} (s : State) (sid : Nat) (g : State → β) (hg : ∀ (u : State) c rs, g (u.closeRow c rs) = g u) :
    g (s.closeRowsOf sid) = g s := by
  rw [State.closeRowsOf_eq]
  refine State.foldl_view g _ _ _ fun v rs => ?_
  obtain h | ⟨h, -⟩ := v.closeRowOf_cases sid rs <;> rw [h]
  exact hg _ _ _

theorem State.acc_closeRow (s : State) (c c' rs : Nat) : ((s.closeRow c rs).core c').acc = (s.core c').acc := by
  unfold State.closeRow
  by_cases hc : c' = c
  · rw [hc, State.core_modCore]
  · rw [State.core_modCore_ne _ _ _ _ hc]

/-- A member that is saved changes only in the pool. -/
theorem State.memberSaved_eq (s : State) (sid area : Nat) : ∃ d, s.memberSaved sid area = { s with disp := d } := by
  unfold State.memberSaved
  split
  · exact ⟨s.disp, rfl⟩
  · exact ⟨_, rfl⟩

/-- A strand whose slot is free. -/
def Strand.freed (t : Strand) : Strand :=
  { t with
    st := .free, wait := .none, flying := none, moves := [], async := [], vq := [], hold := [], lanes := [], replay := {}, node := none
    farm := none, saveFail := false, dbgHalted := false, bpStop := false, bpArmed := none
    status := { t.status with saveinc := false, vhold := false } }

theorem State.freeStrand_eq (s : State) (sid : Nat) : s.freeStrand sid = s.dropLanes sid Strand.freed := rfl

/-- Lanes that return change no unit of a core but the strand. -/
theorem State.core_dropLanes {β : Type} (s : State) (sid c : Nat) (f : Strand → Strand) (g : Core → β)
    (hg : ∀ (x : Core) k t, g (x.setStrand k t) = g x) : g ((s.dropLanes sid f).core c) = g (s.core c) :=
  s.core_modSt_apply sid c f g hg

/-- The state in which CTXSAVE completes. -/
def State.savedOut (s : State) (sid area : Nat) : State := ((s.closeRowsOf sid).memberSaved sid area).freeStrand sid

theorem State.savedOut_eq (s : State) (sid area : Nat) :
    ∃ d, s.savedOut sid area = State.dropLanes { s.closeRowsOf sid with disp := d } sid Strand.freed := by
  obtain ⟨d, hd⟩ := (s.closeRowsOf sid).memberSaved_eq sid area
  exact ⟨d, by rw [State.savedOut, hd, State.freeStrand_eq]⟩

theorem steady_savedOut (hne : sid ≠ s.curSid) (area : Nat) : Steady s (s.savedOut sid area) := by
  obtain ⟨d, hd⟩ := s.savedOut_eq sid area
  have hst (j : Nat) : (s.closeRowsOf sid).st j = s.st j :=
    s.closeRowsOf_keeps sid (State.st · j) fun u c rs => u.st_modCore_strands c j fun _ => rfl
  have hsid : (s.closeRowsOf sid).curSid = s.curSid := s.closeRowsOf_keeps sid State.curSid fun _ _ _ => rfl
  have hacc : ((s.closeRowsOf sid).core s.curCore).acc = (s.core s.curCore).acc :=
    s.closeRowsOf_keeps sid (fun u => (u.core s.curCore).acc) fun u c rs => u.acc_closeRow c _ rs
  have hmem := s.closeRowsOf_mem sid
  rw [hd]
  generalize s.closeRowsOf sid = v at hst hsid hacc hmem
  refine steady_of_other hne hsid (fun j hj => ?_) ?_ hmem
  · exact (State.st_dropLanes_ne _ _ hj).trans (hst j)
  · exact (State.core_dropLanes _ _ _ _ Core.acc fun _ _ _ => rfl).trans hacc

theorem State.st_savedOut (s : State) (sid area : Nat) : ((s.savedOut sid area).st sid).st = .free := by
  obtain ⟨d, hd⟩ := s.savedOut_eq sid area
  rw [hd, State.st_dropLanes]
  rfl

theorem State.rowOfOther_savedOut (s : State) (sid area : Nat) {rs : Nat} (h : rs < 4) : (s.savedOut sid area).RowOfOther sid rs := by
  obtain ⟨d, hd⟩ := s.savedOut_eq sid area
  have hrows : ((s.savedOut sid area).core (coreOfSid sid)).rows = ((s.closeRowsOf sid).core (coreOfSid sid)).rows := by
    rw [hd]
    generalize s.closeRowsOf sid = v
    exact State.core_dropLanes { v with disp := d } sid _ Strand.freed Core.rows fun _ _ _ => rfl
  unfold State.RowOfOther
  rw [hrows]
  exact s.rowOfOther_closeRowsOf sid rs h

end

/-! ## CTXSAVE -/

section
variable {s s' : State} {sid : Nat}

theorem runAct_get_bind (f : State → Act Unit) : runAct (get >>= f) s = runAct (f s) s := rfl

theorem runAct_set_bind (u : State) (f : PUnit → Act Unit) : runAct (set u >>= f) s = runAct (f ⟨⟩) u := rfl

/-- The current strand of a state. -/
def State.cursor (s : State) : Nat × Nat := (s.curCore, s.curSlot)

theorem cursor_of_strandView {t : State} (h : t.strandView = s.strandView) : t.cursor = s.cursor :=
  congrArg (fun v : StrandView => (v.2.1, v.2.2.1)) h

/-- A strand whose wait is withdrawn keeps its queue and its faults, and the current strand is still the same. -/
theorem State.withdrawWait_keeps (s : State) (sid : Nat) : (s.withdrawWait sid).cursor = s.cursor
    ∧ ((s.withdrawWait sid).st sid).vq = (s.st sid).vq ∧ ((s.withdrawWait sid).st sid).async = (s.st sid).async := by
  unfold State.withdrawWait
  split
  · exact ⟨rfl, rfl, rfl⟩
  · obtain ⟨u, hu, h⟩ := s.abandon_eq_modSt sid
    have hst := ((strandView_keeps hu).1 sid).1
    have hvq := congrArg Strand.vq hst
    have hasync := congrArg Strand.async hst
    rw [h, State.st_modSt]
    exact ⟨(cursor_of_strandView hu : u.cursor = s.cursor), hvq, hasync⟩

theorem State.enterPending_of_nil (h : (s.st sid).async = []) : s.enterPending sid = s.modSt sid fun t => { t with async := [] } := by
  unfold State.enterPending
  rw [h]
  rfl

/-- The state in which CTXSAVE writes the save area. -/
def State.saving (s : State) (sid : Nat) : State := (s.withdrawWait sid).enterPending sid

theorem State.cursor_saving (h : (s.st sid).async = []) : (s.saving sid).cursor = s.cursor := by
  obtain ⟨hcur, -, hasync⟩ := s.withdrawWait_keeps sid
  rw [State.saving, State.enterPending_of_nil (hasync.trans h)]
  exact hcur

/-- CTXSAVE of a strand that does not run and has nothing under way, as its area is written and the writes are registered. -/
theorem exec_ctxsave {rd rs1 rs2 : BitVec 6} {area x : Word} {s2 : State} (harea : area = s.gr rs1) (hx : x = s.gr rs2)
    (hsid : sid = s.curCore * 8 + bits x 2 0) (hmode : s.cur.status.mode ≠ .task) (halign : area.toNat % 64 = 0)
    (hhigh : bits x 63 3 = 0) (hslot : bits x 2 0 ≤ 4) (hother : bits x 2 0 ≠ s.curSlot) (hrun : (s.st sid).st ≠ .run)
    (hfree : (s.st sid).st ≠ .free) (hvq : (s.st sid).vq = []) (hbusy : s.saveBusy sid = false)
    (hsave : saveSlots ((s.saving sid).who (s.saving sid).curSid) area 0 (runs64 195 (((s.saving sid).st sid).image (slotOfSid sid)))
      (s.saving sid) = .ok () s')
    (hs2 : s2 = s'.copySourceOut (s.saving sid).curCore scP area.toNat 12480) (hrel : s2.releasePending s2.curCore = false) :
    exec (.ctxsave rd rs1 rs2) s = .next (((s2.savedOut sid area.toNat).gw rd 0).complete 4 1) := by
  obtain ⟨-, hvq', -⟩ := s.withdrawWait_keeps sid
  have hcond : ¬(bits x 63 3 ≠ 0 ∨ 4 < bits x 2 0 ∨ bits x 2 0 = s.curSlot ∨ (s.st sid).st = .free) := by
    rintro (h | h | h | h)
    · exact h hhigh
    · exact Nat.not_lt.2 hslot h
    · exact hother h
    · exact hfree h
  subst hs2 hsid hx harea
  change runAct (needSupervisor (.ctxsave rd rs1 rs2) >>= _) s = _
  rw [runAct_bind (needSupervisor_of_ne hmode)]
  refine (congrFun (congrArg runAct ((if_neg (not_not.2 halign)).trans ((if_neg hcond).trans ((if_neg (by simpa using hbusy)).trans
    (if_neg hrun))))) s).trans ?_
  rw [runAct_change_bind, runAct_bind (waitUntil_of_true (by simp [hvq', hvq])), runAct_change_bind]
  change runAct _ (s.saving _) = _
  rw [runAct_get_bind]
  dsimp only
  rw [hsave]
  dsimp only
  rw [runAct_set_bind, runAct_bind (waitUntil_of_true (by simp [hrel]))]
  rfl

theorem curSid_of_cursor {t : State} (h : t.cursor = s.cursor) : t.curSid = s.curSid := by
  obtain ⟨hcore, hslot⟩ := Prod.mk.inj h
  rw [State.curSid, hcore, hslot]
  rfl

theorem curCore_of_cursor {t : State} (h : t.cursor = s.cursor) : t.curCore = s.curCore := congrArg Prod.fst h

/-- What completes after another strand's change leaves that strand. -/
theorem State.st_gw_complete_ne {w : Nat} (u : State) (rd : BitVec w) (x : Word) (len lat : Nat) (h : sid ≠ u.curSid) :
    ((u.gw rd x).complete len lat).st sid = u.st sid :=
  (State.st_modSt_ne (u.gw rd x) _ h).trans (State.st_modSt_ne u _ h)

theorem State.rows_gw_complete {w : Nat} (u : State) (rd : BitVec w) (x : Word) (len lat c : Nat) :
    (((u.gw rd x).complete len lat).core c).rows = (u.core c).rows :=
  (State.core_modSt_apply (u.gw rd x) _ _ _ Core.rows fun _ _ _ => rfl).trans (State.core_modSt_apply u _ _ _ Core.rows fun _ _ _ => rfl)

theorem ctxsave_frees {rd : BitVec 6} (hcur : s'.cursor = s.cursor) (hcore : coreOfSid sid = s.curCore)
    (hne : sid ≠ s.curSid) (area : Nat) :
    let t := ((s'.savedOut sid area).gw rd 0).complete 4 1
    PassesWith s' t rd.toNat 0 ∧ (t.st sid).st = .free
      ∧ ∀ rs r, rs < 4 → tfind (t.core s'.curCore).rows rs = some r → r.opener ≠ slotOfSid sid := by
  intro t
  have hne' : sid ≠ s'.curSid := by rwa [curSid_of_cursor hcur]
  have hsteady := steady_savedOut hne' area
  have hrows : (t.core s'.curCore).rows = ((s'.savedOut sid area).core (coreOfSid sid)).rows := by
    rw [curCore_of_cursor hcur, hcore]
    exact State.rows_gw_complete ..
  refine ⟨hsteady.gw_complete rd 0 1, ?_, fun rs r hrs hr => ?_⟩
  · rw [State.st_gw_complete_ne _ _ _ _ _ (by rwa [hsteady.sid])]
    exact s'.st_savedOut sid area
  · rw [hrows] at hr
    exact s'.rowOfOther_savedOut sid area hrs r hr

end

/-! ## CTXLOAD -/

section
variable (bs : List Byte)

/-- What an image gives, but for the entries that its queue and its hold buffer get, and a wait for them. -/
theorem strandOfImage_spec : ∃ (t : Strand) (hold vq : List VEntry) (wait : Wait),
      strandOfImage bs = { t with hold := hold, vq := vq, wait := wait } ∧ t.st = .run ∧ t.pc = word (leField bs 0x10 8) &&& ~~~1
    ∧ t.g = tputs [] ((List.range 63).map fun n => (n + 1, word (leField bs (0x148 + 8 * n) 8)))
    ∧ t.ox = tputs [] ((List.range 8).map fun n => (n, word (leField bs (0x340 + 8 * n) 8)))
    ∧ t.v = tputs [] ((List.range 32).map fun n => (n, BitVec.ofNat 2048 (leField bs (0x10C0 + 256 * n) 256))) := by
  unfold strandOfImage
  extract_lets w cr saved st held velem t
  have hst : t.st = .run := rfl
  have hpc : t.pc = word (leField bs 0x10 8) &&& ~~~1 := rfl
  have hg : t.g = tputs [] ((List.range 63).map fun n => (n + 1, word (leField bs (0x148 + 8 * n) 8))) := by dsimp only [t, w]
  have hox : t.ox = tputs [] ((List.range 8).map fun n => (n, word (leField bs (0x340 + 8 * n) 8))) := by dsimp only [t, w]
  have hv : t.v = tputs [] ((List.range 32).map fun n => (n, BitVec.ofNat 2048 (leField bs (0x10C0 + 256 * n) 256))) := by
    dsimp only [t]
  -- the registers are known: without the values of the local definitions nothing evaluates their tables
  clear_value held velem t
  split
  · exact ⟨t, held, t.vq, t.wait, rfl, hst, hpc, hg, hox, hv⟩
  · exact ⟨t, t.hold, _, _, rfl, hst, hpc, hg, hox, hv⟩

theorem strandOfImage_st : (strandOfImage bs).st = .run := by
  obtain ⟨t, hold, vq, wait, h, hst, -⟩ := strandOfImage_spec bs
  rw [h]
  exact hst

theorem strandOfImage_pc : (strandOfImage bs).pc = word (leField bs 0x10 8) &&& ~~~1 := by
  obtain ⟨t, hold, vq, wait, h, -, hpc, -⟩ := strandOfImage_spec bs
  rw [h]
  exact hpc

/-- The general, operand-extension and vector registers stand at their offsets of 04_strand R133. -/
theorem rd_strandOfImage {n : Nat} (h1 : 1 ≤ n) (h63 : n ≤ 63) : (strandOfImage bs).rd n = word (leField bs (0x140 + 8 * n) 8) := by
  obtain ⟨m, rfl⟩ := Nat.exists_eq_add_of_le' h1
  obtain ⟨t, hold, vq, wait, h, -, -, hg, -⟩ := strandOfImage_spec bs
  rw [Strand.rd, if_neg m.succ_ne_zero, h, hg, tget_tputs_range 0 (fun n => word (leField bs (0x148 + 8 * n) 8)) 1 (by omega)]
  congr 2
  omega

theorem oxr_strandOfImage {n : Nat} (h : n < 8) : (strandOfImage bs).oxr n = word (leField bs (0x340 + 8 * n) 8) := by
  obtain ⟨t, hold, vq, wait, hi, -, -, -, hox, -⟩ := strandOfImage_spec bs
  rw [Strand.oxr, Nat.mod_eq_of_lt h, hi, hox]
  exact tget_tputs_range 0 (fun n => word (leField bs (0x340 + 8 * n) 8)) 0 h

theorem vr_strandOfImage {n : Nat} (h : n < 32) : (strandOfImage bs).vr n = BitVec.ofNat 2048 (leField bs (0x10C0 + 256 * n) 256) := by
  obtain ⟨t, hold, vq, wait, hi, -, -, -, -, hv⟩ := strandOfImage_spec bs
  rw [Strand.vr, hi, hv]
  exact tget_tputs_range 0 (fun n => BitVec.ofNat 2048 (leField bs (0x10C0 + 256 * n) 256)) 0 h

/-- The strand that CTXLOAD puts into a slot, in a cycle. -/
def loadedStrand (bs : List Byte) (cycle : Nat) : Strand := { strandOfImage bs with readyAt := cycle + 1, slip := [(6, word cycle)] }

end

section
variable {s s' : State} {sid : Nat} {bs : List Byte}

/-- A strand that is loaded becomes the member its area was, in the pool and in its own bookkeeping. -/
theorem State.memberLoaded_cases (s : State) (sid area : Nat) : s.memberLoaded sid area = s
    ∨ ∃ d n f, s.memberLoaded sid area = { s with disp := d }.modSt sid fun t => { t with node := n, farm := f } := by
  unfold State.memberLoaded
  dsimp only
  split
  · exact .inl rfl
  · exact .inr ⟨_, _, _, rfl⟩

/-- The state in which CTXLOAD completes. -/
def State.loadedInto (s : State) (sid area : Nat) (t : Strand) : State := (s.setSt sid t).memberLoaded sid area

theorem steady_loadedInto (hne : sid ≠ s.curSid) (area : Nat) (t : Strand) : Steady s (s.loadedInto sid area t) := by
  have hset : Steady s (s.setSt sid t) :=
    steady_of_other hne rfl (fun j hj => s.st_modSt_ne (fun _ => t) hj) (s.core_modSt_apply sid _ (fun _ => t) Core.acc fun _ _ _ => rfl) rfl
  unfold State.loadedInto
  obtain h | ⟨d, n, f, h⟩ := (s.setSt sid t).memberLoaded_cases sid area <;> rw [h]
  · exact hset
  · exact steady_of_other hne rfl
      (fun j hj => (State.st_modSt_ne _ _ hj).trans (s.st_modSt_ne (fun _ => t) hj))
      ((State.core_modSt_apply _ _ _ _ Core.acc fun _ _ _ => rfl).trans (s.core_modSt_apply sid _ (fun _ => t) Core.acc fun _ _ _ => rfl)) rfl

/-- The loaded strand, but for its place in the pool. -/
theorem State.st_loadedInto (s : State) (sid area : Nat) (t : Strand) :
    ∃ n f, (s.loadedInto sid area t).st sid = { t with node := n, farm := f } := by
  unfold State.loadedInto
  obtain h | ⟨d, n, f, h⟩ := (s.setSt sid t).memberLoaded_cases sid area <;> rw [h]
  · exact ⟨t.node, t.farm, State.st_setSt ..⟩
  · exact ⟨n, f, (State.st_modSt ..).trans (congrArg (fun t : Strand => { t with node := n, farm := f }) (State.st_setSt s sid t))⟩

/-- CTXLOAD of an area that a free slot of its tenant may take. -/
theorem exec_ctxload {rd rs1 rs2 : BitVec 6} {area x : Word} (harea : area = s.gr rs1) (hx : x = s.gr rs2)
    (hsid : sid = s.curCore * 8 + bits x 2 0) (hmode : s.cur.status.mode ≠ .task) (halign : area.toNat % 64 = 0)
    (hhigh : bits x 63 3 = 0) (hslot : bits x 2 0 ≤ 4) (hother : bits x 2 0 ≠ s.curSlot) (hfree : (s.st sid).st = .free)
    (hsave : (s.core s.curCore).saveRec = none) (hq : s.cur.vq = [])
    (hload : loadArea ((s.acquire s.curCore scP 0).who (s.acquire s.curCore scP 0).curSid) s.curCore area (s.acquire s.curCore scP 0)
      = .ok (some bs) s') :
    exec (.ctxload rd rs1 rs2) s
      = .next (((s'.loadedInto sid area.toNat (loadedStrand bs (s'.cycleOf s.curCore))).gw rd 0).complete 4 1) := by
  have hcond : ¬(bits x 63 3 ≠ 0 ∨ 4 < bits x 2 0 ∨ bits x 2 0 = s.curSlot) := by
    rintro (h | h | h)
    · exact h hhigh
    · exact Nat.not_lt.2 hslot h
    · exact hother h
  have hbusy : ¬((s.st sid).st ≠ .free ∨ (s.core s.curCore).saveRec.isSome = true) := by simp [hfree, hsave]
  subst hsid hx harea
  change runAct (needSupervisor (.ctxload rd rs1 rs2) >>= _) s = _
  rw [runAct_bind (needSupervisor_of_ne hmode)]
  refine (congrFun (congrArg runAct ((if_neg (not_not.2 halign)).trans ((if_neg hcond).trans (if_neg hbusy)))) s).trans ?_
  rw [runAct_bind (waitUntil_of_true (drained_of_nil hq)), runAct_change_bind, runAct_get_bind]
  dsimp only
  rw [hload]
  rfl

theorem ctxload_loads {rd : BitVec 6} (hcur : s'.cursor = s.cursor) (hne : sid ≠ s.curSid) (area cycle : Nat) :
    let t := ((s'.loadedInto sid area (loadedStrand bs cycle)).gw rd 0).complete 4 1
    PassesWith s' t rd.toNat 0 ∧ ∃ n f, t.st sid = { loadedStrand bs cycle with node := n, farm := f } := by
  intro t
  have hne' : sid ≠ s'.curSid := by rwa [curSid_of_cursor hcur]
  have hsteady := steady_loadedInto hne' area (loadedStrand bs cycle)
  refine ⟨hsteady.gw_complete rd 0 1, ?_⟩
  rw [State.st_gw_complete_ne _ _ _ _ _ (by rwa [hsteady.sid])]
  exact s'.st_loadedInto sid area _

end

/-- Settles O40: the other strand of the core is freed or loaded, and what its own strand and the area's memory hold stands. -/
theorem contextSwitch : Obligations.ContextSwitch := by
  intro s rd rs1 rs2 area slot sid hmode halign hhigh hslot hother
  have hcore : coreOfSid sid = s.curCore := State.coreOfSid_mul_add _ (by omega)
  have hne : sid ≠ s.curSid := by
    change s.curCore * 8 + slot ≠ s.curCore * 8 + s.curSlot
    omega
  have hP : scP ≠ scC := by decide
  refine ⟨?save, ?load⟩
  case save =>
    intro s' hrun hfree hvq hasync hbusy s1 hsave s2 hrel
    have hcur : s2.cursor = s.cursor :=
      (cursor_of_strandView (State.copySourceOut_strandView _ hP _ _)).trans
        ((cursor_of_strandView (saveSlots_leaves.ok hsave)).trans (State.cursor_saving hasync))
    exact ⟨_, exec_ctxsave rfl rfl rfl hmode halign hhigh hslot hother hrun hfree hvq hbusy hsave rfl hrel,
      ctxsave_frees hcur hcore hne area.toNat⟩
  case load =>
    intro bs s' hfree hrec hq s1 hload
    have hcur : s'.cursor = s.cursor :=
      (cursor_of_strandView (loadArea_leaves.ok hload)).trans (cursor_of_strandView (s.acquire_strandView _ _ _))
    obtain ⟨hpass, n, f, hst⟩ := ctxload_loads (bs := bs) (rd := rd) hcur hne area.toNat (s'.cycleOf s.curCore)
    refine ⟨_, exec_ctxload (area := area) (sid := sid) rfl rfl rfl hmode halign hhigh hslot hother hfree hrec hq hload, hpass, ?_⟩
    rw [hst]
    exact ⟨strandOfImage_st bs, strandOfImage_pc bs, fun n h1 h63 => rd_strandOfImage bs h1 h63, fun n h => oxr_strandOfImage bs h,
      fun n h => vr_strandOfImage bs h⟩

end Sys2Proof.Machine

/-! # Stores that may be performed (O7)

A store of a scratchpad writes its bytes into memory; one of translated memory puts them into a word of the L1, where a load finds
them. -/

namespace Sys2Proof.Machine
open Safety

/-! ## Bytes of numbers -/

section

theorem length_leBytes (n x : Nat) : (leBytes n x).length = n := by
  induction n generalizing x with
  | zero => rfl
  | succ n ih => rw [leBytes, List.length_cons, ih]

theorem leNat_leBytes (n x : Nat) : leNat (leBytes n x) = x % 2 ^ (8 * n) := by
  induction n generalizing x with
  | zero => rw [Nat.mul_zero, Nat.pow_zero, Nat.mod_one]; rfl
  | succ n ih =>
    rw [leBytes, leNat, ih, BitVec.toNat_ofNat, Nat.mul_succ, Nat.add_comm (8 * n), Nat.pow_add, Nat.mod_mul]

/-- The low bytes of a number depend on its low bits. -/
theorem leBytes_congr {n x y : Nat} (h : ∀ j, j < 8 * n → x.testBit j = y.testBit j) : leBytes n x = leBytes n y := by
  induction n generalizing x y with
  | zero => rfl
  | succ n ih =>
    have hbyte : BitVec.ofNat 8 x = BitVec.ofNat 8 y := by
      refine BitVec.eq_of_getLsbD_eq fun i hi => ?_
      rw [BitVec.getLsbD_ofNat, BitVec.getLsbD_ofNat, h i (by omega)]
    rw [leBytes, leBytes, hbyte, ih fun j hj => ?_]
    rw [show 256 = 2 ^ 8 from rfl, Nat.testBit_div_two_pow, Nat.testBit_div_two_pow]
    exact h _ (by omega)

/-- Memory after the low bytes of a number have been written. -/
theorem mget_mwrite_leBytes (m : Memory) (p n x a : Nat) :
    mget (mwrite m p (leBytes n x)) a = if p ≤ a ∧ a < p + n then BitVec.ofNat 8 (x / 2 ^ (8 * (a - p))) else mget m a := by
  induction n generalizing m p x with
  | zero => rw [if_neg (by omega)]; rfl
  | succ n ih =>
    rw [leBytes, mwrite, ih]
    by_cases hlow : a = p
    · subst hlow
      rw [if_neg (by omega), if_pos (by omega), mget_mput_same, Nat.sub_self, Nat.mul_zero, Nat.pow_zero, Nat.div_one]
    · rw [mget_mput_ne _ _ _ _ hlow]
      refine if_ctx_congr (by omega) (fun h => ?_) fun _ => rfl
      rw [show 256 = 2 ^ 8 from rfl, Nat.div_div_eq_div_mul, ← Nat.pow_add, show 8 + 8 * (a - (p + 1)) = 8 * (a - p) by omega]

end

/-! ## A word of bytes merged under a mask -/

section

/-- A number with eight bits from `lo` on replaced. -/
theorem testBit_replace_byte (x v lo k : Nat) :
    (x - x / 2 ^ lo % 2 ^ 8 * 2 ^ lo + v % 2 ^ 8 * 2 ^ lo).testBit k
      = if lo ≤ k ∧ k < lo + 8 then v.testBit (k - lo) else x.testBit k := by
  have hlow : x % 2 ^ lo < 2 ^ lo := Nat.mod_lt _ (Nat.two_pow_pos lo)
  have hx : x = 2 ^ lo * (2 ^ 8 * (x / 2 ^ lo / 2 ^ 8) + x / 2 ^ lo % 2 ^ 8) + x % 2 ^ lo := by
    rw [Nat.div_add_mod, Nat.div_add_mod]
  have hnew : x - x / 2 ^ lo % 2 ^ 8 * 2 ^ lo + v % 2 ^ 8 * 2 ^ lo
      = 2 ^ lo * (2 ^ 8 * (x / 2 ^ lo / 2 ^ 8) + v % 2 ^ 8) + x % 2 ^ lo := by
    have hsub : x - x / 2 ^ lo % 2 ^ 8 * 2 ^ lo = 2 ^ lo * (2 ^ 8 * (x / 2 ^ lo / 2 ^ 8)) + x % 2 ^ lo :=
      Nat.sub_eq_of_eq_add (hx.trans (by ring))
    rw [hsub]
    ring
  have hbyte (b j : Nat) (hj : ¬j < 8) : (2 ^ 8 * b + v % 2 ^ 8).testBit j = b.testBit (j - 8) := by
    rw [Nat.testBit_two_pow_mul_add _ (Nat.mod_lt _ (by decide)), if_neg hj]
  rw [hnew, Nat.testBit_two_pow_mul_add _ hlow]
  by_cases hk : k < lo
  · rw [if_pos hk, if_neg (by omega), Nat.testBit_mod_two_pow, decide_eq_true hk, Bool.true_and]
  · rw [if_neg hk]
    by_cases hk8 : k - lo < 8
    · rw [if_pos (by omega), Nat.testBit_two_pow_mul_add _ (Nat.mod_lt _ (by decide)), if_pos hk8, Nat.testBit_mod_two_pow,
        decide_eq_true hk8, Bool.true_and]
    · rw [if_neg (by omega), hbyte _ _ hk8, Nat.testBit_div_two_pow, Nat.testBit_div_two_pow]
      congr 1
      omega

/-- One byte of a word set. -/
theorem getLsbD_setBits_byte (w : Word) (v : Nat) {i k : Nat} (hi : i < 8) :
    (setBits w (8 * i + 7) (8 * i) v).getLsbD k
      = if 8 * i ≤ k ∧ k < 8 * i + 8 then v.testBit (k - 8 * i) else w.getLsbD k := by
  rw [setBits, word, BitVec.getLsbD_ofNat]
  dsimp only [bits]
  rw [show 8 * i + 7 - 8 * i + 1 = 8 by omega, testBit_replace_byte, BitVec.testBit_toNat]
  by_cases hk : k < 64
  · rw [decide_eq_true hk, Bool.true_and]
  · rw [decide_eq_false hk, Bool.false_and, if_neg (by omega), BitVec.getLsbD_of_ge _ _ (Nat.le_of_not_lt hk)]

theorem testBit_bits_byte (w : Word) (i j : Nat) :
    (bits w (8 * i + 7) (8 * i)).testBit j = (decide (j < 8) && w.getLsbD (8 * i + j)) := by
  rw [bits, show 8 * i + 7 - 8 * i + 1 = 8 by omega, Nat.testBit_mod_two_pow, Nat.testBit_div_two_pow, Nat.add_comm j, BitVec.testBit_toNat]

/-- Bits of the bytes that the mask names come from the new word, the others from the old one. -/
theorem getLsbD_maskMerge (old new : Word) (mask : BitVec 8) (k : Nat) :
    (maskMerge old new mask).getLsbD k = if mask.getLsbD (k / 8) then new.getLsbD k else old.getLsbD k := by
  have step : ∀ n, n ≤ 8 → ((List.range n).foldl (fun w i => if mask.getLsbD i then setBits w (8 * i + 7) (8 * i)
      (bits new (8 * i + 7) (8 * i)) else w) old).getLsbD k
        = if k / 8 < n ∧ mask.getLsbD (k / 8) = true then new.getLsbD k else old.getLsbD k := by
    intro n hn
    induction n with
    | zero => rw [if_neg (by omega)]; rfl
    | succ n ih =>
      rw [List.range_succ, List.foldl_append, List.foldl_cons, List.foldl_nil]
      by_cases hm : mask.getLsbD n
      · rw [if_pos hm, getLsbD_setBits_byte _ _ (by omega), testBit_bits_byte, ih (by omega)]
        by_cases hk : k / 8 = n
        · rw [if_pos (by omega), if_pos ⟨by omega, hk ▸ hm⟩, decide_eq_true (by omega), Bool.true_and]
          congr 1
          omega
        · rw [if_neg (by omega)]
          exact if_congr (and_congr_left fun _ => by omega) rfl rfl
      · rw [if_neg hm, ih (by omega)]
        refine if_congr (and_congr_left fun h => ?_) rfl rfl
        have : k / 8 ≠ n := fun he => hm (he ▸ h)
        omega
  refine (step 8 (le_refl 8)).trans (if_congr (and_iff_right_of_imp fun h => ?_) rfl rfl)
  by_contra hk
  rw [BitVec.getLsbD_of_ge _ _ (Nat.le_of_not_lt hk)] at h
  exact Bool.false_ne_true h

end

/-! ## A word of the L1 -/

section
variable {α : Type}

/-- A line of which a table lists a word is among its lines. -/
theorem mem_linesOf {t : Table α} {e : Nat × α} (h : e ∈ t) : e.1 / 8 ∈ linesOf t := by
  induction t with
  | nil => exact absurd h List.not_mem_nil
  | cons a r ih =>
    have hcons : linesOf (a :: r) = match linesOf r with
      | x :: _ => if x = a.1 / 8 then linesOf r else a.1 / 8 :: linesOf r
      | [] => [a.1 / 8] := rfl
    rw [hcons]
    obtain rfl | hr := List.mem_cons.1 h
    · cases hl : linesOf r with
      | nil => exact List.mem_singleton.2 rfl
      | cons x l =>
        dsimp only
        split
        next hx => exact hx ▸ List.mem_cons_self
        next => exact List.mem_cons_self
    · have hmem := ih hr
      cases hl : linesOf r with
      | nil => rw [hl] at hmem; exact absurd hmem List.not_mem_nil
      | cons x l =>
        rw [hl] at hmem
        dsimp only
        split
        · exact hmem
        · exact List.mem_cons_of_mem _ hmem

end

section
variable {s s1 s2 t : State} {w : Who} {va : Nat} {mask : BitVec 8} {data : Word} {x : L1Word}

/-- The L1 of a core has room for a word of a line: it holds the line, or fewer lines than it can. -/
def State.RoomInL1 (s : State) (core va : Nat) : Prop :=
  (linesOf (s.core core).l1).contains (va / 64) = true ∨ (linesOf (s.core core).l1).length < l1Lines

theorem State.l1Put_of_room {core : Nat} (h : s.RoomInL1 core va) :
    s.l1Put core va x = s.modCore core (fun c => { c with l1 := tput c.l1 (va / 8) x }) := by
  unfold State.l1Put State.roomFor
  rw [if_pos]
  rw [Bool.or_eq_true, decide_eq_true_iff]
  exact h

/-- A line that the L1 holds, with the word of it. -/
theorem State.roomInL1_of_l1Line {core : Nat} (h : s.l1Line core va = some x) : s.RoomInL1 core va := by
  unfold State.l1Line at h
  cases he : (s.core core).l1.find? (fun e => e.1 / 8 = va / 64) with
  | none => rw [he] at h; cases h
  | some e =>
    have hline : e.1 / 8 = va / 64 := by simpa using List.find?_some he
    left
    rw [List.contains_iff_mem, ← hline]
    exact mem_linesOf (List.mem_of_find?_eq_some he)

/-- After a store a word of the L1 holds the bytes stored, dirty, and no word is held otherwise than before. -/
def Stored (s t : State) (w : Who) (va : Nat) (mask : BitVec 8) (data : Word) : Prop :=
  t.resvs = s.resvs ∧ ∃ (x : L1Word) (n : Nat), tfind (t.core w.core).l1 (va / 8) = some (x.store mask data n)

theorem put_stores (hheld : ∀ pa, s.heldBy w.core pa = none) (hroom : s.RoomInL1 w.core va) :
    ∃ t, storeWord.put w va mask data x s = .ok () t ∧ Stored s t w va mask data := by
  let n := (s.core w.core).stores + 1
  let u := s.modCore w.core (fun c => { c with stores := n })
  refine ⟨u.l1Put w.core va (x.store mask data n), ?_, ?_⟩
  · change (match s.heldBy w.core x.pa with
      | some r => set (s.writeHeld x.pa r mask data)
      | none => set (u.l1Put w.core va (x.store mask data n)) : Acc Unit) s = _
    rw [hheld]
    rfl
  · have hu : u.RoomInL1 w.core va := by
      unfold State.RoomInL1 u
      rw [State.core_modCore]
      exact hroom
    rw [State.l1Put_of_room hu]
    refine ⟨rfl, x, n, ?_⟩
    rw [State.core_modCore]
    exact tfind_tput_same _ _ _

/-- The L1 entry of a word that none of another address stands in the way of. -/
theorem State.l1Entry_of_same {core pa : Nat} (h : ∀ y, tfind (s.core core).l1 (va / 8) = some y → y.pa = pa) :
    ∃ e, s.l1Entry core va pa = (e, s) := by
  unfold State.l1Entry
  cases hf : tfind (s.core core).l1 (va / 8) with
  | none => exact ⟨none, rfl⟩
  | some y => exact ⟨some y, if_pos (h y hf)⟩

/-- The page of a store leaves the L1 able to take it: the L1 holds the line, or the word of the page's address has room. -/
def PageServes (s : State) (w : Who) (va : Nat) (page : Option TlbEntry) : Prop :=
  match page with
  | none => (s.l1Line w.core va).isSome = true
  | some e => (∀ y, tfind (s.core w.core).l1 (va / 8) = some y → y.pa = e.paOf (s.partitionOf w.core) va) ∧ s.RoomInL1 w.core va

theorem ok_bind {ε α β : Type} {a : EStateM ε State α} {f : α → EStateM ε State β} {y : α} (h : a s = .ok y t) :
    (a >>= f) s = f y t := by
  change EStateM.bind a f s = _
  rw [EStateM.bind, h]

theorem storeWord_stores {page : Option TlbEntry} (hpage : storePage w va .no s1 = .ok page s2)
    (hheld : ∀ pa, s2.heldBy w.core pa = none) (hserves : PageServes s2 w va page) :
    ∃ t, storeWord w va mask data .no s1 = .ok () t ∧ Stored s2 t w va mask data := by
  have hrun : storeWord w va mask data .no s1 = (match page, s2.l1Line w.core va with
      | none, some x => storeWord.put w va mask data x
      | none, none => translate w va true .no >>= fun t => storeWord.walkedStore w va mask data t
      | some t, _ => storeWord.walkedStore w va mask data t) s2 := ok_bind hpage
  rw [hrun]
  cases page with
  | none =>
    obtain ⟨x, hx⟩ := Option.isSome_iff_exists.1 hserves
    rw [hx]
    exact put_stores hheld (State.roomInL1_of_l1Line hx)
  | some e =>
    obtain ⟨hsame, hroom⟩ := hserves
    obtain ⟨y, hy⟩ := State.l1Entry_of_same hsame
    have hwalked : storeWord.walkedStore w va mask data e s2 = storeWord.put w va mask data (y.getD
        { pa := e.paOf (s2.partitionOf w.core) va, rid := e.rid, key := e.key, valid := false, own := false, dirty := 0, data := 0 }) s2 := by
      unfold storeWord.walkedStore
      rw [ok_bind (show (get : Acc State) s2 = .ok s2 s2 from rfl)]
      dsimp only
      rw [hy]
      rfl
    obtain ⟨t, ht, hstored⟩ := put_stores (x := y.getD
        { pa := e.paOf (s2.partitionOf w.core) va, rid := e.rid, key := e.key, valid := false, own := false, dirty := 0, data := 0 })
      hheld hroom
    exact ⟨t, hwalked.trans ht, hstored⟩

/-- A load of bytes that have been stored finds them in the word of the L1. -/
theorem loadWord_stored (hheld : ∀ pa, s.heldBy w.core pa = none) (hstored : Stored s t w va mask data) (m : Mark) :
    ∃ old, loadWord w va mask m t = .ok (maskMerge old data mask) t := by
  obtain ⟨hresvs, x, n, hx⟩ := hstored
  have hdirty : (mask &&& ~~~(x.dirty ||| mask)) = 0 := by
    refine BitVec.eq_of_getLsbD_eq fun i hi => ?_
    cases h : mask.getLsbD i <;> simp [h]
  have hheld' (pa : Nat) : t.heldBy w.core pa = none := by
    rw [← hheld pa, State.heldBy, State.heldBy, State.reserved, State.reserved, hresvs]
  refine ⟨x.data, ?_⟩
  change (match tfind (t.core w.core).l1 (va / 8) with
    | some e => if e.valid || (mask &&& ~~~e.dirty) = 0 then
        match t.heldBy w.core e.pa with
        | some r => pure r.value
        | none => pure e.data
      else loadWord.miss w va m
    | none => loadWord.miss w va m : Acc Word) t = _
  rw [hx]
  dsimp only
  rw [if_pos (by simp [L1Word.store, hdirty]), hheld']
  rfl

end

/-! ## The bytes of a word -/

/-- The bytes of a word that an aligned store has put there. -/
theorem leBytes_maskMerge (old : Word) (x ea n : Nat) (h : ea % 8 + n ≤ 8) :
    leBytes n ((maskMerge old (word (leNat (leBytes n x) * 2 ^ (8 * (ea % 8)))) (byteMask ea n)).toNat / 2 ^ (8 * (ea % 8)))
      = leBytes n x := by
  refine leBytes_congr fun j hj => ?_
  have hmask : (byteMask ea n).getLsbD ((j + 8 * (ea % 8)) / 8) = true := by
    have hdiv : (j + 8 * (ea % 8)) / 8 = j / 8 + ea % 8 := by omega
    rw [byteMask, BitVec.getLsbD_ofNat, hdiv, Nat.testBit_mul_two_pow, Nat.testBit_two_pow_sub_one, decide_eq_true (by omega),
      decide_eq_true (by omega), decide_eq_true (by omega)]
    rfl
  rw [Nat.testBit_div_two_pow, BitVec.testBit_toNat, getLsbD_maskMerge, if_pos hmask, leNat_leBytes, word, BitVec.getLsbD_ofNat,
    Nat.testBit_mul_two_pow, Nat.add_sub_cancel, Nat.testBit_mod_two_pow, decide_eq_true (by omega), decide_eq_true (by omega),
    decide_eq_true hj]
  rfl

/-! ## The instructions -/

section
variable {s s' s1 s2 t u : State} {w : Who} {ea x : Word} {n len : Nat} {i : Instr}

theorem exec_store (hi : exec i s = runAct (storeReg ea x n len) s)
    (h : writeMem (s.who s.curSid) ea (leBytes n x.toNat) .no s = .ok () s') :
    exec i s = .next ((s'.dataHit s'.curSid ea.toNat n true).complete len 1) := by
  rw [storeReg, runAct_access h] at hi
  exact hi

theorem regResult_store (s' : State) (ea n len : Nat) :
    RegResult s' ((s'.dataHit s'.curSid ea n true).complete len 1) 0 0 len := regResult_of_dataHit (regResult_complete_only _ len 1)

theorem checkAccess_ok {p : Place} {need : Need} (halign : ea.toNat % n = 0) (hplace : s.placeOf w ea.toNat = some p)
    (hrights : checkRights w ea.toNat need s = .ok () s1) (henter : mayEnter w p s1 = .ok () s1) :
    checkAccess w ea n need s = .ok p s1 := by
  have hp : placeAt w ea.toNat s = .ok p s := by
    change (match s.placeOf w ea.toNat with | some p => pure p | none => throw (.perm 5) : Acc Place) s = _
    rw [hplace]
    rfl
  unfold checkAccess
  rw [if_neg (not_not.2 halign), ok_bind hp, ok_bind hrights, ok_bind henter]
  rfl

theorem aligned_of_checkAccess {p : Place} {need : Need} (h : checkAccess w ea n need s = .ok p s1) : ea.toNat % n = 0 := by
  by_contra hne
  unfold checkAccess at h
  rw [if_pos hne] at h
  cases h

theorem writeMem_eq {p : Place} {bs : List Byte} (hlen : bs.length = n) (hc : checkAccess w ea n needW s = .ok p s1) (m : Mark) :
    writeMem w ea bs m s = storeBytes w p ea.toNat bs m s1 := by
  subst hlen
  exact ok_bind hc

/-- A completion from a state whose memory has changed is one from the state before, but for memory. -/
theorem regResult_butMem {rd : Nat} {m : Memory} {f : List Nat} (hu : u = { s1 with mem := m, flawed := f }) (h : RegResult u t rd x len) :
    RegResult s1 (ButMem s1 t) rd x len := by
  subst hu
  obtain ⟨hrd, hpc, hret, hctl, hunits, hwait, ⟨⟨hstate, hcores⟩, hcore, hstrands⟩⟩ := h
  exact ⟨hrd, hpc, hret, hctl, hunits, hwait, ⟨⟨congrArg (fun v : State => { v with mem := s1.mem, flawed := s1.flawed }) hstate, hcores⟩,
    hcore, hstrands⟩⟩

theorem store_pad {p : Nat} (hi : exec i s = runAct (storeReg ea x n len) s) (halign : ea.toNat % n = 0)
    (hplace : s.placeOf (s.who s.curSid) ea.toNat = some (.pad p))
    (hrights : checkRights (s.who s.curSid) ea.toNat needW s = .ok () s1) (henter : mayEnter (s.who s.curSid) (.pad p) s1 = .ok () s1) :
    ∃ t, exec i s = .next t ∧ RegResult s1 (ButMem s1 t) 0 0 len
      ∧ ∀ a, mget t.mem a = if p ≤ a ∧ a < p + n then BitVec.ofNat 8 (x.toNat / 2 ^ (8 * (a - p))) else mget s1.mem a := by
  let u : State := { s1.padMend p (leBytes n x.toNat).length with mem := mwrite s1.mem p (leBytes n x.toNat) }
  have hwrite : writeMem (s.who s.curSid) ea (leBytes n x.toNat) .no s = .ok () u :=
    writeMem_eq (length_leBytes n _) (checkAccess_ok halign hplace hrights henter) .no
  have hmem : ((u.dataHit u.curSid ea.toNat n true).complete len 1).mem = u.mem := by
    obtain h | ⟨k, h⟩ := u.dataHit_cases ea.toNat n true <;> rw [h] <;> rfl
  refine ⟨_, exec_store hi hwrite, regResult_butMem rfl (regResult_store u _ n len), fun a => ?_⟩
  rw [hmem]
  exact mget_mwrite_leBytes _ _ _ _ _

/-- What arming a breakpoint and completing leave of the caches. -/
theorem stored_complete {va : Nat} {mask : BitVec 8} {data : Word} (h : Stored s u w va mask data) (ea n : Nat) :
    Stored s ((u.dataHit u.curSid ea n true).complete len 1) w va mask data := by
  obtain ⟨hresvs, y, k, hy⟩ := h
  have hl1 (v : State) (f : Strand → Strand) : ((v.modCur f).core w.core).l1 = (v.core w.core).l1 :=
    v.core_modSt_apply _ _ f Core.l1 fun _ _ _ => rfl
  refine ⟨?_, y, k, ?_⟩
  · obtain h | ⟨k, h⟩ := u.dataHit_cases ea n true <;> rw [h] <;> exact hresvs
  · rw [State.complete, hl1]
    obtain h | ⟨k, h⟩ := u.dataHit_cases ea n true <;> rw [h]
    · exact hy
    · rw [hl1]
      exact hy

theorem store_translated {page : Option TlbEntry} (hn : n ∈ [1, 2, 4, 8]) (hi : exec i s = runAct (storeReg ea x n len) s)
    (hc : checkAccess (s.who s.curSid) ea n needW s = .ok .translated s1)
    (hpage : storePage (s.who s.curSid) (ea.toNat / 8 * 8) .no s1 = .ok page s2)
    (hheld : ∀ pa, s2.heldBy (s.who s.curSid).core pa = none) (hserves : PageServes s2 (s.who s.curSid) (ea.toNat / 8 * 8) page) :
    ∃ t, exec i s = .next t ∧ (∀ r, t.cur.rd r = s.cur.rd r) ∧ t.cur.pc = s.cur.pc + word len ∧ t.cur.wait = .none
      ∧ (checkAccess (s.who s.curSid) ea n needR t = .ok .translated t →
        readMem (s.who s.curSid) ea n .no t = .ok (leBytes n x.toNat) t) := by
  have hsize : n = 1 ∨ n = 2 ∨ n = 4 ∨ n = 8 := by simpa using hn
  have hle : n ≤ 8 := by omega
  have halign : ea.toNat % 8 + n ≤ 8 := by
    have := aligned_of_checkAccess hc
    obtain rfl | rfl | rfl | rfl := hsize <;> omega
  obtain ⟨u, hu, hstored⟩ := storeWord_stores (mask := byteMask ea.toNat n)
    (data := word (leNat (leBytes n x.toNat) * 2 ^ (8 * (ea.toNat % 8)))) hpage hheld hserves
  have hwrite : writeMem (s.who s.curSid) ea (leBytes n x.toNat) .no s = .ok () u := by
    rw [writeMem_eq (length_leBytes n _) hc, storeBytes, length_leBytes, if_pos hle]
    exact hu
  obtain ⟨hst, hsid, -⟩ := strandView_keeps (writeMem_leaves.ok hwrite)
  have hcur : { u.cur with cr := s.cur.cr } = s.cur := by
    rw [State.cur, hsid]
    exact (hst s.curSid).1
  obtain ⟨hrd, hpc, -, -, -, hwait, -⟩ := regResult_store u ea.toNat n len
  refine ⟨_, exec_store hi hwrite, fun r => ?_, ?_, hwait, fun hread => ?_⟩
  · rw [hrd, if_neg fun h => h.2 h.1]
    exact (congrArg (Strand.rd · r) hcur :)
  · rw [hpc]
    exact (congrArg (Strand.pc · + word len) hcur :)
  · obtain ⟨old, hload⟩ := loadWord_stored hheld (stored_complete hstored ea.toNat n (len := len)) .no
    rw [readMem, ok_bind hread, loadBytes, if_pos hle, ok_bind hload]
    exact congrArg (EStateM.Result.ok · _) (leBytes_maskMerge _ _ _ _ halign)

end

/-- Settles O7: each store is `storeReg` with its address, its register and its number of bytes. -/
theorem storesComplete : Obligations.StoresComplete := by
  intro s lo rs1 rs2 hi ga gb num stores ea x y
  have settled {i : Instr} {ea x : Word} {n len : Nat} (hn : n ∈ [1, 2, 4, 8]) (hi : exec i s = runAct (storeReg ea x n len) s) :
      stores i ea x n len :=
    ⟨fun s' h => ⟨_, exec_store hi h, regResult_store s' _ n len⟩, fun p s1 => store_pad hi,
      fun s1 s2 page hc hpage hheld hserves => store_translated hn hi hc hpage hheld hserves⟩
  exact ⟨settled (by decide) rfl, settled (by decide) rfl, settled (by decide) rfl, settled (by decide) rfl, settled (by decide) rfl,
    settled (by decide) rfl, settled (by decide) rfl⟩

end Sys2Proof.Machine

/-! # Rounding once (O4)

`RoundsTo` compares halves with an exact magnitude.  Here the magnitude is a real number: rounding to a step is said by inequalities, moved
to another scale, and from there to the grid of a format's magnitudes. -/

namespace Sys2Proof.Machine
open Safety

/-! ## Rounding by inequalities -/

/-- How halves compare with a magnitude. -/
noncomputable def halves (y : ℝ) (t : Nat) : Ordering := compare (t : ℝ) (2 * y)

/-- A magnitude rounds to `cur`, between its neighbours `lo` and `hi`; `bottom` says that `cur` has no lower neighbour. -/
def RoundsAt (md : RMode) (neg : Bool) (lo cur hi : ℝ) (bottom even : Prop) (y : ℝ) : Prop :=
  let down : Prop := cur ≤ y ∧ y < hi
  let up : Prop := y ≤ cur ∧ (bottom ∨ lo < y)
  match md with
  | .rtz => down
  | .rup => if neg then down else up
  | .rdn => if neg then up else down
  | .rne => (bottom ∨ lo + cur < 2 * y ∨ lo + cur = 2 * y ∧ even) ∧ (2 * y < cur + hi ∨ cur + hi = 2 * y ∧ even)
  | .rna => (bottom ∨ lo + cur ≤ 2 * y) ∧ 2 * y < cur + hi

section
variable {md : RMode} {neg : Bool} {lo lo' cur hi hi' y u : ℝ} {bottom bottom' even : Prop}

theorem roundsTo_halves_iff {grid : Nat → Nat} {c : Nat} : RoundsTo grid md neg (halves y) c
    ↔ RoundsAt md neg (grid (c - 1)) (grid c) (grid (c + 1)) (c = 0) (c % 2 = 0) y := by
  cases md <;> cases neg <;>
    simp [RoundsTo, RoundsAt, halves, compare_gt_iff_gt, compare_lt_iff_lt]

/-- A higher upper neighbour, and a lower one that the magnitude has passed anyway, change nothing. -/
theorem RoundsAt.widen (h : RoundsAt md neg lo cur hi bottom even y) (hhi : hi ≤ hi') (hb : bottom → bottom')
    (hlo : bottom' ∨ lo' = lo ∨ lo' < cur ∧ cur ≤ y) : RoundsAt md neg lo' cur hi' bottom' even y := by
  have down (h : cur ≤ y ∧ y < hi) : cur ≤ y ∧ y < hi' := ⟨h.1, h.2.trans_le hhi⟩
  have up (h : y ≤ cur ∧ (bottom ∨ lo < y)) : y ≤ cur ∧ (bottom' ∨ lo' < y) := by
    refine ⟨h.1, ?_⟩
    obtain hb' | rfl | ⟨hlt, hle⟩ := hlo
    · exact .inl hb'
    · exact h.2.imp_left hb
    · exact .inr (hlt.trans_le hle)
  cases md with
  | rtz => exact down h
  | rup => cases neg <;> [exact up h; exact down h]
  | rdn => cases neg <;> [exact down h; exact up h]
  | rne =>
    obtain ⟨hl, hh⟩ := h
    refine ⟨?_, ?_⟩
    · obtain hb' | rfl | ⟨hlt, hle⟩ := hlo
      · exact .inl hb'
      · exact hl.imp_left hb
      · exact .inr (.inl (by linarith))
    · obtain rfl | hlt := hhi.eq_or_lt
      · exact hh
      · exact .inl (hh.elim (fun h => by linarith) fun h => by linarith [h.1])
  | rna =>
    obtain ⟨hl, hh⟩ := h
    refine ⟨?_, by linarith⟩
    obtain hb' | rfl | ⟨hlt, hle⟩ := hlo
    · exact .inl hb'
    · exact hl.imp_left hb
    · exact .inr (by linarith)

theorem RoundsAt.mul (h : RoundsAt md neg lo cur hi bottom even y) (hu : 0 < u) :
    RoundsAt md neg (lo * u) (cur * u) (hi * u) bottom even (y * u) := by
  have hle (a b : ℝ) : a * u ≤ b * u ↔ a ≤ b := mul_le_mul_iff_left₀ hu
  have hlt (a b : ℝ) : a * u < b * u ↔ a < b := mul_lt_mul_iff_left₀ hu
  have heq (a b : ℝ) : a * u = b * u ↔ a = b := mul_left_inj' hu.ne'
  cases md <;> simpa only [RoundsAt, ← add_mul, ← mul_assoc, hle, hlt, heq] using h

/-- A magnitude that rounds to `n` lies within one of it. -/
theorem RoundsAt.le_of_le {n k : Nat} (h : RoundsAt md neg (n - 1) n (n + 1) (n = 0) even y) (hk : (k : ℝ) ≤ y) : k ≤ n := by
  have hlt : y < n + 1 := by
    cases md <;> cases neg <;> simp only [RoundsAt, if_true] at h <;> grind
  exact Nat.lt_succ_iff.1 (by exact_mod_cast hk.trans_lt hlt)

theorem RoundsAt.le_of_lt {n k : Nat} (h : RoundsAt md neg (n - 1) n (n + 1) (n = 0) even y) (hk : y < k) : n ≤ k := by
  by_cases h0 : n = 0
  · exact h0 ▸ k.zero_le
  have hlt : (n : ℝ) - 1 < y := by
    cases md <;> cases neg <;> simp only [RoundsAt, if_true, h0, false_or] at h <;> grind
  have : (n : ℝ) < k + 1 := by linarith
  exact Nat.lt_succ_iff.1 (by exact_mod_cast this)

/-- Halfway between a whole number and the next, or off it: the one that a mode takes. -/
theorem roundsAt_goesUp {n r s : Nat} (hs : 0 < s) (hr : r < s) (hy : y = n + r / s) :
    let c := if goesUp md neg (decide (n % 2 = 1)) (2 * r) s then n + 1 else n
    RoundsAt md neg (c - 1) c (c + 1) (c = 0) (c % 2 = 0) y := by
  have hs' : (0 : ℝ) < s := Nat.cast_pos.2 hs
  obtain ⟨x, hx⟩ : ∃ x : ℝ, x = r / s := ⟨_, rfl⟩
  have hxs : x * s = r := by rw [hx, div_mul_cancel₀ _ hs'.ne']
  have h0 : 0 ≤ x := hx ▸ div_nonneg r.cast_nonneg hs'.le
  have h1 : x < 1 := by rw [hx, div_lt_one hs']; exact_mod_cast hr
  have hup : s < 2 * r ↔ 1 < 2 * x := by
    rw [← Nat.cast_lt (α := ℝ), Nat.cast_mul, ← hxs, ← mul_assoc, Nat.cast_two]
    exact (lt_mul_iff_one_lt_left hs')
  have htie : 2 * r = s ↔ 2 * x = 1 := by
    rw [← Nat.cast_inj (R := ℝ), Nat.cast_mul, ← hxs, ← mul_assoc, Nat.cast_two]
    exact (mul_eq_right₀ hs'.ne')
  have hsome : 0 < 2 * r ↔ 0 < x := by
    rw [← Nat.cast_lt (α := ℝ), Nat.cast_mul, ← hxs, Nat.cast_two, Nat.cast_zero]
    constructor
    · intro h; by_contra hx0; have : x = 0 := le_antisymm (not_lt.1 hx0) h0; simp [this] at h
    · intro h; positivity
  have hge : s ≤ 2 * r ↔ 1 ≤ 2 * x := by
    rw [← not_lt, ← not_lt, ← Nat.cast_lt (α := ℝ), Nat.cast_mul, ← hxs, ← mul_assoc, Nat.cast_two, mul_lt_iff_lt_one_left hs']
  rw [← hx] at hy
  subst hy
  -- the two values that a mode may take, and what each has to satisfy
  have low (hlow : RoundsAt md neg (n - 1) n (n + 1) (n = 0) (n % 2 = 0) (n + x))
      (hgo : goesUp md neg (decide (n % 2 = 1)) (2 * r) s = false) :
      let c := if goesUp md neg (decide (n % 2 = 1)) (2 * r) s then n + 1 else n
      RoundsAt md neg (c - 1) c (c + 1) (c = 0) (c % 2 = 0) (n + x) := by
    rwa [hgo, if_neg Bool.false_ne_true]
  have high (hhigh : RoundsAt md neg n (n + 1) (n + 1 + 1) False ((n + 1) % 2 = 0) (n + x))
      (hgo : goesUp md neg (decide (n % 2 = 1)) (2 * r) s = true) :
      let c := if goesUp md neg (decide (n % 2 = 1)) (2 * r) s then n + 1 else n
      RoundsAt md neg (c - 1) c (c + 1) (c = 0) (c % 2 = 0) (n + x) := by
    rw [hgo, if_pos rfl]
    push_cast
    exact hhigh.widen le_rfl False.elim (.inr (.inl (by ring)))
  have hdown : (n : ℝ) ≤ n + x ∧ (n : ℝ) + x < n + 1 := ⟨by linarith, by linarith⟩
  have hupper : 0 < x → (n : ℝ) + x ≤ n + 1 ∧ (False ∨ (n : ℝ) < n + x) := fun h => ⟨by linarith, .inr (by linarith)⟩
  have hexact : ¬0 < x → (n : ℝ) + x ≤ n ∧ (n = 0 ∨ (n : ℝ) - 1 < n + x) := fun h => ⟨by linarith, .inr (by linarith)⟩
  cases md with
  | rtz => exact low hdown rfl
  | rup =>
    cases neg with
    | true => exact low hdown rfl
    | false =>
      by_cases h : 0 < x
      · exact high (hupper h) (by simpa [goesUp] using hsome.2 h)
      · exact low (hexact h) (by simpa [goesUp] using mt hsome.1 h)
  | rdn =>
    cases neg with
    | false => exact low hdown rfl
    | true =>
      by_cases h : 0 < x
      · exact high (hupper h) (by simpa [goesUp] using hsome.2 h)
      · exact low (hexact h) (by simpa [goesUp] using mt hsome.1 h)
  | rna =>
    by_cases h : 1 ≤ 2 * x
    · exact high ⟨.inr (by linarith), by linarith⟩ (by simpa [goesUp] using hge.2 h)
    · exact low ⟨.inr (by linarith), by linarith⟩ (by simpa [goesUp] using mt hge.1 h)
  | rne =>
    by_cases h : 1 < 2 * x
    · exact high ⟨.inr (.inl (by linarith)), .inl (by linarith)⟩ (by simp [goesUp, hup.2 h])
    by_cases ht : 2 * x = 1
    · obtain hodd | heven := (Nat.mod_two_eq_zero_or_one n).symm
      · exact high ⟨.inr (.inr ⟨by linarith, by omega⟩), .inl (by linarith)⟩ (by simp [goesUp, htie.2 ht, hodd])
      · exact low ⟨.inr (.inl (by linarith)), .inr ⟨by linarith, heven⟩⟩ (by simp [goesUp, htie.2 ht, heven])
    · have hlt : 2 * x < 1 := lt_of_le_of_ne (not_lt.1 h) ht
      exact low ⟨.inr (.inl (by linarith)), .inl (by linarith)⟩ (by simp [goesUp, mt htie.1 ht, Nat.not_lt.1 (mt hup.1 h)])

end

/-! ## Scaling by powers of two -/

section

theorem cast_pow2 {k : Int} (h : 0 ≤ k) : ((pow2 k : Nat) : ℝ) = 2 ^ k := by
  rw [pow2, Nat.cast_pow, Nat.cast_two, ← zpow_natCast, Int.toNat_of_nonneg h]

theorem cast_scaleTo {m : Nat} {e q : Int} (h : q ≤ e) : ((scaleTo m e q : Nat) : ℝ) = m * 2 ^ (e - q) := by
  rw [scaleTo, Nat.cast_mul, cast_pow2 (by omega)]

end

/-! ## Rounding to a step -/

section
variable {md : RMode} {neg : Bool} {m : Nat} {e q : Int} {odd : Nat → Bool}

theorem roundsAt_self (n : Nat) (bottom even : Prop) : RoundsAt md neg (n - 1) n (n + 1) bottom even n := by
  have down : (n : ℝ) ≤ n ∧ (n : ℝ) < n + 1 := ⟨le_rfl, by linarith⟩
  have up : (n : ℝ) ≤ n ∧ (bottom ∨ (n : ℝ) - 1 < n) := ⟨le_rfl, .inr (by linarith)⟩
  cases md with
  | rtz => exact down
  | rup => cases neg <;> [exact up; exact down]
  | rdn => cases neg <;> [exact down; exact up]
  | rne => exact ⟨.inr (.inl (by linarith)), .inl (by linarith)⟩
  | rna => exact ⟨.inr (by linarith), by linarith⟩

/-- What is a multiple of the step goes nowhere. -/
theorem goesUp_zero {step : Nat} {odd : Bool} (h : 0 < step) : goesUp md neg odd 0 step = false := by
  cases md <;> simp [goesUp, h.ne, h.ne']

/-- A magnitude rounds to the multiple of a step that `roundStep` gives, which is exact where it says so. -/
theorem roundStep_roundsAt (hodd : ∀ n, odd n = decide (n % 2 = 1)) :
    let r := roundStep md neg m e q odd
    RoundsAt md neg (r.1 - 1) r.1 (r.1 + 1) (r.1 = 0) (r.1 % 2 = 0) (m * 2 ^ (e - q))
      ∧ (r.2 = true ↔ (r.1 : ℝ) = m * 2 ^ (e - q)) := by
  intro r
  by_cases hq : q ≤ e
  · have hr : r = (scaleTo m e q, true) := if_pos hq
    rw [hr, ← cast_scaleTo hq]
    exact ⟨roundsAt_self _ _ _, iff_of_true rfl rfl⟩
  · obtain ⟨s, hs⟩ : ∃ s, s = pow2 (q - e) := ⟨_, rfl⟩
    have hspos : 0 < s := hs ▸ Nat.two_pow_pos _
    have hs' : (0 : ℝ) < s := Nat.cast_pos.2 hspos
    have hr : r = (if goesUp md neg (decide (m / s % 2 = 1)) (2 * (m % s)) s then m / s + 1 else m / s, decide (m % s = 0)) := by
      rw [← hodd, hs]
      exact if_neg hq
    have hx : (m : ℝ) * 2 ^ (e - q) = (m / s : Nat) + (m % s : Nat) / s := by
      have hinv : (2 : ℝ) ^ (e - q) = 1 / s := by rw [hs, cast_pow2 (by omega), one_div, ← zpow_neg, neg_sub]
      have hm : (m : ℝ) = s * (m / s : Nat) + (m % s : Nat) := by exact_mod_cast (Nat.div_add_mod m s).symm
      rw [hinv, mul_one_div, eq_comm, eq_div_iff hs'.ne', add_mul, div_mul_cancel₀ _ hs'.ne', mul_comm, ← hm]
    rw [hr]
    refine ⟨roundsAt_goesUp hspos (Nat.mod_lt _ hspos) hx, ?_⟩
    rw [decide_eq_true_iff, hx]
    by_cases h0 : m % s = 0
    · simp [h0, goesUp_zero hspos]
    refine iff_of_false h0 fun h => ?_
    have h1 : (0 : ℝ) < (m % s : Nat) / s := div_pos (Nat.cast_pos.2 (Nat.pos_of_ne_zero h0)) hs'
    have h2 : ((m % s : Nat) : ℝ) / s < 1 := (div_lt_one hs').2 (Nat.cast_lt.2 (Nat.mod_lt _ hspos))
    split at h
    · push_cast at h
      linarith
    · linarith

end

/-! ## The grid of a format's magnitudes -/

section
variable {f : Fmt}

/-- The smallest normal significand. -/
def Fmt.half (f : Fmt) : Nat := 2 ^ (f.prec - 1)

theorem Fmt.half_pos : 0 < f.half := Nat.two_pow_pos _

/-- The magnitude codes of a binade rise by its step. -/
theorem Fmt.scaleTo_mag {q0 : Int} (hq : q0 ≤ f.qmin) {j n : Nat} (hn : j = 0 ∨ f.half ≤ n) (hle : n ≤ 2 * f.half) :
    scaleTo (f.mag (j * f.half + n)).m (f.mag (j * f.half + n)).e q0 = n * 2 ^ (j + (f.qmin - q0).toNat) := by
  have hh := f.half_pos
  have hmag (c : Nat) : f.mag c = if c / f.half = 0 then { neg := false, m := c, e := f.qmin }
      else { neg := false, m := f.half + c % f.half, e := f.qmin + (c / f.half : Nat) - 1 } := rfl
  have hpow (k : Nat) : pow2 (f.qmin + k - q0) = 2 ^ (k + (f.qmin - q0).toNat) := by
    rw [pow2]
    congr 1
    omega
  rw [hmag]
  by_cases hlow : n < f.half
  · obtain rfl : j = 0 := hn.resolve_right (by omega)
    have hdiv : (0 * f.half + n) / f.half = 0 := by rw [zero_mul, zero_add, Nat.div_eq_of_lt hlow]
    rw [hdiv, if_pos rfl]
    simpa only [scaleTo, zero_mul, zero_add, Nat.cast_zero, add_zero] using congrArg (n * ·) (hpow 0)
  · by_cases htop : n = 2 * f.half
    · have hc : j * f.half + n = (j + 2) * f.half := by rw [htop, add_mul]
      rw [hc, Nat.mul_div_cancel _ hh, if_neg (by omega), Nat.mul_mod_left]
      have he : f.qmin + ((j + 2 : Nat) : Int) - 1 = f.qmin + ((j + 1 : Nat) : Int) := by push_cast; ring
      rw [he, scaleTo, hpow, htop, add_zero, mul_comm 2, mul_assoc, ← pow_succ']
      congr 2
      omega
    · have hc : j * f.half + n = (j + 1) * f.half + (n - f.half) := by rw [add_mul, one_mul]; omega
      have hr : n - f.half < f.half := by omega
      have hdiv : ((j + 1) * f.half + (n - f.half)) / f.half = j + 1 := by
        rw [mul_comm, Nat.mul_add_div hh, Nat.div_eq_of_lt hr, add_zero]
      have he : f.qmin + ((j + 1 : Nat) : Int) - 1 = f.qmin + (j : Int) := by push_cast; ring
      rw [hc, hdiv, if_neg (by omega), Nat.mul_add_mod', Nat.mod_eq_of_lt hr, he, scaleTo, hpow, Nat.add_sub_of_le (by omega)]

theorem Fmt.half_even (hp : 2 ≤ f.prec) : f.half % 2 = 0 := by
  obtain ⟨k, hk⟩ : ∃ k, f.prec - 1 = k + 1 := ⟨f.prec - 2, by omega⟩
  rw [half, hk, pow_succ, Nat.mul_mod_left]

/-- The grid of a format's magnitudes, at a scale. -/
def Fmt.grid (f : Fmt) (q0 : Int) (c : Nat) : Nat := scaleTo (f.mag c).m (f.mag c).e q0

/-- What rounds to `n` steps of a binade rounds on the format's grid to that binade's code. -/
theorem Fmt.roundsTo_grid {md : RMode} {neg : Bool} {q0 : Int} {j n : Nat} {x : ℝ} (hp : 2 ≤ f.prec) (hq : q0 ≤ f.qmin)
    (h : RoundsAt md neg (n - 1) n (n + 1) (n = 0) (n % 2 = 0) x) (hlo : j = 0 ∨ (f.half : ℝ) ≤ x) (hhi : x < (2 * f.half : Nat)) :
    RoundsTo (f.grid q0) md neg (halves (x * 2 ^ (j + (f.qmin - q0).toNat))) (j * f.half + n) := by
  have hh := f.half_pos
  have hn : j = 0 ∨ f.half ≤ n := hlo.imp_right h.le_of_le
  have hle : n ≤ 2 * f.half := h.le_of_lt hhi
  obtain ⟨w, hw⟩ : ∃ w, w = (f.qmin - q0).toNat := ⟨_, rfl⟩
  obtain ⟨u, hu⟩ : ∃ u : ℝ, u = 2 ^ (j + w) := ⟨_, rfl⟩
  have hu0 : 0 < u := hu ▸ by positivity
  have grid_of {j' n' : Nat} (hn : j' = 0 ∨ f.half ≤ n') (hle : n' ≤ 2 * f.half) :
      (f.grid q0 (j' * f.half + n') : ℝ) = n' * 2 ^ (j' + w) := by
    rw [grid, f.scaleTo_mag hq hn hle, ← hw]
    push_cast
    rfl
  have hcur := grid_of hn hle
  have heven : ((j * f.half + n) % 2 = 0) = (n % 2 = 0) := by
    rw [Nat.add_mod, Nat.mul_mod, half_even hp, mul_zero, Nat.zero_mod, zero_add, Nat.mod_mod]
  have hup : ((n : ℝ) + 1) * u ≤ (f.grid q0 (j * f.half + n + 1) : ℝ) := by
    obtain hlt | rfl := hle.lt_or_eq
    · rw [add_assoc, grid_of (by omega) hlt, hu, Nat.cast_succ]
    · have hc : j * f.half + 2 * f.half + 1 = (j + 1) * f.half + (f.half + 1) := by ring
      rw [hc, grid_of (.inr (by omega)) (by omega), add_right_comm, pow_succ, ← hu]
      push_cast
      nlinarith
  have hdown : j * f.half + n = 0 ∨ (f.grid q0 (j * f.half + n - 1) : ℝ) = ((n : ℝ) - 1) * u
      ∨ (f.grid q0 (j * f.half + n - 1) : ℝ) < n * u ∧ n * u ≤ x * u := by
    by_cases h0 : j * f.half + n = 0
    · exact .inl h0
    by_cases hin : j = 0 ∨ f.half < n
    · have hn0 : n ≠ 0 := by rintro rfl; simp_all
      have hc : j * f.half + n - 1 = j * f.half + (n - 1) := by omega
      rw [hc, grid_of (by omega) (by omega), Nat.cast_pred (by omega), hu]
      exact .inr (.inl rfl)
    · obtain ⟨k, rfl⟩ : ∃ k, j = k + 1 := ⟨j - 1, by omega⟩
      obtain rfl : n = f.half := by omega
      have hc : (k + 1) * f.half + f.half - 1 = k * f.half + (2 * f.half - 1) := by rw [add_mul]; omega
      have hu2 : u = 2 ^ (k + w) * 2 := by rw [hu, add_right_comm, pow_succ]
      have hpos : (0 : ℝ) < 2 ^ (k + w) := by positivity
      rw [hc, grid_of (.inr (by omega)) (by omega), Nat.cast_pred (by omega)]
      refine .inr (.inr ⟨?_, by nlinarith [hlo.resolve_left k.succ_ne_zero]⟩)
      rw [hu2]
      push_cast
      linarith
  rw [roundsTo_halves_iff, hcur, heven, ← hw, ← hu]
  refine (h.mul hu0).widen hup ?_ hdown
  rintro rfl
  obtain rfl : j = 0 := by omega
  simp

end

/-! ## Magnitudes that halves cannot tell apart -/

section
variable {md : RMode} {neg : Bool} {x y : ℝ}

theorem halves_two_mul (k : Nat) : halves x (2 * k) = compare (k : ℝ) x := by
  simp only [halves, compare, compareOfLessAndEq]
  push_cast
  simp

theorem halves_eq_eq_iff {k : Nat} : halves x (2 * k) = .eq ↔ (k : ℝ) = x := by rw [halves_two_mul, compare_eq_iff_eq]

theorem halves_eq_gt_iff {k : Nat} : halves x (2 * k) = .gt ↔ x < k := by rw [halves_two_mul, compare_gt_iff_gt]

/-- A coarser scale takes fewer halves. -/
theorem halves_coarser (h : halves x = halves y) (d : Nat) : halves (x / 2 ^ d) = halves (y / 2 ^ d) := by
  have hd : (0 : ℝ) < 2 ^ d := by positivity
  have at_finer (z : ℝ) (t : Nat) : halves (z / 2 ^ d) t = halves z (t * 2 ^ d) := by
    simp only [halves, compare, compareOfLessAndEq]
    push_cast
    simp only [← mul_div_assoc, lt_div_iff₀ hd, eq_div_iff hd.ne']
  funext t
  rw [at_finer, at_finer, h]

theorem RoundsAt.of_halves {n : Nat} (h : RoundsAt md neg (n - 1) n (n + 1) (n = 0) (n % 2 = 0) x) (hxy : halves x = halves y) :
    RoundsAt md neg (n - 1) n (n + 1) (n = 0) (n % 2 = 0) y := by
  have hlo : n = 0 ∨ (((n - 1 : Nat) : ℝ) = n - 1) := by
    refine n.eq_zero_or_pos.imp_right fun hn => ?_
    rw [Nat.cast_pred hn]
  have hx : RoundsTo id md neg (halves x) n := by
    rw [roundsTo_halves_iff]
    exact h.widen (by simp) id (hlo.imp_right .inl)
  rw [hxy, roundsTo_halves_iff] at hx
  exact hx.widen (by simp) id (hlo.imp_right fun h => .inl h.symm)

end

/-! ## Rounding into a format -/

section
variable {f : Fmt} {md : RMode} {neg : Bool} {m : Nat} {e q q0 : Int} {v : ℝ}

/-- The exponent of the step at which a magnitude fills a significand. -/
def Fmt.top (f : Fmt) (m : Nat) (e : Int) : Int := Nat.log2 m + e - (f.prec - 1 : Nat)

theorem Fmt.half_le_scaled (hm : m ≠ 0) :
    (f.half : ℝ) ≤ m * 2 ^ (e - f.top m e) ∧ (m : ℝ) * 2 ^ (e - f.top m e) < (2 * f.half : Nat) := by
  have he : e - f.top m e = (f.prec - 1 : Nat) - (Nat.log2 m : Int) := by rw [top]; ring
  have hl : (0 : ℝ) < 2 ^ Nat.log2 m := by positivity
  have hlow : (2 : ℝ) ^ Nat.log2 m ≤ m := by exact_mod_cast Nat.log2_self_le hm
  have hhigh : (m : ℝ) < 2 ^ Nat.log2 m * 2 := by rw [← pow_succ]; exact_mod_cast Nat.lt_log2_self
  rw [he, zpow_sub₀ two_ne_zero, zpow_natCast, zpow_natCast, half, ← mul_div_assoc, le_div_iff₀ hl, div_lt_iff₀ hl]
  push_cast
  have hp : (0 : ℝ) < 2 ^ (f.prec - 1) := by positivity
  constructor <;> nlinarith

/-- The magnitude code of `n` steps of 2^q. -/
def Fmt.codeAt (f : Fmt) (q : Int) (n : Nat) : Nat := if (n : Int) < f.half then n else ((q - f.qmin + 1) * f.half + n - f.half).toNat

theorem Fmt.codeAt_eq {n : Nat} (hq : f.qmin ≤ q) (hn : (q - f.qmin).toNat = 0 ∨ f.half ≤ n) :
    f.codeAt q n = (q - f.qmin).toNat * f.half + n := by
  by_cases h : (n : Int) < f.half
  · rw [codeAt, if_pos h, hn.resolve_right (by omega), zero_mul, zero_add]
  · have hc : (q - f.qmin + 1) * f.half + n - f.half = (((q - f.qmin).toNat * f.half + n : Nat) : Int) := by
      push_cast
      rw [Int.toNat_of_nonneg (by omega)]
      ring
    rw [codeAt, if_neg h, hc, Int.toNat_natCast]

theorem Fmt.codeAt_mod_two {n : Nat} (hp : 2 ≤ f.prec) (hq : f.qmin ≤ q) : f.codeAt q n % 2 = n % 2 := by
  by_cases h : (n : Int) < f.half
  · rw [codeAt, if_pos h]
  · rw [codeAt_eq hq (.inr (by omega)), Nat.add_mod, Nat.mul_mod, half_even hp, mul_zero, Nat.zero_mod, zero_add, Nat.mod_mod]

/-- The code of `n` steps of 2^q, were there no lowest exponent. -/
def Fmt.baseAt (f : Fmt) (q : Int) (n : Nat) : Int := (q - f.qmin + 1) * f.half + n - f.half

theorem Fmt.baseAt_mod_two {n : Nat} (hp : 2 ≤ f.prec) : f.baseAt q n % 2 = 1 ↔ n % 2 = 1 := by
  obtain ⟨k, hk⟩ : ∃ k, f.half = 2 * k := ⟨f.half / 2, by have := f.half_even hp; omega⟩
  have h : f.baseAt q n = 2 * ((q - f.qmin) * k) + n := by rw [baseAt, hk]; push_cast; ring
  omega

theorem Fmt.roundMag_eq :
    let q := max (f.top m e) f.qmin
    let r := roundStep md neg m e q (fun n => decide (f.codeAt q n % 2 = 1))
    f.roundMag md neg m e = (f.codeAt q r.1, r.2,
      decide (f.baseAt (f.top m e) (roundStep md neg m e (f.top m e) (fun n => decide (f.baseAt (f.top m e) n % 2 = 1))).1 < f.half)) := by
  have hh : (2 : Int) ^ (f.prec - 1) = (f.half : Int) := by rw [half]; push_cast; rfl
  simp only [roundMag, hh]
  rfl

theorem Fmt.roundsAt_half {x : ℝ} (h : halves (m * 2 ^ (e - f.top m e)) = halves x) (hm : m ≠ 0) :
    (f.half : ℝ) ≤ x ∧ x < (2 * f.half : Nat) := by
  obtain ⟨hlow, hhigh⟩ := f.half_le_scaled (e := e) hm
  rw [← halves_eq_gt_iff, ← h, halves_eq_gt_iff]
  refine ⟨not_lt.1 fun hlt => ?_, hhigh⟩
  rw [← halves_eq_gt_iff, ← h, halves_eq_gt_iff] at hlt
  exact absurd hlow (not_le.2 hlt)

/-- Without a lowest exponent, `n` steps of the leading exponent lie below the smallest normal number as the base code says. -/
theorem Fmt.unbounded_lt_half_iff {top : Int} {n : Nat} (hq : q0 ≤ f.qmin) (htop : q0 ≤ top) (hn : f.half ≤ n)
    (hle : n ≤ 2 * f.half) :
    Fmt.grid { f with qmin := q0 } q0 ((top - q0).toNat * f.half + n) < scaleTo f.half f.qmin q0 ↔ f.baseAt top n < f.half := by
  have hgrid : Fmt.grid { f with qmin := q0 } q0 ((top - q0).toNat * f.half + n) = n * 2 ^ ((top - q0).toNat) := by
    have h : _ = n * 2 ^ ((top - q0).toNat + (q0 - q0).toNat) :=
      scaleTo_mag (f := { f with qmin := q0 }) le_rfl (j := (top - q0).toNat) (.inr hn) hle
    rwa [sub_self, Int.toNat_zero, add_zero] at h
  have hh := f.half_pos
  obtain ⟨j, hj⟩ : ∃ j : Nat, top = q0 + j := ⟨(top - q0).toNat, by omega⟩
  obtain ⟨w, hw⟩ : ∃ w : Nat, f.qmin = q0 + w := ⟨(f.qmin - q0).toNat, by omega⟩
  have hbase : f.baseAt top n < f.half ↔ (j : Int) * f.half + n < (w + 1) * f.half := by
    rw [baseAt, hj, hw, ← sub_pos, ← sub_pos (b := (j : Int) * f.half + n)]
    ring_nf
  have hpos : 0 < 2 ^ j := Nat.two_pow_pos j
  have hbase' : f.baseAt top n < f.half ↔ j * f.half + n < (w + 1) * f.half := by rw [hbase]; exact_mod_cast Iff.rfl
  rw [hgrid, hbase', scaleTo, pow2, hj, hw, add_sub_cancel_left, add_sub_cancel_left, Int.toNat_natCast, Int.toNat_natCast]
  obtain hwj | rfl | hjw : w ≤ j ∨ w = j + 1 ∨ j + 2 ≤ w := by omega
  · have hp : 2 ^ w ≤ 2 ^ j := Nat.pow_le_pow_right two_pos hwj
    exact iff_of_false (not_lt.2 (Nat.mul_le_mul hn hp)) (by nlinarith)
  · rw [pow_succ, ← mul_assoc, mul_right_comm, Nat.mul_lt_mul_right hpos]
    constructor <;> intro h <;> nlinarith
  · have hp : 2 ^ j * 4 ≤ 2 ^ w := (pow_add 2 j 2).symm ▸ Nat.pow_le_pow_right two_pos hjw
    exact iff_of_true (by nlinarith) (by nlinarith)

/-- A non-zero magnitude rounded to the step of its binade, whatever halves at its leading exponent cannot tell from it. -/
theorem Fmt.roundStep_roundsTo {odd : Nat → Bool} (hp : 2 ≤ f.prec) (hq0 : q0 ≤ f.qmin) (hm : m ≠ 0)
    (hv : halves (m * 2 ^ (e - f.top m e)) = halves (v * 2 ^ (-f.top m e))) (hodd : ∀ n, odd n = decide (n % 2 = 1)) :
    let q := max (f.top m e) f.qmin
    let r := roundStep md neg m e q odd
    let c := (q - f.qmin).toNat * f.half + r.1
    RoundsTo (f.grid q0) md neg (halves (v * 2 ^ (-q0))) c ∧ (halves (v * 2 ^ (-q0)) (2 * f.grid q0 c) = .eq ↔ r.2 = true)
      ∧ (f.qmin ≤ f.top m e → f.half ≤ r.1) ∧ r.1 ≤ 2 * f.half := by
  intro q r c
  have two_ne : (2 : ℝ) ≠ 0 := two_ne_zero
  have hqq : f.qmin ≤ q := le_max_right ..
  obtain ⟨d, hd⟩ : ∃ d : Nat, q = f.top m e + d := ⟨(q - f.top m e).toNat, by omega⟩
  obtain ⟨x, hx⟩ : ∃ x, x = v * 2 ^ (-q) := ⟨_, rfl⟩
  have hhalves : halves (m * 2 ^ (e - q)) = halves x := by
    have h := halves_coarser hv d
    rwa [mul_div_assoc, mul_div_assoc, ← zpow_natCast, ← zpow_sub₀ two_ne, ← zpow_sub₀ two_ne, sub_sub, ← hd, neg_sub_left,
      add_comm, ← hd, ← hx] at h
  obtain ⟨hlow, hhigh⟩ := roundsAt_half hv hm
  have hxtop : x = v * 2 ^ (-f.top m e) / 2 ^ d := by
    rw [hx, hd, mul_div_assoc, ← zpow_natCast, ← zpow_sub₀ two_ne, neg_add, sub_eq_add_neg]
  have hnormal : f.qmin ≤ f.top m e → (f.half : ℝ) ≤ x := by
    intro h
    obtain rfl : d = 0 := by omega
    rwa [hxtop, pow_zero, div_one]
  have hlo : (q - f.qmin).toNat = 0 ∨ (f.half : ℝ) ≤ x := by
    by_cases h : f.qmin ≤ f.top m e
    · exact .inr (hnormal h)
    · exact .inl (by omega)
  have hhi : x < (2 * f.half : Nat) := by
    refine lt_of_le_of_lt ?_ hhigh
    rw [hxtop]
    exact div_le_self (f.half.cast_nonneg.trans hlow) (one_le_pow₀ one_le_two)
  obtain ⟨hround, hexact⟩ := roundStep_roundsAt (md := md) (neg := neg) (m := m) (e := e) (q := q) hodd
  have hroundx := hround.of_halves hhalves
  have hscale : v * 2 ^ (-q0) = x * 2 ^ ((q - f.qmin).toNat + (f.qmin - q0).toNat) := by
    rw [hx, mul_assoc, ← zpow_natCast, ← zpow_add₀ two_ne]
    congr 2
    omega
  have hn := hlo.imp_right hroundx.le_of_le
  have hle := hroundx.le_of_lt hhi
  have hgrid : (f.grid q0 c : ℝ) = r.1 * 2 ^ ((q - f.qmin).toNat + (f.qmin - q0).toNat) := by
    rw [grid, f.scaleTo_mag hq0 hn hle]
    push_cast
    rfl
  rw [hscale]
  refine ⟨roundsTo_grid hp hq0 hroundx hlo hhi, ?_, fun h => hroundx.le_of_le (hnormal h), hle⟩
  rw [halves_eq_eq_iff, hgrid, mul_left_inj' (by positivity), ← halves_eq_eq_iff, ← hhalves, halves_eq_eq_iff]
  exact hexact.symm

/-- Rounding a non-zero magnitude into a format, whatever halves at its leading exponent cannot tell from it. -/
theorem Fmt.roundIeee_roundedIn {x : Dy} (hp : 2 ≤ f.prec) (hq0 : q0 ≤ f.qmin) (hm : x.m ≠ 0) (htop : q0 ≤ f.top x.m x.e)
    (hv : halves (x.m * 2 ^ (x.e - f.top x.m x.e)) = halves (v * 2 ^ (-f.top x.m x.e))) :
    RoundedIn f md x.neg q0 (halves (v * 2 ^ (-q0))) (f.roundIeee md x) := by
  have hqq : f.qmin ≤ max (f.top x.m x.e) f.qmin := le_max_right ..
  obtain ⟨hto, hex, hn, -⟩ := f.roundStep_roundsTo (md := md) (neg := x.neg) hp hq0 hm hv
    (odd := fun n => decide (f.codeAt (max (f.top x.m x.e) f.qmin) n % 2 = 1)) (fun n => by rw [codeAt_mod_two hp hqq])
  -- the same without a lowest exponent
  obtain ⟨hto', -, hn', hle'⟩ := Fmt.roundStep_roundsTo (f := { f with qmin := q0 }) (md := md) (neg := x.neg) hp le_rfl hm hv
    (odd := fun n => decide (f.baseAt (f.top x.m x.e) n % 2 = 1)) (fun n => decide_eq_decide.2 (baseAt_mod_two hp))
  have hmax : max (Fmt.top { f with qmin := q0 } x.m x.e) q0 = f.top x.m x.e := max_eq_left htop
  rw [hmax] at hto' hn' hle'
  have htiny := f.unbounded_lt_half_iff hq0 htop (hn' htop) hle'
  have hcode := codeAt_eq hqq (n := (roundStep md x.neg x.m x.e (max (f.top x.m x.e) f.qmin) fun n =>
    decide (f.codeAt (max (f.top x.m x.e) f.qmin) n % 2 = 1)).1) (by
      by_cases h : f.qmin ≤ f.top x.m x.e
      · exact .inr (hn h)
      · exact .inl (by omega))
  rw [← hcode] at hto hex
  have hmag := f.roundMag_eq (md := md) (neg := x.neg) (m := x.m) (e := x.e)
  simp only [roundIeee, if_neg hm, hmag]
  refine ⟨_, hto, fun hc => ?_, fun hc => ?_, fun hc heq => ?_, fun hc hne => ⟨_, hto', ?_⟩⟩
  · rw [if_pos hc]
  · rw [if_neg (not_lt.2 hc)]
  · rw [if_neg (not_lt.2 hc), if_pos (hex.1 heq)]
  · rw [if_neg (not_lt.2 hc), if_neg (mt hex.2 hne)]
    exact if_congr (decide_eq_true_iff.trans htiny.symm) rfl rfl

end

end Sys2Proof.Machine

/-! # The scalar floating operations (O4)

Each operation computes an exact value, or one that halves cannot tell from it, and rounds that once. -/

namespace Sys2Proof.Machine
open Safety

/-! ## Exact sums and products -/

section
variable {f : Fmt} {md : RMode} {q q' : Int} {x y : Dy} {i : Int}

theorem compare_eq_halves (k : Nat) : (fun t => compare t (2 * k)) = halves k := by
  funext t
  simp only [halves, compare, compareOfLessAndEq]
  norm_cast

theorem Dy.at_of_zero {neg : Bool} {e : Int} : Dy.at { neg := neg, m := 0, e := e } q = 0 := by
  cases neg <;> simp [Dy.at, scaleTo]

theorem Dy.natAbs_at : (x.at q).natAbs = scaleTo x.m x.e q := by
  unfold Dy.at
  split <;> simp

theorem Dy.at_neg_iff (hm : x.at q ≠ 0) : x.at q < 0 ↔ x.neg = true := by
  have := Dy.natAbs_at (x := x) (q := q)
  unfold Dy.at at hm ⊢
  split <;> rename_i h <;> simp only [h] at hm ⊢ <;> grind

theorem Dy.m_ne_zero_of_at (hm : x.at q ≠ 0) : x.m ≠ 0 := by
  intro h
  rw [← Int.natAbs_ne_zero, Dy.natAbs_at, h, scaleTo, zero_mul] at hm
  exact hm rfl

/-- An integer at one scale is a multiple of it at a finer one. -/
theorem Dy.at_finer (hq : q ≤ q') (hx : q' ≤ x.e) : x.at q = x.at q' * pow2 (q' - q) := by
  have h : scaleTo x.m x.e q = scaleTo x.m x.e q' * pow2 (q' - q) := by
    rw [scaleTo, scaleTo, mul_assoc]
    congr 1
    rw [pow2, pow2, pow2, ← pow_add]
    congr 1
    omega
  unfold Dy.at
  split <;> rw [h] <;> push_cast <;> ring

theorem dyOf_at {z : Bool} : (dyOf i q' z).at q = i * pow2 (q' - q) := by
  obtain rfl | h0 := eq_or_ne i 0
  · rw [zero_mul]
    exact Dy.at_of_zero
  have hneg : (dyOf i q' z).neg = decide (i < 0) := if_neg h0
  have hm : scaleTo (dyOf i q' z).m (dyOf i q' z).e q = i.natAbs * pow2 (q' - q) := rfl
  rw [Dy.at, hneg, hm]
  split <;> rename_i h <;> rw [decide_eq_true_iff] at h <;> push_cast
  · rw [abs_of_neg h, neg_mul, neg_neg]
  · rw [abs_of_nonneg (not_lt.1 h)]

theorem Dy.add_e {z : Bool} : (x.add y z).e = min x.e y.e := by
  unfold Dy.add
  split <;> rfl

theorem Dy.add_at {z : Bool} (hq : q ≤ min x.e y.e) : (x.add y z).at q = x.at q + y.at q := by
  unfold Dy.add
  split
  next h =>
    obtain ⟨hx, hy, -⟩ := h
    have at_zero {z : Dy} (hz : z.m = 0) : z.at q = 0 := by
      rw [← Int.natAbs_eq_zero, Dy.natAbs_at, hz, scaleTo, zero_mul]
    rw [at_zero hx, at_zero hy]
    exact Dy.at_of_zero
  next => rw [dyOf_at, add_mul, Dy.at_finer hq (min_le_left ..), Dy.at_finer hq (min_le_right ..)]

/-- An exact value is rounded once. -/
theorem Fmt.roundIeee_exact (hp : 2 ≤ f.prec) (hq : q ≤ min f.qmin (x.e - f.prec)) (hx : x.at q ≠ 0) :
    RoundedIn f md (decide (x.at q < 0)) q (fun t => compare t (2 * (x.at q).natAbs)) (f.roundIeee md x) := by
  have hm := Dy.m_ne_zero_of_at hx
  have hneg : decide (x.at q < 0) = x.neg := by simp [Dy.at_neg_iff hx]
  have htop : q ≤ f.top x.m x.e := by
    rw [top]
    omega
  have h := f.roundIeee_roundedIn (md := md) (v := x.m * 2 ^ x.e) hp (by omega) hm htop
    (by rw [mul_assoc, ← zpow_add₀ two_ne_zero, sub_eq_add_neg])
  rwa [hneg, Dy.natAbs_at, compare_eq_halves, cast_scaleTo (by omega), sub_eq_add_neg, zpow_add₀ two_ne_zero, ← mul_assoc]

end

/-! ## Quotients and roots, cut with a sticky bit -/

section
variable {f : Fmt} {md : RMode} {q : Int} {x y : Dy} {v w : ℝ} {n : Nat} {rest : Bool}

theorem sticky_lt_iff (hlow : (n : ℝ) ≤ v) (hhigh : v < n + 1) (hrest : rest = false ↔ (n : ℝ) = v) (k : Nat) :
    (2 * k < 2 * n + b2n rest ↔ (k : ℝ) < v) ∧ (2 * k = 2 * n + b2n rest ↔ (k : ℝ) = v) := by
  cases rest with
  | false =>
    rw [← hrest.1 rfl, Nat.cast_lt, Nat.cast_inj]
    simp [b2n]
  | true =>
    have hlt : (n : ℝ) < v := lt_of_le_of_ne hlow fun h => Bool.noConfusion (hrest.2 h)
    have hk : (k : ℝ) < v ↔ k ≤ n := by
      refine ⟨fun h => Nat.lt_succ_iff.1 ?_, fun h => (Nat.cast_le.2 h).trans_lt hlt⟩
      exact_mod_cast h.trans hhigh
    have hne : (k : ℝ) ≠ v := by
      rintro rfl
      have h1 : n < k := by exact_mod_cast hlt
      have h2 : k < n + 1 := by exact_mod_cast hhigh
      omega
    refine ⟨?_, iff_of_false (by simp [b2n]; omega) hne⟩
    rw [hk]
    simp only [b2n, if_true]
    omega

/-- A whole number with a sticky bit for the rest below it: at a coarser scale, halves cannot tell it from the exact magnitude. -/
theorem halves_sticky (hlow : (n : ℝ) ≤ v) (hhigh : v < n + 1) (hrest : rest = false ↔ (n : ℝ) = v) (d : Nat) :
    halves ((2 * n + b2n rest : Nat) / 2 ^ (d + 2)) = halves (v / 2 ^ (d + 1)) := by
  have hd : (0 : ℝ) < 2 ^ d := by positivity
  funext t
  obtain ⟨hlt, heq⟩ := sticky_lt_iff hlow hhigh hrest (t * 2 ^ d)
  obtain ⟨m, hm⟩ : ∃ m, m = 2 * n + b2n rest := ⟨_, rfl⟩
  rw [← hm, ← Nat.cast_lt (α := ℝ)] at hlt
  rw [← hm, ← Nat.cast_inj (R := ℝ)] at heq
  push_cast at hlt heq
  have hcut : 2 * ((m : ℝ) / 2 ^ (d + 2)) = m / 2 / 2 ^ d := by rw [pow_add]; field_simp
  have hexact : 2 * (v / 2 ^ (d + 1)) = v / 2 ^ d := by rw [pow_succ]; field_simp
  have h1 : (t : ℝ) < m / 2 / 2 ^ d ↔ (t : ℝ) < v / 2 ^ d := by
    rw [lt_div_iff₀ hd, lt_div_iff₀ hd, ← hlt, lt_div_iff₀ two_pos, mul_comm]
  have h2 : (t : ℝ) = m / 2 / 2 ^ d ↔ (t : ℝ) = v / 2 ^ d := by
    rw [eq_div_iff hd.ne', eq_div_iff hd.ne', ← heq, eq_div_iff two_ne_zero, mul_comm]
  simp only [halves, compare, compareOfLessAndEq, ← hm, hcut, hexact, h1, h2]

/-- The integer square root holds its argument between two squares. -/
theorem isqrtFrom_spec {m k r : Nat} (hr : r * r ≤ m) (hm : m < (r + 2 ^ k) * (r + 2 ^ k)) :
    isqrtFrom m k r * isqrtFrom m k r ≤ m ∧ m < (isqrtFrom m k r + 1) * (isqrtFrom m k r + 1) := by
  induction k generalizing r with
  | zero => exact ⟨hr, hm⟩
  | succ k ih =>
    rw [isqrtFrom]
    by_cases h : (r + 2 ^ k) * (r + 2 ^ k) ≤ m
    · rw [if_pos h]
      exact ih h (by rwa [add_assoc, ← mul_two, ← pow_succ])
    · rw [if_neg h]
      exact ih hr (not_le.1 h)

theorem isqrt_spec (m : Nat) : isqrt m * isqrt m ≤ m ∧ m < (isqrt m + 1) * (isqrt m + 1) := by
  refine isqrtFrom_spec (by omega) ?_
  rw [zero_add, ← pow_add]
  exact Nat.lt_log2_self.trans_le (Nat.pow_le_pow_right two_pos (by omega))

/-- A value cut with a sticky bit below enough digits is rounded as the exact value. -/
theorem Fmt.roundIeee_sticky (hp : 2 ≤ f.prec) (hp' : f.prec ≤ 53) (hm : x.m = 2 * n + b2n rest)
    (hlow : (n : ℝ) ≤ v) (hhigh : v < n + 1) (hrest : rest = false ↔ (n : ℝ) = v) (hn : 2 ^ 120 ≤ n) (hq : q ≤ f.qmin) (htop : q ≤ x.e + 122 - f.prec) :
    RoundedIn f md x.neg q (halves (v * 2 ^ (x.e + 1) * 2 ^ (-q))) (f.roundIeee md x) := by
  have hlog : 121 ≤ Nat.log2 x.m := (Nat.le_log2 (by omega)).2 (by omega)
  obtain ⟨d, hd⟩ : ∃ d : Nat, f.top x.m x.e = x.e + (d + 2 : Nat) := ⟨(f.top x.m x.e - x.e - 2).toNat, by rw [top]; omega⟩
  refine roundIeee_roundedIn hp hq (by omega) (by rw [top]; omega) ?_
  have hcut := halves_sticky hlow hhigh hrest d
  have h1 : x.e - (x.e + (d + 2 : Nat)) = -(d + 2 : Nat) := by ring
  have h2 : x.e + 1 + -(x.e + (d + 2 : Nat)) = -(d + 1 : Nat) := by push_cast; ring
  rw [hd, mul_assoc, ← zpow_add₀ two_ne_zero, h1, h2, zpow_neg, zpow_neg, zpow_natCast, zpow_natCast, ← div_eq_mul_inv,
    ← div_eq_mul_inv, hm]
  exact hcut

/-- A quotient is rounded once. -/
theorem Fmt.roundIeee_quot (hp : 2 ≤ f.prec) (hp' : f.prec ≤ 53) (hx : x.m ≠ 0) (hy : y.m ≠ 0)
    (hq : q ≤ min f.qmin (x.e - y.e - (Nat.log2 y.m : Int) - f.prec - 2)) :
    RoundedIn f md (x.neg != y.neg) q (fun t => compare (t * y.m) (2 * scaleTo x.m (x.e - y.e) q)) (f.roundIeee md (x.quot y 120)) := by
  obtain ⟨k, hk⟩ : ∃ k, k = 120 + Nat.log2 y.m + 2 := ⟨_, rfl⟩
  obtain ⟨m, hm⟩ : ∃ m, m = x.m * 2 ^ k := ⟨_, rfl⟩
  have hquot : x.quot y 120 = { neg := x.neg != y.neg, m := 2 * (m / y.m) + b2n (m % y.m != 0), e := x.e - y.e - (k : Int) - 1 } := by
    rw [hm, hk]
    rfl
  have hy0 : (0 : ℝ) < y.m := Nat.cast_pos.2 (Nat.pos_of_ne_zero hy)
  have hdiv : (m : ℝ) = y.m * (m / y.m : Nat) + (m % y.m : Nat) := by exact_mod_cast (Nat.div_add_mod m y.m).symm
  have hmod : ((m % y.m : Nat) : ℝ) < y.m := Nat.cast_lt.2 (Nat.mod_lt _ (Nat.pos_of_ne_zero hy))
  have hmod0 : (0 : ℝ) ≤ (m % y.m : Nat) := Nat.cast_nonneg _
  have h := f.roundIeee_sticky (md := md) (x := x.quot y 120) (n := m / y.m) (v := m / y.m) (rest := m % y.m != 0) (q := q) hp hp'
    (by rw [hquot])
    (by rw [le_div_iff₀ hy0]; linarith)
    (by rw [div_lt_iff₀ hy0]; linarith)
    (by
      rw [bne_eq_false_iff_eq, eq_div_iff hy0.ne', ← Nat.cast_inj (R := ℝ), Nat.cast_zero]
      constructor <;> intro h <;> linarith)
    (by
      rw [Nat.le_div_iff_mul_le (Nat.pos_of_ne_zero hy), hm, hk]
      have h1 : y.m ≤ 2 ^ (Nat.log2 y.m + 1) := Nat.lt_log2_self.le
      have h2 : 1 ≤ x.m := Nat.pos_of_ne_zero hx
      calc 2 ^ 120 * y.m ≤ 2 ^ 120 * 2 ^ (Nat.log2 y.m + 1) := Nat.mul_le_mul_left _ h1
        _ = 2 ^ (120 + Nat.log2 y.m + 1) := by rw [← pow_add, add_assoc]
        _ ≤ 2 ^ (120 + Nat.log2 y.m + 2) := Nat.pow_le_pow_right two_pos (by omega)
        _ ≤ x.m * 2 ^ (120 + Nat.log2 y.m + 2) := Nat.le_mul_of_pos_left _ h2)
    (by omega)
    (by rw [hquot]; simp only; omega)
  have hv : (m : ℝ) / y.m * 2 ^ ((x.quot y 120).e + 1) * 2 ^ (-q) = (scaleTo x.m (x.e - y.e) q : Nat) / y.m := by
    obtain ⟨e, he⟩ : ∃ e, e = (x.quot y 120).e + 1 := ⟨_, rfl⟩
    have hsum : (k : Int) + e + -q = x.e - y.e - q := by rw [he, hquot]; ring
    rw [cast_scaleTo (by omega), ← he, ← hsum, hm, zpow_add₀ two_ne_zero, zpow_add₀ two_ne_zero, zpow_natCast]
    push_cast
    ring
  have hcmp : (fun t => compare (t * y.m) (2 * scaleTo x.m (x.e - y.e) q)) = halves ((scaleTo x.m (x.e - y.e) q : Nat) / y.m) := by
    funext t
    simp only [halves, compare, compareOfLessAndEq, ← mul_div_assoc, lt_div_iff₀ hy0, eq_div_iff hy0.ne']
    norm_cast
  rw [hv, ← hcmp] at h
  exact h

/-- A square root is rounded once. -/
theorem Fmt.roundIeee_root (hp : 2 ≤ f.prec) (hp' : f.prec ≤ 53) (hx : x.m ≠ 0) (hq : q ≤ min f.qmin (x.e / 2 - f.prec - 2)) :
    RoundedIn f md false q (fun t => compare (t * t) (4 * scaleTo x.m x.e (2 * q))) (f.roundIeee md x.root) := by
  obtain ⟨k, hk⟩ : ∃ k : Nat, k = if x.e % 2 = 0 then 240 else 241 := ⟨_, rfl⟩
  have hk0 : 240 ≤ k ∧ k ≤ 241 := by rw [hk]; split <;> omega
  obtain ⟨j, hj⟩ : ∃ j : Int, x.e - k = 2 * j := ⟨(x.e - k) / 2, by rw [hk]; split <;> omega⟩
  obtain ⟨m, hm⟩ : ∃ m, m = x.m * 2 ^ k := ⟨_, rfl⟩
  have hroot : x.root = { neg := false, m := 2 * isqrt m + b2n (isqrt m * isqrt m != m), e := j - 1 } := by
    have hj' : (x.e - k) / 2 = j := by omega
    rw [← hj', hm, hk]
    rfl
  obtain ⟨hlow, hhigh⟩ := isqrt_spec m
  have hlow' : (isqrt m : ℝ) * isqrt m ≤ m := by exact_mod_cast hlow
  have hhigh' : (m : ℝ) < (isqrt m + 1) * (isqrt m + 1) := by exact_mod_cast hhigh
  have h := f.roundIeee_sticky (md := md) (x := x.root) (n := isqrt m) (v := √m) (rest := isqrt m * isqrt m != m) (q := q) hp hp'
    (by rw [hroot])
    (Real.le_sqrt_of_sq_le (by rwa [sq]))
    ((Real.sqrt_lt' (by positivity)).2 (by rwa [sq]))
    (by
      rw [bne_eq_false_iff_eq, eq_comm (b := √(m : ℝ)), Real.sqrt_eq_iff_mul_self_eq (by positivity) (by positivity), eq_comm]
      exact_mod_cast Iff.rfl)
    (by
      have h1 : 2 ^ 120 * 2 ^ 120 ≤ m := by
        rw [hm, ← pow_add]
        exact (Nat.pow_le_pow_right two_pos hk0.1).trans (Nat.le_mul_of_pos_left _ (Nat.pos_of_ne_zero hx))
      exact Nat.lt_succ_iff.1 (lt_of_mul_self_lt_mul_self₀ (Nat.zero_le _) (h1.trans_lt hhigh)))
    (by omega)
    (by rw [hroot]; simp only; omega)
  obtain ⟨z, hz⟩ : ∃ z : ℝ, z = √m * 2 ^ (j - q) := ⟨_, rfl⟩
  have hz0 : 0 ≤ z := hz ▸ by positivity
  have hv : √(m : ℝ) * 2 ^ (x.root.e + 1) * 2 ^ (-q) = z := by
    rw [hroot, hz, mul_assoc, ← zpow_add₀ two_ne_zero, sub_add_cancel, sub_eq_add_neg]
  have hsq : ((scaleTo x.m x.e (2 * q) : Nat) : ℝ) = z * z := by
    have hsum : x.e - 2 * q = k + (j - q) + (j - q) := by rw [← sub_add_cancel x.e k, hj]; ring
    rw [cast_scaleTo (by omega), hsum, hz, mul_mul_mul_comm, Real.mul_self_sqrt m.cast_nonneg, hm, zpow_add₀ two_ne_zero,
      zpow_add₀ two_ne_zero, zpow_natCast]
    push_cast
    ring
  have hcmp : (fun t => compare (t * t) (4 * scaleTo x.m x.e (2 * q))) = halves z := by
    funext t
    have hlt : t * t < 4 * scaleTo x.m x.e (2 * q) ↔ (t : ℝ) < 2 * z := by
      rw [mul_self_lt_mul_self_iff t.cast_nonneg (by positivity), mul_mul_mul_comm, ← hsq]
      norm_num
      exact_mod_cast Iff.rfl
    have heq : t * t = 4 * scaleTo x.m x.e (2 * q) ↔ (t : ℝ) = 2 * z := by
      rw [← mul_self_inj t.cast_nonneg (by positivity), mul_mul_mul_comm, ← hsq]
      norm_num
      exact_mod_cast Iff.rfl
    simp only [halves, compare, compareOfLessAndEq, hlt, heq]
  rw [hv, ← hcmp] at h
  rwa [show x.root.neg = false from rfl] at h

end

end Sys2Proof.Machine

/-! # Scalar floating results (O4) -/

namespace Sys2Proof.Machine
open Safety

/-! ## A result and its flags -/

section
variable {s : State}

theorem Strand.toNat_raise (t : Strand) (fl : Nat) : ((t.raise fl).ctl cFflags).toNat = (t.ctl cFflags).toNat ||| fl % 32 := by
  have hlt : (t.ctl cFflags).toNat ||| fl % 32 < 2 ^ 64 := Nat.or_lt_two_pow (t.ctl cFflags).isLt (by omega)
  have h : (t.raise fl).ctl cFflags = word ((t.ctl cFflags).toNat ||| fl % 32) := t.ctl_setCtl _ _
  rw [h, word, BitVec.toNat_ofNat, Nat.mod_eq_of_lt hlt]

/-- The result of a floating instruction. -/
theorem givesFlags_putFp {w : Nat} {i : Instr} (rd : BitVec w) (r : Nat × Nat) (lat : Nat) (h : exec i s = s.putFp rd r lat) :
    GivesFlags s i rd.toNat (BitVec.ofNat 64 r.1) r.2 := by
  refine ⟨_, h, ?_⟩
  have heq : ((s.gw rd (word r.1)).modCur fun t => t.raise r.2).complete 4 lat
      = s.modCur fun t => ((t.wr rd.toNat (word r.1)).raise r.2).complete
          (((s.gw rd (word r.1)).modCur fun t => t.raise r.2).cycleOf s.curCore) 4 lat := by
    rw [State.complete, modCur_modCur, State.gw, modCur_modCur]
    rfl
  rw [heq]
  obtain ⟨c, hc⟩ : ∃ c, c = ((s.gw rd (word r.1)).modCur fun t => t.raise r.2).cycleOf s.curCore := ⟨_, rfl⟩
  rw [← hc]
  refine ⟨fun n => ?_, by simp [Strand.raise], ?_, ?_, fun n h h' => ?_, ?_, by simp, onlyStrand_modCur s _⟩
  · simp [Strand.raise, Strand.rd_wr]
    rfl
  · rw [State.cur_modCur, Strand.instret_complete, Strand.raise, Strand.ctl_setCtl_ne _ _ _ _ (by decide), Strand.ctl_wr]
  · rw [State.cur_modCur, Strand.ctl_complete _ _ _ _ _ (by decide), Strand.toNat_raise, Strand.ctl_wr]
  · rw [State.cur_modCur, Strand.ctl_complete _ _ _ _ _ h, Strand.raise, Strand.ctl_setCtl_ne _ _ _ _ h', Strand.ctl_wr]
  · simp [SameUnits, Strand.raise]

end

/-! ## Sums, NaNs and infinities -/

section
variable {f : Fmt} {md : RMode} {a b : Dy}

theorem Fmt.add_fin : f.add md (.fin a) (.fin b) = f.roundIeee md (a.add b (decide (md = .rdn))) := rfl

theorem Fmt.mul_fin : f.mul md (.fin a) (.fin b) = f.roundIeee md (a.mul b) := by
  have h : f.mul md (.fin a) (.fin b) = ((f.roundIeee md (a.mul b)).1, 0 ||| (f.roundIeee md (a.mul b)).2) := rfl
  rw [h, Nat.zero_or]

theorem Fmt.fma_fin {c : Dy} : f.fma md (.fin a) (.fin b) (.fin c) = f.add md (.fin (a.mul b)) (.fin c) := by
  have h : f.fma md (.fin a) (.fin b) (.fin c)
      = ((f.add md (.fin (a.mul b)) (.fin c)).1, 0 ||| (f.add md (.fin (a.mul b)) (.fin c)).2 ||| 0) := rfl
  rw [h, Nat.zero_or, Nat.or_zero]

theorem Fmt.roundIeee_zero (h : a.m = 0) : f.roundIeee md a = (f.code a.neg 0, 0) := if_pos h

theorem Fmt.add_cancels (h : a.at (min a.e b.e) + b.at (min a.e b.e) = 0) :
    f.add md (.fin a) (.fin b) = (f.code (if a.m = 0 ∧ b.m = 0 ∧ a.neg = b.neg then a.neg else decide (md = .rdn)) 0, 0) := by
  rw [add_fin, Dy.add]
  split
  · exact roundIeee_zero rfl
  · rw [h]
    exact roundIeee_zero rfl

/-- A sum of two exact values is rounded once. -/
theorem Fmt.roundIeee_add {q : Int} {z : Bool} (hp : 2 ≤ f.prec) (hq : q ≤ min f.qmin (min a.e b.e - f.prec))
    (hi : a.at q + b.at q ≠ 0) :
    RoundedIn f md (decide (a.at q + b.at q < 0)) q (fun t => compare t (2 * (a.at q + b.at q).natAbs)) (f.roundIeee md (a.add b z)) := by
  have hat : (a.add b z).at q = a.at q + b.at q := Dy.add_at (by omega)
  rw [← hat] at hi ⊢
  exact roundIeee_exact hp (by rw [Dy.add_e]; exact hq) hi

theorem FVal.nv_eq_ite (x : FVal) : x.nv = if x = .nan true then flagNV else 0 := by
  cases x with
  | nan sig => cases sig <;> rfl
  | inf n => rfl
  | fin d => rfl

theorem FVal.nv_or_nv (x y : FVal) : x.nv ||| y.nv = if x = .nan true ∨ y = .nan true then flagNV else 0 := by
  rw [nv_eq_ite, nv_eq_ite]
  by_cases hx : x = .nan true <;> by_cases hy : y = .nan true <;> simp [hx, hy]

theorem FVal.isNan_iff {x : FVal} : x.isNan = true ↔ ∃ g, x = .nan g := by
  cases x with
  | nan g => exact iff_of_true rfl ⟨g, rfl⟩
  | inf n => exact iff_of_false Bool.false_ne_true nofun
  | fin d => exact iff_of_false Bool.false_ne_true nofun

section
variable {x y : FVal}

theorem Fmt.add_nan (h : x.isNan = true ∨ y.isNan = true) : f.add md x y = (f.nan, x.nv ||| y.nv) := by
  obtain h | h := h <;> obtain ⟨g, rfl⟩ := FVal.isNan_iff.1 h
  · rfl
  · cases x <;> rfl

theorem FVal.mul_nan (h : x.isNan = true ∨ y.isNan = true) : x.mul y = (.nan false, x.nv ||| y.nv) := by
  obtain h | h := h <;> obtain ⟨g, rfl⟩ := FVal.isNan_iff.1 h
  · rfl
  · cases x <;> rfl

theorem Fmt.mul_nan (h : x.isNan = true ∨ y.isNan = true) : f.mul md x y = (f.nan, x.nv ||| y.nv) := by
  have hmul : f.mul md x y = ((f.roundVal md (x.mul y).1).1, (x.mul y).2 ||| (f.roundVal md (x.mul y).1).2) := rfl
  rw [hmul, FVal.mul_nan h]
  exact congrArg (f.nan, ·) (Nat.or_zero _)

theorem Fmt.mul_inf_fin {n : Bool} :
    f.mul md (.inf n) (.fin a) = if a.m = 0 then (f.nan, flagNV) else (f.infCode (n != a.neg), 0) := by
  by_cases h : a.m = 0
  · simp [mul, FVal.mul, roundVal, h]
  · simp [mul, FVal.mul, roundVal, h, FVal.isNeg]

theorem Fmt.div_nan (h : x.isNan = true ∨ y.isNan = true) : f.div md x y = (f.nan, x.nv ||| y.nv) := by
  obtain h | h := h <;> obtain ⟨g, rfl⟩ := FVal.isNan_iff.1 h
  · rfl
  · cases x <;> rfl

/-- A NaN gives the canonical NaN, and NV where one signals. -/
theorem Fmt.nan_operand (h : x.isNan = true ∨ y.isNan = true) :
    let r := (f.nan, if x = .nan true ∨ y = .nan true then flagNV else 0)
    f.add md x y = r ∧ f.sub md x y = r ∧ f.mul md x y = r ∧ f.div md x y = r := by
  have hopp : y.opp.isNan = y.isNan ∧ y.opp.nv = y.nv := by cases y <;> exact ⟨rfl, rfl⟩
  have hsub : f.sub md x y = (f.nan, x.nv ||| y.nv) := by rw [sub, add_nan (hopp.1 ▸ h), hopp.2]
  rw [← FVal.nv_or_nv]
  exact ⟨add_nan h, hsub, mul_nan h, div_nan h⟩

end

end

/-! ## Minimum and maximum -/

section
variable {f : Fmt}

/-- The first of two numbers lies below the second, or is the negative zero. -/
def FVal.below (x y : FVal) : Bool :=
  match x.rel y with
  | .lt => true
  | .gt => false
  | _ => x.isNeg || !y.isNeg

section
variable {x y : FVal}

theorem FVal.below_of_lt (h : x.rel y = .lt) : x.below y = true := by rw [below, h]

theorem FVal.below_of_gt (h : x.rel y = .gt) : x.below y = false := by rw [below, h]

theorem FVal.below_of_eq (h : x.rel y = .eq) : x.below y = (x.isNeg || !y.isNeg) := by rw [below, h]

end

theorem Fmt.minMax_eq (mx : Bool) (x y : Nat) :
    f.minMax mx x y = (bif (f.val x).isNan then bif (f.val y).isNan then f.nan else y
      else bif (f.val y).isNan then x else if (f.val x).below (f.val y) = mx then y else x, (f.val x).nv ||| (f.val y).nv) := by
  unfold minMax FVal.below
  generalize f.val x = vx, f.val y = vy
  dsimp only
  generalize vx.rel vy = rel
  cases vx <;> cases vy <;> cases rel <;> simp [FVal.isNan, FVal.nv]

theorem Fmt.minMax_spec (mx : Bool) (x y : Nat) :
    let r := f.minMax mx x y
    let vx := f.val x
    let vy := f.val y
    r.2 = (if vx = .nan true ∨ vy = .nan true then flagNV else 0)
      ∧ (vx.isNan = true → vy.isNan = true → r.1 = f.nan)
      ∧ (vx.isNan = true → vy.isNan = false → r.1 = y)
      ∧ (vx.isNan = false → vy.isNan = true → r.1 = x)
      ∧ (vx.isNan = false → vy.isNan = false → (r.1 = x ∨ r.1 = y)
          ∧ (vx.rel vy = .lt → r.1 = if mx then y else x) ∧ (vx.rel vy = .gt → r.1 = if mx then x else y)
          ∧ (vx.rel vy = .eq → vx.isNeg ≠ vy.isNeg → (f.val r.1).isNeg = !mx)) := by
  intro r vx vy
  have hr : r = _ := f.minMax_eq mx x y
  rw [hr]
  refine ⟨FVal.nv_or_nv _ _, fun hx hy => by rw [hx, hy]; rfl, fun hx hy => by rw [hx, hy]; rfl, fun hx hy => by rw [hx, hy]; rfl,
    fun hx hy => ?_⟩
  rw [hx, hy, cond_false, cond_false]
  refine ⟨(ite_eq_or_eq _ _ _).symm, fun h => ?_, fun h => ?_, fun h hne => ?_⟩
  · rw [FVal.below_of_lt h]
    cases mx <;> rfl
  · rw [FVal.below_of_gt h]
    cases mx <;> rfl
  · rw [FVal.below_of_eq h, apply_ite f.val, apply_ite FVal.isNeg]
    revert hne
    cases vx.isNeg <;> cases vy.isNeg <;> cases mx <;> decide

end

/-! ## Integers -/

section
variable {md : RMode} {x : Dy}

theorem roundStep_integer {odd : Nat → Bool} (hodd : ∀ n, odd n = decide (n % 2 = 1)) :
    let r := roundStep md x.neg x.m x.e 0 odd
    let q := min x.e 0
    RoundsTo (fun k => scaleTo k 0 q) md x.neg (fun t => compare t (2 * scaleTo x.m x.e q)) r.1
      ∧ (r.2 = true ↔ scaleTo r.1 0 q = scaleTo x.m x.e q) := by
  intro r q
  obtain ⟨hround, hexact⟩ := roundStep_roundsAt (md := md) (neg := x.neg) (m := x.m) (e := x.e) (q := 0) hodd
  obtain ⟨u, hu⟩ : ∃ u : ℝ, u = 2 ^ (0 - q) := ⟨_, rfl⟩
  have hu0 : 0 < u := hu ▸ by positivity
  have hq : q ≤ 0 := min_le_right ..
  have hv : ((scaleTo x.m x.e q : Nat) : ℝ) = x.m * 2 ^ (x.e - 0) * u := by
    rw [cast_scaleTo (min_le_left ..), hu, mul_assoc, ← zpow_add₀ two_ne_zero, sub_add_sub_cancel]
  have hgrid (k : Nat) : ((scaleTo k 0 q : Nat) : ℝ) = k * u := by rw [cast_scaleTo hq, hu]
  constructor
  · rw [compare_eq_halves, roundsTo_halves_iff, hgrid, hgrid, hgrid, hv]
    refine (hround.mul hu0).widen (by push_cast; rfl) id ?_
    refine (Nat.eq_zero_or_pos _).imp_right fun hn => .inl ?_
    rw [Nat.cast_pred hn]
  · rw [hexact, ← Nat.cast_inj (R := ℝ), hgrid, hv, mul_left_inj' hu0.ne']

theorem FVal.toIntN_fin_eq {signed : Bool} {n : Nat} : (FVal.fin x).toIntN md signed n
    = (clampInt signed n (x.toInt md).1,
        if clampInt signed n (x.toInt md).1 ≠ (x.toInt md).1 then flagNV else if (x.toInt md).2 then 0 else flagNX) := by
  simp only [toIntN]
  split
  next => rfl
  next h => rw [not_not.1 h]

section
variable {signed : Bool} {n : Nat}

theorem intLo_eq : intLo signed n = if signed then -2 ^ (n - 1) else 0 := by
  unfold intLo
  push_cast
  rfl

theorem intHi_eq : intHi signed n = if signed then 2 ^ (n - 1) - 1 else 2 ^ n - 1 := by
  unfold intHi
  push_cast
  rfl

theorem FVal.toIntN_inf {neg : Bool} : (FVal.inf neg).toIntN md signed n = (if neg then if signed then -2 ^ (n - 1) else 0
    else if signed then 2 ^ (n - 1) - 1 else 2 ^ n - 1, flagNV) := by
  rw [← intLo_eq, ← intHi_eq]
  rfl

/-- An integer is the rounded value held to its range. -/
theorem FVal.toIntN_fin :
    let lo : Int := if signed then -2 ^ (n - 1) else 0
    let hi : Int := if signed then 2 ^ (n - 1) - 1 else 2 ^ n - 1
    let q := min x.e 0
    let v := scaleTo x.m x.e q
    ∃ i, RoundsTo (fun k => scaleTo k 0 q) md x.neg (fun t => compare t (2 * v)) i
      ∧ (let j : Int := if x.neg then -i else i
         let k := max lo (min hi j)
         (FVal.fin x).toIntN md signed n = (k, if k ≠ j then flagNV else if scaleTo i 0 q = v then 0 else flagNX)) := by
  obtain ⟨hround, hexact⟩ := roundStep_integer (md := md) (x := x) (odd := fun n => decide (n % 2 = 1)) fun _ => rfl
  rw [← intLo_eq, ← intHi_eq]
  obtain ⟨r, hr⟩ : ∃ r, r = roundStep md x.neg x.m x.e 0 (fun n => decide (n % 2 = 1)) := ⟨_, rfl⟩
  rw [← hr] at hround hexact
  have hint : x.toInt md = (if x.neg then -(r.1 : Int) else r.1, r.2) := by rw [hr]; rfl
  refine ⟨r.1, hround, ?_⟩
  dsimp only
  rw [toIntN_fin_eq, hint]
  simp only [clampInt, hexact]

end

end

/-! ## The statement -/

section

theorem scalar_prec {f : Fmt} (hf : f ∈ [fmtH, fmtBf, fmtF, fmtD]) : 2 ≤ f.prec ∧ f.prec ≤ 53 := by
  simp only [List.mem_cons, List.not_mem_nil, or_false] at hf
  obtain rfl | rfl | rfl | rfl := hf <;> decide

theorem gives_float (s : State) (rd rs1 rs2 rm : BitVec 6) (rs3 : BitVec 4) (ty : BitVec 2) (src dst : BitVec 3) :
    let f := scalarFmt ty.toNat
    let md := rmodeOf s.cur.frm
    let fa := (s.cur.rd rs1.toNat).toNat % 2 ^ scalarBits ty.toNat
    let fb := (s.cur.rd rs2.toNat).toNat % 2 ^ scalarBits ty.toNat
    let fc := (s.cur.rd rs3.toNat).toNat % 2 ^ scalarBits ty.toNat
    let gives := fun (i : Instr) (r : Nat × Nat) => GivesFlags s i rd.toNat (BitVec.ofNat 64 r.1) r.2
    gives (.fadd rd rs1 rs2 ty) (f.add md (f.val fa) (f.val fb))
      ∧ gives (.fsub rd rs1 rs2 ty) (f.sub md (f.val fa) (f.val fb))
      ∧ gives (.fmul rd rs1 rs2 ty) (f.mul md (f.val fa) (f.val fb))
      ∧ gives (.fdiv rd rs1 rs2 ty) (f.div md (f.val fa) (f.val fb))
      ∧ gives (.fsqrt rd rs1 ty) (f.sqrt md (f.val fa))
      ∧ gives (.fmin rd rs1 rs2 ty) (f.minMax false fa fb)
      ∧ gives (.fmax rd rs1 rs2 ty) (f.minMax true fa fb)
      ∧ gives (.fcmp rd rs1 rs2 ty) (cmpResult f fa fb)
      ∧ gives (.fclass rd rs1 ty) (2 ^ f.classOf fa, 0)
      ∧ gives (.ffma rd rs1 rs2 rs3 ty) (f.fma md (f.val fa) (f.val fb) (f.val fc))
      ∧ gives (.fcvt rd rs1 rm src dst)
          (cvtResult dst.toNat (if rm.toNat = 0 then md else rmodeOf rm.toNat) (cvtSource src.toNat (s.cur.rd rs1.toNat))) :=
  ⟨givesFlags_putFp rd _ 4 rfl, givesFlags_putFp rd _ 4 rfl, givesFlags_putFp rd _ 4 rfl, givesFlags_putFp rd _ (divCycles ty.toNat) rfl,
    givesFlags_putFp rd _ (divCycles ty.toNat) rfl, givesFlags_putFp rd _ 4 rfl, givesFlags_putFp rd _ 4 rfl, givesFlags_putFp rd _ 4 rfl,
    givesFlags_putFp rd (_, 0) 4 rfl, givesFlags_putFp rd _ 5 rfl, givesFlags_putFp rd _ 4 rfl⟩

end

/-- Settles O4: each instruction is its operation of the number chapter, and each operation rounds an exact value once. -/
theorem floatResults : Obligations.FloatResults := by
  unfold Obligations.FloatResults
  refine ⟨fun s rd rs1 rs2 rm rs3 ty src dst => gives_float s rd rs1 rs2 rm rs3 ty src dst, fun f hf md a b c => ?_⟩
  obtain ⟨hp, hp'⟩ := scalar_prec hf
  intro e zero sum nothing
  have sum_of {q : Int} {x y : Dy} {n : Int} {r : Nat × Nat}
      (h : x.at q + y.at q ≠ 0 → RoundedIn f md (decide (x.at q + y.at q < 0)) q (fun t => compare t (2 * (x.at q + y.at q).natAbs)) r) :
      sum q x y { nothing with e := n } r := by
    have hz : Dy.at { nothing with e := n } q = 0 := Dy.at_of_zero
    dsimp only [sum]
    rwa [hz, add_zero]
  refine ⟨?_, ?_, Fmt.add_cancels, fun ha hb => ?_, ?_, fun ha hneg => ?_, ?_, fun x y h => Fmt.nan_operand h, fun n m => ?_,
    fun mx x y => Fmt.minMax_spec mx x y, fun signed n hn => ?_⟩
  · exact sum_of fun hi => Fmt.roundIeee_add hp le_rfl hi
  · exact sum_of fun hi => Fmt.roundIeee_add hp le_rfl hi
  · intro p
    refine ⟨?_, ?_, ?_⟩
    · rw [Fmt.mul_fin]
      refine sum_of ?_
      have hz : Dy.at { nothing with e := p.e } (min f.qmin (p.e - f.prec)) = 0 := Dy.at_of_zero
      rw [hz, add_zero]
      exact fun hi => Fmt.roundIeee_exact hp le_rfl hi
    · rw [Fmt.fma_fin]
      exact sum_of fun hi => Fmt.roundIeee_add hp le_rfl hi
    · have hdiv : f.div md (.fin a) (.fin b) = f.roundIeee md (a.quot b 120) := by simp only [Fmt.div, if_neg hb, if_neg ha]
      rw [hdiv]
      exact Fmt.roundIeee_quot hp hp' ha hb le_rfl
  · intro ha hb
    simp only [Fmt.div, if_pos hb, if_neg ha, FVal.isNeg]
  · have hsqrt : f.sqrt md (.fin a) = f.roundIeee md a.root := by simp [Fmt.sqrt, ha, hneg]
    rw [hsqrt]
    exact Fmt.roundIeee_root hp hp' ha le_rfl
  · intro ha hneg
    simp [Fmt.sqrt, ha, hneg]
  · exact ⟨rfl, Fmt.mul_inf_fin, rfl⟩
  · exact ⟨fun _ => rfl, fun g => FVal.toIntN_inf, FVal.toIntN_fin⟩

end Sys2Proof.Machine

/-! # Entering the vector queue (O12) -/

namespace Sys2Proof.Machine
open Safety

section
variable {s : State} {i : Instr}

theorem checkVhold_of_not (h : s.cur.status.vhold = false) : checkVhold i s = .ok () s := by
  change (if s.cur.status.vhold then trap 0 xVhold (wordOf i) else pure () : Act Unit) s = _
  rw [h]; rfl

theorem issueWhen_of_true {p : State → Bool} (h : p s = true) : issueWhen p s = .ok () s := by
  change (if p s then pure () else forfeit : Act Unit) s = _
  rw [h]; rfl

/-- An empty queue's first entry restarts the timer, which concerns ctl.eptime alone. -/
theorem Strand.ctl_restartTimer (t : Strand) {n : Nat} (h : n ≠ cEptime) : t.restartTimer.ctl n = t.ctl n :=
  t.ctl_setCtl_ne _ _ _ h

variable {g1 g2 : Word} {lf : BitVec 8}

theorem runAct_enqueue (hv : s.cur.status.vhold = false) (hq : s.cur.vq.length < 16) :
    runAct (enqueue i g1 g2 lf) s = .next (s.modCur fun t => t.enqueue (s.cycleOf s.curCore) i g1 g2 lf) := by
  change runAct (checkVhold i >>= _) s = _
  rw [runAct_bind (checkVhold_of_not hv), runAct_bind (issueWhen_of_true (decide_eq_true hq))]
  rfl

/-- An instruction whose meaning is its entry into the queue takes one with what it captures. -/
theorem enqueues_of_exec (hv : s.cur.status.vhold = false) (hq : s.cur.vq.length < 16)
    (h : exec i s = runAct (enqueue i g1 g2 lf) s) : Enqueues s i g1 g2 lf := by
  refine ⟨_, h.trans (runAct_enqueue hv hq), ?_, ?_, ?_, fun n hn => ?_, ?_, ?_, onlyStrand_modCur s _⟩ <;> rw [State.cur_modCur]
  · unfold Strand.enqueue; split <;> rfl
  · unfold Strand.enqueue; split <;> rfl
  · unfold Strand.enqueue; split <;> rfl
  · unfold Strand.enqueue
    split
    · exact s.cur.ctl_restartTimer hn
    · rfl
  · unfold Strand.enqueue
    split <;> exact ⟨rfl, fun _ => rfl, rfl, rfl, rfl, rfl, rfl, rfl, rfl, rfl⟩
  · unfold Strand.enqueue; split <;> rfl

end

/-- Settles O12: the meaning of each instruction is its entry into the queue. -/
theorem vectorIssue : Obligations.VectorIssue := by
  intro s vd va vb k5 idx stride line shape offs level len k cond u reset gs target rd rs1 op k3 efc rm num word hv hq lf issues
  have enters {i : Instr} {g1 g2 : Word} {lf : BitVec 8} (h : exec i s = runAct (enqueue i g1 g2 lf) s) : issues i g1 g2 lf :=
    enqueues_of_exec hv hq h
  and_intros <;> exact enters rfl

end Sys2Proof.Machine

/-! # Performing an entry of the vector queue

`Performs` is all that an arithmetic entry needs: it begins, its strand changes as `arithEntry` says, and it leaves the queue.  Of the strand
such an entry changes the vector, predicate, carry and general registers and ctl.fflags alone (`OnlyRegs`). -/

namespace Sys2Proof.Machine
open Safety

/-! ## What an arithmetic entry may change -/

/-- A strand has changed in its registers and in ctl.fflags alone. -/
structure OnlyRegs (a b : Strand) : Prop where
  rest : { b with g := a.g, efc := a.efc, v := a.v, vh := a.vh, k := a.k, cr := a.cr } = a
  ctl : ∀ n, n ≠ cFflags → b.ctl n = a.ctl n

section
variable {a b : Strand}

theorem OnlyRegs.refl (a : Strand) : OnlyRegs a a := ⟨rfl, fun _ _ => rfl⟩

theorem OnlyRegs.putVec (h : OnlyRegs a b) (n eb : Nat) (xs : List (Nat × Nat)) (hdr : VHdr) : OnlyRegs a (b.putVec n eb xs hdr) :=
  ⟨h.rest, h.ctl⟩

theorem OnlyRegs.raise (h : OnlyRegs a b) (fl : Nat) : OnlyRegs a (b.raise fl) :=
  ⟨h.rest, fun n hn => (b.ctl_setCtl_ne _ _ _ hn).trans (h.ctl n hn)⟩

theorem OnlyRegs.efcw (h : OnlyRegs a b) (n : Nat) (x : BitVec 32) : OnlyRegs a (b.efcw n x) := ⟨h.rest, h.ctl⟩

theorem OnlyRegs.wr (h : OnlyRegs a b) (n : Nat) (x : Word) : OnlyRegs a (b.wr n x) := by
  unfold Strand.wr
  split
  · exact h
  · exact ⟨h.rest, h.ctl⟩

theorem OnlyRegs.kw (h : OnlyRegs a b) (n : Nat) (x : BitVec 256) : OnlyRegs a (b.kw n x) := by
  unfold Strand.kw
  split
  · exact h
  · exact ⟨h.rest, h.ctl⟩

end

/-- Two strands agree in the registers an entry may write and in ctl.fflags. -/
structure SameFile (a b : Strand) : Prop where
  g : b.g = a.g
  efc : b.efc = a.efc
  v : b.v = a.v
  vh : b.vh = a.vh
  k : b.k = a.k
  fflags : b.ctl cFflags = a.ctl cFflags

namespace SameFile
variable {a b : Strand} (h : SameFile a b) (n : Nat)
include h

theorem rd : b.rd n = a.rd n := by rw [Strand.rd, h.g, Strand.rd]
theorem vr : b.vr n = a.vr n := by rw [Strand.vr, h.v, Strand.vr]
theorem vhr : b.vhr n = a.vhr n := by rw [Strand.vhr, h.vh, Strand.vhr]
theorem kr : b.kr n = a.kr n := by rw [Strand.kr, h.k, Strand.kr]
theorem efcr : b.efcr n = a.efcr n := by rw [Strand.efcr, h.efc, Strand.efcr]

end SameFile

/-! ## An entry begins and leaves -/

/-- A strand as its oldest entry begins. -/
def Strand.begins (t : Strand) : Strand := { t with vq := match t.vq with | [] => [] | x :: r => { x with begun := true } :: r }

/-- A strand as its oldest entry, `e`, leaves the queue, before its lanes are settled. -/
def Strand.retires (t : Strand) (cycle : Nat) (e : VEntry) : Strand :=
  let t := t.restartTimer.setCtl cInstret (t.ctl cInstret + 1)
  if awaited e.ins && t.wait = .vres then { t with vq := t.vq.drop 1, wait := .none, readyAt := cycle + 1 } else { t with vq := t.vq.drop 1 }

section
variable {s : State} {sid core slot : Nat} {e : VEntry} {rest : List VEntry} {b : Strand}

theorem State.st_forgetWalks (s : State) (sid' stream sid : Nat) : (s.forgetWalks sid' stream).st sid = s.st sid := by
  unfold State.forgetWalks State.dropWalks
  split <;> rfl

theorem State.chunkReg_of_no_copies (h : (s.core (coreOfSid sid)).copies = []) (k : Nat) : s.chunkReg sid k = false := by
  simp [State.chunkReg, h]

/-- An arithmetic entry that may start changes its strand as `arithEntry` says. -/
theorem performEntry_arith (hchunk : s.chunkReg sid (entryKDest e.ins) = false)
    (harith : arithEntry (s.st sid).begins e = some (.ok b)) :
    performEntry sid e s
      = .ok () (((if e.begun then s else s.forgetWalks sid 1).modSt sid Strand.begins).setSt sid b) := by
  obtain ⟨u, hu⟩ : ∃ u, u = (if e.begun then s else s.forgetWalks sid 1).modSt sid Strand.begins := ⟨_, rfl⟩
  have hst : u.st sid = (s.st sid).begins := by
    rw [hu, State.st_modSt]
    split
    · rfl
    · rw [State.st_forgetWalks]
  have hperform : performEntry sid e s = (match arithEntry (u.st sid) e with
      | some (.ok t) => (set (u.setSt sid t) : VAct Unit)
      | some (.error (code, n)) => vecFault code n
      | none => memEntry sid e) u := by
    change (if !e.begun && s.chunkReg sid (entryKDest e.ins) then (throw .again : VAct Unit) else _) s = _
    rw [hchunk, Bool.and_false, if_neg Bool.false_ne_true, hu]
    rfl
  rw [hperform, hst, harith, ← hu]
  rfl

theorem State.retire_eq : s.retire sid e
    = (s.dropLanes sid fun t => t.retires (s.cycleOf (coreOfSid sid)) e).settleLanes sid := rfl

/-- Of what a strand computes with, settling its lanes changes none but the lanes. -/
theorem State.st_settleLanes (s : State) (sid : Nat) : ∃ vq hold lanes, SameQueue vq (s.st sid).vq
    ∧ (s.settleLanes sid).st sid = { s.st sid with vq := vq, hold := hold, lanes := lanes } := by
  obtain h | ⟨n, h⟩ := s.settleLanes_cases sid <;> rw [h]
  · exact ⟨_, _, _, (sameQueue_clear _).symm, State.st_dropLanes ..⟩
  · exact ⟨_, _, _, rfl, State.st_dropLanes ..⟩

/-- What an entry's leaving does to its strand: the instruction counts, the timer restarts, and who awaits the result goes on. -/
theorem Strand.retires_facts (t : Strand) (cycle : Nat) (e : VEntry) : let u := t.retires cycle e
    SameFile t u ∧ u.vq = t.vq.drop 1 ∧ u.pc = t.pc ∧ u.st = t.st ∧ u.status = t.status ∧ u.ctl cInstret = t.ctl cInstret + 1
      ∧ u.wait = if awaited e.ins ∧ t.wait = .vres then .none else t.wait := by
  have hfl : (t.restartTimer.setCtl cInstret (t.ctl cInstret + 1)).ctl cFflags = t.ctl cFflags :=
    (Strand.ctl_setCtl_ne _ _ _ _ (by decide)).trans (t.ctl_setCtl_ne _ _ _ (by decide))
  have hcount : (t.restartTimer.setCtl cInstret (t.ctl cInstret + 1)).ctl cInstret = t.ctl cInstret + 1 := Strand.ctl_setCtl ..
  have hwait : (awaited e.ins && decide (t.wait = .vres)) = true ↔ awaited e.ins ∧ t.wait = .vres := by simp
  by_cases hw : awaited e.ins ∧ t.wait = .vres
  · rw [if_pos (c := awaited e.ins ∧ t.wait = .vres) hw, show t.retires cycle e = _ from if_pos (hwait.2 hw)]
    exact ⟨⟨rfl, rfl, rfl, rfl, rfl, hfl⟩, rfl, rfl, rfl, rfl, hcount, rfl⟩
  · rw [if_neg (c := awaited e.ins ∧ t.wait = .vres) hw, show t.retires cycle e = _ from if_neg (mt hwait.1 hw)]
    exact ⟨⟨rfl, rfl, rfl, rfl, rfl, hfl⟩, rfl, rfl, rfl, rfl, hcount, rfl⟩

theorem State.st_retire : let t := (s.retire sid e).st sid
    SameFile (s.st sid) t ∧ SameQueue t.vq ((s.st sid).vq.drop 1) ∧ t.pc = (s.st sid).pc ∧ t.st = (s.st sid).st
      ∧ t.status = (s.st sid).status ∧ t.ctl cInstret = (s.st sid).ctl cInstret + 1
      ∧ t.wait = if awaited e.ins ∧ (s.st sid).wait = .vres then .none else (s.st sid).wait := by
  obtain ⟨hfile, hvq, hpc, hrun, hstatus, hret, hwait⟩ := (s.st sid).retires_facts (s.cycleOf (coreOfSid sid)) e
  obtain ⟨vq, hold, lanes, hsame, hst⟩ := (s.dropLanes sid fun t => t.retires (s.cycleOf (coreOfSid sid)) e).st_settleLanes sid
  rw [State.st_dropLanes] at hst hsame
  rw [State.retire_eq, hst]
  exact ⟨⟨hfile.g, hfile.efc, hfile.v, hfile.vh, hfile.k, hfile.fflags⟩, hvq ▸ hsame, hpc, hrun, hstatus, hret, hwait⟩

/-- The oldest entry is performed, and the strand holds what `arithEntry` leaves of it. -/
theorem performed_of_arith (hp : Performs s core slot e rest) (harith : arithEntry (s.st (core * 8 + slot)).begins e = some (.ok b))
    (hb : OnlyRegs (s.st (core * 8 + slot)).begins b) :
    ∃ t, exec (.vectorEntryComplete core slot) s = .next t ∧ Performed s t (core * 8 + slot) rest
      ∧ SameFile b (t.st (core * 8 + slot))
      ∧ (t.st (core * 8 + slot)).wait
        = if awaited e.ins ∧ (s.st (core * 8 + slot)).wait = .vres then .none else (s.st (core * 8 + slot)).wait := by
  obtain ⟨hslot, hvq, hrun, hstopped, hheld, hcopies⟩ := hp
  have hcore : coreOfSid (core * 8 + slot) = core := State.coreOfSid_mul_add core (by omega)
  have hexec (o) (h : s.stepEntry (core * 8 + slot) (performEntry (core * 8 + slot)) = o) :
      exec (.vectorEntryComplete core slot) s = .next o := congrArg Host.Outcome.next h
  generalize core * 8 + slot = sid at *
  obtain ⟨u, hu⟩ : ∃ u, u = ((if e.begun then s else s.forgetWalks sid 1).modSt sid Strand.begins).setSt sid b := ⟨_, rfl⟩
  have hperform : performEntry sid e s = .ok () u :=
    hu ▸ performEntry_arith (State.chunkReg_of_no_copies (hcore ▸ hcopies) _) harith
  have hst : u.st sid = b := hu ▸ State.st_setSt ..
  have hmem : u.mem = s.mem := by
    rw [hu, State.setSt_mem, State.modSt_mem]
    split
    · rfl
    · exact State.forgetWalks_mem ..
  have hstep : s.stepEntry sid (performEntry sid) = u.retire sid e := by
    rw [State.stepEntry, hvq]
    have hruns : (s.st sid).runsEntry = true := by simp [Strand.runsEntry, Strand.progresses, hrun, hvq, hstopped]
    simp only [hruns, hheld, hperform, Bool.not_true, Bool.false_eq_true, if_false]
  obtain ⟨hfile, hq, hpc, hrun', hstatus, hret, hwait⟩ := State.st_retire (s := u) (sid := sid) (e := e)
  rw [hst] at hfile hq hpc hrun' hstatus hret hwait
  have hrest {β : Type} (f : Strand → β) := congrArg f hb.rest
  have hbq : b.vq.drop 1 = rest := by
    rw [show b.vq = _ from hrest Strand.vq, Strand.begins, hvq]
    rfl
  have hbwait : b.wait = (s.st sid).wait := hrest Strand.wait
  refine ⟨_, hexec _ hstep, ⟨hbq ▸ hq, hpc.trans (hrest Strand.pc), ?_, hrun'.trans (hrest Strand.st), hstatus.trans (hrest Strand.status),
    (State.retire_mem ..).trans hmem⟩, hfile, hbwait ▸ hwait⟩
  rw [hret, hb.ctl _ (by decide)]
  rfl

end

end Sys2Proof.Machine

/-! # Elements of a vector register -/

namespace Sys2Proof.Machine
open Safety

/-! ## Elements of a register -/

section
variable {v : BitVec 2048} {eb i j k b x : Nat}

/-- A field of a number replaced, bit by bit. -/
theorem testBit_replace (v p w x b : Nat) (hx : x < 2 ^ w) :
    (v - v / 2 ^ p % 2 ^ w * 2 ^ p + x * 2 ^ p).testBit b = if p ≤ b ∧ b < p + w then x.testBit (b - p) else v.testBit b := by
  obtain ⟨lo, hlo⟩ : ∃ lo, lo = v % 2 ^ p := ⟨_, rfl⟩
  obtain ⟨hi, hhi⟩ : ∃ hi, hi = v / 2 ^ p / 2 ^ w := ⟨_, rfl⟩
  obtain ⟨old, hold⟩ : ∃ old, old = v / 2 ^ p % 2 ^ w := ⟨_, rfl⟩
  have hlo' : lo < 2 ^ p := hlo ▸ Nat.mod_lt _ (Nat.two_pow_pos p)
  have hold' : old < 2 ^ w := hold ▸ Nat.mod_lt _ (Nat.two_pow_pos w)
  have hv : v = 2 ^ p * (2 ^ w * hi + old) + lo := by rw [hhi, hold, hlo, Nat.div_add_mod, Nat.div_add_mod]
  have hnew : v - old * 2 ^ p + x * 2 ^ p = 2 ^ p * (2 ^ w * hi + x) + lo := by
    rw [hv, Nat.mul_add, Nat.mul_add, Nat.mul_comm old, Nat.mul_comm x]
    omega
  rw [← hold, hnew, Nat.testBit_two_pow_mul_add _ hlo', Nat.testBit_two_pow_mul_add _ hx, hv, Nat.testBit_two_pow_mul_add _ hlo',
    Nat.testBit_two_pow_mul_add _ hold']
  grind

theorem testBit_elemAt : (elemAt v eb j).testBit k = (decide (k < eb) && v.getLsbD (eb * j + k)) := by
  rw [elemAt, Nat.testBit_mod_two_pow, Nat.testBit_div_two_pow, Nat.add_comm k]
  rfl

theorem elemAt_lt : elemAt v eb j < 2 ^ eb := Nat.mod_lt _ (Nat.two_pow_pos eb)

theorem getLsbD_setElem (heb : 0 < eb) (hb : b < 2048) :
    (setElem v eb i x).getLsbD b = if b / eb = i then x.testBit (b % eb) else v.getLsbD b := by
  have hin : (eb * i ≤ b ∧ b < eb * i + eb) ↔ b / eb = i := by
    rw [Nat.div_eq_iff heb, Nat.mul_comm i]
    omega
  rw [setElem, BitVec.getLsbD_ofNat, decide_eq_true hb, Bool.true_and, elemAt, testBit_replace _ _ _ _ _ (Nat.mod_lt _ (Nat.two_pow_pos eb)),
    if_congr hin rfl rfl]
  split
  next h =>
    subst h
    have hmod : b - eb * (b / eb) = b % eb := by have := Nat.div_add_mod b eb; omega
    rw [hmod, Nat.testBit_mod_two_pow, decide_eq_true (Nat.mod_lt _ heb), Bool.true_and]
  next => rfl

/-- An element after one is set. -/
theorem elemAt_setElem (heb : 0 < eb) (hj : j < 2048 / eb) :
    elemAt (setElem v eb i x) eb j = if j = i then x % 2 ^ eb else elemAt v eb j := by
  refine Nat.eq_of_testBit_eq fun k => ?_
  rw [testBit_elemAt, apply_ite (Nat.testBit · k), Nat.testBit_mod_two_pow, testBit_elemAt]
  by_cases hk : k < eb
  · have hb : eb * j + k < 2048 := by
      have h1 : eb * (j + 1) ≤ eb * (2048 / eb) := Nat.mul_le_mul_left _ hj
      have h2 := Nat.mul_div_le 2048 eb
      rw [Nat.mul_add] at h1
      omega
    rw [getLsbD_setElem heb hb, Nat.mul_add_div heb, Nat.div_eq_of_lt hk, Nat.add_zero, Nat.mul_add_mod, Nat.mod_eq_of_lt hk]
    simp only [hk, decide_true, Bool.true_and]
  · simp [hk]

end

/-! ## Lists of elements to write -/

/-- A list of pairs is the graph of a partial function. -/
def Lists {α : Type} (xs : List (Nat × α)) (new : Nat → Option α) : Prop := ∀ j x, (j, x) ∈ xs ↔ new j = some x

section
variable {α : Type} {l : List Nat} {xs : List (Nat × α)} {new : Nat → Option α}

/-- The pairs of a function on some indices. -/
theorem lists_map {p : Nat → Prop} [DecidablePred p] {f : Nat → α} (h : ∀ j, j ∈ l ↔ p j) :
    Lists (l.map fun i => (i, f i)) (fun j => if p j then some (f j) else none) := by
  intro j x
  simp only [List.mem_map, Prod.mk.injEq, h]
  constructor
  · rintro ⟨i, hi, rfl, rfl⟩
    rw [if_pos hi]
  · intro hx
    split at hx
    next hp => exact ⟨j, hp, rfl, Option.some.inj hx⟩
    next => cases hx

/-- Elements set from a list. -/
theorem elemAt_setElems {v : BitVec 2048} {eb j : Nat} {xs : List (Nat × Nat)} {new : Nat → Option Nat} (h : Lists xs new) (heb : 0 < eb)
    (hj : j < 2048 / eb) :
    elemAt (setElems v eb xs) eb j = match new j with | some x => x % 2 ^ eb | none => elemAt v eb j := by
  -- a pair that is listed decides its element
  have hfold (ys : List (Nat × Nat)) (hys : ∀ p ∈ ys, new p.1 = some p.2) (w : BitVec 2048) :
      elemAt (ys.foldl (fun v x => setElem v eb x.1 x.2) w) eb j
        = if j ∈ ys.map Prod.fst then (new j).getD 0 % 2 ^ eb else elemAt w eb j := by
    induction ys generalizing w with
    | nil => rfl
    | cons p r ih =>
      have hp := hys p List.mem_cons_self
      simp only [List.foldl_cons, ih fun q hq => hys q (List.mem_cons_of_mem _ hq), elemAt_setElem heb hj, List.map_cons, List.mem_cons]
      by_cases hjp : j = p.1
      · simp [hjp, hp]
      · rw [if_neg hjp]
        exact if_congr (or_iff_right hjp).symm rfl rfl
  rw [setElems, hfold xs (fun p hp => (h p.1 p.2).1 hp) v]
  cases hn : new j with
  | none => rw [if_neg fun hj' => by obtain ⟨p, hp, rfl⟩ := List.mem_map.1 hj'; simp [(h p.1 p.2).1 hp] at hn]
  | some x => rw [if_pos (List.mem_map.2 ⟨(j, x), (h j x).2 hn, rfl⟩)]; rfl

end

/-! ## A strand after an entry that writes a vector register -/

/-- What `EntryWrites` says of the strand alone: elements and header of register `vd`, flags and carries. -/
structure Written (a b : Strand) (vd eb : Nat) (new : Nat → Option Nat) (hdr : VHdr) (fl : Nat → Bool) (efc : Nat → BitVec 32) :
    Prop where
  only : OnlyRegs a b
  elems : ∀ j, j < 2048 / eb → elemAt (b.vr vd) eb j = (new j).elim (elemAt (a.vr vd) eb j) (· % 2 ^ eb)
  header : b.vhr vd = hdr
  others : ∀ n, n ≠ vd → b.vr n = a.vr n ∧ b.vhr n = a.vhr n
  k : b.k = a.k
  g : b.g = a.g
  flags : ∀ i, i < 5 → (b.ctl cFflags).getLsbD i = ((a.ctl cFflags).getLsbD i || fl i)
  carries : ∀ n, n < 4 → b.efcr n = efc n

section
variable {a b : Strand} {vd eb vl : Nat} {new new' : Nat → Option Nat} {hdr : VHdr} {fl : Nat → Bool} {efc : Nat → BitVec 32}

theorem VHdr.esize_cases (h : VHdr) : h.esize = 1 ∨ h.esize = 2 ∨ h.esize = 4 ∨ h.esize = 8 := by
  unfold VHdr.esize
  split
  · have := h.rawsz.isLt
    obtain h | h | h | h : h.rawsz.toNat = 0 ∨ h.rawsz.toNat = 1 ∨ h.rawsz.toNat = 2 ∨ h.rawsz.toNat = 3 := by omega
    all_goals simp [h]
  · unfold esizeOf
    split <;> simp

theorem VHdr.esize_pos (h : VHdr) : 0 < 8 * h.esize := by have := h.esize_cases; omega

theorem Strand.vr_putVec (t : Strand) (n eb : Nat) (xs : List (Nat × Nat)) (h : VHdr) (m : Nat) :
    (t.putVec n eb xs h).vr m = if m = n then setElems (t.vr n) eb xs else t.vr m := tget_tput ..

theorem Strand.vhr_putVec (t : Strand) (n eb : Nat) (xs : List (Nat × Nat)) (h : VHdr) (m : Nat) :
    (t.putVec n eb xs h).vhr m = if m = n then h else t.vhr m := tget_tput ..

theorem written_self (h : ∀ j, new j = none) : Written a a vd eb new (a.vhr vd) (fun _ => false) a.efcr where
  only := .refl a
  elems j _ := by rw [h j]; rfl
  header := rfl
  others _ _ := ⟨rfl, rfl⟩
  k := rfl
  g := rfl
  flags _ _ := (Bool.or_false _).symm
  carries _ _ := rfl

theorem written_putVec {xs : List (Nat × Nat)} (heb : 0 < eb) (h : Lists xs new) :
    Written a (a.putVec vd eb xs hdr) vd eb new hdr (fun _ => false) a.efcr where
  only := (OnlyRegs.refl a).putVec ..
  elems j hj := by
    rw [Strand.vr_putVec, if_pos rfl, elemAt_setElems h heb hj]
    cases new j <;> rfl
  header := by rw [Strand.vhr_putVec, if_pos rfl]
  others n hn := by rw [Strand.vr_putVec, Strand.vhr_putVec, if_neg hn, if_neg hn]; exact ⟨rfl, rfl⟩
  k := rfl
  g := rfl
  flags _ _ := (Bool.or_false _).symm
  carries _ _ := rfl

theorem Strand.getLsbD_raise (t : Strand) (fl : Nat) {i : Nat} (hi : i < 5) :
    ((t.raise fl).ctl cFflags).getLsbD i = ((t.ctl cFflags).getLsbD i || fl.testBit i) := by
  rw [← BitVec.testBit_toNat, t.toNat_raise, Nat.testBit_or, show 32 = 2 ^ 5 from rfl, Nat.testBit_mod_two_pow, decide_eq_true hi,
    Bool.true_and]
  rfl

theorem Written.raise (h : Written a b vd eb new hdr (fun _ => false) efc) (x : Nat) :
    Written a (b.raise x) vd eb new hdr x.testBit efc where
  only := h.only.raise x
  elems := h.elems
  header := h.header
  others := h.others
  k := h.k
  g := h.g
  flags i hi := by rw [b.getLsbD_raise x hi, h.flags i hi, Bool.or_false]
  carries := h.carries

/-- The same written in other words. -/
theorem Written.congr {fl' : Nat → Bool} {efc' : Nat → BitVec 32} (h : Written a b vd eb new hdr fl efc)
    (hnew : ∀ j, j < 2048 / eb → (new j).map (· % 2 ^ eb) = (new' j).map (· % 2 ^ eb)) (hfl : ∀ i, i < 5 → fl i = fl' i)
    (hefc : ∀ n, n < 4 → efc n = efc' n) : Written a b vd eb new' hdr fl' efc' where
  only := h.only
  elems j hj := by
    have h1 (o : Option Nat) : o.elim (elemAt (a.vr vd) eb j) (· % 2 ^ eb)
        = (o.map (· % 2 ^ eb)).elim (elemAt (a.vr vd) eb j) id := by cases o <;> rfl
    rw [h.elems j hj, h1, h1, hnew j hj]
  header := h.header
  others := h.others
  k := h.k
  g := h.g
  flags i hi := hfl i hi ▸ h.flags i hi
  carries n hn := (h.carries n hn).trans (hefc n hn)

/-- An entry whose strand is written so has written its register. -/
theorem entryWrites_of_written {s : State} {core slot : Nat} {e : VEntry} {rest : List VEntry} (hp : Performs s core slot e rest)
    (harith : arithEntry (s.st (core * 8 + slot)).begins e = some (.ok b))
    (h : Written (s.st (core * 8 + slot)).begins b vd eb new (if e.vl = 0 then (s.st (core * 8 + slot)).vhr vd else hdr) fl efc) :
    EntryWrites s core slot e rest vd eb new hdr fl efc := by
  obtain ⟨t, hexec, hperformed, hfile, -⟩ := performed_of_arith hp harith h.only
  refine ⟨t, hexec, hperformed, ⟨fun j hj => ?_, (hfile.vhr vd).trans h.header, fun n hn => ?_, fun n => ?_, fun n => ?_⟩, fun i hi => ?_,
    fun n hn => (hfile.efcr n).trans (h.carries n hn)⟩
  · rw [hfile.vr, h.elems j hj]
    cases new j <;> rfl
  · rw [hfile.vr, hfile.vhr]
    exact h.others n hn
  · rw [hfile.kr, Strand.kr, h.k]
    rfl
  · rw [hfile.rd, Strand.rd, h.g]
    rfl
  · rw [hfile.fflags]
    exact h.flags i hi

end

/-! ## The checks of an entry -/

section
variable {t u : Strand} {e : VEntry} {r : OpRule} {ns : List Nat}

theorem checkOperands_congr (h : ∀ n, t.vhr n = u.vhr n) (first : Option VHdr) :
    checkOperands t e r first ns = checkOperands u e r first ns := by
  induction ns generalizing first with
  | nil => rfl
  | cons n rest ih => simp only [checkOperands, checkOperand, h, ih]

theorem checkOperands_begins : checkOperands t.begins e r none ns = checkOperands t e r none ns := 
  checkOperands_congr (t := t.begins) (u := t) (fun _ => rfl) none

theorem withChecks_of_ok {go : Unit → Strand} (h : checkOperands t e r none ns = .ok ()) :
    withChecks t e r ns go = .ok (if e.vl = 0 then t else go ()) := by rw [withChecks, h]

end

end Sys2Proof.Machine

/-! # Integer entries and moves (O13) -/

namespace Sys2Proof.Machine
open Safety

/-! ## The number of an integer code -/

section
variable {sg : Bool} {n x y eb : Nat}

theorem wrapI_eq (i : Int) (n : Nat) : wrapI i n = (i % 2 ^ n).toNat := by
  rw [wrapI]
  push_cast
  rfl

/-- The number a code of `n` bits stands for. -/
theorem intOf_of_lt {u : BitVec 1} (hx : x < 2 ^ n) :
    intOf (!decide (u = 1)) n x = if u = 1 ∨ x < 2 ^ (n - 1) then (x : Int) else x - 2 ^ n := by
  by_cases hu : u = 1
  · simp [intOf, hu, Nat.mod_eq_of_lt hx]
  · simp only [intOf, hu, sext, Nat.mod_eq_of_lt hx, decide_false, Bool.not_false, if_true, false_or]
    push_cast
    rfl

/-- A code is its number wrapped. -/
theorem intOf_emod (hx : x < 2 ^ n) : intOf sg n x % 2 ^ n = x := by
  have hcast : ((x % 2 ^ n : Nat) : Int) = x := by rw [Nat.mod_eq_of_lt hx]
  have hmod : (x : Int) % 2 ^ n = x := by exact_mod_cast hcast
  unfold intOf sext
  rw [hcast]
  push_cast
  split_ifs
  · exact hmod
  · rw [Int.sub_emod_right, hmod]
  · exact hmod

theorem toNat_intOf_emod (hx : x < 2 ^ n) : (intOf sg n x % 2 ^ n).toNat = x := by rw [intOf_emod hx, Int.toNat_natCast]

/-- A shift count is taken modulo the size of an element, which divides 2 to that size. -/
theorem toNat_intOf_emod_size (hx : x < 2 ^ n) (hn : n ∣ 2 ^ n) : (intOf sg n x % n).toNat = x % n := by
  have hdvd : (n : Int) ∣ 2 ^ n := by exact_mod_cast hn
  rw [← Int.emod_emod_of_dvd _ hdvd, intOf_emod hx]
  rfl

theorem VHdr.esize_dvd (h : VHdr) : 8 * h.esize ∣ 2 ^ (8 * h.esize) := by
  obtain h | h | h | h := h.esize_cases <;> rw [h]
  · exact ⟨2 ^ 5, rfl⟩
  · exact ⟨2 ^ 12, rfl⟩
  · exact ⟨2 ^ 27, rfl⟩
  · exact ⟨2 ^ 58, rfl⟩

end

/-! ## The operations of R157 over the numbers -/

section
variable {uns : Bool} {eb x y : Nat}

theorem vint_add : VIop.add.eval uns eb x y = ((intOf (!uns) eb x + intOf (!uns) eb y) % 2 ^ eb).toNat := wrapI_eq ..

theorem vint_sub : VIop.sub.eval uns eb x y = ((intOf (!uns) eb x - intOf (!uns) eb y) % 2 ^ eb).toNat := wrapI_eq ..

theorem vint_mul : VIop.mul.eval uns eb x y = (intOf (!uns) eb x * intOf (!uns) eb y % 2 ^ eb).toNat := wrapI_eq ..

theorem vint_mulh : VIop.mulh.eval uns eb x y = (intOf (!uns) eb x * intOf (!uns) eb y / 2 ^ eb % 2 ^ eb).toNat := by
  refine (wrapI_eq ..).trans ?_
  push_cast
  rfl

theorem vint_div : VIop.div.eval uns eb x y
    = ((if intOf (!uns) eb y = 0 then -1 else (intOf (!uns) eb x).tdiv (intOf (!uns) eb y)) % 2 ^ eb).toNat := by
  by_cases h : intOf (!uns) eb y = 0
  · have hpos : (0 : Int) < 2 ^ eb := by positivity
    have hones : (-1 : Int) % 2 ^ eb = 2 ^ eb - 1 := by
      rw [show (-1 : Int) = 2 ^ eb - 1 - 2 ^ eb by ring, Int.sub_emod_right, Int.emod_eq_of_lt (by omega) (by omega)]
    rw [if_pos h, hones]
    have hpow : (2 : Int) ^ eb - 1 = ((2 ^ eb - 1 : Nat) : Int) := by
      rw [Nat.cast_pred (Nat.two_pow_pos eb)]
      push_cast
      rfl
    rw [hpow, Int.toNat_natCast]
    exact if_pos h
  · rw [if_neg h, ← wrapI_eq]
    exact if_neg h

theorem vint_min (hx : x < 2 ^ eb) (hy : y < 2 ^ eb) :
    VIop.min.eval uns eb x y = (min (intOf (!uns) eb x) (intOf (!uns) eb y) % 2 ^ eb).toNat := by
  rw [min_def, apply_ite (· % (2 : Int) ^ eb), apply_ite Int.toNat, toNat_intOf_emod hx, toNat_intOf_emod hy]
  rfl

theorem vint_max (hx : x < 2 ^ eb) (hy : y < 2 ^ eb) :
    VIop.max.eval uns eb x y = (max (intOf (!uns) eb x) (intOf (!uns) eb y) % 2 ^ eb).toNat := by
  rw [max_def, apply_ite (· % (2 : Int) ^ eb), apply_ite Int.toNat, toNat_intOf_emod hx, toNat_intOf_emod hy]
  rfl

theorem vint_shl (hx : x < 2 ^ eb) (hy : y < 2 ^ eb) (hn : eb ∣ 2 ^ eb) : VIop.shl.eval uns eb x y
    = (intOf (!uns) eb x * 2 ^ (intOf (!uns) eb y % eb).toNat % 2 ^ eb).toNat := by
  have hmod : intOf (!uns) eb x ≡ x [ZMOD 2 ^ eb] := by
    rw [Int.ModEq, intOf_emod hx, Int.emod_eq_of_lt (by omega) (by exact_mod_cast hx)]
  have hcast : (x : Int) * 2 ^ (y % eb) % 2 ^ eb = ((x * 2 ^ (y % eb) % 2 ^ eb : Nat) : Int) := by push_cast; rfl
  rw [toNat_intOf_emod_size hy hn, hmod.mul_right, hcast]
  rfl

theorem vint_shr (hy : y < 2 ^ eb) (hn : eb ∣ 2 ^ eb) : VIop.shr.eval uns eb x y
    = (intOf (!uns) eb x / 2 ^ (intOf (!uns) eb y % eb).toNat % 2 ^ eb).toNat := by
  rw [toNat_intOf_emod_size hy hn]
  refine (wrapI_eq ..).trans ?_
  push_cast
  rfl

theorem clampInt_eq {u : BitVec 1} (i : Int) : clampInt (!decide (u = 1)) eb i
    = max (if u = 1 then 0 else -2 ^ (eb - 1)) (min (if u = 1 then 2 ^ eb - 1 else 2 ^ (eb - 1) - 1) i) := by
  rw [clampInt, intLo_eq, intHi_eq]
  by_cases h : u = 1 <;> simp [h]

theorem vint_adds {u : BitVec 1} : VIop.adds.eval (decide (u = 1)) eb x y
    = (max (if u = 1 then 0 else -2 ^ (eb - 1)) (min (if u = 1 then 2 ^ eb - 1 else 2 ^ (eb - 1) - 1)
      (intOf (!decide (u = 1)) eb x + intOf (!decide (u = 1)) eb y)) % 2 ^ eb).toNat := by
  rw [← clampInt_eq]
  exact wrapI_eq ..

theorem vint_subs {u : BitVec 1} : VIop.subs.eval (decide (u = 1)) eb x y
    = (max (if u = 1 then 0 else -2 ^ (eb - 1)) (min (if u = 1 then 2 ^ eb - 1 else 2 ^ (eb - 1) - 1)
      (intOf (!decide (u = 1)) eb x - intOf (!decide (u = 1)) eb y)) % 2 ^ eb).toNat := by
  rw [← clampInt_eq]
  exact wrapI_eq ..

end

/-! ## What an entry writes in its active elements -/

section
variable {s : State} {core slot : Nat} {e : VEntry} {rest : List VEntry} {vd : Nat} {a b : Strand} {eb : Nat} {new : Nat → Option Nat}
variable {hdr : VHdr} {fl : Nat → Bool} {efc : Nat → BitVec 32}

theorem VEntry.mem_actives {mask : BitVec 256} {j : Nat} : j ∈ e.actives mask ↔ (decide (j < e.vl) && mask.getLsbD j) = true := by
  simp [VEntry.actives]

theorem lists_actives {mask : BitVec 256} {α : Type} {f g : Nat → α} (h : ∀ j, f j = g j) :
    Lists ((e.actives mask).map fun i => (i, f i))
      (fun j => if (decide (j < e.vl) && mask.getLsbD j) = true then some (g j) else none) :=
  funext h ▸ lists_map fun _ => VEntry.mem_actives

/-- The instruction of an entry decides what it does to its strand. -/
theorem arithEntry_of_ins {i : Instr} {r : Option VRes} (hins : e.ins = i) (h : arithEntry a { e with ins := i } = r) :
    arithEntry a e = r := by
  subst hins
  exact h

/-- An entry that writes what it lists, and without elements nothing. -/
theorem entryWrites_putVec {xs : List (Nat × Nat)} (hp : Performs s core slot e rest)
    (harith : arithEntry (s.st (core * 8 + slot)).begins e = some (.ok (if e.vl = 0 then (s.st (core * 8 + slot)).begins else
      (s.st (core * 8 + slot)).begins.putVec vd eb xs hdr)))
    (heb : 0 < eb) (h0 : e.vl = 0 → ∀ j, new j = none) (h : e.vl ≠ 0 → Lists xs new) :
    EntryWrites s core slot e rest vd eb new hdr (fun _ => false) (s.st (core * 8 + slot)).efcr := by
  refine entryWrites_of_written hp harith ?_
  split
  next hvl => exact written_self (h0 hvl)
  next hvl => exact written_putVec heb (h hvl)

/-- An entry with a rule for its operands writes what it lists. -/
theorem entryWrites_withChecks {r : OpRule} {ns : List Nat} {xs : List (Nat × Nat)} (hp : Performs s core slot e rest)
    (harith : arithEntry (s.st (core * 8 + slot)).begins e
      = some (withChecks (s.st (core * 8 + slot)).begins e r ns fun _ => (s.st (core * 8 + slot)).begins.putVec vd eb xs hdr))
    (hcheck : checkOperands (s.st (core * 8 + slot)) e r none ns = .ok ()) (heb : 0 < eb) (h0 : e.vl = 0 → ∀ j, new j = none)
    (h : Lists xs new) :
    EntryWrites s core slot e rest vd eb new hdr (fun _ => false) (s.st (core * 8 + slot)).efcr :=
  entryWrites_putVec hp (harith.trans (congrArg some (withChecks_of_ok (checkOperands_begins.trans hcheck)))) heb h0 fun _ => h

theorem entryWrites_vecInt {op : VIop} {va k : Nat} {vx : Bool} {vb : Nat} {uns : Bool} {f : Nat → Nat → Nat} (hp : Performs s core slot e rest)
    {a : Strand} (ha : a = s.st (core * 8 + slot))
    (harith : arithEntry a.begins e = some (vecInt a.begins e op vd va (if vx then none else some vb) k uns))
    (hcheck : checkOperands a e { fam := .int, noSlay := true, noSpar := true, same := 1 } none (if vx then [va] else [va, vb]) = .ok ())
    (hf : let eb := 8 * (a.vhr va).esize
      ∀ x y, x < 2 ^ eb → y < 2 ^ eb → op.eval uns eb x y = f x y) :
    let eb := 8 * (a.vhr va).esize
    EntryWrites s core slot e rest vd eb
      (fun j => if (decide (j < e.vl) && (a.kr k).getLsbD j) = true
        then some (f (elemAt (a.vr va) eb j) (if vx then e.g1.toNat % 2 ^ eb else elemAt (a.vr vb) eb j)) else none)
      ((a.vhr va).result e.vl false) (fun _ => false) a.efcr := by
  subst ha
  intro eb
  cases vx with
  | false =>
    refine entryWrites_withChecks hp harith hcheck (VHdr.esize_pos _) (fun h j => by simp [h]) ?_
    exact lists_actives fun _ => hf _ _ elemAt_lt elemAt_lt
  | true =>
    refine entryWrites_withChecks hp harith hcheck (VHdr.esize_pos _) (fun h j => by simp [h]) ?_
    exact lists_actives fun _ => hf _ _ elemAt_lt (Nat.mod_lt _ (Nat.two_pow_pos _))

end

/-! ## Ranks among the active elements -/

section
variable {α : Type}

theorem mem_ranked {xs : List Nat} {i x : Nat} : (i, x) ∈ ranked xs ↔ xs[i]? = some x := by
  rw [ranked, List.mem_iff_getElem?]
  constructor
  · rintro ⟨k, hk⟩
    obtain ⟨h1, h2⟩ := List.getElem?_zip_eq_some.1 hk
    obtain ⟨_, h⟩ := List.getElem?_eq_some_iff.1 h1
    rw [List.getElem_range] at h
    exact (congrArg (xs[·]?) h).symm.trans h2
  · intro h
    obtain ⟨hlt, -⟩ := List.getElem?_eq_some_iff.1 h
    exact ⟨i, List.getElem?_zip_eq_some.2 ⟨List.getElem?_range hlt, h⟩⟩

/-- A number stands among those below `n` that satisfy a test at the count of such numbers below it. -/
theorem getElem?_filter_range {p : Nat → Bool} {n i j : Nat} :
    ((List.range n).filter p)[i]? = some j ↔ j < n ∧ p j = true ∧ (List.range j).countP p = i := by
  induction n with
  | zero => simp
  | succ n ih =>
    have hlen : ((List.range n).filter p).length = (List.range n).countP p := List.countP_eq_length_filter.symm
    rw [List.range_succ, List.filter_append]
    by_cases hi : i < ((List.range n).filter p).length
    · rw [List.getElem?_append_left hi, ih]
      have hne : j = n → (List.range j).countP p ≠ i := by rintro rfl; omega
      constructor
      · exact fun ⟨h1, h⟩ => ⟨by omega, h⟩
      · exact fun ⟨h1, h2, h3⟩ => ⟨by have := mt hne (not_not.2 h3); omega, h2, h3⟩
    · rw [List.getElem?_append_right (by omega)]
      have hlt : ¬(j < n ∧ p j = true ∧ (List.range j).countP p = i) := fun h =>
        hi (List.getElem?_eq_some_iff.1 (ih.2 h)).1
      constructor
      · intro h
        by_cases hp : p n
        · simp only [List.filter_cons, hp, if_true, List.filter_nil, List.getElem?_singleton] at h
          split at h
          · obtain rfl := Option.some.inj h
            exact ⟨by omega, hp, by omega⟩
          · cases h
        · simp [hp] at h
      · rintro ⟨h1, h2, h3⟩
        obtain rfl : j = n := by
          by_contra hne
          exact hlt ⟨by omega, h2, h3⟩
        simp [h2, hlen, h3]

theorem lists_if {i n : Nat} {x : α} : Lists (if i < n then [(i, x)] else []) (fun j => if j = i ∧ j < n then some x else none) := by
  intro j y
  by_cases hi : i < n <;> by_cases hj : i = j <;> simp [hi, hj, Ne.symm, eq_comm]

variable {e : VEntry} {mask : BitVec 256}

theorem VEntry.actives_eq : e.actives mask = (List.range e.vl).filter fun j => decide (j < e.vl) && mask.getLsbD j :=
  List.filter_congr fun j hj => by rw [decide_eq_true (List.mem_range.1 hj), Bool.true_and]

/-- The active elements with values of their ranks. -/
theorem lists_ranked (f : Nat → α) :
    Lists ((ranked (e.actives mask)).map fun p => (p.2, f p.1)) (fun j => if (decide (j < e.vl) && mask.getLsbD j) = true
      then some (f ((List.range j).countP fun j => decide (j < e.vl) && mask.getLsbD j)) else none) := by
  intro j x
  simp only [List.mem_map, Prod.exists, Prod.mk.injEq, mem_ranked, VEntry.actives_eq, getElem?_filter_range]
  constructor
  · rintro ⟨i, j', ⟨-, hact, rfl⟩, rfl, rfl⟩
    exact if_pos hact
  · intro h
    split at h
    next hact => exact ⟨_, j, ⟨by simp at hact; exact hact.1, hact, rfl⟩, rfl, Option.some.inj h⟩
    next => cases h

/-- The ranks with values of the active elements that have them. -/
theorem lists_compressed (f : Nat → α) :
    Lists ((ranked (e.actives mask)).map fun p => (p.1, f p.2))
      (fun j => (((List.range e.vl).filter fun j => decide (j < e.vl) && mask.getLsbD j)[j]?).map f) := by
  intro j x
  simp only [List.mem_map, Prod.exists, Prod.mk.injEq, mem_ranked, VEntry.actives_eq, Option.map_eq_some_iff]
  constructor
  · rintro ⟨i, j', h, rfl, rfl⟩
    exact ⟨j', h, rfl⟩
  · rintro ⟨j', h, rfl⟩
    exact ⟨j, j', h, rfl, rfl⟩

end

/-! ## The statement -/

section
variable {s : State} {core slot : Nat} {e : VEntry} {rest : List VEntry}

/-- With an index register that passes its checks, VPERM is a permutation of its source. -/
theorem vecPermute_of_ok {t : Strand} {vd va vi : Nat} (h : checkOperands t e { fam := .int, noSpar := true } none [vi] = .ok ()) :
    vecPermute t e vd va vi = vecPerm t e vd va fun x => (List.range e.vl).map fun i =>
      (i, if t.el vi (8 * (t.vhr vi).esize) i < e.vl then x (t.el vi (8 * (t.vhr vi).esize) i) else 0) := by
  rw [vecPermute, vecPerm, withChecks, h]
  cases checkOperands t e moveRule none [va] <;> rfl

/-- Settles O13: each integer operation is said over the numbers of its codes, and each move by the elements it lists. -/
theorem vectorIntegerElements : Obligations.VectorIntegerElements := by
  intro s core slot e rest vd va vb k5 k u gs hp sid a h d eb el scalar act below num count dense scaled writes codes ints moves lo hi
  have hdvd : eb ∣ 2 ^ eb := h.esize_dvd
  have codes_of {i : Instr} (op : VIop) (vx : Bool) {f : Nat → Nat → Nat}
      (hf : ∀ x y, x < 2 ^ eb → y < 2 ^ eb → op.eval (u = 1) eb x y = f x y)
      (harith : arithEntry a.begins { e with ins := i } = some
        (vecInt a.begins e op vd.toNat va.toNat (if vx then none else some vb.toNat) k.toNat (u = 1))) :
      codes i vx f := fun hins hcheck => entryWrites_vecInt hp rfl (arithEntry_of_ins hins harith) hcheck hf
  have ints_of {i : Instr} (op : VIop) (vx : Bool) (f : Int → Int → Int)
      (hf : ∀ x y, x < 2 ^ eb → y < 2 ^ eb → op.eval (u = 1) eb x y
        = (f (intOf (!decide (u = 1)) eb x) (intOf (!decide (u = 1)) eb y) % 2 ^ eb).toNat)
      (harith : arithEntry a.begins { e with ins := i } = some
        (vecInt a.begins e op vd.toNat va.toNat (if vx then none else some vb.toNat) k.toNat (u = 1))) :
      ints i vx f := codes_of op vx (fun x y hx hy => by rw [hf x y hx hy, intOf_of_lt hx, intOf_of_lt hy]) harith
  have moves_of {i : Instr} {xs : List (Nat × Nat)} {new : Nat → Option Nat} (h0 : e.vl = 0 → ∀ j, new j = none) (hlists : Lists xs new)
      (harith : arithEntry a.begins { e with ins := i } = some
        (withChecks a.begins e moveRule [va.toNat] fun _ => a.begins.putVec vd.toNat eb xs scaled)) :
      moves i new := fun hins hcheck => entryWrites_withChecks hp (arithEntry_of_ins hins harith) hcheck (VHdr.esize_pos _) h0 hlists
  have hslide (j : Nat) : j ∈ (e.actives (a.kr k5.toNat)).filter (fun i => decide (scalar ≤ i)) ↔ act k5.toNat j ∧ scalar ≤ j := by
    simp only [List.mem_filter, VEntry.mem_actives, decide_eq_true_iff, act]
  and_intros
  · exact ints_of .add false (fun x y => x + y) (fun _ _ _ _ => vint_add) rfl
  · exact ints_of .add true (fun x y => x + y) (fun _ _ _ _ => vint_add) rfl
  · exact ints_of .sub false (fun x y => x - y) (fun _ _ _ _ => vint_sub) rfl
  · exact ints_of .sub true (fun x y => x - y) (fun _ _ _ _ => vint_sub) rfl
  · exact ints_of .mul false (fun x y => x * y) (fun _ _ _ _ => vint_mul) rfl
  · exact ints_of .mul true (fun x y => x * y) (fun _ _ _ _ => vint_mul) rfl
  · exact ints_of .mulh false (fun x y => x * y / 2 ^ eb) (fun _ _ _ _ => vint_mulh) rfl
  · exact ints_of .div false (fun x y => if y = 0 then -1 else x.tdiv y) (fun _ _ _ _ => vint_div) rfl
  · exact ints_of .min false (fun x y => min x y) (fun _ _ => vint_min) rfl
  · exact ints_of .min true (fun x y => min x y) (fun _ _ => vint_min) rfl
  · exact ints_of .max false (fun x y => max x y) (fun _ _ => vint_max) rfl
  · exact ints_of .max true (fun x y => max x y) (fun _ _ => vint_max) rfl
  · exact codes_of .and false (fun _ _ _ _ => rfl) rfl
  · exact codes_of .and true (fun _ _ _ _ => rfl) rfl
  · exact codes_of .or false (fun _ _ _ _ => rfl) rfl
  · exact codes_of .xor false (fun _ _ _ _ => rfl) rfl
  · exact ints_of .shl false (fun x y => x * 2 ^ (y % eb).toNat) (fun _ _ hx hy => vint_shl hx hy hdvd) rfl
  · exact ints_of .shl true (fun x y => x * 2 ^ (y % eb).toNat) (fun _ _ hx hy => vint_shl hx hy hdvd) rfl
  · exact ints_of .shr false (fun x y => x / 2 ^ (y % eb).toNat) (fun _ _ _ hy => vint_shr hy hdvd) rfl
  · exact ints_of .shr true (fun x y => x / 2 ^ (y % eb).toNat) (fun _ _ _ hy => vint_shr hy hdvd) rfl
  · exact ints_of .adds false (fun x y => max lo (min hi (x + y))) (fun _ _ _ _ => vint_adds) rfl
  · exact ints_of .subs false (fun x y => max lo (min hi (x - y))) (fun _ _ _ _ => vint_subs) rfl
  · exact moves_of (fun h0 j => by simp [h0]) (lists_map fun _ => List.mem_range) rfl
  · exact moves_of (fun h0 j => by simp [act, h0]) (lists_actives fun _ => rfl) rfl
  · exact moves_of (fun h0 j => by simp [act, h0]) (lists_map fun j => hslide j) rfl
  · exact moves_of (fun h0 j => by simp [act, h0]) (lists_actives fun _ => rfl) rfl
  · intro hindex ix hins hcheck
    refine moves_of (i := .vperm vd va vb) (fun h0 j => by simp [h0]) (lists_map fun _ => List.mem_range) ?_ hins hcheck
    exact congrArg some (vecPermute_of_ok (checkOperands_begins.trans hindex))
  · exact moves_of (fun h0 j => by simp [h0]) (lists_compressed el) rfl
  · exact moves_of (fun h0 j => by simp [act, h0]) (lists_ranked el) rfl
  · intro hins hcheck
    exact entryWrites_withChecks hp (arithEntry_of_ins hins rfl) hcheck (VHdr.esize_pos _) (fun h0 j => by simp [act, h0]) (lists_ranked fun i => i)
  · intro hins hcheck
    exact entryWrites_withChecks hp (arithEntry_of_ins hins rfl) hcheck (VHdr.esize_pos _) (fun h0 j => by simp [h0]) lists_if

end

end Sys2Proof.Machine

/-! # Predicates, comparisons and extractions (O15) -/

namespace Sys2Proof.Machine
open Safety

/-! ## Bits of a predicate register -/

section
variable {k : BitVec 256} {j : Nat}

theorem Strand.kr_kw (t : Strand) {n : Nat} (hn : n ≠ 0) (m : Nat) (x : BitVec 256) : (t.kw n x).kr m = if m = n then x else t.kr m := by
  rw [kw, if_neg hn, kr, kr, tget_tput]
  by_cases hm : m = 0
  · rw [if_pos hm, if_neg (hm ▸ hn.symm), if_pos hm]
  · rw [if_neg hm, if_neg hm]

theorem getLsbD_setKWord {w : Nat} {x : Word} (hj : j < 256) :
    (setKWord k w x).getLsbD j = if j / 64 = w then x.getLsbD (j % 64) else k.getLsbD j := by
  have hword : (kWord k w).toNat = k.toNat / 2 ^ (64 * w) % 2 ^ 64 := BitVec.toNat_ofNat ..
  have hin : (64 * w ≤ j ∧ j < 64 * w + 64) ↔ j / 64 = w := by omega
  rw [setKWord, BitVec.getLsbD_ofNat, decide_eq_true hj, Bool.true_and, hword, testBit_replace _ _ _ _ _ x.isLt, if_congr hin rfl rfl]
  split
  next h =>
    subst h
    rw [show j - 64 * (j / 64) = j % 64 by omega]
    rfl
  next => rfl

/-- A predicate register after bits of it are set from a list. -/
theorem getLsbD_setKBits {bs : List (Nat × Bool)} {new : Nat → Option Bool} (h : Lists bs new) (hj : j < 256) :
    (setKBits k bs).getLsbD j = (new j).getD (k.getLsbD j) := by
  have hset (k : BitVec 256) (i : Nat) (b : Bool) :
      (if b then k ||| BitVec.ofNat 256 (2 ^ i) else k &&& ~~~BitVec.ofNat 256 (2 ^ i)).getLsbD j = if j = i then b else k.getLsbD j := by
    have hone : (BitVec.ofNat 256 (2 ^ i)).getLsbD j = decide (i = j) := by
      rw [BitVec.getLsbD_ofNat, decide_eq_true hj, Bool.true_and, Nat.testBit_two_pow]
    have hnot : (~~~BitVec.ofNat 256 (2 ^ i)).getLsbD j = !decide (i = j) := by rw [BitVec.getLsbD_not, hone, decide_eq_true hj, Bool.true_and]
    cases b
    · simp only [Bool.false_eq_true, if_false, BitVec.getLsbD_and, hnot]
      by_cases hij : j = i <;> simp [hij, Ne.symm]
    · simp only [if_true, BitVec.getLsbD_or, hone]
      by_cases hij : j = i <;> simp [hij, Ne.symm]
  -- a pair that is listed decides its bit
  have hfold (ys : List (Nat × Bool)) (hys : ∀ p ∈ ys, new p.1 = some p.2) (k : BitVec 256) :
      (setKBits k ys).getLsbD j = if j ∈ ys.map Prod.fst then (new j).getD false else k.getLsbD j := by
    rw [setKBits]
    induction ys generalizing k with
    | nil => rfl
    | cons p r ih =>
      have hp := hys p List.mem_cons_self
      simp only [List.foldl_cons, ih fun q hq => hys q (List.mem_cons_of_mem _ hq), hset, List.map_cons, List.mem_cons]
      by_cases hjp : j = p.1
      · simp [hjp, hp]
      · rw [if_neg hjp]
        exact if_congr (or_iff_right hjp).symm rfl rfl
  rw [hfold bs fun p hp => (h p.1 p.2).1 hp]
  cases hn : new j with
  | none => rw [if_neg fun hj' => by obtain ⟨p, hp, rfl⟩ := List.mem_map.1 hj'; simp [(h p.1 p.2).1 hp] at hn]; rfl
  | some x => rw [if_pos (List.mem_map.2 ⟨(j, x), (h j x).2 hn, rfl⟩)]; rfl

theorem kPop_eq : kPop k = (List.range 256).countP k.getLsbD := List.countP_eq_length_filter.symm

end

/-! ## Flags gathered over elements -/

section
variable {α : Type} {e : VEntry} {mask : BitVec 256}

theorem testBit_foldl_or (g : α → Nat) (xs : List α) (a b : Nat) :
    (xs.foldl (fun f x => f ||| g x) a).testBit b = (a.testBit b || xs.any fun x => (g x).testBit b) := by
  induction xs generalizing a with
  | nil => exact (Bool.or_false _).symm
  | cons x r ih => rw [List.foldl_cons, ih, Nat.testBit_or, List.any_cons, Bool.or_assoc]

theorem VEntry.any_actives (p : Nat → Bool) :
    (e.actives mask).any p = (List.range e.vl).any fun j => (decide (j < e.vl) && mask.getLsbD j) && p j := by
  rw [VEntry.actives_eq, List.any_filter]

end

/-! ## Comparison -/

section
variable {x y : FVal}

theorem FVal.rel_eq_un : x.rel y = .un ↔ x.isNan = true ∨ y.isNan = true := by
  cases x <;> cases y <;> simp only [FVal.rel, FVal.isNan] <;> grind

/-- An unordered condition holds of NaNs alone. -/
theorem decide_rel_un : decide (x.rel y = .un) = (x.isNan || y.isNan) := by
  rw [decide_eq_decide.2 FVal.rel_eq_un, Bool.decide_or, Bool.decide_eq_true, Bool.decide_eq_true]

/-- A comparison raises NV alone: for any NaN where the condition orders, else for a signalling one. -/
theorem testBit_condFlags (c b : Nat) : (condFlags c (x.rel y, x.nv ||| y.nv)).testBit b
    = (decide (b = 4) && if 2 ≤ c ∧ c ≤ 5 then x.isNan || y.isNan else decide (x = .nan true ∨ y = .nan true)) := by
  have hnv : flagNV.testBit b = decide (b = 4) := by rw [show flagNV = 2 ^ 4 from rfl, Nat.testBit_two_pow, decide_eq_decide]; omega
  have hbits (p : Prop) [Decidable p] : (if p then flagNV else 0).testBit b = (decide (b = 4) && decide p) := by
    split <;> simp [*]
  rw [condFlags, FVal.nv_or_nv]
  by_cases hc : 2 ≤ c ∧ c ≤ 5
  · have hnone : ¬x.rel y = .un → ¬(x = .nan true ∨ y = .nan true) := fun h hsig =>
      h (FVal.rel_eq_un.2 (hsig.imp (fun hx => FVal.isNan_iff.2 ⟨true, hx⟩) fun hy => FVal.isNan_iff.2 ⟨true, hy⟩))
    rw [if_pos hc, ← decide_rel_un, ← hbits]
    congr 1
    by_cases hun : x.rel y = .un
    · rw [if_pos ⟨hc.1, hc.2, hun⟩, if_pos hun]
    · rw [if_neg fun h => hun h.2.2, if_neg (hnone hun), if_neg hun]
  · rw [if_neg hc, if_neg fun h => hc ⟨h.1, h.2.1⟩, hbits]

end

/-! ## Elements that compare -/

section
variable {ef ef2 eb c p q : Nat} {uns : Bool} {i j : Int}

theorem elemRel_float (h : isFloat ef = true) : elemRel ef ef2 uns eb p q
    = (((fmtOf ef).val p).rel ((fmtOf ef2).val q), ((fmtOf ef).val p).nv ||| ((fmtOf ef2).val q).nv) := if_pos h

theorem elemRel_int (h : isFloat ef = false) : elemRel ef ef2 uns eb p q
    = (if intOf (!uns) eb p < intOf (!uns) eb q then .lt else if intOf (!uns) eb q < intOf (!uns) eb p then .gt else .eq, 0) :=
  if_neg (h ▸ Bool.false_ne_true)

/-- A condition on two floating values. -/
theorem condHolds_rel {x y : FVal} : condHolds c (x.rel y) = match c with
    | 0 => decide (x.rel y = .eq)
    | 1 => decide (x.rel y ≠ .eq)
    | 2 => decide (x.rel y = .lt)
    | 3 => decide (x.rel y = .lt ∨ x.rel y = .eq)
    | 4 => decide (x.rel y = .gt)
    | 5 => decide (x.rel y = .gt ∨ x.rel y = .eq)
    | _ => x.isNan || y.isNan := by
  rw [← decide_rel_un]
  unfold condHolds
  split <;> simp [bne, Bool.beq_eq_decide_eq]

/-- A condition on two integers. -/
theorem condHolds_order : condHolds c (if i < j then .lt else if j < i then .gt else .eq) = match c with
    | 0 => decide (i = j)
    | 1 => decide (i ≠ j)
    | 2 => decide (i < j)
    | 3 => decide (i ≤ j)
    | 4 => decide (j < i)
    | 5 => decide (j ≤ i)
    | _ => false := by
  obtain h | h | h := lt_trichotomy i j
  · rw [if_pos h]
    unfold condHolds
    split <;> simp [h, h.le, h.ne, h.not_gt]
  · rw [if_neg h.not_lt, if_neg h.not_gt, h]
    unfold condHolds
    split <;> simp
  · rw [if_neg h.not_gt, if_pos h]
    unfold condHolds
    split <;> simp [h, h.le, h.ne', h.not_gt]

theorem condFlags_order : condFlags c (if i < j then .lt else if j < i then .gt else .eq, 0) = 0 := by
  unfold condFlags
  split <;> grind

end

theorem Strand.intOf_el (t : Strand) {u : BitVec 1} {n eb i : Nat} : intOf (!decide (u = 1)) eb (t.el n eb i)
    = if u = 1 ∨ t.el n eb i < 2 ^ (eb - 1) then (t.el n eb i : Int) else t.el n eb i - 2 ^ eb := intOf_of_lt elemAt_lt

section
variable {h1 h2 : VHdr} {t : Strand} {e : VEntry} {cond kd va vb mask : Nat} {uns : Bool}

theorem comparable_iff : comparable h1 h2 = true ↔ (h1.efmt = h2.efmt ∧ (h1.efmt = 0 → h1.rawsz = h2.rawsz))
    ∨ (binary8Code h1.efmt.toNat = true ∧ binary8Code h2.efmt.toNat = true) := by
  simp [comparable, imp_iff_not_or]

/-- How element `i` of two registers compares. -/
def Strand.relAt (t : Strand) (va vb : Nat) (uns : Bool) (i : Nat) : FRel × Nat :=
  elemRel (t.vhr va).efmt.toNat (t.vhr vb).efmt.toNat uns (8 * (t.vhr va).esize) (t.el va (8 * (t.vhr va).esize) i)
    (t.el vb (8 * (t.vhr va).esize) i)

/-- The word an element extends to: a code, or the number it stands for. -/
theorem extracted_eq {flt : Bool} {u : BitVec 1} {x eb : Nat} (hx : x < 2 ^ eb) :
    (if flt || decide (u = 1) then word x else wordI (sext x eb))
      = if flt then BitVec.ofNat 64 x else BitVec.ofInt 64 (if u = 1 ∨ x < 2 ^ (eb - 1) then (x : Int) else x - 2 ^ eb) := by
  rw [← intOf_of_lt hx]
  cases flt with
  | true => rfl
  | false =>
    by_cases hu : u = 1
    · simp only [hu, decide_true, Bool.or_true, if_true, Bool.false_eq_true, if_false, intOf, Bool.not_true, Nat.mod_eq_of_lt hx,
        BitVec.ofInt_natCast, word]
    · simp only [hu, decide_false, Bool.or_false, Bool.false_eq_true, if_false, intOf, Bool.not_false, if_true, wordI]

theorem vecExt_of_ok (hcheck : checkOperands t e { moveRule with uns := uns } none [va] = .ok ()) :
    let eb := 8 * (t.vhr va).esize
    let x := if e.g1.toNat < e.vl then t.el va eb e.g1.toNat else 0
    vecExt t e kd va uns = .ok (t.wr kd (if isFloat (t.vhr va).efmt.toNat || uns then word x else wordI (sext x eb))) := by
  simp only [vecExt, hcheck]

theorem vecCmp_of_ok (hcheck : checkOperands t e { uns := uns } none [va, vb] = .ok ()) (h : comparable (t.vhr va) (t.vhr vb) = true) :
    vecCmp t e cond kd va vb mask uns = .ok ((t.kw kd (setKBits (t.kr kd)
        ((e.actives (t.kr mask)).map fun i => (i, condHolds cond (t.relAt va vb uns i).1)))).raise
      ((e.actives (t.kr mask)).foldl (fun f i => f ||| condFlags cond (t.relAt va vb uns i)) 0)) := by
  simp only [vecCmp, hcheck, h, Bool.not_true, Bool.false_eq_true, if_false, List.map_map, List.foldl_map]
  rfl

end

/-! ## What entries over predicates and general registers leave -/

section
variable {s : State} {core slot : Nat} {e : VEntry} {rest : List VEntry} {a : Strand} {i : Instr} {n : Nat}

/-- An entry has written bits of one predicate register. -/
def Predicated (s : State) (core slot : Nat) (rest : List VEntry) (n : Nat) (f : Nat → Bool) : Prop :=
  ∃ t, exec (.vectorEntryComplete core slot) s = .next t ∧ Performed s t (core * 8 + slot) rest
    ∧ (∀ j, j < 256 → ((t.st (core * 8 + slot)).kr n).getLsbD j = f j)
    ∧ (∀ m, m ≠ n → (t.st (core * 8 + slot)).kr m = (s.st (core * 8 + slot)).kr m)
    ∧ ∀ m, (t.st (core * 8 + slot)).rd m = (s.st (core * 8 + slot)).rd m

/-- An entry has given a general register its value and ended the wait for it. -/
def Given (s : State) (core slot : Nat) (rest : List VEntry) (n : Nat) (x : Word) : Prop :=
  ∃ t, exec (.vectorEntryComplete core slot) s = .next t ∧ Performed s t (core * 8 + slot) rest ∧ (t.st (core * 8 + slot)).wait = .none
    ∧ ∀ m, (t.st (core * 8 + slot)).rd m = if m = n ∧ m ≠ 0 then x else (s.st (core * 8 + slot)).rd m

theorem predicated_of_k {b : Strand} {x : BitVec 256} {f : Nat → Bool} (hp : Performs s core slot e rest) (hn : n ≠ 0) (hins : e.ins = i)
    (harith : arithEntry (s.st (core * 8 + slot)).begins { e with ins := i } = some (.ok b))
    (hb : OnlyRegs (s.st (core * 8 + slot)).begins b) (hg : b.g = (s.st (core * 8 + slot)).g)
    (hk : b.k = ((s.st (core * 8 + slot)).begins.kw n x).k) (hx : ∀ j, j < 256 → x.getLsbD j = f j) :
    Predicated s core slot rest n f := by
  obtain ⟨t, hexec, hperformed, hfile, -⟩ := performed_of_arith hp (arithEntry_of_ins hins harith) hb
  have hkr (m : Nat) : (t.st (core * 8 + slot)).kr m = if m = n then x else (s.st (core * 8 + slot)).kr m := by
    rw [hfile.kr, Strand.kr, hk]
    exact Strand.kr_kw _ hn m x
  refine ⟨t, hexec, hperformed, fun j hj => ?_, fun m hm => ?_, fun m => ?_⟩
  · rw [hkr, if_pos rfl, hx j hj]
  · rw [hkr, if_neg hm]
  · rw [hfile.rd, Strand.rd, hg]
    rfl

theorem Strand.kw_g (t : Strand) (n : Nat) (x : BitVec 256) : (t.kw n x).g = t.g := by
  unfold Strand.kw
  split <;> rfl

theorem Strand.vec_kw (t : Strand) (n : Nat) (x : BitVec 256) (m : Nat) : (t.kw n x).vr m = t.vr m ∧ (t.kw n x).vhr m = t.vhr m := by
  unfold Strand.kw
  split <;> exact ⟨rfl, rfl⟩

theorem given_of_wr {x : Word} (hp : Performs s core slot e rest) (hins : e.ins = i) (hawaited : awaited i = true)
    (hwait : (s.st (core * 8 + slot)).wait = .vres)
    (harith : arithEntry (s.st (core * 8 + slot)).begins { e with ins := i } = some (.ok ((s.st (core * 8 + slot)).begins.wr n x))) :
    Given s core slot rest n x := by
  obtain ⟨t, hexec, hperformed, hfile, hw⟩ := performed_of_arith hp (arithEntry_of_ins hins harith) ((OnlyRegs.refl _).wr n x)
  refine ⟨t, hexec, hperformed, hw.trans (if_pos ⟨hins ▸ hawaited, hwait⟩), fun m => ?_⟩
  rw [hfile.rd, Strand.rd_wr]
  rfl

end

/-! ## The statement -/

/-- Settles O15: each entry writes one predicate or general register, a comparison the bits of its active elements. -/
theorem predicateEntries : Obligations.PredicateEntries := by
  intro s core slot e rest vd va vb rd rs1 gs num w k cond u hp hvd sid a pa pb pred gives
  have hn : vd.toNat ≠ 0 := fun h => hvd (BitVec.eq_of_toNat_eq h)
  have preds {i : Instr} (x : BitVec 256) {f : Nat → Bool} (hx : ∀ j, j < 256 → x.getLsbD j = f j)
      (harith : arithEntry a.begins { e with ins := i } = some (.ok (a.begins.kw vd.toNat x))) : pred i f :=
    fun hins => predicated_of_k hp hn hins harith ((OnlyRegs.refl _).kw ..) (Strand.kw_g ..) rfl hx
  have given {i : Instr} {d : Nat} {x : Word} (hawaited : awaited i = true)
      (harith : arithEntry a.begins { e with ins := i } = some (.ok (a.begins.wr d x))) : gives i d x :=
    fun hins hwait => given_of_wr hp hins hawaited hwait harith
  refine ⟨?_, ?_, ?_, ?_, ?_, ?_, ?_, ?_, ?_, ?_, ?_, ?_, ?_⟩
  · exact preds (pa &&& pb) (fun j _ => BitVec.getLsbD_and) rfl
  · exact preds (pa ||| pb) (fun j _ => BitVec.getLsbD_or) rfl
  · exact preds (pa ^^^ pb) (fun j _ => BitVec.getLsbD_xor) rfl
  · exact preds (pa &&& ~~~pb) (fun j hj => by simp [hj]) rfl
  · exact preds (~~~pa) (fun j hj => by simp [hj]) rfl
  · exact preds pa (fun j _ => rfl) rfl
  · exact preds (setKWord (a.kr vd.toNat) w.toNat e.g2) (fun j hj => getLsbD_setKWord hj) rfl
  · exact given rfl (by rw [← kPop_eq]; rfl)
  · exact given rfl rfl
  · exact given rfl rfl
  · exact given rfl (congrArg (fun x => some (Except.ok (a.begins.wr rd.toNat x))) (BitVec.ofNat_toNat 64 (a.efcr num.toNat)).symm)
  · intro hins
    obtain ⟨t, hexec, hperformed, hfile, -⟩ := performed_of_arith hp (arithEntry_of_ins hins rfl)
      ((OnlyRegs.refl _).efcw num.toNat (e.g1.setWidth 32))
    refine ⟨t, hexec, hperformed, ?_⟩
    rw [hfile.efcr, Strand.efcr, Strand.efcw, tget_tput, if_pos rfl]
    rfl
  intro h h2 eb flt num el x y i l act holds invalid
  refine ⟨fun hcheck hcomparable => ?_, fun hcheck => given rfl ?_⟩
  · have hholds (j : Nat) : condHolds cond.toNat (a.relAt va.toNat vb.toNat (u = 1) j).1 = holds j := by
      cases hflt : flt with
      | true =>
        have hrel : a.relAt va.toNat vb.toNat (u = 1) j = _ := elemRel_float hflt
        simp only [hrel, holds, hflt, condHolds_rel]
        generalize cond.toNat = c
        match c with
        | 0 | 1 | 2 | 3 | 4 | 5 | n + 6 => rfl
      | false =>
        have hrel : a.relAt va.toNat vb.toNat (u = 1) j = _ := elemRel_int hflt
        simp only [hrel, holds, hflt]
        rw [condHolds_order, a.intOf_el, a.intOf_el]
        generalize cond.toNat = c
        match c with
        | 0 | 1 | 2 | 3 | 4 | 5 | n + 6 => rfl
    have hinvalid (j b : Nat) : (condFlags cond.toNat (a.relAt va.toNat vb.toNat (u = 1) j)).testBit b = (decide (b = 4) && invalid j) := by
      cases hflt : flt with
      | true =>
        have hrel : a.relAt va.toNat vb.toNat (u = 1) j = _ := elemRel_float hflt
        rw [hrel, testBit_condFlags]
        simp only [invalid, hflt, Bool.true_and]
        rfl
      | false =>
        have hrel : a.relAt va.toNat vb.toNat (u = 1) j = _ := elemRel_int hflt
        rw [hrel, condFlags_order]
        simp [invalid, hflt]
    have harith := vecCmp_of_ok (cond := cond.toNat) (kd := vd.toNat) (mask := k.toNat) (checkOperands_begins.trans hcheck)
      (comparable_iff.2 hcomparable)
    refine ⟨fun hins => predicated_of_k hp hn hins (congrArg some harith) (((OnlyRegs.refl _).kw ..).raise _) (Strand.kw_g ..) rfl fun j hj => ?_,
      fun hins => ?_⟩
    · exact (getLsbD_setKBits (lists_actives hholds) hj).trans (apply_ite (Option.getD · _) ..)
    · obtain ⟨t, hexec, -, hfile, -⟩ := performed_of_arith hp (arithEntry_of_ins hins (congrArg some harith))
        (((OnlyRegs.refl _).kw ..).raise _)
      refine ⟨t, hexec, fun b hb => ?_, fun n => ?_⟩
      · have hany : ((List.range e.vl).any fun j => act j && (condFlags cond.toNat (a.relAt va.toNat vb.toNat (u = 1) j)).testBit b)
            = (decide (b = 4) && (List.range e.vl).any fun j => act j && invalid j) := by
          simp only [hinvalid]
          cases decide (b = 4) <;> simp
        rw [hfile.fflags, Strand.getLsbD_raise _ _ hb, testBit_foldl_or, Nat.zero_testBit, Bool.false_or, VEntry.any_actives,
          Strand.kw, if_neg hn]
        exact congrArg _ hany
      · rw [hfile.vr, hfile.vhr]
        exact Strand.vec_kw ..
  · refine (congrArg some (vecExt_of_ok (checkOperands_begins.trans hcheck))).trans
      (congrArg (fun x => some (Except.ok (a.begins.wr vd.toNat x))) ?_)
    obtain hvl | hvl := Nat.lt_or_ge e.g1.toNat e.vl
    · rw [if_pos hvl, if_neg (Nat.not_le.2 hvl)]
      exact extracted_eq elemAt_lt
    · rw [if_neg (Nat.not_lt.2 hvl), if_pos hvl]
      exact (extracted_eq (Nat.two_pow_pos _)).trans (by simp)

end Sys2Proof.Machine

/-! # Floating entries, reductions, dot products and conversions (O14) -/

namespace Sys2Proof.Machine
open Safety

/-! ## Entries that raise flags -/

section
variable {s : State} {core slot : Nat} {e : VEntry} {rest : List VEntry} {vd eb : Nat} {a : Strand} {new : Nat → Option Nat} {hdr : VHdr}
variable {flb : Nat → Bool} {xs : List (Nat × Nat)} {fl : Nat}

/-- The flags of the active elements. -/
def ored (e : VEntry) (mask : BitVec 256) (r : Nat → Nat × Nat) (b : Nat) : Bool :=
  (List.range e.vl).any fun j => (decide (j < e.vl) && mask.getLsbD j) && (r j).2.testBit b

theorem ored_eq_testBit {mask : BitVec 256} (r : Nat → Nat × Nat) (b : Nat) :
    ((e.actives mask).foldl (fun f j => f ||| (r j).2) 0).testBit b = ored e mask r b := by
  rw [testBit_foldl_or, Nat.zero_testBit, Bool.false_or, VEntry.any_actives]
  rfl

/-- An entry that writes what it lists and raises flags; without elements it does nothing. -/
theorem entryWrites_raised (hp : Performs s core slot e rest) (ha : a = s.st (core * 8 + slot)) (heb : 0 < eb)
    (hnone : e.vl = 0 → arithEntry a.begins e = some (.ok a.begins) ∧ (∀ j, new j = none) ∧ ∀ b, flb b = false)
    (hsome : e.vl ≠ 0 → arithEntry a.begins e = some (.ok ((a.begins.putVec vd eb xs hdr).raise fl)) ∧ Lists xs new
      ∧ ∀ b, fl.testBit b = flb b) :
    EntryWrites s core slot e rest vd eb new hdr flb a.efcr := by
  subst ha
  by_cases hvl : e.vl = 0
  · obtain ⟨harith, hnew, hfl⟩ := hnone hvl
    refine entryWrites_of_written hp harith ?_
    rw [if_pos hvl]
    exact (written_self hnew).congr (fun _ _ => rfl) (fun b _ => (hfl b).symm) fun _ _ => rfl
  · obtain ⟨harith, hlists, hfl⟩ := hsome hvl
    refine entryWrites_of_written hp harith ?_
    rw [if_neg hvl]
    exact ((written_putVec heb hlists).raise fl).congr (fun _ _ => rfl) (fun b _ => hfl b) fun _ _ => rfl

/-- A floating operation element by element. -/
theorem entryWrites_vecFltWith {va k : Nat} {regs : List Nat} {f : Fmt → RMode → Nat → Nat → Nat × Nat} {i : Instr}
    (hp : Performs s core slot e rest) (ha : a = s.st (core * 8 + slot)) (hins : e.ins = i)
    (harith : arithEntry a.begins { e with ins := i } = some (vecFltWith a.begins e vd va regs k f))
    (hcheck : checkOperands a e { fam := .flt, noSlay := true, noSpar := true, noB8 := true, same := 1 } none regs = .ok ()) :
    let h := a.vhr va
    let r := f (fmtOf h.efmt.toNat) (rmodeOf e.frm.toNat) (8 * h.esize)
    EntryWrites s core slot e rest vd (8 * h.esize) (fun j => if (decide (j < e.vl) && (a.kr k).getLsbD j) = true then some (r j).1 else none)
      (h.result e.vl false) (ored e (a.kr k) r) a.efcr := by
  intro h r
  have harith' := arithEntry_of_ins hins harith
  rw [vecFltWith, withChecks_of_ok (checkOperands_begins.trans hcheck)] at harith'
  refine entryWrites_raised (xs := (e.actives (a.kr k)).map fun j => (j, (r j).1)) (fl := (e.actives (a.kr k)).foldl (fun f j => f ||| (r j).2) 0)
    hp ha (VHdr.esize_pos h) (fun hvl => ⟨?_, fun j => by simp [hvl], fun b => by simp [ored, hvl]⟩)
    fun hvl => ⟨?_, lists_actives fun _ => rfl, ored_eq_testBit r⟩
  · rw [harith', if_pos hvl]
  · rw [harith', if_neg hvl, Strand.putFlags, List.map_map, List.foldl_map]
    rfl

end

/-! ## Reductions -/

section
variable {α : Type} {f : Nat → Nat → Nat × Nat}

/-- Two positions combined, with the flags of both. -/
def joinBy (f : Nat → Nat → Nat × Nat) (p q : Option Nat × Nat) : Option Nat × Nat :=
  ((redPair f p.1 q.1).1, p.2 ||| q.2 ||| (redPair f p.1 q.1).2)

theorem joinBy_none (p : Option Nat × Nat) : joinBy f p (none, 0) = p := by
  obtain ⟨x | x, fl⟩ := p <;> simp [joinBy, redPair]

/-- The flags of `n` positions. -/
def orFlags (n : Nat) (x : Nat → Option Nat × Nat) : Nat := (List.range n).foldl (fun fl i => fl ||| (x i).2) 0

theorem testBit_orFlags (n : Nat) (x : Nat → Option Nat × Nat) (b : Nat) :
    (orFlags n x).testBit b = (List.range n).any fun i => (x i).2.testBit b := by
  rw [orFlags, testBit_foldl_or, Nat.zero_testBit, Bool.false_or]

/-- One level of the tree. -/
theorem redLevel_eq (n : Nat) (x : Nat → Option Nat) : redLevel f ((List.range (n + n)).map x)
    = ((List.range n).map fun i => (redPair f (x i) (x (n + i))).1,
        (List.range n).foldl (fun fl i => fl ||| (redPair f (x i) (x (n + i))).2) 0) := by
  have hlen : ((List.range (n + n)).map x).length / 2 = ((List.range n).map x).length := by
    rw [List.length_map, List.length_map, List.length_range, List.length_range]
    omega
  rw [redLevel, hlen, List.range_add, List.map_append, List.take_left, List.drop_left]
  simp only [List.map_map, List.zip_map', List.foldl_map]
  rfl

/-- The flags of a level join those of its positions. -/
theorem orFlags_joinBy (n : Nat) (x : Nat → Option Nat × Nat) : orFlags (n + n) x
      ||| (List.range n).foldl (fun fl i => fl ||| (redPair f (x i).1 (x (n + i)).1).2) 0
    = orFlags n fun i => joinBy f (x i) (x (i + n)) := by
  refine Nat.eq_of_testBit_eq fun b => ?_
  rw [Nat.testBit_or, testBit_orFlags, testBit_orFlags, testBit_foldl_or, Nat.zero_testBit, Bool.false_or, List.range_add, List.any_append,
    List.any_map]
  simp only [joinBy, Nat.testBit_or, Nat.add_comm n]
  induction List.range n with
  | nil => rfl
  | cons i r ih =>
    simp only [List.any_cons, ← ih, Function.comp_apply]
    ac_rfl

/-- The tree over lists is the tree over positions. -/
theorem redTree_eq (n fuel : Nat) (h : n ≤ fuel) (x : Nat → Option Nat × Nat) :
    redTree f fuel ((List.range (2 ^ n)).map fun i => (x i).1) (orFlags (2 ^ n) x) = treeOf (joinBy f) n x := by
  induction n generalizing fuel x with
  | zero =>
    have hfl : orFlags (2 ^ 0) x = (x 0).2 := Nat.zero_or _
    rw [hfl]
    cases fuel <;> rfl
  | succ n ih =>
    obtain ⟨m, rfl⟩ : ∃ m, fuel = m + 1 := ⟨fuel - 1, by omega⟩
    have hlen : ¬((List.range (2 ^ (n + 1))).map fun i => (x i).1).length ≤ 1 := by
      rw [List.length_map, List.length_range, Nat.not_le]
      exact Nat.one_lt_two_pow (by omega)
    rw [redTree, if_neg hlen, treeOf, ← ih m (by omega), ← orFlags_joinBy, Nat.pow_succ, Nat.mul_two, redLevel_eq _ fun i => (x i).1]
    simp only [joinBy, Nat.add_comm (2 ^ n)]

theorem scanFrom_cons (i x : Nat) (r : List (Nat × Nat)) (p : Option Nat × Nat) :
    let q := joinBy f p (some x, 0)
    scanFrom f ((i, x) :: r) p.1 p.2 = ((i, q.1.getD 0) :: (scanFrom f r q.1 q.2).1, (scanFrom f r q.1 q.2).2) := by
  obtain ⟨y | y, fl⟩ := p <;> simp [scanFrom, joinBy, redPair]

/-- The running value and flags of the positions below `n`. -/
def runOf (op : Option Nat × Nat → Option Nat × Nat → Option Nat × Nat) (x : Nat → Option Nat × Nat) (n : Nat) : Option Nat × Nat :=
  (List.range n).foldl (fun p j => op p (x j)) (none, 0)

theorem runOf_succ (op : Option Nat × Nat → Option Nat × Nat → Option Nat × Nat) (x : Nat → Option Nat × Nat) (n : Nat) :
    runOf op x (n + 1) = op (runOf op x n) (x n) := by
  simp only [runOf, List.range_succ, List.foldl_append, List.foldl_cons, List.foldl_nil]

/-- The running values of the positions from `s` on. -/
theorem scanFrom_eq (act : Nat → Bool) (el : Nat → Nat) (n s : Nat) :
    let run := runOf (joinBy f) fun j => (if act j then some (el j) else none, 0)
    scanFrom f (((List.range' s n).filter act).map fun i => (i, el i)) (run s).1 (run s).2
      = (((List.range' s n).filter act).map fun i => (i, (run (i + 1)).1.getD 0), (run (s + n)).2) := by
  intro run
  induction n generalizing s with
  | zero => rfl
  | succ n ih =>
    have hs : run (s + 1) = joinBy f (run s) (if act s then some (el s) else none, 0) := runOf_succ ..
    rw [List.range'_succ, List.filter_cons, ← Nat.add_assoc, Nat.add_right_comm s n 1]
    by_cases hact : act s
    · rw [if_pos hact] at hs ⊢
      rw [List.map_cons, List.map_cons, scanFrom_cons, ← hs, ih (s + 1)]
    · rw [if_neg hact, joinBy_none] at hs
      rw [if_neg hact, ← hs, ih (s + 1)]

/-- Two operations that agree on positions with a property they keep have one tree. -/
theorem treeOf_congr {op op' : α → α → α} {P : α → Prop} (h : ∀ x y, P x → P y → op x y = op' x y ∧ P (op x y)) (n : Nat)
    {x : Nat → α} (hx : ∀ i, P (x i)) : treeOf op n x = treeOf op' n x := by
  induction n generalizing x with
  | zero => rfl
  | succ n ih =>
    rw [treeOf, treeOf, ih fun i => (h _ _ (hx _) (hx _)).2]
    exact congrArg _ (funext fun i => (h _ _ (hx _) (hx _)).1)

/-- Two operations that agree on positions with a property they keep have one run. -/
theorem runOf_congr {op op' : Option Nat × Nat → Option Nat × Nat → Option Nat × Nat} {P : Option Nat × Nat → Prop}
    (h : ∀ x y, P x → P y → op x y = op' x y ∧ P (op x y)) {x : Nat → Option Nat × Nat} (h0 : P (none, 0)) (hx : ∀ i, P (x i))
    (n : Nat) :
    runOf op x n = runOf op' x n ∧ P (runOf op x n) := by
  induction n with
  | zero => exact ⟨rfl, h0⟩
  | succ n ih =>
    rw [runOf_succ, runOf_succ, ← ih.1]
    exact h _ _ ih.2 (hx n)

theorem powerAbove_eq {n vl : Nat} (hle : vl ≤ 2 ^ n) (hlt : ∀ m, m < n → 2 ^ m < vl) : powerAbove vl = 2 ^ n ∧ n ≤ vl := by
  cases n with
  | zero => exact ⟨if_pos (by simpa using hle), Nat.zero_le _⟩
  | succ n =>
    have h := hlt n (Nat.lt_succ_self n)
    have hn : n < 2 ^ n := Nat.lt_two_pow_self
    have hpos : 0 < 2 ^ n := Nat.two_pow_pos n
    have hlog : Nat.log2 (vl - 1) = n := (Nat.log2_eq_iff (by omega)).2 ⟨by omega, by omega⟩
    exact ⟨by rw [powerAbove, if_neg (by omega), hlog], by omega⟩

section
variable {t : Strand} {e : VEntry} {op vd va k : Nat} {uns : Bool}

/-- The positions of a reduction: the active elements. -/
def Strand.positions (t : Strand) (e : VEntry) (va k eb j : Nat) : Option Nat × Nat :=
  (if (decide (j < e.vl) && (t.kr k).getLsbD j) = true then some (t.el va eb j) else none, 0)

theorem orFlags_positions (n eb : Nat) : orFlags n (t.positions e va k eb) = 0 := by
  refine Nat.eq_of_testBit_eq fun b => ?_
  rw [testBit_orFlags]
  simp [Strand.positions]

theorem vecRed_of_ok {n : Nat} (hcheck : checkOperands t e { uns := uns, noSlay := true, noB8 := true } none [va] = .ok ())
    (hop : isFloat (t.vhr va).efmt.toNat = true → op < 3) (hle : e.vl ≤ 2 ^ n) (hlt : ∀ m, m < n → 2 ^ m < e.vl) :
    let h := t.vhr va
    let eb := 8 * h.esize
    let r := treeOf (joinBy (redOp h.efmt.toNat op uns eb (rmodeOf e.frm.toNat))) n (t.positions e va k eb)
    vecRed t e op vd va k uns = .ok (if e.vl = 0 then t else
      (t.putVec vd eb [(0, r.1.getD (redIdentity h.efmt.toNat op uns eb))] { efmt := h.efmt, rawsz := h.rawsz, count := 1 }).raise r.2) := by
  obtain ⟨hpow, hfuel⟩ := powerAbove_eq hle hlt
  have hok : (isFloat (t.vhr va).efmt.toNat && decide (3 ≤ op)) = false := by
    rw [Bool.and_eq_false_imp]
    exact fun h => decide_eq_false (Nat.not_le.2 (hop h))
  dsimp only
  rw [← redTree_eq n e.vl hfuel, orFlags_positions]
  simp only [vecRed, hcheck, hok, Bool.false_eq_true, if_false, hpow]
  split <;> rfl

theorem vecScan_of_ok (hcheck : checkOperands t e { uns := uns, noSlay := true, noB8 := true } none [va] = .ok ())
    (hop : isFloat (t.vhr va).efmt.toNat = true → op < 3) :
    let h := t.vhr va
    let eb := 8 * h.esize
    let run := runOf (joinBy (redOp h.efmt.toNat op uns eb (rmodeOf e.frm.toNat))) (t.positions e va k eb)
    vecScan t e op vd va k uns = .ok (if e.vl = 0 then t else
      (t.putVec vd eb ((e.actives (t.kr k)).map fun i => (i, (run (i + 1)).1.getD 0))
        { efmt := h.efmt, rawsz := h.rawsz, count := BitVec.ofNat 16 e.vl }).raise (run e.vl).2) := by
  have hok : (isFloat (t.vhr va).efmt.toNat && decide (3 ≤ op)) = false := by
    rw [Bool.and_eq_false_imp]
    exact fun h => decide_eq_false (Nat.not_le.2 (hop h))
  have hscan := scanFrom_eq (f := redOp (t.vhr va).efmt.toNat op uns (8 * (t.vhr va).esize) (rmodeOf e.frm.toNat))
    (fun j => decide (j < e.vl) && (t.kr k).getLsbD j) (t.el va (8 * (t.vhr va).esize)) e.vl 0
  rw [← List.range_eq_range', ← VEntry.actives_eq, Nat.zero_add] at hscan
  intro h eb run
  have hscan' : scanFrom (redOp h.efmt.toNat op uns eb (rmodeOf e.frm.toNat)) ((e.actives (t.kr k)).map fun i => (i, t.el va eb i)) none 0
    = _ := hscan
  simp only [vecScan, hcheck, hok, Bool.false_eq_true, if_false]
  split
  · rfl
  · rw [hscan']
    rfl

end

end

/-! ## The operations of a reduction -/

section
variable {ef op eb x y : Nat} {u : BitVec 1} {md : RMode}

theorem VIop.eval_add (x y : Nat) {uns : Bool} : VIop.add.eval uns eb x y = (x + y) % 2 ^ eb := by
  have hmod (x : Nat) : intOf (!uns) eb x ≡ x [ZMOD 2 ^ eb] := by
    have h : intOf (!uns) eb x = intOf (!uns) eb (x % 2 ^ eb) := by simp only [intOf, sext, Nat.mod_mod]
    rw [h, Int.ModEq, intOf_emod (Nat.mod_lt _ (Nat.two_pow_pos eb))]
    push_cast
    rfl
  have hcast : ((x : Int) + y) % 2 ^ eb = (((x + y) % 2 ^ eb : Nat) : Int) := by push_cast; rfl
  rw [vint_add, (hmod x).add (hmod y), hcast, Int.toNat_natCast]

/-- What an operation of a reduction gives of two codes of integers. -/
def redInt (op : Nat) (num : Nat → Int) (eb x y : Nat) : Nat :=
  match op with
  | 0 => (x + y) % 2 ^ eb
  | 1 => if num x ≤ num y then x else y
  | 2 => if num x ≤ num y then y else x
  | 3 => x &&& y
  | 4 => x ||| y
  | _ => x ^^^ y

theorem redInt_lt {num : Nat → Int} (hx : x < 2 ^ eb) (hy : y < 2 ^ eb) : redInt op num eb x y < 2 ^ eb := by
  unfold redInt
  split
  · exact Nat.mod_lt _ (Nat.two_pow_pos eb)
  · split <;> assumption
  · split <;> assumption
  · exact Nat.and_lt_two_pow _ hy
  · exact Nat.or_lt_two_pow hx hy
  · exact Nat.xor_lt_two_pow hx hy

theorem redOp_int (hf : isFloat ef = false) (hx : x < 2 ^ eb) (hy : y < 2 ^ eb) : redOp ef op (u = 1) eb md x y
    = (redInt op (fun x => if u = 1 ∨ x < 2 ^ (eb - 1) then (x : Int) else x - 2 ^ eb) eb x y, 0) := by
  refine (if_neg (hf ▸ Bool.false_ne_true)).trans ?_
  match op with
  | 0 => exact congrArg (·, 0) (VIop.eval_add ..)
  | 1 | 2 =>
    simp only [redInt, ← intOf_of_lt hx, ← intOf_of_lt hy]
    rfl
  | 3 | 4 | n + 5 => rfl

/-- An operation of a reduction on two floating codes. -/
theorem redOp_float (hf : isFloat ef = true) : redOp ef op (u = 1) eb md x y = match op with
    | 0 => (fmtOf ef).add md ((fmtOf ef).val x) ((fmtOf ef).val y)
    | 1 => (fmtOf ef).minMax false x y
    | _ => (fmtOf ef).minMax true x y := by
  refine (if_pos hf).trans ?_
  match op with
  | 0 | 1 | n + 2 => rfl

/-- A position of a reduction over integers holds a code of the element's size. -/
def CodesBelow (ef eb : Nat) (p : Option Nat × Nat) : Prop := isFloat ef = false → ∀ x ∈ p.1, x < 2 ^ eb

theorem codesBelow_joinBy {p q : Option Nat × Nat} (hp : CodesBelow ef eb p) (hq : CodesBelow ef eb q) :
    CodesBelow ef eb (joinBy (redOp ef op (u = 1) eb md) p q) := by
  intro hf z hz
  obtain ⟨x | x, fp⟩ := p <;> obtain ⟨y | y, fq⟩ := q
  · exact hq hf z hz
  · exact hq hf z hz
  · exact hp hf z hz
  · have hx := hp hf x rfl
    have hy := hq hf y rfl
    obtain rfl : (redOp ef op (u = 1) eb md x y).1 = z := Option.some.inj hz
    simp only [redOp_int hf hx hy]
    exact redInt_lt hx hy

/-- Operations that agree on codes join positions alike. -/
theorem joinBy_congr {comb : Nat → Nat → Nat × Nat} {p q : Option Nat × Nat}
    (h : ∀ x y, (isFloat ef = false → x < 2 ^ eb ∧ y < 2 ^ eb) → redOp ef op (u = 1) eb md x y = comb x y) (hp : CodesBelow ef eb p)
    (hq : CodesBelow ef eb q) : joinBy (redOp ef op (u = 1) eb md) p q = joinBy comb p q := by
  obtain ⟨x | x, fp⟩ := p <;> obtain ⟨y | y, fq⟩ := q
  · rfl
  · rfl
  · rfl
  · have hxy := h x y fun hf => ⟨hp hf x rfl, hq hf y rfl⟩
    simp only [joinBy, redPair, hxy]

theorem redIdentity_int (hf : isFloat ef = false) (heb : 0 < eb) : redIdentity ef op (u = 1) eb
    = [0, if u = 1 then 2 ^ eb - 1 else 2 ^ (eb - 1) - 1, if u = 1 then 0 else 2 ^ (eb - 1), 2 ^ eb - 1].getD op 0 := by
  have hle : 2 ^ (eb - 1) < 2 ^ eb := Nat.pow_lt_pow_right (by omega) (by omega)
  have hcast (n : Nat) : (2 : Int) ^ n - 1 = ((2 ^ n - 1 : Nat) : Int) := by
    rw [Nat.cast_pred (Nat.two_pow_pos n)]
    push_cast
    rfl
  have hwrap (n : Nat) (hn : n < 2 ^ eb) : ((n : Int) % 2 ^ eb).toNat = n := by
    have hmod : (n : Int) % 2 ^ eb = ((n % 2 ^ eb : Nat) : Int) := by push_cast; rfl
    rw [hmod, Int.toNat_natCast, Nat.mod_eq_of_lt hn]
  have hhi : wrapI (intHi (!decide (u = 1)) eb) eb = if u = 1 then 2 ^ eb - 1 else 2 ^ (eb - 1) - 1 := by
    rw [wrapI_eq, intHi_eq, hcast, hcast]
    by_cases hu : u = 1
    · simp only [hu, decide_true, Bool.not_true, Bool.false_eq_true, if_false, if_true, hwrap _ (Nat.sub_lt (Nat.two_pow_pos eb) one_pos)]
    · simp only [hu, decide_false, Bool.not_false, if_true, if_false, hwrap _ ((Nat.sub_le _ _).trans_lt hle)]
  have hlo : wrapI (intLo (!decide (u = 1)) eb) eb = if u = 1 then 0 else 2 ^ (eb - 1) := by
    rw [wrapI_eq, intLo_eq]
    by_cases hu : u = 1
    · simp [hu]
    · have hneg : (-2 ^ (eb - 1) : Int) % 2 ^ eb = ((2 ^ (eb - 1) : Nat) : Int) % 2 ^ eb := by
        have hdouble : (2 : Int) ^ eb = 2 ^ (eb - 1) + 2 ^ (eb - 1) := by rw [← Int.two_mul, ← pow_succ', Nat.sub_add_cancel heb]
        rw [← Int.add_emod_right, hdouble]
        push_cast
        congr 1
        ring
      simp only [hu, decide_false, Bool.not_false, if_true, if_false, hneg, hwrap _ hle]
  refine (if_neg (hf ▸ Bool.false_ne_true)).trans ?_
  match op with
  | 1 => exact hhi
  | 2 => exact hlo
  | 0 | 3 | n + 4 => rfl

theorem redIdentity_float (hf : isFloat ef = true) (hop : op < 3) : redIdentity ef op (u = 1) eb
    = [(fmtOf ef).code true 0, (fmtOf ef).infCode false, (fmtOf ef).infCode true].getD op 0 := by
  refine (if_pos hf).trans ?_
  match op with
  | 0 | 1 | 2 => rfl

end

/-! ## Reductions of an entry -/

section
variable {s : State} {core slot : Nat} {e : VEntry} {rest : List VEntry} {a : Strand} {op vd va k : Nat} {uns : Bool} {i : Instr}

theorem entryWrites_vecRed {n : Nat} (hp : Performs s core slot e rest) (ha : a = s.st (core * 8 + slot)) (hins : e.ins = i)
    (harith : arithEntry a.begins { e with ins := i } = some (vecRed a.begins e op vd va k uns))
    (hcheck : checkOperands a e { uns := uns, noSlay := true, noB8 := true } none [va] = .ok ())
    (hop : isFloat (a.vhr va).efmt.toNat = true → op < 3) (hle : e.vl ≤ 2 ^ n) (hlt : ∀ m, m < n → 2 ^ m < e.vl)
    {h : VHdr} (hh : a.vhr va = h) {r : Option Nat × Nat} {y : Nat}
    (hr : treeOf (joinBy (redOp h.efmt.toNat op uns (8 * h.esize) (rmodeOf e.frm.toNat))) n (a.positions e va k (8 * h.esize)) = r)
    (hy : redIdentity h.efmt.toNat op uns (8 * h.esize) = y) :
    EntryWrites s core slot e rest vd (8 * h.esize) (fun j => if j = 0 ∧ e.vl ≠ 0 then some (r.1.getD y) else none)
      { efmt := h.efmt, rawsz := h.rawsz, count := 1 } (fun b => r.2.testBit b) a.efcr := by
  have harith' : arithEntry a.begins e = some (.ok (if e.vl = 0 then a.begins else
      (a.begins.putVec vd (8 * h.esize) [(0, r.1.getD y)] { efmt := h.efmt, rawsz := h.rawsz, count := 1 }).raise r.2)) := by
    subst hh hr hy
    exact (arithEntry_of_ins hins harith).trans (congrArg some (vecRed_of_ok (checkOperands_begins.trans hcheck) hop hle hlt))
  refine entryWrites_raised (xs := [(0, r.1.getD y)]) (fl := r.2) hp ha (VHdr.esize_pos h)
    (fun hvl => ⟨?_, fun j => if_neg fun hj => hj.2 hvl, fun b => ?_⟩) fun hvl => ⟨?_, fun j x => ?_, fun b => rfl⟩
  · rw [harith', if_pos hvl]
  · obtain rfl : n = 0 := Nat.eq_zero_of_not_pos fun hn => by have := hlt 0 hn; omega
    subst hr
    exact Nat.zero_testBit b
  · rw [harith', if_neg hvl]
  · simp [hvl, eq_comm]

theorem entryWrites_vecScan (hp : Performs s core slot e rest) (ha : a = s.st (core * 8 + slot)) (hins : e.ins = i)
    (harith : arithEntry a.begins { e with ins := i } = some (vecScan a.begins e op vd va k uns))
    (hcheck : checkOperands a e { uns := uns, noSlay := true, noB8 := true } none [va] = .ok ())
    (hop : isFloat (a.vhr va).efmt.toNat = true → op < 3) {h : VHdr} (hh : a.vhr va = h) {run : Nat → Option Nat × Nat}
    (hrun : ∀ n, runOf (joinBy (redOp h.efmt.toNat op uns (8 * h.esize) (rmodeOf e.frm.toNat))) (a.positions e va k (8 * h.esize)) n = run n) :
    EntryWrites s core slot e rest vd (8 * h.esize) (fun j => if (decide (j < e.vl) && (a.kr k).getLsbD j) = true then (run (j + 1)).1 else none)
      { efmt := h.efmt, rawsz := h.rawsz, count := BitVec.ofNat 16 e.vl } (fun b => (run e.vl).2.testBit b) a.efcr := by
  have harith' : arithEntry a.begins e = some (.ok (if e.vl = 0 then a.begins else
      (a.begins.putVec vd (8 * h.esize) ((e.actives (a.kr k)).map fun i => (i, (run (i + 1)).1.getD 0))
        { efmt := h.efmt, rawsz := h.rawsz, count := BitVec.ofNat 16 e.vl }).raise (run e.vl).2)) := by
    subst hh
    rw [← funext hrun]
    exact (arithEntry_of_ins hins harith).trans (congrArg some (vecScan_of_ok (checkOperands_begins.trans hcheck) hop))
  -- the run has a value at each active element
  have hvalue (j : Nat) : (if (decide (j < e.vl) && (a.kr k).getLsbD j) = true then (run (j + 1)).1 else none)
      = if (decide (j < e.vl) && (a.kr k).getLsbD j) = true then some ((run (j + 1)).1.getD 0) else none := by
    refine ite_congr rfl (fun hact => ?_) fun _ => rfl
    rw [← hrun, runOf_succ, Strand.positions, if_pos hact]
    generalize runOf _ _ j = p
    obtain ⟨x | x, fl⟩ := p <;> rfl
  rw [funext hvalue]
  refine entryWrites_raised hp ha (VHdr.esize_pos _)
    (fun hvl => ⟨?_, fun j => by simp [hvl], fun b => ?_⟩) fun hvl =>
    ⟨harith'.trans (by rw [if_neg hvl]), lists_actives fun _ => rfl, fun b => rfl⟩
  · rw [harith', if_pos hvl]
  · rw [hvl, ← hrun]
    exact Nat.zero_testBit b

end

/-! ## Groups of four -/

section
variable {α : Type} {p : Nat → Bool}

theorem flatten_groupsOf (vl : Nat) : (groupsOf vl).flatten = List.range vl := by
  have hrange (n : Nat) : ((List.range n).map fun g => (List.range 4).map fun j => 4 * g + j).flatten = List.range (4 * n) := by
    induction n with
    | zero => rfl
    | succ n ih =>
      rw [List.range_succ (n := n), List.map_append, List.flatten_append, ih, Nat.mul_succ, List.range_add]
      simp
  have hall : (List.range (4 * ceilDiv vl 4)).filter (fun i => decide (i < vl)) = List.range vl := by
    obtain ⟨r, hr⟩ : ∃ r, 4 * ceilDiv vl 4 = vl + r := ⟨4 * ceilDiv vl 4 - vl, by unfold ceilDiv; omega⟩
    have hbelow : (List.range vl).filter (fun i => decide (i < vl)) = List.range vl :=
      List.filter_eq_self.2 fun i hi => decide_eq_true (List.mem_range.1 hi)
    have habove : ((List.range r).map (vl + ·)).filter (fun i => decide (i < vl)) = [] := by simp
    rw [hr, List.range_add, List.filter_append, hbelow, habove, List.append_nil]
  rw [groupsOf, ← hall, ← hrange, List.filter_flatten, List.map_map]
  rfl

theorem sum_filter_flatten (f : Nat → Int) (gs : List (List Nat)) :
    (gs.map fun g => ((g.filter p).map f).sum).sum = ((gs.flatten.filter p).map f).sum := by
  induction gs with
  | nil => rfl
  | cons g r ih => simp only [List.map_cons, List.sum_cons, ih, List.flatten_cons, List.filter_append, List.map_append, List.sum_append]

theorem sum_filter (f : Nat → Int) (l : List Nat) : ((l.filter p).map f).sum = (l.map fun j => if p j then f j else 0).sum := by
  induction l with
  | nil => rfl
  | cons j r ih =>
    rw [List.filter_cons, List.map_cons, List.sum_cons, ← ih]
    split <;> simp [*]

/-- A sum wrapped at each group is wrapped once. -/
theorem foldl_wrapI (f : α → Int) (gs : List α) {acc : Nat} (h : acc < 2 ^ 32) :
    gs.foldl (fun acc g => wrapI (sext acc 32 + f g) 32) acc = ((acc + (gs.map f).sum) % 2 ^ 32).toNat := by
  induction gs generalizing acc with
  | nil =>
    have hmod : ((acc : Int) + ([] : List Int).sum) % 2 ^ 32 = acc := by rw [List.sum_nil]; omega
    rw [List.map_nil, hmod]
    rfl
  | cons g r ih =>
    have hsext : sext acc 32 % 2 ^ 32 = acc := intOf_emod (sg := true) h
    have hwrap : (wrapI (sext acc 32 + f g) 32 : Int) = (acc + f g) % 2 ^ 32 := by
      rw [wrapI_eq, Int.toNat_of_nonneg (Int.emod_nonneg _ (by decide)), ← Int.emod_add_emod, hsext]
    have hlt : wrapI (sext acc 32 + f g) 32 < 2 ^ 32 := by omega
    rw [List.foldl_cons, ih hlt, hwrap, List.map_cons, List.sum_cons, Int.emod_add_emod, Int.add_assoc]

end

/-! ## Dot products -/

section
variable {t : Strand} {e : VEntry} {vd va vb k : Nat} {uns : Bool}

theorem vecDot_int (hcheck : checkOperands t e { uns := uns, noSlay := true } none [va, vb] = .ok ()) (ha : (t.vhr va).efmt.toNat = 1)
    (hb : (t.vhr vb).efmt.toNat = 1) (hd : (t.vhr vd).efmt = 3) :
    let f := fun j => intOf (!uns) 8 (t.el va (8 * (t.vhr va).esize) j) * intOf (!uns) 8 (t.el vb (8 * (t.vhr vb).esize) j)
    vecDot t e vd va vb k uns = .ok (if e.vl = 0 then t else
      t.putVec vd 32 [(0, ((t.el vd 32 0 + (((e.actives (t.kr k)).map f).sum)) % 2 ^ 32).toNat)] { efmt := 3, rawsz := 0, count := 1 }) := by
  intro f
  have hd' : (t.vhr vd).efmt.toNat = 3 := congrArg BitVec.toNat hd
  have hsum : (groupsOf e.vl).foldl (fun acc g => wrapI (sext acc 32 + ((g.filter fun i => (t.kr k).getLsbD i).map f).sum) 32) (t.el vd 32 0)
      = ((t.el vd 32 0 + (((e.actives (t.kr k)).map f).sum)) % 2 ^ 32).toNat := by
    refine (foldl_wrapI (fun g : List Nat => ((g.filter fun i => (t.kr k).getLsbD i).map f).sum) _ elemAt_lt).trans ?_
    rw [sum_filter_flatten, flatten_groupsOf]
    rfl
  simp only [vecDot, hcheck, ha, hb, hd', dotPair]
  by_cases hvl : e.vl = 0
  · simp [hvl]
  · simp only [hvl, ← hsum, List.map_map, ← List.sum_eq_foldl]
    rfl

theorem vecDot_float (hcheck : checkOperands t e { uns := uns, noSlay := true } none [va, vb] = .ok ())
    (hfmt : (4 ≤ (t.vhr va).efmt.toNat ∧ (t.vhr va).efmt.toNat ≤ 6 ∧ (t.vhr vb).efmt.toNat = (t.vhr va).efmt.toNat)
      ∨ (binary8Code (t.vhr va).efmt.toNat = true ∧ binary8Code (t.vhr vb).efmt.toNat = true)) (hd : (t.vhr vd).efmt = 6) :
    let group := fun (g : Nat) => dotGroup (fmtOf (t.vhr va).efmt.toNat) (fmtOf (t.vhr vb).efmt.toNat)
      ((((List.range 4).map (fun j => 4 * g + j)).filter fun j => decide (j < e.vl) && (t.kr k).getLsbD j).map
        fun j => (t.el va (8 * (t.vhr va).esize) j, t.el vb (8 * (t.vhr vb).esize) j))
    let r := (List.range ((e.vl + 3) / 4)).foldl (fun (p : Nat × Nat) g =>
      let q := fmtF.add (rmodeOf e.frm.toNat) (fmtF.val p.1) (group g).1
      (q.1, p.2 ||| (group g).2 ||| q.2)) (t.el vd 32 0, 0)
    vecDot t e vd va vb k uns = .ok (if e.vl = 0 then t else
      (t.putVec vd 32 [(0, r.1)] { efmt := 6, rawsz := 0, count := 1 }).raise r.2) := by
  intro group r
  have hd' : (t.vhr vd).efmt.toNat = 6 := congrArg BitVec.toNat hd
  have hgroup (g : Nat) : (((List.range 4).map fun j => 4 * g + j).filter fun i => decide (i < e.vl)).filter (fun i => (t.kr k).getLsbD i)
      = ((List.range 4).map fun j => 4 * g + j).filter fun j => decide (j < e.vl) && (t.kr k).getLsbD j := by
    rw [List.filter_filter]
    exact congrArg (List.filter · _) (funext fun j => Bool.and_comm _ _)
  have hr : (groupsOf e.vl).foldl (fun (p : Nat × Nat) g =>
      let x := dotGroup (fmtOf (t.vhr va).efmt.toNat) (fmtOf (t.vhr vb).efmt.toNat) ((g.filter fun i => (t.kr k).getLsbD i).map
        fun j => (t.el va (8 * (t.vhr va).esize) j, t.el vb (8 * (t.vhr vb).esize) j))
      let q := fmtF.add (rmodeOf e.frm.toNat) (fmtF.val p.1) x.1
      (q.1, p.2 ||| x.2 ||| q.2)) (t.el vd 32 0, 0) = r := by
    simp only [groupsOf, List.foldl_map, hgroup]
    rfl
  have hplain {x : Nat} (h : (4 ≤ x ∧ x ≤ 6) ∨ binary8Code x = true) : x ≠ 0 ∧ x ≠ 1 ∧ x ≠ 2 ∧ x ≠ 3 ∧ x ≠ 7 := by
    simp only [binary8Code, decide_eq_true_iff] at h
    omega
  have hpair : dotPair (t.vhr va).efmt.toNat (t.vhr vb).efmt.toNat = true := by
    obtain ⟨h4, h6, h⟩ | ⟨h, h'⟩ := hfmt
    · simp [dotPair, h4, h6, h]
    · simp [dotPair, h, h']
  obtain ⟨ha0, ha1, ha2, ha3, ha7⟩ := hplain (hfmt.imp (fun h => ⟨h.1, h.2.1⟩) fun h => h.1)
  obtain ⟨hb0, -, hb2, hb3, hb7⟩ := hplain (hfmt.imp (fun h => h.2.2 ▸ ⟨h.1, h.2.1⟩) fun h => h.2)
  by_cases hvl : e.vl = 0
  · simp [vecDot, hcheck, hpair, hd', ha0, ha1, ha2, ha3, ha7, hb0, hb2, hb3, hb7, hvl]
  · rw [← hr]
    simp [vecDot, hcheck, hpair, hd', ha0, ha1, ha2, ha3, ha7, hb0, hb2, hb3, hb7, hvl]

end

/-! ## A dot product of an entry -/

section
variable {s : State} {core slot : Nat} {e : VEntry} {rest : List VEntry} {a : Strand} {vd va vb k : Nat} {i : Instr} {uns : Bool}

theorem lists_first {x vl : Nat} (hvl : vl ≠ 0) : Lists [(0, x)] (fun j => if j = 0 ∧ vl ≠ 0 then some x else none) :=
  fun j y => by simp [hvl, eq_comm]

theorem VHdr.esize_of_int8 {h : VHdr} (he : h.efmt.toNat = 1) : h.esize = 1 := by
  rw [VHdr.esize, if_neg fun h0 => by simp [h0] at he, he]
  rfl

theorem entryWrites_vecDot_int {u : BitVec 1} (hp : Performs s core slot e rest) (ha : a = s.st (core * 8 + slot)) (hins : e.ins = i)
    (harith : arithEntry a.begins { e with ins := i } = some (vecDot a.begins e vd va vb k (u = 1)))
    (hcheck : checkOperands a e { uns := decide (u = 1), noSlay := true } none [va, vb] = .ok ()) (hva : (a.vhr va).efmt.toNat = 1)
    (hvb : (a.vhr vb).efmt.toNat = 1) (hvd : (a.vhr vd).efmt = 3) :
    let num := fun (x : Nat) => if u = 1 ∨ x < 128 then (x : Int) else x - 256
    let sum := ((List.range e.vl).map fun j => if (decide (j < e.vl) && (a.kr k).getLsbD j) = true
      then num (elemAt (a.vr va) (8 * (a.vhr va).esize) j) * num (elemAt (a.vr vb) (8 * (a.vhr vb).esize) j) else 0).sum
    EntryWrites s core slot e rest vd 32
      (fun j => if j = 0 ∧ e.vl ≠ 0 then some ((elemAt (a.vr vd) 32 0 + sum) % 2 ^ 32).toNat else none)
      { efmt := 3, rawsz := 0, count := 1 } (fun b => Nat.testBit 0 b) a.efcr := by
  intro num sum
  rw [funext Nat.zero_testBit]
  have hnum {x : Nat} (hx : x < 2 ^ 8) : intOf (!decide (u = 1)) 8 x = num x := intOf_of_lt hx
  have hel (n j : Nat) (hn : (a.vhr n).efmt.toNat = 1) : intOf (!decide (u = 1)) 8 (elemAt (a.vr n) (8 * (a.vhr n).esize) j)
      = num (elemAt (a.vr n) (8 * (a.vhr n).esize) j) := hnum (by rw [VHdr.esize_of_int8 hn]; exact elemAt_lt)
  have hsum : ((e.actives (a.kr k)).map fun j => intOf (!decide (u = 1)) 8 (a.begins.el va (8 * (a.vhr va).esize) j)
      * intOf (!decide (u = 1)) 8 (a.begins.el vb (8 * (a.vhr vb).esize) j)).sum = sum := by
    rw [VEntry.actives_eq, sum_filter]
    exact congrArg List.sum (List.map_congr_left fun j _ => ite_congr rfl (fun _ => congrArg₂ _ (hel va j hva) (hel vb j hvb)) fun _ => rfl)
  have harith' := (arithEntry_of_ins hins harith).trans (congrArg some (vecDot_int (checkOperands_begins.trans hcheck) hva hvb hvd))
  subst ha
  refine entryWrites_putVec hp (harith'.trans ?_) (by decide) (fun hvl j => if_neg fun hj => hj.2 hvl) lists_first
  rw [← hsum]
  rfl

theorem entryWrites_vecDot_float {u : BitVec 1} (hp : Performs s core slot e rest) (ha : a = s.st (core * 8 + slot)) (hins : e.ins = i)
    (harith : arithEntry a.begins { e with ins := i } = some (vecDot a.begins e vd va vb k (u = 1)))
    (hcheck : checkOperands a e { uns := decide (u = 1), noSlay := true } none [va, vb] = .ok ())
    (hfmt : (4 ≤ (a.vhr va).efmt.toNat ∧ (a.vhr va).efmt.toNat ≤ 6 ∧ (a.vhr vb).efmt.toNat = (a.vhr va).efmt.toNat)
      ∨ (binary8Code (a.vhr va).efmt.toNat = true ∧ binary8Code (a.vhr vb).efmt.toNat = true)) (hd : (a.vhr vd).efmt = 6) :
    let group := fun (g : Nat) => dotGroup (fmtOf (a.vhr va).efmt.toNat) (fmtOf (a.vhr vb).efmt.toNat)
      ((((List.range 4).map (fun j => 4 * g + j)).filter fun j => decide (j < e.vl) && (a.kr k).getLsbD j).map
        fun j => (a.el va (8 * (a.vhr va).esize) j, a.el vb (8 * (a.vhr vb).esize) j))
    let r := (List.range ((e.vl + 3) / 4)).foldl (fun (p : Nat × Nat) g =>
      let q := fmtF.add (rmodeOf e.frm.toNat) (fmtF.val p.1) (group g).1
      (q.1, p.2 ||| (group g).2 ||| q.2)) (a.el vd 32 0, 0)
    EntryWrites s core slot e rest vd 32 (fun j => if j = 0 ∧ e.vl ≠ 0 then some r.1 else none)
      { efmt := 6, rawsz := 0, count := 1 } (fun b => r.2.testBit b) a.efcr := by
  intro group r
  have harith' : arithEntry a.begins e = some (.ok (if e.vl = 0 then a.begins else
      (a.begins.putVec vd 32 [(0, r.1)] { efmt := 6, rawsz := 0, count := 1 }).raise r.2)) :=
    (arithEntry_of_ins hins harith).trans (congrArg some (vecDot_float (checkOperands_begins.trans hcheck) hfmt hd))
  refine entryWrites_raised hp ha (by decide) (fun hvl => ⟨?_, fun j => if_neg fun hj => hj.2 hvl, fun b => ?_⟩)
    fun hvl => ⟨?_, lists_first hvl, fun b => rfl⟩
  · rw [harith', if_pos hvl]
  · have hr : r.2 = 0 := by simp only [r, hvl]; rfl
    rw [hr, Nat.zero_testBit]
  · rw [harith', if_neg hvl]

end

/-! ## Conversions -/

section
variable {src tc rm eb : Nat}

/-- The code and flags of one element of a conversion, and the carry after it. -/
def cvtCode (tc rm : Nat) (v : FVal) (c : Nat) : Nat × Nat :=
  if rm = 3 then ((efStep tc v c).1, (efStep tc v c).2.2) else cvtTo tc (nmodeOf rm) v
def cvtCarry (tc rm : Nat) (v : FVal) (c : Nat) : Nat := if rm = 3 then (efStep tc v c).2.1 else c

theorem cvtElems_cons (i x : Nat) (r : List (Nat × Nat)) (c fl : Nat) :
    let v := cvtVal src eb x
    let q := cvtElems src tc rm eb r (cvtCarry tc rm v c) (fl ||| (cvtCode tc rm v c).2)
    cvtElems src tc rm eb ((i, x) :: r) c fl = ((i, (cvtCode tc rm v c).1) :: q.1, q.2) := by
  by_cases h : rm = 3 <;> simp [cvtElems, cvtCarry, cvtCode, h]

/-- The carry of a conversion below element `n`. -/
def carryAt (tc rm : Nat) (act : Nat → Bool) (v : Nat → FVal) (c0 n : Nat) : Nat :=
  (List.range n).foldl (fun c j => if act j then cvtCarry tc rm (v j) c else c) c0

variable {act : Nat → Bool} {v : Nat → FVal} {c0 : Nat}

theorem carryAt_succ (n : Nat) : carryAt tc rm act v c0 (n + 1)
    = if act n then cvtCarry tc rm (v n) (carryAt tc rm act v c0 n) else carryAt tc rm act v c0 n := by
  simp only [carryAt, List.range_succ, List.foldl_append, List.foldl_cons, List.foldl_nil]

theorem carryAt_of_ne (h : rm ≠ 3) (n : Nat) : carryAt tc rm act v c0 n = c0 := by
  induction n with
  | zero => rfl
  | succ n ih => rw [carryAt_succ, ih, cvtCarry, if_neg h, ite_self]

/-- The elements of a conversion from `s` on. -/
theorem cvtElems_eq (act : Nat → Bool) (el : Nat → Nat) (c0 n s fl : Nat) :
    let v := fun j => cvtVal src eb (el j)
    let js := (List.range' s n).filter act
    let carry := carryAt tc rm act v c0
    cvtElems src tc rm eb (js.map fun i => (i, el i)) (carry s) fl = (js.map fun i => (i, (cvtCode tc rm (v i) (carry i)).1), carry (s + n),
      js.foldl (fun fl i => fl ||| (cvtCode tc rm (v i) (carry i)).2) fl) := by
  intro v js carry
  induction n generalizing s fl with
  | zero => rfl
  | succ n ih =>
    have hs : carry (s + 1) = if act s then cvtCarry tc rm (v s) (carry s) else carry s := carryAt_succ s
    dsimp only [js] at ih ⊢
    rw [List.range'_succ, List.filter_cons, ← Nat.add_assoc, Nat.add_right_comm s n 1]
    by_cases hact : act s
    · have hs' : cvtCarry tc rm (cvtVal src eb (el s)) (carry s) = carry (s + 1) := (hs.trans (if_pos hact)).symm
      rw [if_pos hact, List.map_cons, cvtElems_cons, hs', ih (s + 1)]
      rfl
    · rw [if_neg hact] at hs
      rw [if_neg hact, ← ih (s + 1), hs]

end

/-! ## Carries after a conversion -/

/-- A strand with a carry reset and then left, as a conversion asks. -/
def Strand.carried (t : Strand) (reset : Bool) (rm n : Nat) (c : BitVec 32) : Strand :=
  let u := if reset then t.efcw n 0 else t
  if rm = 3 then u.efcw n c else u

section
variable {t : Strand} {reset : Bool} {rm n vd eb c0 : Nat} {new : Nat → Option Nat} {hdr : VHdr}

theorem Strand.efcr_efcw (t : Strand) (n : Nat) (x : BitVec 32) (m : Nat) : (t.efcw n x).efcr m = if m = n then x else t.efcr m :=
  tget_tput ..

theorem Strand.carried_eq (t : Strand) (c : BitVec 32) : t.carried reset rm n c = { t with efc := (t.carried reset rm n c).efc } := by
  unfold Strand.carried
  cases reset <;> by_cases h : rm = 3 <;> simp only [h, Bool.false_eq_true, if_true, if_false] <;> rfl

/-- The carry is the one left, or the one before the conversion. -/
theorem Strand.efcr_carried (hc0 : c0 = if reset then 0 else (t.efcr n).toNat) {c : Nat} (hc : rm ≠ 3 → c = c0) (m : Nat) :
    (t.carried reset rm n (BitVec.ofNat 32 c)).efcr m = if m = n then BitVec.ofNat 32 c else t.efcr m := by
  unfold Strand.carried
  have hreset (m : Nat) : (if reset then t.efcw n 0 else t).efcr m = if m = n then BitVec.ofNat 32 c0 else t.efcr m := by
    rw [hc0]
    cases reset with
    | true => exact Strand.efcr_efcw ..
    | false =>
      by_cases hm : m = n
      · simp [hm]
      · simp [hm]
  by_cases h : rm = 3
  · dsimp only
    rw [if_pos h, Strand.efcr_efcw, hreset]
    split <;> rfl
  · dsimp only
    rw [if_neg h, hreset, hc h]

theorem written_carried (c : BitVec 32) (h : ∀ j, new j = none) :
    Written t (t.carried reset rm n c) vd eb new (t.vhr vd) (fun _ => false) (t.carried reset rm n c).efcr := by
  rw [Strand.carried_eq]
  obtain ⟨only, elems, header, others, hk, hg, flags, -⟩ := written_self (a := t) (vd := vd) (eb := eb) h
  exact ⟨⟨rfl, only.ctl⟩, elems, header, others, hk, hg, flags, fun _ _ => rfl⟩

theorem written_putVec_carried {xs : List (Nat × Nat)} (c : BitVec 32) (heb : 0 < eb) (h : Lists xs new) :
    Written t ((t.carried reset rm n c).putVec vd eb xs hdr) vd eb new hdr (fun _ => false) (t.carried reset rm n c).efcr := by
  rw [Strand.carried_eq]
  obtain ⟨only, elems, header, others, hk, hg, flags, -⟩ := written_putVec (a := t) (vd := vd) (hdr := hdr) heb h
  exact ⟨⟨rfl, only.ctl⟩, elems, header, others, hk, hg, flags, fun _ _ => rfl⟩

end

/-! ## A conversion of an entry -/

section
variable {t : Strand} {e : VEntry} {vd va k n rm target : Nat} {reset : Bool}

/-- A conversion whose checks pass. -/
theorem vecCvt_of_ok {tc c0 : Nat} (htc : (if target = 63 then e.lfmt.toNat else targetFmt target) = tc)
    (hraw : (t.vhr va).efmt.toNat = 0 → (t.vhr va).rawsz = 3) (htc0 : tc ≠ 0) (hspar : (t.vhr va).spar = 0)
    (hfits : e.fits (t.vhr va).esize = true) (hfits' : e.fits (esizeOf tc) = true)
    (hef : rm = 3 → isFloat (t.vhr va).efmt.toNat = true ∧ isFloat tc = true) (hc0 : c0 = if reset then 0 else (t.efcr n).toNat) :
    let h := t.vhr va
    let v := fun j => cvtVal h.efmt.toNat (8 * h.esize) (t.el va (8 * h.esize) j)
    let carry := carryAt tc rm (fun j => decide (j < e.vl) && (t.kr k).getLsbD j) v c0
    vecCvt t e vd va k n reset rm target = .ok (if e.vl = 0 then t.carried reset 0 n (BitVec.ofNat 32 c0) else
      ((t.carried reset rm n (BitVec.ofNat 32 (carry e.vl))).putVec vd (8 * esizeOf tc)
        ((e.actives (t.kr k)).map fun i => (i, (cvtCode tc rm (v i) (carry i)).1))
        { efmt := BitVec.ofNat 8 tc, rawsz := 0, slay := h.slay, sfmt := h.sfmt, order := if esizeOf tc = 1 then h.order else 0,
          count := BitVec.ofNat 16 e.vl }).raise
        ((e.actives (t.kr k)).foldl (fun fl i => fl ||| (cvtCode tc rm (v i) (carry i)).2) 0)) := by
  intro h v carry
  let u : Strand := if reset then t.efcw n 0 else t
  have hraw' : ((t.vhr va).efmt.toNat = 0 && (t.vhr va).rawsz != 3) = false := by
    rw [Bool.and_eq_false_imp]
    exact fun h0 => bne_eq_false_iff_eq.2 (hraw (of_decide_eq_true h0))
  have hef' : (rm = 3 && (!isFloat (t.vhr va).efmt.toNat || !isFloat tc)) = false := by
    rw [Bool.and_eq_false_imp]
    intro h3
    obtain ⟨h1, h2⟩ := hef (of_decide_eq_true h3)
    rw [h1, h2]
    rfl
  have hspar' : ((t.vhr va).spar != 0) = false := bne_eq_false_iff_eq.2 hspar
  have hcarry : (u.efcr n).toNat = carryAt tc rm (fun j => decide (j < e.vl) && (t.kr k).getLsbD j) v c0 0 := by
    rw [show carryAt tc rm _ v c0 0 = c0 from rfl, hc0]
    cases reset with
    | true => exact congrArg BitVec.toNat ((tget_tput ..).trans (if_pos rfl))
    | false => rfl
  have hcvt : cvtElems h.efmt.toNat tc rm (8 * h.esize) ((e.actives (t.kr k)).map fun i => (i, t.el va (8 * h.esize) i)) (u.efcr n).toNat 0
      = ((e.actives (t.kr k)).map fun i => (i, (cvtCode tc rm (v i) (carry i)).1), carry e.vl,
        (e.actives (t.kr k)).foldl (fun fl i => fl ||| (cvtCode tc rm (v i) (carry i)).2) 0) := by
    rw [hcarry, VEntry.actives_eq, List.range_eq_range']
    exact (cvtElems_eq _ (t.el va (8 * h.esize)) c0 e.vl 0 0).trans (by rw [Nat.zero_add])
  simp only [vecCvt, htc, hraw', hfits, hfits', hspar', hef', htc0, Bool.false_eq_true, if_false, Bool.not_true]
  by_cases hvl : e.vl = 0
  · rw [if_pos hvl, if_pos hvl]
    rfl
  · rw [if_neg hvl, if_neg hvl]
    have hdone := congrArg (fun x : List (Nat × Nat) × Nat × Nat => (Except.ok
      (((if rm = 3 then u.efcw n (BitVec.ofNat 32 x.2.1) else u).putVec vd (8 * esizeOf tc) x.1
        { efmt := BitVec.ofNat 8 tc, rawsz := 0, slay := h.slay, sfmt := h.sfmt, order := if esizeOf tc = 1 then h.order else 0,
          count := BitVec.ofNat 16 e.vl }).raise x.2.2) : VRes)) hcvt
    cases reset <;> exact hdone

/-- What a conversion writes where its checks pass. -/
theorem entryWrites_vecCvt {s : State} {core slot : Nat} {rest : List VEntry} {a : Strand} {i : Instr} {tc c0 : Nat}
    (hp : Performs s core slot e rest) (ha : a = s.st (core * 8 + slot)) (hins : e.ins = i)
    (harith : arithEntry a.begins { e with ins := i } = some (vecCvt a.begins e vd va k n reset rm target))
    (htc : (if target = 63 then e.lfmt.toNat else targetFmt target) = tc)
    (hraw : (a.vhr va).efmt.toNat = 0 → (a.vhr va).rawsz = 3) (htc0 : tc ≠ 0) (hspar : (a.vhr va).spar = 0)
    (hfits : e.fits (a.vhr va).esize = true) (hfits' : e.fits (esizeOf tc) = true)
    (hef : rm = 3 → isFloat (a.vhr va).efmt.toNat = true ∧ isFloat tc = true) (hc0 : c0 = if reset then 0 else (a.efcr n).toNat)
    {v : Nat → FVal} (hv : (fun j => cvtVal (a.vhr va).efmt.toNat (8 * (a.vhr va).esize) (a.el va (8 * (a.vhr va).esize) j)) = v)
    {carry : Nat → Nat} (hcarry : ∀ j, carryAt tc rm (fun j => decide (j < e.vl) && (a.kr k).getLsbD j) v c0 j = carry j)
    {r : Nat → Nat × Nat} (hr : ∀ j, cvtCode tc rm (v j) (carry j) = r j) {c : BitVec 32} (hc : BitVec.ofNat 32 (carry e.vl) = c) :
    let h := a.vhr va
    EntryWrites s core slot e rest vd (8 * esizeOf tc)
      (fun j => if (decide (j < e.vl) && (a.kr k).getLsbD j) = true then some (r j).1 else none)
      { efmt := BitVec.ofNat 8 tc, rawsz := 0, slay := h.slay, sfmt := h.sfmt, order := if esizeOf tc = 1 then h.order else 0,
        count := BitVec.ofNat 16 e.vl }
      (ored e (a.kr k) r) (fun m => if m = n then c else a.efcr m) := by
  intro h
  obtain rfl : _ = carry := funext hcarry
  obtain rfl : _ = r := funext hr
  subst hc hv
  have harith' := (arithEntry_of_ins hins harith).trans
    (congrArg some (vecCvt_of_ok (t := a.begins) (k := k) (vd := vd) htc hraw htc0 hspar hfits hfits' hef hc0))
  subst ha
  refine entryWrites_of_written hp harith' ?_
  by_cases hvl : e.vl = 0
  · rw [if_pos hvl, if_pos hvl]
    refine (written_carried _ fun j => by simp [hvl]).congr (fun _ _ => rfl) (fun b _ => by simp [ored, hvl]) fun m _ => ?_
    have hzero (act v) : carryAt tc rm act v c0 e.vl = c0 := by rw [hvl]; rfl
    rw [hzero]
    exact Strand.efcr_carried (t := (s.st (core * 8 + slot)).begins) hc0 (fun _ => rfl) m
  · rw [if_neg hvl, if_neg hvl]
    exact ((written_putVec_carried _ (by unfold esizeOf; split <;> decide) (lists_actives fun _ => rfl)).raise _).congr (fun _ _ => rfl)
      (fun b _ => ored_eq_testBit _ b) fun m _ => Strand.efcr_carried (t := (s.st (core * 8 + slot)).begins) hc0 (fun h => carryAt_of_ne h _) m

end

end Sys2Proof.Machine

/-! # Narrowing (O14)

A magnitude lies from one code of the format up to the next; which of the two it rounds to is said over integers at one scale, for every
precision. -/

namespace Sys2Proof.Machine
open Safety

/-! ## The grid of magnitudes -/

section
variable {f : Fmt} {q : Int} {n k : Nat}

/-- A code within its binade. -/
theorem Fmt.exists_binade (f : Fmt) (n : Nat) : ∃ j r, n = j * f.half + r ∧ (j = 0 ∨ f.half ≤ r) ∧ r < 2 * f.half := by
  have hh := f.half_pos
  have hlt := Nat.mod_lt n hh
  have hdiv := Nat.div_add_mod' n f.half
  obtain h | ⟨j, h⟩ : n / f.half = 0 ∨ ∃ j, n / f.half = j + 1 := by
    cases n / f.half with
    | zero => exact .inl rfl
    | succ j => exact .inr ⟨j, rfl⟩
  · exact ⟨0, n, by omega, .inl rfl, by rw [h] at hdiv; omega⟩
  · refine ⟨j, f.half + n % f.half, ?_, .inr (by omega), by omega⟩
    rw [h, add_mul, one_mul] at hdiv
    omega

theorem Fmt.grid_binade (hq : q ≤ f.qmin) {j r : Nat} (hr : j = 0 ∨ f.half ≤ r) (hle : r ≤ 2 * f.half) :
    f.grid q (j * f.half + r) = r * 2 ^ (j + (f.qmin - q).toNat) := f.scaleTo_mag hq hr hle

/-- From each code to the next the step is that of its binade, and no smaller than the step before. -/
theorem Fmt.grid_succ (hq : q ≤ f.qmin) (n : Nat) :
    ∃ s, f.grid q (n + 1) = f.grid q n + s ∧ 0 < s ∧ (n ≠ 0 → f.grid q n ≤ f.grid q (n - 1) + s ∧ f.grid q (n - 1) < f.grid q n) := by
  obtain ⟨j, r, rfl, hr, hlt⟩ := f.exists_binade n
  have hpos : 0 < 2 ^ (j + (f.qmin - q).toNat) := Nat.two_pow_pos _
  have hnext := f.grid_binade hq (j := j) (r := r + 1) (by omega) hlt
  have hcur := f.grid_binade hq hr hlt.le
  refine ⟨2 ^ (j + (f.qmin - q).toNat), ?_, hpos, fun hn => ?_⟩
  · rw [add_assoc, hnext, hcur, Nat.succ_mul]
  · by_cases hin : j = 0 ∨ f.half < r
    · have hr0 : r ≠ 0 := by
        rintro rfl
        obtain rfl : j = 0 := by omega
        simp at hn
      obtain ⟨r, rfl⟩ : ∃ r', r = r' + 1 := ⟨r - 1, by omega⟩
      have hprev := f.grid_binade hq (j := j) (r := r) (by omega) (by omega)
      rw [hcur, ← add_assoc, Nat.add_sub_cancel, hprev, Nat.succ_mul]
      omega
    · obtain ⟨j, rfl⟩ : ∃ j', j = j' + 1 := ⟨j - 1, by omega⟩
      obtain rfl : r = f.half := by omega
      have hc : (j + 1) * f.half + f.half - 1 = j * f.half + (2 * f.half - 1) := by rw [add_mul]; omega
      have hprev := f.grid_binade hq (j := j) (r := 2 * f.half - 1) (by omega) (by omega)
      have hpow : 2 ^ (j + 1 + (f.qmin - q).toNat) = 2 * 2 ^ (j + (f.qmin - q).toNat) := by rw [add_right_comm, pow_succ']
      have hh := f.half_pos
      have hpos : 0 < 2 ^ (j + (f.qmin - q).toNat) := Nat.two_pow_pos _
      rw [hcur, hc, hprev, hpow, Nat.sub_mul, one_mul, mul_comm 2 f.half, mul_assoc]
      have : 2 ^ (j + (f.qmin - q).toNat) ≤ f.half * (2 * 2 ^ (j + (f.qmin - q).toNat)) := by nlinarith
      omega

theorem Fmt.grid_strictMono (hq : q ≤ f.qmin) : StrictMono (f.grid q) :=
  strictMono_nat_of_lt_succ fun n => by
    obtain ⟨s, hs, hpos, -⟩ := f.grid_succ hq n
    omega

theorem Fmt.grid_zero : f.grid q 0 = 0 := by simp [Fmt.grid, Fmt.mag, scaleTo]

end

/-! ## Rounding between two codes -/

section
variable {grid : Nat → Nat} {md : RMode} {neg : Bool} {v c : Nat}

/-- The code that a magnitude from code `c` on, but below the next, rounds to. -/
def roundsUpFrom (grid : Nat → Nat) (md : RMode) (neg : Bool) (v c : Nat) : Nat :=
  if goesUp md neg (decide (c % 2 = 1)) (2 * (v - grid c)) (grid (c + 1) - grid c) then c + 1 else c

theorem goesUp_mul {odd : Bool} {t s k : Nat} (hk : 0 < k) : goesUp md neg odd (t * k) (s * k) = goesUp md neg odd t s := by
  cases md <;> simp [goesUp, Nat.mul_lt_mul_right hk, Nat.mul_le_mul_right_iff hk, hk, Nat.mul_left_inj hk.ne']

/-- Rounding to nearest, ties to even. -/
theorem roundsTo_rne (hmono : StrictMono grid) (hle : grid c ≤ v) (hlt : v < grid (c + 1)) :
    RoundsTo grid .rne neg (fun t => compare t (2 * v)) (roundsUpFrom grid .rne neg v c) := by
  have hnext : grid (c + 1) < grid (c + 1 + 1) := hmono (Nat.lt_succ_self _)
  have hprev : c = 0 ∨ grid (c - 1) < grid c := c.eq_zero_or_pos.imp_right fun h => hmono (by omega)
  simp only [RoundsTo, compare_lt_iff_lt, compare_gt_iff_gt, compare_eq_iff_eq]
  by_cases hup : grid (c + 1) - grid c < 2 * (v - grid c) ∨ 2 * (v - grid c) = grid (c + 1) - grid c ∧ c % 2 = 1
  · have hc : roundsUpFrom grid .rne neg v c = c + 1 := if_pos (by simpa [goesUp] using hup)
    rw [hc, Nat.add_sub_cancel]
    omega
  · have hc : roundsUpFrom grid .rne neg v c = c := if_neg (by simpa [goesUp] using hup)
    rw [hc]
    omega

/-- Rounding toward zero. -/
theorem roundsTo_rtz (hle : grid c ≤ v) (hlt : v < grid (c + 1)) :
    RoundsTo grid .rtz neg (fun t => compare t (2 * v)) (roundsUpFrom grid .rtz neg v c) := by
  have hc : roundsUpFrom grid .rtz neg v c = c := if_neg Bool.false_ne_true
  rw [hc]
  simp only [RoundsTo, compare_gt_iff_gt, ne_eq]
  omega

theorem roundsUpFrom_exact (hlt : grid c < grid (c + 1)) (hv : grid c = v) : roundsUpFrom grid md neg v c = c := by
  rw [roundsUpFrom, hv, Nat.sub_self, Nat.mul_zero, goesUp_zero (by omega), if_neg Bool.false_ne_true]

/-- A magnitude rounds to itself where it lies on the grid. -/
theorem grid_roundsUpFrom_iff (hlt : v < grid (c + 1)) : grid (roundsUpFrom grid md neg v c) = v ↔ grid c = v := by
  refine ⟨fun h => ?_, fun h => by rw [roundsUpFrom_exact (by omega) h, h]⟩
  unfold roundsUpFrom at h
  split at h
  · omega
  · exact h

end

/-! ## Where rounding into a format begins -/

section
variable {f : Fmt} {md : RMode} {neg : Bool} {m : Nat} {e q : Int}

/-- Rounding to a step, seen at a finer scale. -/
theorem roundStep_scaled {p : Int} {odd : Nat → Bool} (hqe : q ≤ e) (hqp : q ≤ p) :
    let v := scaleTo m e q
    let s := pow2 (p - q)
    roundStep md neg m e p odd = (if goesUp md neg (odd (v / s)) (2 * (v % s)) s then v / s + 1 else v / s, decide (v % s = 0)) := by
  intro v s
  have hs : 0 < s := Nat.two_pow_pos _
  by_cases hpe : p ≤ e
  · have hv : v = scaleTo m e p * s := by
      simp only [v, s, scaleTo, mul_assoc, pow2, ← pow_add]
      congr 2
      omega
    have hr : v % s = 0 := by rw [hv, Nat.mul_mod_left]
    rw [roundStep, if_pos hpe, hr, Nat.mul_zero, goesUp_zero hs, if_neg Bool.false_ne_true, hv, Nat.mul_div_cancel _ hs]
    rfl
  · obtain ⟨k, hk⟩ : ∃ k, k = pow2 (e - q) := ⟨_, rfl⟩
    have hk0 : 0 < k := hk ▸ Nat.two_pow_pos _
    have hsk : s = pow2 (p - e) * k := by
      simp only [s, hk, pow2, ← pow_add]
      congr 1
      omega
    have hv : v = m * k := by rw [hk]; rfl
    have hzero : m % pow2 (p - e) * k = 0 ↔ m % pow2 (p - e) = 0 := by simp [hk0.ne']
    rw [roundStep, if_neg hpe, hv, hsk, Nat.mul_div_mul_right _ _ hk0, Nat.mul_mod_mul_right, ← mul_assoc, goesUp_mul hk0, decide_eq_decide.2 hzero]

/-- A non-zero magnitude rounds from the code at or below it, at any scale below the format's and its own. -/
theorem Fmt.roundMag_between (hm : m ≠ 0) (hq : q ≤ f.qmin) (hqe : q ≤ e) :
    let v := scaleTo m e q
    ∃ c, f.grid q c ≤ v ∧ v < f.grid q (c + 1) ∧ (f.roundMag md neg m e).1 = roundsUpFrom (f.grid q) md neg v c
      ∧ ((f.roundMag md neg m e).2.1 = true ↔ f.grid q c = v) := by
  intro v
  obtain ⟨p, hp⟩ : ∃ p, p = max (f.top m e) f.qmin := ⟨_, rfl⟩
  have hpq : f.qmin ≤ p := hp ▸ le_max_right ..
  obtain ⟨s, hs⟩ : ∃ s, s = pow2 (p - q) := ⟨_, rfl⟩
  have hs0 : 0 < s := hs ▸ Nat.two_pow_pos _
  have hpow : 2 ^ ((p - f.qmin).toNat + (f.qmin - q).toNat) = s := by
    rw [hs, pow2]
    congr 1
    omega
  -- the binade of the magnitude
  have htop : f.top m e = Nat.log2 m + e - (f.prec - 1 : Nat) := rfl
  have hlog : 2 ^ Nat.log2 m ≤ m := Nat.log2_self_le hm
  have hlog' : m < 2 ^ (Nat.log2 m + 1) := Nat.lt_log2_self
  have hlt : v / s < 2 * f.half := by
    rw [Nat.div_lt_iff_lt_mul hs0, hs, half, pow2, ← pow_succ', ← pow_add]
    calc v < 2 ^ (Nat.log2 m + 1) * 2 ^ (e - q).toNat := Nat.mul_lt_mul_of_pos_right hlog' (Nat.two_pow_pos _)
      _ ≤ _ := by
        rw [← pow_add]
        exact Nat.pow_le_pow_right two_pos (by omega)
  have hlow : (p - f.qmin).toNat = 0 ∨ f.half ≤ v / s := by
    by_cases h : f.top m e ≤ f.qmin
    · exact .inl (by omega)
    refine .inr ?_
    rw [Nat.le_div_iff_mul_le hs0, hs, half, pow2, ← pow_add]
    calc _ ≤ 2 ^ Nat.log2 m * 2 ^ (e - q).toNat := by
          rw [← pow_add]
          exact Nat.pow_le_pow_right two_pos (by omega)
      _ ≤ v := Nat.mul_le_mul_right _ hlog
  obtain ⟨n, hn⟩ : ∃ n, n = v / s := ⟨_, rfl⟩
  obtain ⟨r, hr⟩ : ∃ r, r = v % s := ⟨_, rfl⟩
  have hv : v = n * s + r := by rw [hn, hr, Nat.div_add_mod']
  have hrs : r < s := hr ▸ Nat.mod_lt _ hs0
  rw [← hn] at hlt hlow
  obtain ⟨c, hc⟩ : ∃ c, c = (p - f.qmin).toNat * f.half + n := ⟨_, rfl⟩
  have hgrid : f.grid q c = n * s := by rw [hc, f.grid_binade hq hlow hlt.le, hpow]
  have hgrid' : f.grid q (c + 1) = n * s + s := by rw [hc, add_assoc, f.grid_binade hq (by omega) hlt, hpow, Nat.succ_mul]
  have hcode : f.codeAt p n = c := by rw [f.codeAt_eq hpq hlow, hc]
  have hcode' : f.codeAt p (n + 1) = c + 1 := by rw [f.codeAt_eq hpq (by omega), hc, add_assoc]
  have hmag := f.roundMag_eq (md := md) (neg := neg) (m := m) (e := e)
  rw [← hp] at hmag
  refine ⟨c, by omega, by omega, ?_, ?_⟩
  · rw [hmag, roundStep_scaled hqe (hq.trans hpq), ← hs, ← hn, ← hr, hcode, roundsUpFrom, hgrid, hgrid', hv, Nat.add_sub_cancel_left,
      Nat.add_sub_cancel_left]
    split
    · exact hcode'
    · exact hcode
  · rw [hmag, roundStep_scaled hqe (hq.trans hpq), ← hs, ← hr, decide_eq_true_iff, hgrid]
    omega

end

/-! ## The bound of a format -/

section
variable {f : Fmt} {q : Int} {x y : Dy}

theorem Fmt.mag_eq (n : Nat) : f.mag n = if n / f.half = 0 then { neg := false, m := n, e := f.qmin }
    else { neg := false, m := f.half + n % f.half, e := f.qmin + (n / f.half : Nat) - 1 } := rfl

theorem Fmt.mag_neg (n : Nat) : (f.mag n).neg = false := by
  rw [mag_eq]
  split <;> rfl

theorem Fmt.qmin_le_mag (n : Nat) : f.qmin ≤ (f.mag n).e := by
  rw [mag_eq]
  by_cases h : n / f.half = 0
  · rw [if_pos h]
  · rw [if_neg h]
    generalize n / f.half = k at h
    dsimp only
    omega

theorem Fmt.mag_at (n : Nat) : (f.mag n).at q = f.grid q n := by rw [Dy.at, f.mag_neg, if_neg Bool.false_ne_true, Fmt.grid]

theorem Dy.opp_at : x.opp.at q = -x.at q := by
  rw [Dy.opp, Dy.at, Dy.at]
  cases x.neg <;> simp

theorem Dy.lt_eq (hq : q ≤ min x.e y.e) : x.lt y = decide (x.at q < y.at q) := by
  have hpos : (0 : Int) < pow2 (min x.e y.e - q) := by exact_mod_cast Nat.two_pow_pos _
  rw [Dy.lt, Dy.at_finer hq (min_le_left ..), Dy.at_finer hq (min_le_right ..)]
  exact decide_eq_decide.2 (mul_lt_mul_iff_left₀ hpos).symm

/-- Half a value. -/
theorem Dy.two_mul_half_at (hq : q ≤ x.e - 1) : 2 * Dy.at { x with e := x.e - 1 } q = x.at q := by
  have h : scaleTo x.m x.e q = 2 * scaleTo x.m (x.e - 1) q := by
    obtain ⟨k, hk⟩ : ∃ k : Nat, x.e = q + 1 + k := ⟨(x.e - 1 - q).toNat, by omega⟩
    have h1 : x.e - q = ((k + 1 : Nat) : Int) := by push_cast; omega
    have h2 : x.e - 1 - q = (k : Int) := by omega
    rw [scaleTo, scaleTo, h1, h2, pow2, pow2, Int.toNat_natCast, Int.toNat_natCast, pow_succ]
    ring
  unfold Dy.at
  rw [h]
  split <;> push_cast <;> ring

/-- Narrowing by RNE or SAT is beyond the format from half a step above its largest value on. -/
theorem Fmt.lt_beyond_eq (hq : q ≤ f.qmin - 2) (hx : q ≤ x.e) :
    Dy.lt { x with neg := false } (f.maxVal.add { f.ulpMax with e := f.ulpMax.e - 1 } false)
      = decide (2 * scaleTo x.m x.e q < 3 * f.grid q f.maxCode - f.grid q (f.maxCode - 1)) := by
  have he : f.ulpMax.e = min (f.mag f.maxCode).e (f.mag (f.maxCode - 1)).e := Dy.add_e
  have hmax : f.qmin ≤ f.maxVal.e := f.qmin_le_mag _
  have hulp : f.qmin ≤ f.ulpMax.e := he ▸ le_min (f.qmin_le_mag _) (f.qmin_le_mag _)
  have hq' (n : Nat) : q ≤ (f.mag n).e := (by omega : q ≤ f.qmin).trans (f.qmin_le_mag n)
  have hulpAt : f.ulpMax.at q = f.grid q f.maxCode - f.grid q (f.maxCode - 1) := by
    have h : f.ulpMax.at q = (f.mag f.maxCode).at q + (f.mag (f.maxCode - 1)).opp.at q := Dy.add_at (le_min (hq' _) (hq' _))
    rw [h, Dy.opp_at, mag_at, mag_at, sub_eq_add_neg]
  obtain ⟨half, hhalfEq⟩ : ∃ half : Dy, half = { f.ulpMax with e := f.ulpMax.e - 1 } := ⟨_, rfl⟩
  have hhalf : q ≤ min f.maxVal.e half.e := by rw [hhalfEq]; exact le_min (by omega) (by dsimp only; omega)
  have hhalfAt : 2 * half.at q = f.ulpMax.at q := by rw [hhalfEq]; exact Dy.two_mul_half_at (by omega)
  have hsum : (f.maxVal.add half false).at q = f.maxVal.at q + half.at q := Dy.add_at hhalf
  have hmono : f.grid q (f.maxCode - 1) ≤ f.grid q f.maxCode := (grid_strictMono (by omega)).monotone (Nat.sub_le ..)
  have hxAt : Dy.at { x with neg := false } q = scaleTo x.m x.e q := if_neg Bool.false_ne_true
  have hmaxAt : f.maxVal.at q = f.grid q f.maxCode := f.mag_at _
  rw [← hhalfEq]
  refine (Dy.lt_eq (x := { x with neg := false }) (le_min hx (by rw [Dy.add_e]; exact hhalf))).trans (decide_eq_decide.2 ?_)
  rw [hsum, hxAt, hmaxAt]
  omega

end

/-! ## Narrowing a finite value -/

section
variable {f : Fmt} {md : NMode} {q : Int} {x : Dy}

/-- The mode of R74 that a narrowing rounds by. -/
def NMode.rounding (md : NMode) : RMode := if md = .rtz then .rtz else .rne

/-- A magnitude beyond the format, for a narrowing mode. -/
def Fmt.Beyond (f : Fmt) (md : NMode) (q : Int) (v : Nat) : Prop :=
  if md = .rtz then f.grid q (f.maxCode + 1) ≤ v else 3 * f.grid q f.maxCode - f.grid q (f.maxCode - 1) ≤ 2 * v

theorem Fmt.narrowFin_eq (hm : x.m ≠ 0) (hsign : f.refusesNeg x.neg = false) : f.narrowFin md x =
    (let r := f.roundMag md.rounding x.neg x.m x.e
     if (if md = .rtz then decide (f.maxCode < r.1) else
        !(Dy.lt { x with neg := false } (f.maxVal.add { f.ulpMax with e := f.ulpMax.e - 1 } false))) = true then
      (if md = .rne then (match f.inf with | some i => f.code x.neg i | none => f.nan) else f.code x.neg f.maxCode, flagOF + flagNX)
    else (f.code x.neg (min r.1 f.maxCode),
      if r.2.1 then 0 else if r.1 = 0 then flagUF + flagNX else if r.2.2 then flagUF + flagNX else flagNX)) := by
  simp only [Fmt.narrowFin, if_neg hm, hsign, Bool.false_and, Bool.false_eq_true, if_false]
  rfl

/-- What a narrowing of a finite value gives. -/
theorem Fmt.narrowFin_spec (hm : x.m ≠ 0) (hsign : f.refusesNeg x.neg = false) (hq : q ≤ f.qmin - 2) (hx : q ≤ x.e) :
    let v := scaleTo x.m x.e q
    (f.Beyond md q v → f.narrowFin md x
        = (if md = .rne then (match f.inf with | some i => f.code x.neg i | none => f.nan) else f.code x.neg f.maxCode, flagOF + flagNX))
      ∧ (¬f.Beyond md q v → ∃ n, n ≤ f.maxCode ∧ RoundsTo (f.grid q) md.rounding x.neg (fun t => compare t (2 * v)) n
        ∧ (f.narrowFin md x).1 = f.code x.neg n ∧ ((f.narrowFin md x).2 = 0 ↔ f.grid q n = v)
        ∧ (n = 0 → (f.narrowFin md x).2 = flagUF + flagNX)
        ∧ (f.grid q n ≠ v → (f.narrowFin md x).2 ∈ [flagNX, flagUF + flagNX])) := by
  intro v
  have hqf : q ≤ f.qmin := by omega
  have hmono := f.grid_strictMono hqf
  obtain ⟨c, hle, hlt, hcode, hexact⟩ := f.roundMag_between (md := md.rounding) (neg := x.neg) hm hqf hx
  have hrounds : RoundsTo (f.grid q) md.rounding x.neg (fun t => compare t (2 * v)) (roundsUpFrom (f.grid q) md.rounding x.neg v c) := by
    unfold NMode.rounding
    split
    · exact roundsTo_rtz hle hlt
    · exact roundsTo_rne hmono hle hlt
  obtain ⟨n, hn⟩ : ∃ n, n = roundsUpFrom (f.grid q) md.rounding x.neg v c := ⟨_, rfl⟩
  rw [← hn] at hrounds hcode
  have hgrid : f.grid q n = v ↔ f.grid q c = v := hn ▸ grid_roundsUpFrom_iff hlt
  have hrtz : md = .rtz → (f.maxCode < n ↔ f.grid q (f.maxCode + 1) ≤ v) := by
    rintro rfl
    obtain rfl : n = c := hn
    refine ⟨fun h => (hmono.monotone h).trans hle, fun h => ?_⟩
    exact Nat.lt_of_succ_lt_succ (hmono.lt_iff_lt.1 (h.trans_lt hlt))
  have hbeyond : (if md = .rtz then decide (f.maxCode < n) else
      !(Dy.lt { x with neg := false } (f.maxVal.add { f.ulpMax with e := f.ulpMax.e - 1 } false))) = true ↔ f.Beyond md q v := by
    unfold Fmt.Beyond
    by_cases h : md = .rtz
    · rw [if_pos h, if_pos h, decide_eq_true_iff, hrtz h]
    · rw [if_neg h, if_neg h, lt_beyond_eq hq hx, Bool.not_eq_true', decide_eq_false_iff_not, Nat.not_lt]
  have hbelow : ¬f.Beyond md q v → n ≤ f.maxCode := by
    intro h
    by_contra hmax
    unfold Fmt.Beyond at h
    by_cases hmd : md = .rtz
    · rw [if_pos hmd, ← hrtz hmd] at h
      exact h (Nat.lt_of_not_le hmax)
    · rw [if_neg hmd] at h
      obtain ⟨s, hs, -, hstep⟩ := f.grid_succ hqf f.maxCode
      have hlow : f.grid q (n - 1) + f.grid q n ≤ 2 * v := by
        simp only [NMode.rounding, if_neg hmd, RoundsTo, compare_lt_iff_lt, compare_eq_iff_eq] at hrounds
        omega
      have h1 : f.grid q f.maxCode ≤ f.grid q (n - 1) := hmono.monotone (by omega)
      have h2 : f.grid q (f.maxCode + 1) ≤ f.grid q n := hmono.monotone (by omega)
      obtain h0 | h0 := eq_or_ne f.maxCode 0
      · rw [h0, f.grid_zero] at h
        omega
      · have := hstep h0
        omega
  have heq := f.narrowFin_eq (md := md) hm hsign
  dsimp only at heq
  rw [hcode] at heq
  refine ⟨fun h => ?_, fun h => ⟨n, hbelow h, hrounds, ?_⟩⟩
  · rw [heq, if_pos (hbeyond.2 h)]
  · rw [heq, if_neg (mt hbeyond.1 h), min_eq_left (hbelow h)]
    refine ⟨rfl, ?_, fun hn0 => ?_, fun hne => ?_⟩
    · rw [hgrid, ← hexact]
      by_cases hex : (f.roundMag md.rounding x.neg x.m x.e).2.1 = true
      · simp only [hex, if_true]
      · refine iff_of_false ?_ hex
        have hsome : flagUF + flagNX ≠ 0 ∧ flagNX ≠ 0 := by decide
        rw [if_neg hex]
        split
        · exact hsome.1
        · split <;> [exact hsome.1; exact hsome.2]
    · have hv : 0 < v := Nat.mul_pos (Nat.pos_of_ne_zero hm) (Nat.two_pow_pos _)
      have hex : ¬(f.roundMag md.rounding x.neg x.m x.e).2.1 = true := by
        rw [hexact, ← hgrid, hn0, f.grid_zero]
        omega
      rw [if_neg hex, if_pos hn0]
    · rw [ne_eq, hgrid, ← hexact] at hne
      rw [if_neg hne]
      split <;> [simp; split <;> simp]

end

/-! ## Widening to binary32 -/

section
variable {x y : Dy} {q : Int} {n k : Nat}

theorem Dy.eqv_eq (hq : q ≤ min x.e y.e) : x.eqv y = decide (x.at q = y.at q) := by
  have hpos : (0 : Int) < pow2 (min x.e y.e - q) := by exact_mod_cast Nat.two_pow_pos _
  rw [Dy.eqv, Dy.at_finer hq (min_le_left ..), Dy.at_finer hq (min_le_right ..)]
  exact decide_eq_decide.2 (mul_left_inj' hpos.ne').symm

/-- A magnitude on the grid rounds to its code. -/
theorem roundsTo_rne_unique {grid : Nat → Nat} {neg : Bool} (hmono : StrictMono grid)
    (h : RoundsTo grid .rne neg (fun t => compare t (2 * grid k)) n) : n = k := by
  simp only [RoundsTo, compare_lt_iff_lt, compare_gt_iff_gt, compare_eq_iff_eq] at h
  obtain hlt | heq | hgt := lt_trichotomy n k
  · have h1 : grid n < grid k := hmono hlt
    have h2 : grid (n + 1) ≤ grid k := hmono.monotone hlt
    omega
  · exact heq
  · have h1 : grid k < grid n := hmono hgt
    have h2 : grid k ≤ grid (n - 1) := hmono.monotone (by omega)
    omega

theorem fmtF_val_code (neg : Bool) (hn : n ≤ fmtF.maxCode) : fmtF.val (fmtF.code neg n) = .fin { fmtF.mag n with neg := neg } := by
  have hmax : fmtF.maxCode = 255 * 2 ^ 23 - 1 := rfl
  have hcode : fmtF.code neg n = (if neg then 2 ^ 31 else 0) + n := by
    cases neg with
    | true => rfl
    | false => exact (Nat.zero_add n).symm
  have hsign : (fmtF.code neg n).testBit 31 = neg := by
    rw [hcode, Nat.testBit_eq_decide_div_mod_eq]
    cases neg <;> simp <;> omega
  have hmod : fmtF.code neg n % 2 ^ 31 = n := by
    rw [hcode]
    cases neg <;> simp <;> omega
  have hval : fmtF.val (fmtF.code neg n) = if fmtF.code neg n % 2 ^ 31 = 255 * 2 ^ 23 then .inf ((fmtF.code neg n).testBit 31)
      else if 255 * 2 ^ 23 < fmtF.code neg n % 2 ^ 31 then .nan (!(fmtF.code neg n % 2 ^ 31).testBit 22)
      else .fin { fmtF.mag (fmtF.code neg n % 2 ^ 31) with neg := (fmtF.code neg n).testBit 31 } := rfl
  rw [hval, hsign, hmod, if_neg (by omega), if_neg (by omega)]

/-- A value below 2^127 is not beyond binary32. -/
theorem fmtF_below {p : Nat} (hm : x.m < 2 ^ p) (hq : q ≤ min x.e (-149)) (hhi : x.e + p ≤ 127) :
    2 * scaleTo x.m x.e q < 3 * fmtF.grid q fmtF.maxCode - fmtF.grid q (fmtF.maxCode - 1) := by
  have hqmin : fmtF.qmin = -149 := rfl
  have hhalf : fmtF.half = 2 ^ 23 := rfl
  obtain ⟨s, hs⟩ : ∃ s, s = 2 ^ (253 + (fmtF.qmin - q).toNat) := ⟨_, rfl⟩
  have hmax : fmtF.grid q fmtF.maxCode = (2 ^ 24 - 1) * s :=
    hs ▸ fmtF.grid_binade (by omega) (j := 253) (r := 2 ^ 24 - 1) (.inr (by omega)) (by omega)
  have hprev : fmtF.grid q (fmtF.maxCode - 1) = (2 ^ 24 - 2) * s :=
    hs ▸ fmtF.grid_binade (by omega) (j := 253) (r := 2 ^ 24 - 2) (.inr (by omega)) (by omega)
  have hv : scaleTo x.m x.e q < 2 ^ 23 * s := by
    rw [hs, ← pow_add]
    calc x.m * 2 ^ (x.e - q).toNat < 2 ^ p * 2 ^ (x.e - q).toNat := Nat.mul_lt_mul_of_pos_right hm (Nat.two_pow_pos _)
      _ = 2 ^ (p + (x.e - q).toNat) := (pow_add ..).symm
      _ ≤ 2 ^ (23 + (253 + (fmtF.qmin - q).toNat)) := Nat.pow_le_pow_right two_pos (by omega)
  rw [hmax, hprev]
  omega

/-- Small enough a value is exact in binary32. -/
theorem fmtF_narrow_exact {p : Nat} (hm : x.m < 2 ^ p) (hp : p ≤ 24) (hlo : -149 ≤ x.e) (hhi : x.e + p ≤ 127) :
    (fmtF.narrow .rne (.fin x)).2 = 0 ∧ ∃ y, fmtF.val (fmtF.narrow .rne (.fin x)).1 = .fin y ∧ y.eqv x = true := by
  have hqmin : fmtF.qmin = -149 := rfl
  obtain ⟨q, hq⟩ : ∃ q, q = min x.e (-151) := ⟨_, rfl⟩
  have hqf : q ≤ fmtF.qmin := by omega
  have hqe : q ≤ x.e := by omega
  obtain ⟨n, hn, hcode, hfl, hgrid⟩ : ∃ n, n ≤ fmtF.maxCode ∧ (fmtF.narrow .rne (.fin x)).1 = fmtF.code x.neg n
      ∧ (fmtF.narrow .rne (.fin x)).2 = 0 ∧ fmtF.grid q n = scaleTo x.m x.e q := by
    by_cases h0 : x.m = 0
    · have hzero : fmtF.narrow .rne (.fin x) = (fmtF.code x.neg 0, 0) := by
        rw [Fmt.narrow, Fmt.narrowFin, if_pos h0]
      rw [hzero]
      exact ⟨0, Nat.zero_le _, rfl, rfl, by rw [Fmt.grid_zero, h0, scaleTo, zero_mul]⟩
    · obtain ⟨-, hspec⟩ := Fmt.narrowFin_spec (f := fmtF) (md := .rne) h0 rfl (by omega : q ≤ fmtF.qmin - 2) hqe
      have hbelow : ¬fmtF.Beyond .rne q (scaleTo x.m x.e q) := by
        rw [Fmt.Beyond, if_neg (by decide), not_le]
        exact fmtF_below hm (by omega) hhi
      obtain ⟨n, hn, hround, hcode, hfl, -⟩ := hspec hbelow
      -- its step divides the value
      obtain ⟨c, -, -, -, hexact⟩ := fmtF.roundMag_between (md := .rne) (neg := x.neg) h0 hqf hqe
      have hc : fmtF.grid q c = scaleTo x.m x.e q := by
        refine hexact.1 ?_
        have hlog : Nat.log2 x.m < p := (Nat.log2_lt h0).2 hm
        have htop : fmtF.top x.m x.e = Nat.log2 x.m + x.e - (23 : Nat) := rfl
        rw [Fmt.roundMag_eq, roundStep, if_pos (by omega)]
      rw [← hc] at hround hfl
      obtain rfl := roundsTo_rne_unique (fmtF.grid_strictMono hqf) hround
      exact ⟨n, hn, hcode, hfl.2 rfl, hc⟩
  refine ⟨hfl, _, (congrArg fmtF.val hcode).trans (fmtF_val_code x.neg hn), ?_⟩
  refine (Dy.eqv_eq (x := { fmtF.mag n with neg := x.neg }) (le_min (hqf.trans (fmtF.qmin_le_mag n)) hqe)).trans (decide_eq_true ?_)
  rw [Dy.at, Dy.at, ← hgrid]
  rfl

end

/-! ## The values of binary8 -/

section
variable {c p : Nat} {signed ext : Bool}

theorem fmtOf_binary8 (h : binary8Code c = true) : ∃ p signed ext, 1 ≤ p ∧ p ≤ 7 ∧ fmtOf c = b8Fmt p signed ext := by
  simp only [binary8Code, decide_eq_true_iff] at h
  refine ⟨c % 16, decide (c / 16 ≤ 2), decide (c / 16 % 2 = 0), h.2.2.1, h.2.2.2, ?_⟩
  unfold fmtOf
  split
  · omega
  · omega
  · omega
  · omega
  · rfl

/-- The finite values of a binary8 format lie well within binary32. -/
theorem b8Fmt_mag {n : Nat} (hp1 : 1 ≤ p) (hp7 : p ≤ 7) (hn : n ≤ if signed then 127 else 254) :
    ((b8Fmt p signed ext).mag n).m < 2 ^ p ∧ -149 ≤ ((b8Fmt p signed ext).mag n).e ∧ ((b8Fmt p signed ext).mag n).e + p ≤ 127 := by
  obtain ⟨h, hh⟩ : ∃ h, h = (b8Fmt p signed ext).half := ⟨_, rfl⟩
  have hpow : 2 ^ p = 2 * h := by rw [hh, Fmt.half, ← pow_succ']; congr 1; exact (Nat.sub_add_cancel hp1).symm
  have hpos : 0 < h := hh ▸ Fmt.half_pos
  obtain ⟨hlo, hbinade, hlow⟩ : -149 ≤ (b8Fmt p signed ext).qmin ∧ (b8Fmt p signed ext).qmin + (n / h : Nat) - 1 + p ≤ 127
      ∧ (b8Fmt p signed ext).qmin + p ≤ 127 := by
    have hqmin : (b8Fmt p signed ext).qmin = 2 - (if signed then 2 ^ (7 - p) else 2 ^ (8 - p)) - p := rfl
    have hhalf : h = 2 ^ (p - 1) := hh
    rw [hqmin, hhalf]
    interval_cases p <;> cases signed <;> simp at hn ⊢ <;> omega
  rw [Fmt.mag_eq, ← hh, hpow]
  by_cases h0 : n / h = 0
  · rw [if_pos h0]
    have hlt : n < h := (Nat.div_eq_zero_iff_lt hpos).1 h0
    exact ⟨by dsimp only; omega, hlo, hlow⟩
  · rw [if_neg h0]
    have hmod := Nat.mod_lt n hpos
    refine ⟨by dsimp only; omega, ?_, hbinade⟩
    generalize n / h = k at h0
    dsimp only
    omega

theorem b8Fmt_val {x : Nat} (hx : x < 256) : (b8Fmt p signed ext).val x = .nan false ∨ (∃ s, (b8Fmt p signed ext).val x = .inf s)
    ∨ ∃ n s, n ≤ (if signed then 127 else 254) ∧ (b8Fmt p signed ext).val x = .fin { (b8Fmt p signed ext).mag n with neg := s } := by
  obtain ⟨s, hs⟩ : ∃ s, s = (if signed then x.testBit 7 else false) := ⟨_, rfl⟩
  obtain ⟨n, hn⟩ : ∃ n, n = (if signed then x % 2 ^ 7 else x) := ⟨_, rfl⟩
  have hval : (b8Fmt p signed ext).val x = if x = (b8Fmt p signed ext).nan then .nan false
      else if (b8Fmt p signed ext).inf = some n then .inf s else .fin { (b8Fmt p signed ext).mag n with neg := s } := by
    rw [hs, hn]
    cases signed <;> rfl
  rw [hval]
  split
  · exact .inl rfl
  next hnan =>
    split
    · exact .inr (.inl ⟨_, rfl⟩)
    · refine .inr (.inr ⟨n, s, ?_, rfl⟩)
      rw [hn]
      cases signed with
      | true => simp only [if_true]; omega
      | false =>
        have hne : x ≠ 255 := hnan
        simp only [Bool.false_eq_true, if_false]
        omega

end

/-! ## The statement -/

/-- Settles O14: floating entries are said element by element, reductions by their tree and run, dot products by groups, conversions with the
carry before each element, and narrowing by the code at or below a magnitude. -/
theorem vectorFloatElements : Obligations.VectorFloatElements := by
  refine ⟨?_, ?_, ?_⟩
  · intro s core slot e rest vd va vb k k4 k3 op u reset efc rm gs target hp sid a h eb ef f md el act count dense ored_ writes x vv vx fused fn
      two
    have writes_of {i : Instr} (regs : List Nat) (g : Fmt → RMode → Nat → Nat → Nat × Nat)
        (harith : arithEntry a.begins { e with ins := i } = some (vecFltWith a.begins e vd.toNat va.toNat regs k.toNat g)) :
        writes i regs (g f md eb) := fun hins hcheck => entryWrites_vecFltWith hp rfl hins harith hcheck
    have vv_of {i : Instr} (op : VFop)
        (harith : arithEntry a.begins { e with ins := i } = some (vecFlt a.begins e op vd.toNat va.toNat (some vb.toNat) k.toNat)) :
        vv i (op.eval f md) := writes_of _ _ harith
    have vx_of {i : Instr} (op : VFop)
        (harith : arithEntry a.begins { e with ins := i } = some (vecFlt a.begins e op vd.toNat va.toNat none k.toNat)) :
        vx i (op.eval f md) := writes_of _ _ harith
    have fn_of {i : Instr} (g : Fmt → RMode → FVal → Nat × Nat)
        (harith : arithEntry a.begins { e with ins := i } = some (vecFun a.begins e g vd.toNat va.toNat k.toNat)) :
        fn i (g f md) := writes_of _ _ harith
    have fused_of {i : Instr} (negProd negAdd : Bool)
        (harith : arithEntry a.begins { e with ins := i } = some (vecFma a.begins e negProd negAdd vd.toNat va.toNat vb.toNat k.toNat)) :
        fused i (fun x y z => f.fma md (if negProd then x.opp else x) y (if negAdd then z.opp else z)) := writes_of _ _ harith
    refine ⟨vv_of .add rfl, vx_of .add rfl, vv_of .sub rfl, vx_of .sub rfl, vv_of .mul rfl, vx_of .mul rfl, vv_of .div rfl, vx_of .div rfl,
      vv_of .min rfl, vx_of .min rfl, vv_of .max rfl, vx_of .max rfl, fused_of false false rfl, fused_of false true rfl, fused_of true false rfl,
      fn_of Fmt.sqrt rfl, fn_of Fmt.recip rfl, fn_of Fmt.rsqrt rfl, fn_of Fmt.exp2 rfl, fn_of Fmt.log2 rfl, ?_, ?_, ?_⟩
    · intro hcheck hop num comb none_ join at_ run hdr
      have hcomb (x y : Nat) (hxy : isFloat ef = false → x < 2 ^ eb ∧ y < 2 ^ eb) : redOp ef op.toNat (u = 1) eb md x y = comb x y := by
        cases hf : isFloat ef with
        | true =>
          simp only [redOp_float hf, comb, hf]
          generalize op.toNat = o
          match o with
          | 0 | 1 | n + 2 => rfl
        | false =>
          obtain ⟨hx, hy⟩ := hxy hf
          simp only [redOp_int hf hx hy, comb, hf]
          generalize op.toNat = o
          match o with
          | 0 | 1 | 2 | 3 | 4 | n + 5 => rfl
      have hjoin (p q : Option Nat × Nat) : joinBy comb p q = join p q := by
        obtain ⟨x | x, fp⟩ := p <;> obtain ⟨y | y, fq⟩ := q <;> simp [joinBy, redPair, join]
      have hstep (p q : Option Nat × Nat) (hp : CodesBelow ef eb p) (hq : CodesBelow ef eb q) :
          joinBy (redOp ef op.toNat (u = 1) eb md) p q = join p q
            ∧ CodesBelow ef eb (joinBy (redOp ef op.toNat (u = 1) eb md) p q) :=
        ⟨(joinBy_congr hcomb hp hq).trans (hjoin p q), codesBelow_joinBy hp hq⟩
      have hat (j : Nat) : CodesBelow ef eb (at_ j) := by
        intro _ z hz
        obtain ⟨-, hz⟩ := Option.ite_none_right_eq_some.1 hz
        exact Option.some.inj hz ▸ elemAt_lt
      have hidentity : redIdentity ef op.toNat (u = 1) eb = none_ := by
        cases hf : isFloat ef with
        | true => exact (redIdentity_float hf (hop hf)).trans (if_pos hf).symm
        | false => exact (redIdentity_int hf (VHdr.esize_pos h)).trans (if_neg (hf ▸ Bool.false_ne_true)).symm
      constructor
      · intro n hle hlt hins
        have htree : treeOf _ n at_ = treeOf join n at_ := treeOf_congr hstep n hat
        exact entryWrites_vecRed hp rfl hins rfl hcheck hop hle hlt rfl htree hidentity
      · intro hins
        exact entryWrites_vecScan hp rfl hins rfl hcheck hop rfl fun m => (runOf_congr hstep nofun hat m).1
    · intro hins hcheck h2 e2 y acc num dots
      exact ⟨fun hva hvb hvd => entryWrites_vecDot_int hp rfl hins rfl hcheck hva hvb hvd,
        fun hfmt hvd => entryWrites_vecDot_float hp rfl hins rfl hcheck hfmt hvd⟩
    · intro tc hins hraw htc0 hspar hfits hfits' hef v hdr from0 carry r
      have htc : (if target.toNat = 63 then e.lfmt.toNat else targetFmt target.toNat) = tc :=
        if_congr (BitVec.toNat_inj (x := target) (y := 63)) rfl rfl
      have hrm : rm.toNat = 3 ↔ rm = 3 := BitVec.toNat_inj (x := rm) (y := 3)
      have hfrom : from0 = if decide (reset = 1) then 0 else (a.efcr efc.toNat).toNat := if_congr decide_eq_true_iff.symm rfl rfl
      have hcarry (n : Nat) : carryAt tc rm.toNat (act k3.toNat) v from0 n = if rm = 3 then carry n else from0 := by
        by_cases h3 : rm = 3
        · rw [if_pos h3]
          simp only [carryAt, cvtCarry, if_pos (hrm.2 h3)]
          rfl
        · rw [if_neg h3]
          exact carryAt_of_ne (mt hrm.1 h3) n
      have hcode (j : Nat) : cvtCode tc rm.toNat (v j) (if rm = 3 then carry j else from0) = r j := by
        by_cases h3 : rm = 3
        · simp only [cvtCode, r, if_pos (hrm.2 h3), if_pos h3]
        · simp only [cvtCode, r, if_neg (mt hrm.1 h3), if_neg h3]
      have hlast : BitVec.ofNat 32 (if rm = 3 then carry e.vl else from0)
          = if rm = 3 then BitVec.ofNat 32 (carry e.vl) else BitVec.ofNat 32 from0 := apply_ite ..
      exact entryWrites_vecCvt hp rfl hins rfl htc hraw htc0 hspar hfits hfits' (fun h3 => hef (hrm.1 h3)) hfrom rfl hcarry hcode hlast
  · intro c hc x hx
    obtain ⟨p, signed, ext, hp1, hp7, hf⟩ := fmtOf_binary8 hc
    rw [hf]
    obtain hv | ⟨s, hv⟩ | ⟨n, s, hn, hv⟩ := b8Fmt_val (p := p) (signed := signed) (ext := ext) hx
    · rw [hv]
      exact ⟨rfl, rfl⟩
    · rw [hv]
      cases s <;> exact ⟨rfl, rfl⟩
    · rw [hv]
      obtain ⟨hm, hlo, hhi⟩ := b8Fmt_mag (signed := signed) (ext := ext) hp1 hp7 hn
      exact fmtF_narrow_exact (x := { (b8Fmt p signed ext).mag n with neg := s }) hm (by omega) hlo hhi
  · intro c _ md x hmd hm hsign f q v grid beyond
    have hrefuses : f.refusesNeg x.neg = false := by
      rw [Fmt.refusesNeg, Bool.and_eq_false_imp]
      exact fun h => hsign (Option.isNone_iff_eq_none.1 h)
    exact f.narrowFin_spec hm hrefuses (min_le_right ..) (min_le_left ..)

end Sys2Proof.Machine

/-! # Lanes that return as SETMVL joins the order (O17)

The statement's clause for a SETMVL that must wait counts the lane clusters that are free before it joins the allocator's order, and asks
nothing of the strand's state.  Joining settles the strand's lanes, and of a DROPPED strand whose oldest entry is stopped all return
(05_vector R149): they may be the ones SETMVL needs, and then it completes. -/

namespace Sys2Proof.Machine

/-- An entry that a page fault of its strand has stopped, and that counts lane clusters 0 to 7. -/
def stoppedEntry : VEntry :=
  { pc := 0, ins := .vadds 1 1 1 0 0, ox := [], g1 := 0, g2 := 0, vl := 0, frm := 0, grant := 8, lfmt := 0, start := 0,
    lanes := List.range 8, stopped := true }

/-- Strand 0 is DROPPED with that entry and 1 in g1; strand 1 holds the other eight lane clusters. -/
def droppedBeside : State :=
  { cores := [(0, { strands := [(0, { st := .dropped, g := [(1, 1)], vq := [stoppedEntry] }),
      (1, { st := .run, lanes := (List.range 8).map (· + 8) })] })] }

/-- What the current strand waits for after a step. -/
def waitAfter (o : Host.Outcome State Fault Refusal) : Option Wait := match o with | .next t => some t.cur.wait | _ => none

theorem waitAfter_setmvl_droppedBeside : waitAfter (exec (.setmvl 2 1 0) droppedBeside) = some .none := by decide +kernel

/-- Refutes O17: no lane cluster is free, and yet SETMVL of strand 0 completes with the eight that its stopped entry gives back, where the
clause has it wait. -/
theorem not_lanesAndLengths : ¬ Obligations.LanesAndLengths := by
  intro h
  obtain ⟨-, -, -, -, -, -, -, hneeds, -⟩ := h droppedBeside 2 1 0 rfl
  have hfree : (droppedBeside.freeLanes (clusterOfCore (coreOfSid droppedBeside.curSid))).length < 8 := by decide +kernel
  obtain ⟨t, r, ht, ⟨⟨-, -, hwait⟩, -⟩, -⟩ := (hneeds rfl (by decide) (by decide) rfl (by decide)).2 (.inr hfree)
  have hafter := waitAfter_setmvl_droppedBeside
  rw [ht, waitAfter, hwait] at hafter
  exact nomatch hafter

end Sys2Proof.Machine
